-- ==== Sys2Proof/Word.lean ====
section
/-! DEFINITION. The word types of the ELM-9640 and their plainest arithmetic (00_scope.md R1). -/

namespace Sys2Proof

/-- A v, s or instruction word: 32 bits. -/
abbrev Word := BitVec 32

/-- A byte of any memory space. -/
abbrev Byte := BitVec 8

/-- Bits [hi:lo] of a natural number, both ends included (R1). -/
def bitsOf (x hi lo : Nat) : Nat := (x / 2 ^ lo) % 2 ^ (hi + 1 - lo)

/-- Bit `i` of a natural number. -/
def bitOf (x i : Nat) : Bool := x / 2 ^ i % 2 == 1

/-- `x` with bits [hi:lo] replaced by the low bits of `v`. -/
def putBits (x hi lo v : Nat) : Nat :=
  x - bitsOf x hi lo * 2 ^ lo + (v % 2 ^ (hi + 1 - lo)) * 2 ^ lo

/-- Little-endian bytes of a number, lowest address first (R1). -/
def leBytes : Nat → Nat → List Byte
  | 0, _ => []
  | n + 1, x => BitVec.ofNat 8 x :: leBytes n (x / 256)

/-- The number held by little-endian bytes (R1). -/
def ofLeBytes : List Byte → Nat
  | [] => 0
  | b :: bs => b.toNat + 256 * ofLeBytes bs

/-- The low `w` bits of `x` read as a two's-complement number. -/
def signedOf (w x : Nat) : Int :=
  let y := x % 2 ^ w
  if y < 2 ^ (w - 1) then (y : Int) else (y : Int) - (2 ^ w : Nat)

/-- The low `w` bits of an integer (R5: an assignment keeps the low bits). -/
def lowBits (w : Nat) (x : Int) : Nat := (x % ((2 ^ w : Nat) : Int)).toNat

/-- The numbers 0 to n − 1, in ascending order. -/
def upTo (n : Nat) : List Nat := List.range n

end Sys2Proof
end

