-- ==== Sys2Proof/Config.lean ====
section
/-! DEFINITION. The free values: what the specification leaves open, each an opaque constant with no body, so that
nothing can evaluate it and a claim about it holds whatever it is (notes/assumptions names each). -/

namespace Sys2Proof

/-- Tile clocks that the n-th step of the machine takes (timing is not modelled; R237 CLOCK reads their sum). -/
opaque Config.stepClocks : Nat → Nat

/-- What a granule decrypts to under a key other than the one it was written under (R63: unrelated data). -/
opaque Config.undecrypted : (address key generation : Nat) → Byte

/-- The package's entropy source, n-th draw (R341: never a launch seed). -/
opaque Config.entropy : Nat → Nat

/-- A byte of the identity certificate chain (R468); the specification gives no contents. -/
opaque Config.idCert : Nat → Byte

/-- A byte of an attestation report before its nonce and zero bytes, for the n-th report (R468). -/
opaque Config.attestation : (report offset : Nat) → Byte

/-- The fused rollback counter (R467). -/
opaque Config.rollback : BitVec 16

/-- The revision of the firmware that boots (R467). -/
opaque Config.firmwareRevision : BitVec 16

/-- WEARn at a step: predicted remaining life and powered hours, which firmware sets (R471; reset "—"). (log 120 DESIGN CHOICE) -/
opaque Config.wear : (unit step : Nat) → BitVec 64

/-- Package power readings (R470), by step: average and instantaneous. -/
opaque Config.power : Nat → BitVec 32

/-- The choice R157 leaves for an overlapping COPY: whether the element reads the value this COPY already wrote. -/
opaque Config.overlapNew : (command element : Nat) → Bool

/-- The pages a launch's image needs beyond the regions whose size R404 and R405 give (the byte layout of the
image is not stated). -/
opaque Config.imageExtraPages : Nat → Nat

/-- The set of its memory-side cache, or of its L2 slice, that a line falls into: the rules give the number of sets and of
ways (R43, R107), not the index. -/
opaque Config.cacheSet : (line : Nat) → Nat

/-- The way that a full set gives up, by a counter of the state: the rules name no replacement (R43, R107). -/
opaque Config.cacheVictim : Nat → Nat

/-- The value the specification leaves open, by a counter of the state: no rule states it. -/
opaque Config.freeValue : Nat → BitVec 64

end Sys2Proof
end

