-- ==== Sys2Proof/Syntax.lean ====
section
/-! DEFINITION. The syntax of the machine's steps: one constructor of `Instr` per row of the opcode table, the
instructions of 06_encoding_and_assembly.md R133 and R134 with their operands, and the events of
95_what_each_step_holds.md with what the world outside them supplies. -/

namespace Sys2Proof

/-- The guard field [24:21] (R127): the predicate named and whether it is negated. -/
structure Guard where
  neg : Bool
  p : BitVec 3
deriving DecidableEq, Repr, Inhabited

/-- A 7-bit operand field (R128): `dir n` has I = 0, `ind n` has I = 1 (v(xi + n), or the recruiter's window). -/
inductive Opnd where
  | dir (n : BitVec 6)
  | ind (n : BitVec 6)
deriving DecidableEq, Repr, Inhabited

/-- The space codes of R93. -/
inductive Space where
  | lanePrivate | scratch | shared | dieScratch | global | host | acc | remoteScratch
deriving DecidableEq, Repr, Inhabited

/-- The scope codes of R126. -/
inductive Scope where
  | strand | item | tile | cluster | die | package | pod | system
deriving DecidableEq, Repr, Inhabited

/-- The order codes of R126. -/
inductive Order where
  | none | acq | rel | sc
deriving DecidableEq, Repr, Inhabited

/-- The type codes of R218 (0x6 to 0xF are reserved). -/
inductive Ty where
  | n8 | n16 | n32 | n64 | s8 | s16
deriving DecidableEq, Repr, Inhabited

/-- The atomic members of R228 (member 15 is reserved). -/
inductive AtomOp where
  | add | minS | minN | maxS | maxN | and | or | xor | exch | cas | fadd | fmin | fmax | incw | decw
deriving DecidableEq, Repr, Inhabited

/-- The integer compare codes of R263 (10 to 15 are reserved). -/
inductive ICmp where
  | eq | ne | lts | les | gts | ges | ltn | len | gtn | gen
deriving DecidableEq, Repr, Inhabited

/-- The floating compare codes of R268 (8 to 15 are reserved). -/
inductive FCmp where
  | eq | ne | lt | le | gt | ge | num | nan
deriving DecidableEq, Repr, Inhabited

/-- The rounding modes of R29 (5 to 7 are reserved). -/
inductive Rnd where
  | rne | rtz | rdn | rup | sr
deriving DecidableEq, Repr, Inhabited

/-- The modes of FRND (R269; 4 to 7 are reserved). -/
inductive FrndMode where
  | rne | rtz | rdn | rup
deriving DecidableEq, Repr, Inhabited

/-- The directions of CVT (R272; 6 and 7 are reserved). -/
inductive CvtDir where
  | f32To | toF32 | s32To | toS32 | n32To | toN32
deriving DecidableEq, Repr, Inhabited

/-- The conversions of CVTI (R275). -/
inductive CvtiConv where
  | sToF | nToF | fToS | fToN
deriving DecidableEq, Repr, Inhabited

/-- The modes of VOTE (R279; 3 is reserved). -/
inductive VoteMode where
  | all | any | uni
deriving DecidableEq, Repr, Inhabited

/-- The fold operations of REDUX and CRWRED (R282; 11 to 15 are reserved). -/
inductive FoldOp where
  | add | minS | minN | maxS | maxN | and | or | xor | fadd | fmin | fmax
deriving DecidableEq, Repr, Inhabited

/-- The engines of FORK and RDV (R252; code 3 is reserved). -/
inductive EngineKind where
  | copy | matrix | routing
deriving DecidableEq, Repr, Inhabited

/-- The access kinds of WATCH (R473; kind 0 is reserved). -/
inductive WatchKind where
  | ld | st | ldst
deriving DecidableEq, Repr, Inhabited

/-- The modifiers of a memory access (R217). -/
structure MemMod where
  scope : Scope
  ord : Order
  space : Space
deriving DecidableEq, Repr, Inhabited

/-- The two spaces and the PDIR bit of a COPY-family MOD byte, MOD[6:0] (R151). -/
structure CopyMod where
  pdir : Bool
  src : Space
  dst : Space
deriving DecidableEq, Repr, Inhabited

/-- One lane record of a small flit (R345): the offset from the flit's address and the data. `cmp` is the compare value
of a CAS and `leaf` the attributes of the lane's page, for which the record has no field; in a response `offset` is the
status of the lane: 0 OK, 1 UNCORR, 2 not supported. -/
structure LaneRec where
  lane : Nat
  offset : Nat
  data : Nat
  cmp : Nat := 0
  leaf : Nat := 0
deriving DecidableEq, Repr, Inhabited

/-- A flit of the fabric as its receiver sees it: the header fields of R344, the operation header of R345, the data
and lane records after it, and whether its tag authenticates (R343). What the headers of the specification leave out:
`leaf` holds the attributes of the target page, `rxphase` the receiver's slot-clock phase at the flit's arrival less the
measured path delay (R330), `weak` the data lanes that the receiver then finds above the failure threshold (R349), and
`cookie` the source package (× 2^32) with the number of the access. -/
structure Flit where
  ctr : Nat := 0
  type : Nat := 0
  src : Nat := 0
  dst : Nat := 0
  final : Nat := 0
  ks : Nat := 0
  small : Bool := false
  ferry : Bool := false
  ack : Nat := 0
  nak : Bool := false
  tphase : Nat := 0
  addr : Nat := 0
  seq : Nat := 0
  dseq : Option Nat := none
  len : Nat := 0
  op : Nat := 0
  arg : Nat := 0
  asid : Nat := 0
  ord : Nat := 0
  lanes : Nat := 0
  ts : Nat := 0
  recs : List LaneRec := []
  data : List Byte := []
  leaf : Nat := 0
  rxphase : Nat := 0
  weak : List Nat := []
  authentic : Bool := true
  cookie : Nat := 0
deriving DecidableEq, Repr, Inhabited

/-- What a package advertises at formation or at a join (R355). -/
structure Capability where
  revision : Nat
  mask : BitVec 64
deriving DecidableEq, Repr, Inhabited

/-- The storage units that R48 and R433 protect, each with the place of its unit. A `strandReg` is numbered 0 to 63 for
s0–s63, 64 to 79 for d0–d15, 80 for xi and 81 for the strand's return-stack entries. -/
inductive ErrUnit where
  | dramBurst (addr : Nat)
  | scratchWord (tile launch offset : Nat)
  | sharedWord (convoy offset : Nat)
  | dieWord (addr : Nat)
  | accWord (tile row col : Nat)
  | l1Sector (tile line sector : Nat)
  | l2Sector (line sector : Nat)
  | vreg (strand lane reg : Nat)
  | pred (strand lane n : Nat)
  | laneWord (strand lane offset : Nat)
  | strandReg (strand n : Nat)
  | code (tile launch seg : Nat)
  | queueRec (launch queue record lane : Nat)
deriving DecidableEq, Repr, Inhabited

/-- The registers of the host window that have no row of their own (R458), by block. -/
inductive HostReg where
  | lrbuf (n : Nat) | lrctl | lrsheet | lrstat
  | nqbase | nqstat | hoststat | linkstat | aperbase
  | migctl | migqbase | migqstat | migidx | migdata
  | tlbiva | tlbicmd | tlbistat | asidctx (n : Nat)
  | fabcfg | vqbase | vqcfg | rekeyat | railstat (n : Nat) | tidetab (n : Nat)
  | precmd | prebase | prelen | prestat
  | pwrsum | pwrcap | wearth | wear (n : Nat)
  | tilehealth (n : Nat) | lanefail (n : Nat) | beaconcfg
  | mbox (die n : Nat)
  | bootstat | attcmd | attnonce (n : Nat) | attreport (n : Nat) | idcert (n : Nat)
  | none
deriving DecidableEq, Repr, Inhabited

/-- The source classes that R65 and R66 count. -/
inductive SrcClass where
  | local | host | remote
deriving DecidableEq, Repr, Inhabited

/-- What a plain request at a base die does (R47): a read, a write of bytes, or the write-back of a line that an
L2 home gives up. -/
inductive BaseOp where
  | read (len : Nat)
  | write (data : List Byte)
  | evictL2
deriving DecidableEq, Repr, Inhabited

/-- The steps of the machine: one constructor per row of the opcode table. -/
inductive Instr where
  -- integer majors (R259 to R264)
  | nop (g : Guard)
  | mov (g : Guard) (d a : Opnd)
  | movi (g : Guard) (d : Opnd) (imm : BitVec 7)
  | add (g : Guard) (d a b : Opnd)
  | addi (g : Guard) (d a : Opnd) (imm : BitVec 7)
  | sub (g : Guard) (d a b : Opnd)
  | mul (g : Guard) (d a b : Opnd)
  | mulhiS (g : Guard) (d a b : Opnd)
  | mulhiN (g : Guard) (d a b : Opnd)
  | mad (g : Guard) (d a b : Opnd)
  | minS (g : Guard) (d a b : Opnd)
  | minN (g : Guard) (d a b : Opnd)
  | maxS (g : Guard) (d a b : Opnd)
  | maxN (g : Guard) (d a b : Opnd)
  | abs (g : Guard) (d a : Opnd)
  | and (g : Guard) (d a b : Opnd)
  | or (g : Guard) (d a b : Opnd)
  | xor (g : Guard) (d a b : Opnd)
  | andn (g : Guard) (d a b : Opnd)
  | shl (g : Guard) (d a b : Opnd)
  | shr (g : Guard) (d a b : Opnd)
  | sar (g : Guard) (d a b : Opnd)
  | shli (g : Guard) (d a : Opnd) (n : BitVec 5)
  | shri (g : Guard) (d a : Opnd) (n : BitVec 5)
  | sari (g : Guard) (d a : Opnd) (n : BitVec 5)
  | roli (g : Guard) (d a : Opnd) (n : BitVec 5)
  | rol (g : Guard) (d a b : Opnd)
  | clz (g : Guard) (d a : Opnd)
  | popc (g : Guard) (d a : Opnd)
  | brev (g : Guard) (d a : Opnd)
  | bfe (g : Guard) (d a b : Opnd)
  | bfi (g : Guard) (d a b : Opnd)
  | sel (g : Guard) (d a b : Opnd)
  | isetp (g : Guard) (c : ICmp) (pd : BitVec 3) (a b : Opnd)
  | add64 (g : Guard) (d a b : Opnd)
  -- FP32, packed and conversion majors (R265 to R276)
  | fadd (g : Guard) (d a b : Opnd)
  | fsub (g : Guard) (d a b : Opnd)
  | fmul (g : Guard) (d a b : Opnd)
  | ffma (g : Guard) (d a b : Opnd)
  | fmin (g : Guard) (d a b : Opnd)
  | fmax (g : Guard) (d a b : Opnd)
  | fabs (g : Guard) (d a : Opnd)
  | fneg (g : Guard) (d a : Opnd)
  | frcp (g : Guard) (d a : Opnd)
  | frsq (g : Guard) (d a : Opnd)
  | fexp2 (g : Guard) (d a : Opnd)
  | flog2 (g : Guard) (d a : Opnd)
  | ftanh (g : Guard) (d a : Opnd)
  | fsetp (g : Guard) (c : FCmp) (pd : BitVec 3) (a b : Opnd)
  | fscale (g : Guard) (d a b : Opnd)
  | frnd (g : Guard) (m : FrndMode) (d a : Opnd)
  | hadd2 (g : Guard) (d a b : Opnd)
  | hmul2 (g : Guard) (d a b : Opnd)
  | hfma2 (g : Guard) (d a b : Opnd)
  | fclass (g : Guard) (d a : Opnd)
  | cvt (g : Guard) (dir : CvtDir) (d a : Opnd) (slot : BitVec 3)
  | cvti (g : Guard) (conv : CvtiConv) (m : Rnd) (d a : Opnd)
  | pack2 (g : Guard) (d a b : Opnd)
  -- lane operations and RNG (R277 to R283)
  | ballot (g : Guard) (d : Opnd) (neg : Bool) (p : BitVec 3)
  | vote (g : Guard) (m : VoteMode) (pd : BitVec 3) (neg : Bool) (p : BitVec 3)
  | shflIdx (g : Guard) (d a b : Opnd)
  | shflXor (g : Guard) (d a b : Opnd)
  | shflUp (g : Guard) (d a b : Opnd)
  | shflDn (g : Guard) (d a b : Opnd)
  | xchg (g : Guard) (d a b : Opnd)
  | rng (g : Guard) (d : Opnd)
  | redux (g : Guard) (op : FoldOp) (d a : Opnd)
  | laneOpPerform (item : Nat)
  -- control (R284 to R295)
  | bra (g : Guard) (off : BitVec 21)
  | brx (g : Guard) (a : Opnd)
  | call (g : Guard) (off : BitVec 21)
  | callx (g : Guard) (a : Opnd)
  | ret (g : Guard)
  | jmpf (g : Guard) (seg : BitVec 6) (a : Opnd)
  | cfetch (g : Guard) (seg : BitVec 6) (a : Opnd) (k : BitVec 6)
  | segmentLanding (tile launch seg : Nat)
  | exit (g : Guard)
  | yield (g : Guard)
  | trap (g : Guard) (n : BitVec 7)
  | eret (g : Guard)
  | bkpt (g : Guard) (n : BitVec 7)
  | bru (g : Guard) (off : BitVec 21)
  | cseg (g : Guard) (d a : Opnd)
  -- synchronisation (R244 to R255, R384 to R392)
  | bar (g : Guard) (n : BitVec 7)
  | bararv (g : Guard) (d : Opnd) (n : BitVec 7)
  | barwt (g : Guard) (a : Opnd) (n : BitVec 7)
  | kinitReg (g : Guard) (k : BitVec 6) (a : Opnd)
  | kinitImm (g : Guard) (k : BitVec 6) (imm : BitVec 6)
  | kaddReg (g : Guard) (k : BitVec 6) (a : Opnd)
  | kaddImm (g : Guard) (k : BitVec 6) (imm : BitVec 6)
  | kwait (g : Guard) (k : BitVec 6)
  | phase (g : Guard) (refresh publish : Bool) (scope : Scope)
  | fence (g : Guard) (scope : Scope)
  | tokwait (g : Guard) (d : Opnd)
  | tokpass (g : Guard)
  | tokenForcedPass (launch : Nat)
  | fork (g : Guard) (e : EngineKind) (a : Opnd) (k : BitVec 6)
  | rdv (g : Guard) (d : Opnd) (e : EngineKind)
  | engineProgramEnd (item : Nat) (e : EngineKind)
  | gres (g : Guard) (slot : BitVec 4) (neg : Bool) (p : BitVec 3)
  | guardedCommandRelease (tile launch : Nat) (slot : Nat)
  | crew (g : Guard) (d a b : Opnd)
  | crwend (g : Guard) (d : Opnd)
  | crwred (g : Guard) (op : FoldOp) (n a : Opnd)
  | crewIterationStart (crew worker : Nat)
  | crewEnd (crew : Nat)
  | crewForcedRelease (crew : Nat)
  | crewCancel (crew worker cause : Nat)
  -- memory (R217 to R236)
  | ld (g : Guard) (la : BitVec 4) (m : MemMod) (ty : Ty) (d a : Opnd) (disp : BitVec 16)
  | st (g : Guard) (la : BitVec 4) (m : MemMod) (ty : Ty) (a b : Opnd) (disp : BitVec 16)
  | gather (g : Guard) (la : BitVec 4) (m : MemMod) (ty : Ty) (d a b : Opnd)
  | scatter (g : Guard) (la : BitVec 4) (m : MemMod) (ty : Ty) (a b c : Opnd)
  | atomAdd (g : Guard) (la : BitVec 4) (m : MemMod) (w : Bool) (d a b : Opnd) (disp : BitVec 15)
  | atomMinS (g : Guard) (la : BitVec 4) (m : MemMod) (w : Bool) (d a b : Opnd) (disp : BitVec 15)
  | atomMinN (g : Guard) (la : BitVec 4) (m : MemMod) (w : Bool) (d a b : Opnd) (disp : BitVec 15)
  | atomMaxS (g : Guard) (la : BitVec 4) (m : MemMod) (w : Bool) (d a b : Opnd) (disp : BitVec 15)
  | atomMaxN (g : Guard) (la : BitVec 4) (m : MemMod) (w : Bool) (d a b : Opnd) (disp : BitVec 15)
  | atomAnd (g : Guard) (la : BitVec 4) (m : MemMod) (w : Bool) (d a b : Opnd) (disp : BitVec 15)
  | atomOr (g : Guard) (la : BitVec 4) (m : MemMod) (w : Bool) (d a b : Opnd) (disp : BitVec 15)
  | atomXor (g : Guard) (la : BitVec 4) (m : MemMod) (w : Bool) (d a b : Opnd) (disp : BitVec 15)
  | atomExch (g : Guard) (la : BitVec 4) (m : MemMod) (w : Bool) (d a b : Opnd) (disp : BitVec 15)
  | atomCas (g : Guard) (la : BitVec 4) (m : MemMod) (w : Bool) (d a b : Opnd) (disp : BitVec 15)
  | atomFadd (g : Guard) (la : BitVec 4) (m : MemMod) (w : Bool) (d a b : Opnd) (disp : BitVec 15)
  | atomFmin (g : Guard) (la : BitVec 4) (m : MemMod) (w : Bool) (d a b : Opnd) (disp : BitVec 15)
  | atomFmax (g : Guard) (la : BitVec 4) (m : MemMod) (w : Bool) (d a b : Opnd) (disp : BitVec 15)
  | atomIncw (g : Guard) (la : BitVec 4) (m : MemMod) (w : Bool) (d a b : Opnd) (disp : BitVec 15)
  | atomDecw (g : Guard) (la : BitVec 4) (m : MemMod) (w : Bool) (d a b : Opnd) (disp : BitVec 15)
  | loadWriteback (strand id : Nat)
  | movw (g : Guard) (d : Opnd) (imm : Word)
  | sysr (g : Guard) (d : Opnd) (num : BitVec 16)
  | sysw (g : Guard) (a : Opnd) (num : BitVec 16)
  | dset (g : Guard) (dn : BitVec 4) (a : Opnd) (all : Bool) (q : BitVec 2)
  | qpush (g : Guard) (la : BitVec 4) (scope : Scope) (ord : Order) (nb : Bool) (b : Opnd) (ps : BitVec 3) (q : BitVec 4)
  | qpop (g : Guard) (la : BitVec 4) (scope : Scope) (ord : Order) (d : Opnd) (ps : BitVec 3) (q : BitVec 4)
  | qpeek (g : Guard) (la : BitVec 4) (d : Opnd) (ps : BitVec 3) (q : BitVec 4)
  | prefetch (g : Guard) (host l2 : Bool) (a : Opnd) (n : BitVec 8)
  -- copy and routing engines (R151, R179)
  | copy (g : Guard) (d a : BitVec 4) (k : BitVec 6) (m : CopyMod) (peer : BitVec 7)
  | plpack (g : Guard) (d a : BitVec 4) (k : BitVec 6) (m : CopyMod) (slot : BitVec 3)
  | plunpk (g : Guard) (d a : BitVec 4) (k : BitVec 6) (m : CopyMod) (slot : BitVec 3)
  | fill (g : Guard) (d : BitVec 4) (a : Opnd) (k : BitVec 6) (m : CopyMod) (peer : BitVec 7)
  | bkopen (g : Guard) (d a : Opnd) (k : BitVec 6) (m : CopyMod)
  | bkclose (g : Guard) (a : Opnd) (k : BitVec 6) (m : CopyMod)
  | copyEntryStart (tile : Nat)
  | copyCompletion (tile entry : Nat)
  | engineTranslationFault (tile entry : Nat)
  | closeEvent (tile handle reason : Nat)
  | rtcount (g : Guard) (d : Opnd) (dn : BitVec 4) (k : BitVec 6) (id : BitVec 8)
  | rtdisp (g : Guard) (d : Opnd) (dn : BitVec 4) (k : BitVec 6) (id : BitVec 8)
  | rtcomb (g : Guard) (d : Opnd) (dn : BitVec 4) (k : BitVec 6) (slot : BitVec 3) (id : BitVec 8)
  | countVectorArrival (launch id package : Nat) (sums : List Nat) (crc k nexp rowu : Nat)
  | routingRowArrival (launch id package rank token expert slot : Nat) (row : List Byte)
  | rtdispCompletion (die launch id : Nat)
  | rtcombCompletion (die launch id : Nat)
  -- matrix (R305)
  | mloop (g : Guard) (dn : BitVec 4) (k : BitVec 6) (fa fb : BitVec 3)
  | mzero (g : Guard) (k : BitVec 6) (a : Opnd)
  | mread (g : Guard) (k : BitVec 6) (a b : Opnd) (slot : BitVec 3) (sp : Space) (int clr : Bool) (pitch : BitVec 16)
  | mwrite (g : Guard) (k : BitVec 6) (a b : Opnd) (slot : BitVec 3) (sp : Space) (int : Bool) (pitch : BitVec 16)
  | mstat (g : Guard) (d : Opnd) (k : BitVec 6)
  | mloopStep (tile : Nat)
  | matrixCompletion (tile : Nat)
  -- fabric instructions (R356, R359)
  | rld (g : Guard) (la : BitVec 4) (scope : Scope) (ord : Order) (ty : Ty) (d a p : Opnd)
  | rst (g : Guard) (la : BitVec 4) (scope : Scope) (ord : Order) (ty : Ty) (a b p : Opnd)
  | ratom (g : Guard) (la : BitVec 4) (scope : Scope) (ord : Order) (op : AtomOp) (w : Bool) (d a b p : Opnd)
  | tidewaitPeer (g : Guard) (d a : Opnd) (immp : Option (BitVec 7))
  | tidewaitTide (g : Guard) (d : Opnd)
  | vqstat (g : Guard) (d a : Opnd)
  -- system (R395, R473, R478)
  | launch (g : Guard) (d a : Opnd) (k : BitVec 6)
  | haltg (g : Guard) (a : Opnd)
  | resumeg (g : Guard) (a : Opnd)
  | step (g : Guard) (a : Opnd)
  | watch (g : Guard) (sp : Space) (kind : WatchKind) (n : BitVec 2) (a : Opnd) (len : BitVec 8)
  | unwatch (g : Guard) (n : BitVec 2)
  | mboxw (g : Guard) (n : BitVec 6) (a : Opnd)
  | keyopDestroy (g : Guard) (d a : Opnd) (k : BitVec 6)
  | keyopBzero (g : Guard) (d a : Opnd) (k : BitVec 6) (key : BitVec 9) (logpg : BitVec 5)
  | keyopCompletion (id : Nat)
  -- the sequencer and traps (R120, R135, R420 to R425)
  | launchFatal (launch cause strand : Nat)
  | reportMergeExpiry (tile launch cause : Nat)
  -- translation (R75 to R83, R354)
  | pageWalk (cluster asid va : Nat) (store : Bool)
  | tlbiAsid (asid : Nat)
  | tlbiVa (asid va log2 : Nat)
  | tlbiPa (pa log2 : Nat)
  | fabricInvalidation (peer asid va log2 : Nat)
  -- base dies (R47 to R67)
  | memoryRequest (addr key : Nat) (src : SrcClass) (op : BaseOp)
  | blockRead (addr lay efmt pln pitch len key : Nat)
  | gatherPacket (base width key : Nat) (entries : List (Nat × Nat))
  | scatterPacket (base width key : Nat) (entries : List (Nat × Nat)) (values : List Nat)
  | memorySideAtomic (addr key : Nat) (op : AtomOp) (w : Bool) (steps : List (Nat × Nat))
  | bankReserveRequest (stack pc bank tile entry : Nat)
  | streamRequest (handle : Nat) (write : Bool) (row count key : Nat) (data : List Byte)
  | foreignWindow (handle : Nat)
  | bankCloseRequest (handle : Nat)
  | bankIdleClose (handle : Nat)
  | baseDieKeyDestroy (die key : Nat)
  | bulkZeroCommand (base size key : Nat)
  | migdataWrite (value : BitVec 64)
  -- on-chip levels (R99, R104, R212)
  | remoteScratchpadAccess (tile offset width : Nat) (data : Option (List Byte))
  | bankStarvePromote (tile bank requester : Nat)
  | wcDrainTimeout (tile : Nat)
  -- launches and scheduling (R365 to R417)
  | itemAdmission (tile : Nat)
  | itemRetire (item : Nat)
  | priorityAging (launch stage item : Nat)
  | launchEnd (launch : Nat)
  -- fabric events (R328 to R353)
  | portEngineSend (rail : Nat)
  | idleFlit (rail : Nat) (f : Flit)
  | bulkHeaderFlit (rail : Nat) (f : Flit)
  | bulkDataFlit (rail : Nat) (f : Flit)
  | smallFlit (rail : Nat) (f : Flit)
  | responseFlit (rail : Nat) (f : Flit)
  | endToEndAck (rail : Nat) (f : Flit)
  | markerFlit (rail : Nat) (f : Flit)
  | controlFlit (rail : Nat) (f : Flit)
  | dseqGateRelease (peer : Nat) (small : Bool)
  | translationRequest (peer asid va : Nat) (kind : Nat)
  | railRetrainDone (rail : Nat) (up : Bool)
  | peerRemoved (peer : Nat)
  | remoteTimeout (id : Nat)
  | podJoin (peer : Nat) (cap : Capability)
  -- health (R438 to R450)
  | beaconSend (tile : Nat)
  | beaconReceive (tile dir : Nat) (beacon : BitVec 64) (early noCredit : Bool)
  | beaconMissed (tile dir : Nat)
  | voteMessage (judge about voter : Nat)
  | voteExpiry (judge about voter : Nat)
  | fenceMessage (tile about : Nat)
  | grantMessage (judge about voter : Nat)
  | selftestDone (tile : Nat) (passed : Bool)
  | meshResend (packet : Nat)
  | tileStateWrite (tile value : Nat)
  -- host, boot, power (R457 to R471)
  | hostApertureAccess (offset : Nat) (data : Option (List Byte)) (len : Nat)
  | powerOn (goodSignature goodRollback goodImage : Bool)
  | wearThreshold (unit : Nat)
  | registerWrite (reg : HostReg) (half : Option Bool) (value : BitVec 64)
  | softError (place : ErrUnit) (uncorrectable : Bool)
  | linkTraining (width rate : Nat) (flit : Bool)
  | bootReady (hbmTrained : Bool)
  -- events without operands, of the sequencer, translation, scheduling, the fabric and the host
  | clauseFetch
  | clauseWaitSatisfied
  | impreciseDelivery
  | preciseTrapEntry
  | tlbiAll
  | tlbiDone
  | launchSubmit
  | replaySubmit
  | validatorDone
  | preempt
  | saveComplete
  | restore
  | restoreFill
  | slotBoundary
  | slotGuard
  | lockReacquired
  | podFormation
  | hostLinkDown
  | hostGoneCompletion
  | hoststatGoneClear
  | attestationRequest
  | attestationDone
deriving DecidableEq, Repr, Inhabited

/-- Whose turn it is: a strand (by its key) issues, or an event of the machine or of the world outside takes place. -/
inductive Turn where
  | issue (strand : Nat)
  | event (i : Instr)
deriving DecidableEq, Repr, Inhabited

end Sys2Proof
end

