-- ==== Sys2Proof/WellFormed.lean ====
section
/-! DEFINITION. Well-formed instructions: the operand values that the encodings of 06_encoding_and_assembly.md R129
and R135 admit. An instruction that the decoder answers is well formed; the events of the machine have no encoding
and are well formed as they stand. -/

namespace Sys2Proof

/-- A direct pair name must be even (R129); an indexed pair is checked at issue. -/
def Opnd.pairOk : Opnd → Bool
  | .dir n => n.getLsbD 0 == false
  | .ind _ => true

/-- Whether a type is 8 bytes wide and so moves an even–odd pair (R218). -/
def Ty.isPair : Ty → Bool
  | .n64 => true
  | .n8 | .n16 | .n32 | .s8 | .s16 => false

/-- The spaces whose address operand is an even–odd pair (R219). -/
def Space.pairAddr : Space → Bool
  | .dieScratch | .global | .host | .remoteScratch => true
  | .lanePrivate | .scratch | .shared | .acc => false

/-- R217: a nonzero scope needs an order. -/
def MemMod.ok (m : MemMod) : Bool := m.ord != .none || m.scope == .strand

/-- The address operand is an even register where the space takes a pair. -/
def addrOk (m : MemMod) (a : Opnd) : Bool := !m.space.pairAddr || a.pairOk

/-- R228: the members that have no 64-bit width. -/
def AtomOp.only32 : AtomOp → Bool
  | .fadd | .fmin | .fmax => true
  | .add | .minS | .minN | .maxS | .maxN | .and | .or | .xor | .exch | .cas | .incw | .decw => false

/-- Operand checks of an ATOM member (R217, R219, R228). -/
def atomOk (op : AtomOp) (m : MemMod) (w : Bool) (d a b : Opnd) : Bool :=
  m.ok && addrOk m a && (!w || (!op.only32 && d.pairOk && b.pairOk))

/-- The 64-bit system registers (R237). -/
def sysWide (n : Nat) : Bool :=
  [0x10, 0x11, 0x12, 0x14, 0x15, 0x16, 0x18, 0x19, 0x1B, 0x1C, 0x1E, 0x20, 0x22, 0x23].contains n ||
  (0x30 ≤ n && n ≤ 0x33) || (0x1000 ≤ n && n ≤ 0x1202) || n == 0x1300

/-- The operand checks that R135 makes at fetch on the fields of one instruction. -/
def Instr.wf : Instr → Bool
  | .add64 _ d a b => d.pairOk && a.pairOk && b.pairOk
  | .ballot _ d _ _ => d.pairOk
  | .cfetch _ _ a _ => a.pairOk
  | .ld _ _ m ty d a _ => m.ok && addrOk m a && (!ty.isPair || d.pairOk)
  | .st _ _ m ty a b _ => m.ok && addrOk m a && (!ty.isPair || b.pairOk)
  | .gather _ _ m ty d a _ => m.ok && addrOk m a && (!ty.isPair || d.pairOk)
  | .scatter _ _ m ty a _ c => m.ok && addrOk m a && (!ty.isPair || c.pairOk)
  | .atomAdd _ _ m w d a b _ => atomOk .add m w d a b
  | .atomMinS _ _ m w d a b _ => atomOk .minS m w d a b
  | .atomMinN _ _ m w d a b _ => atomOk .minN m w d a b
  | .atomMaxS _ _ m w d a b _ => atomOk .maxS m w d a b
  | .atomMaxN _ _ m w d a b _ => atomOk .maxN m w d a b
  | .atomAnd _ _ m w d a b _ => atomOk .and m w d a b
  | .atomOr _ _ m w d a b _ => atomOk .or m w d a b
  | .atomXor _ _ m w d a b _ => atomOk .xor m w d a b
  | .atomExch _ _ m w d a b _ => atomOk .exch m w d a b
  | .atomCas _ _ m w d a b _ => atomOk .cas m w d a b
  | .atomFadd _ _ m w d a b _ => atomOk .fadd m w d a b
  | .atomFmin _ _ m w d a b _ => atomOk .fmin m w d a b
  | .atomFmax _ _ m w d a b _ => atomOk .fmax m w d a b
  | .atomIncw _ _ m w d a b _ => atomOk .incw m w d a b
  | .atomDecw _ _ m w d a b _ => atomOk .decw m w d a b
  | .sysr _ d num => !sysWide num.toNat || d.pairOk
  | .sysw _ a num => !sysWide num.toNat || a.pairOk
  | .dset _ _ a _ _ => a.pairOk
  | .prefetch _ _ _ a _ => a.pairOk
  | .bkopen _ _ a _ _ => a.pairOk
  | .mstat _ d _ => d.pairOk
  | .rld _ _ _ _ ty d a _ => a.pairOk && (!ty.isPair || d.pairOk)
  | .rst _ _ _ _ ty a b _ => a.pairOk && (!ty.isPair || b.pairOk)
  | .ratom _ _ _ _ op w d a b _ => a.pairOk && (!w || (!op.only32 && d.pairOk && b.pairOk))
  | .tidewaitPeer _ _ a immp => immp.isNone || a == .dir 0
  | .launch _ _ a _ => a.pairOk
  | .watch _ sp _ _ a _ => !sp.pairAddr || a.pairOk
  | .mboxw _ _ a => a.pairOk
  | .keyopBzero _ _ a _ _ logpg => a.pairOk && logpg.toNat ≤ 22
  | .mread _ _ _ _ _ _ _ _ _ => true
  | _ => true

end Sys2Proof
end

