-- ==== Sys2Proof/Decode.lean ====
section
/-! DEFINITION. Decoding and encoding of instructions and clauses (06_encoding_and_assembly.md R115 to R135, with the
field tables of the instructions' own entries). -/

namespace Sys2Proof

/-! Codes of the fields. -/

/-- The code of R93. -/
def Space.code : Space → BitVec 3
  | .lanePrivate => 0
  | .scratch => 1
  | .shared => 2
  | .dieScratch => 3
  | .global => 4
  | .host => 5
  | .acc => 6
  | .remoteScratch => 7

/-- Every code of R93 has a meaning. -/
def Space.ofCode (c : BitVec 3) : Space :=
  match c.toNat with
  | 0 => .lanePrivate
  | 1 => .scratch
  | 2 => .shared
  | 3 => .dieScratch
  | 4 => .global
  | 5 => .host
  | 6 => .acc
  | _ => .remoteScratch

/-- The code of R126. -/
def Scope.code : Scope → BitVec 3
  | .strand => 0
  | .item => 1
  | .tile => 2
  | .cluster => 3
  | .die => 4
  | .package => 5
  | .pod => 6
  | .system => 7

/-- Every code of R126 has a meaning. -/
def Scope.ofCode (c : BitVec 3) : Scope :=
  match c.toNat with
  | 0 => .strand
  | 1 => .item
  | 2 => .tile
  | 3 => .cluster
  | 4 => .die
  | 5 => .package
  | 6 => .pod
  | _ => .system

/-- The code of R126. -/
def Order.code : Order → BitVec 2
  | .none => 0
  | .acq => 1
  | .rel => 2
  | .sc => 3

/-- Every code of R126 has a meaning. -/
def Order.ofCode (c : BitVec 2) : Order :=
  match c.toNat with
  | 0 => .none
  | 1 => .acq
  | 2 => .rel
  | _ => .sc

/-- The code of R218. -/
def Ty.code : Ty → BitVec 4
  | .n8 => 0
  | .n16 => 1
  | .n32 => 2
  | .n64 => 3
  | .s8 => 4
  | .s16 => 5

/-- The codes of R218; the others are reserved. -/
def Ty.ofCode (c : BitVec 4) : Option Ty :=
  match c.toNat with
  | 0 => some .n8
  | 1 => some .n16
  | 2 => some .n32
  | 3 => some .n64
  | 4 => some .s8
  | 5 => some .s16
  | _ => none

/-- The code of R228. -/
def AtomOp.code : AtomOp → BitVec 4
  | .add => 0
  | .minS => 1
  | .minN => 2
  | .maxS => 3
  | .maxN => 4
  | .and => 5
  | .or => 6
  | .xor => 7
  | .exch => 8
  | .cas => 9
  | .fadd => 10
  | .fmin => 11
  | .fmax => 12
  | .incw => 13
  | .decw => 14

/-- The codes of R228; the others are reserved. -/
def AtomOp.ofCode (c : BitVec 4) : Option AtomOp :=
  match c.toNat with
  | 0 => some .add
  | 1 => some .minS
  | 2 => some .minN
  | 3 => some .maxS
  | 4 => some .maxN
  | 5 => some .and
  | 6 => some .or
  | 7 => some .xor
  | 8 => some .exch
  | 9 => some .cas
  | 10 => some .fadd
  | 11 => some .fmin
  | 12 => some .fmax
  | 13 => some .incw
  | 14 => some .decw
  | _ => none

/-- The code of R263. -/
def ICmp.code : ICmp → BitVec 4
  | .eq => 0
  | .ne => 1
  | .lts => 2
  | .les => 3
  | .gts => 4
  | .ges => 5
  | .ltn => 6
  | .len => 7
  | .gtn => 8
  | .gen => 9

/-- The codes of R263; the others are reserved. -/
def ICmp.ofCode (c : BitVec 4) : Option ICmp :=
  match c.toNat with
  | 0 => some .eq
  | 1 => some .ne
  | 2 => some .lts
  | 3 => some .les
  | 4 => some .gts
  | 5 => some .ges
  | 6 => some .ltn
  | 7 => some .len
  | 8 => some .gtn
  | 9 => some .gen
  | _ => none

/-- The code of R268. -/
def FCmp.code : FCmp → BitVec 4
  | .eq => 0
  | .ne => 1
  | .lt => 2
  | .le => 3
  | .gt => 4
  | .ge => 5
  | .num => 6
  | .nan => 7

/-- The codes of R268; the others are reserved. -/
def FCmp.ofCode (c : BitVec 4) : Option FCmp :=
  match c.toNat with
  | 0 => some .eq
  | 1 => some .ne
  | 2 => some .lt
  | 3 => some .le
  | 4 => some .gt
  | 5 => some .ge
  | 6 => some .num
  | 7 => some .nan
  | _ => none

/-- The code of R29. -/
def Rnd.code : Rnd → BitVec 3
  | .rne => 0
  | .rtz => 1
  | .rdn => 2
  | .rup => 3
  | .sr => 4

/-- The codes of R29; the others are reserved. -/
def Rnd.ofCode (c : BitVec 3) : Option Rnd :=
  match c.toNat with
  | 0 => some .rne
  | 1 => some .rtz
  | 2 => some .rdn
  | 3 => some .rup
  | 4 => some .sr
  | _ => none

/-- The code of R269. -/
def FrndMode.code : FrndMode → BitVec 3
  | .rne => 0
  | .rtz => 1
  | .rdn => 2
  | .rup => 3

/-- The codes of R269; the others are reserved. -/
def FrndMode.ofCode (c : BitVec 3) : Option FrndMode :=
  match c.toNat with
  | 0 => some .rne
  | 1 => some .rtz
  | 2 => some .rdn
  | 3 => some .rup
  | _ => none

/-- The code of R272. -/
def CvtDir.code : CvtDir → BitVec 3
  | .f32To => 0
  | .toF32 => 1
  | .s32To => 2
  | .toS32 => 3
  | .n32To => 4
  | .toN32 => 5

/-- The codes of R272; the others are reserved. -/
def CvtDir.ofCode (c : BitVec 3) : Option CvtDir :=
  match c.toNat with
  | 0 => some .f32To
  | 1 => some .toF32
  | 2 => some .s32To
  | 3 => some .toS32
  | 4 => some .n32To
  | 5 => some .toN32
  | _ => none

/-- The code of R275. -/
def CvtiConv.code : CvtiConv → BitVec 2
  | .sToF => 0
  | .nToF => 1
  | .fToS => 2
  | .fToN => 3

/-- Every code of R275 has a meaning. -/
def CvtiConv.ofCode (c : BitVec 2) : CvtiConv :=
  match c.toNat with
  | 0 => .sToF
  | 1 => .nToF
  | 2 => .fToS
  | _ => .fToN

/-- The code of R279. -/
def VoteMode.code : VoteMode → BitVec 2
  | .all => 0
  | .any => 1
  | .uni => 2

/-- The codes of R279; the others are reserved. -/
def VoteMode.ofCode (c : BitVec 2) : Option VoteMode :=
  match c.toNat with
  | 0 => some .all
  | 1 => some .any
  | 2 => some .uni
  | _ => none

/-- The code of R282. -/
def FoldOp.code : FoldOp → BitVec 4
  | .add => 0
  | .minS => 1
  | .minN => 2
  | .maxS => 3
  | .maxN => 4
  | .and => 5
  | .or => 6
  | .xor => 7
  | .fadd => 8
  | .fmin => 9
  | .fmax => 10

/-- The codes of R282; the others are reserved. -/
def FoldOp.ofCode (c : BitVec 4) : Option FoldOp :=
  match c.toNat with
  | 0 => some .add
  | 1 => some .minS
  | 2 => some .minN
  | 3 => some .maxS
  | 4 => some .maxN
  | 5 => some .and
  | 6 => some .or
  | 7 => some .xor
  | 8 => some .fadd
  | 9 => some .fmin
  | 10 => some .fmax
  | _ => none

/-- The code of R252. -/
def EngineKind.code : EngineKind → BitVec 2
  | .copy => 0
  | .matrix => 1
  | .routing => 2

/-- The codes of R252; the others are reserved. -/
def EngineKind.ofCode (c : BitVec 2) : Option EngineKind :=
  match c.toNat with
  | 0 => some .copy
  | 1 => some .matrix
  | 2 => some .routing
  | _ => none

/-- The code of R473. -/
def WatchKind.code : WatchKind → BitVec 2
  | .ld => 1
  | .st => 2
  | .ldst => 3

/-- The codes of R473; the others are reserved. -/
def WatchKind.ofCode (c : BitVec 2) : Option WatchKind :=
  match c.toNat with
  | 1 => some .ld
  | 2 => some .st
  | 3 => some .ldst
  | _ => none

/-- A 7-bit operand field (R128). -/
def Opnd.code : Opnd → BitVec 7
  | .dir n => 0#1 ++ n
  | .ind n => 1#1 ++ n

/-- The operand that a 7-bit field names (R128). -/
def opnd (f : BitVec 7) : Opnd :=
  if f.getLsbD 6 then .ind (f.extractLsb' 0 6) else .dir (f.extractLsb' 0 6)

/-- The guard field (R127). -/
def Guard.code (g : Guard) : BitVec 4 := BitVec.ofBool g.neg ++ g.p

/-- The guard that a field holds (R127). -/
def Guard.ofCode (f : BitVec 4) : Guard := ⟨f.getLsbD 3, f.extractLsb' 0 3⟩

/-- The MOD byte of a memory access (R217). -/
def MemMod.code (m : MemMod) : BitVec 8 := m.scope.code ++ m.ord.code ++ m.space.code

/-- The modifiers that a MOD byte holds (R217). -/
def memMod (f : BitVec 8) : MemMod :=
  ⟨Scope.ofCode (f.extractLsb' 5 3), Order.ofCode (f.extractLsb' 3 2), Space.ofCode (f.extractLsb' 0 3)⟩

/-- The MOD byte of a COPY-family command (R151). -/
def CopyMod.code (m : CopyMod) : BitVec 8 := 0#1 ++ BitVec.ofBool m.pdir ++ m.src.code ++ m.dst.code

/-- The spaces and PDIR bit that a COPY-family MOD byte holds (R151). -/
def copyMod (f : BitVec 8) : CopyMod :=
  ⟨f.getLsbD 6, Space.ofCode (f.extractLsb' 3 3), Space.ofCode (f.extractLsb' 0 3)⟩

/-! Words (R123, R125). -/

/-- A first word of Form A or the long form. -/
def word1 (maj : BitVec 7) (g : Guard) (d a b : BitVec 7) : Word := maj ++ g.code ++ d ++ a ++ b

/-- A second word of the long form. -/
def word2 (la minor : BitVec 4) (md : BitVec 8) (imm : BitVec 16) : Word := la ++ minor ++ md ++ imm

/-- The major opcode of a first word. -/
def majorOf (w : Word) : BitVec 7 := w.extractLsb' 25 7

/-- The guard of a first word. -/
def guardOf (w : Word) : Guard := Guard.ofCode (w.extractLsb' 21 4)

/-- R133: the majors that hold no instruction. -/
def reservedMajor (m : Nat) : Bool := m == 0x4E || m == 0x4F || m == 0x7E || m == 0x7F

/-- R115: the majors whose instruction has two words. -/
def longMajor (m : Nat) : Bool := 0x60 ≤ m

/-- The number of members of a family (R134); one in every other long-form major. -/
def minorCount (m : Nat) : Nat :=
  match m with
  | 0x64 => 15
  | 0x6C => 6
  | 0x7C => 6
  | _ => 1

/-- Answers an instruction when its zero fields are zero and it is well formed (R135, check Fields). -/
def sure (zeros : Bool) (i : Instr) : Option Instr := if zeros && i.wf then some i else none

/-- Bits [6:4] of a descriptor field are 0. -/
def n4 (f : BitVec 7) : Bool := f.extractLsb' 4 3 == 0

/-- Bit [6] of a counter or segment field is 0. -/
def n6 (f : BitVec 7) : Bool := f.extractLsb' 6 1 == 0

/-- Bit [7] of a MOD byte is 0. -/
def m7 (f : BitVec 8) : Bool := f.extractLsb' 7 1 == 0

/-- The instruction of a one-word major (R124, R259 to R286, R244 to R255). -/
def decodeShort (maj : Nat) (g : Guard) (d a b : BitVec 7) : Option Instr :=
  match maj with
  | 0x00 => sure (d == 0 && a == 0 && b == 0) (.nop g)
  | 0x01 => sure (b == 0) (.mov g (opnd d) (opnd a))
  | 0x02 => sure (a == 0) (.movi g (opnd d) b)
  | 0x03 => sure true (.add g (opnd d) (opnd a) (opnd b))
  | 0x04 => sure true (.addi g (opnd d) (opnd a) b)
  | 0x05 => sure true (.sub g (opnd d) (opnd a) (opnd b))
  | 0x06 => sure true (.mul g (opnd d) (opnd a) (opnd b))
  | 0x07 => sure true (.mulhiS g (opnd d) (opnd a) (opnd b))
  | 0x08 => sure true (.mulhiN g (opnd d) (opnd a) (opnd b))
  | 0x09 => sure true (.mad g (opnd d) (opnd a) (opnd b))
  | 0x0A => sure true (.minS g (opnd d) (opnd a) (opnd b))
  | 0x0B => sure true (.minN g (opnd d) (opnd a) (opnd b))
  | 0x0C => sure true (.maxS g (opnd d) (opnd a) (opnd b))
  | 0x0D => sure true (.maxN g (opnd d) (opnd a) (opnd b))
  | 0x0E => sure (b == 0) (.abs g (opnd d) (opnd a))
  | 0x0F => sure true (.and g (opnd d) (opnd a) (opnd b))
  | 0x10 => sure true (.or g (opnd d) (opnd a) (opnd b))
  | 0x11 => sure true (.xor g (opnd d) (opnd a) (opnd b))
  | 0x12 => sure true (.andn g (opnd d) (opnd a) (opnd b))
  | 0x13 => sure true (.shl g (opnd d) (opnd a) (opnd b))
  | 0x14 => sure true (.shr g (opnd d) (opnd a) (opnd b))
  | 0x15 => sure true (.sar g (opnd d) (opnd a) (opnd b))
  | 0x16 => match (b.extractLsb' 5 2).toNat with
    | 0 => sure true (.shli g (opnd d) (opnd a) (b.extractLsb' 0 5))
    | 1 => sure true (.shri g (opnd d) (opnd a) (b.extractLsb' 0 5))
    | 2 => sure true (.sari g (opnd d) (opnd a) (b.extractLsb' 0 5))
    | _ => sure true (.roli g (opnd d) (opnd a) (b.extractLsb' 0 5))
  | 0x17 => sure true (.rol g (opnd d) (opnd a) (opnd b))
  | 0x18 => sure (b == 0) (.clz g (opnd d) (opnd a))
  | 0x19 => sure (b == 0) (.popc g (opnd d) (opnd a))
  | 0x1A => sure (b == 0) (.brev g (opnd d) (opnd a))
  | 0x1B => sure true (.bfe g (opnd d) (opnd a) (opnd b))
  | 0x1C => sure true (.bfi g (opnd d) (opnd a) (opnd b))
  | 0x1D => sure true (.sel g (opnd d) (opnd a) (opnd b))
  | 0x1E => (ICmp.ofCode (d.extractLsb' 3 4)).bind fun c => sure true (.isetp g c (d.extractLsb' 0 3) (opnd a) (opnd b))
  | 0x1F => sure true (.add64 g (opnd d) (opnd a) (opnd b))
  | 0x20 => sure true (.fadd g (opnd d) (opnd a) (opnd b))
  | 0x21 => sure true (.fsub g (opnd d) (opnd a) (opnd b))
  | 0x22 => sure true (.fmul g (opnd d) (opnd a) (opnd b))
  | 0x23 => sure true (.ffma g (opnd d) (opnd a) (opnd b))
  | 0x24 => sure true (.fmin g (opnd d) (opnd a) (opnd b))
  | 0x25 => sure true (.fmax g (opnd d) (opnd a) (opnd b))
  | 0x26 => sure (b == 0) (.fabs g (opnd d) (opnd a))
  | 0x27 => sure (b == 0) (.fneg g (opnd d) (opnd a))
  | 0x28 => sure (b == 0) (.frcp g (opnd d) (opnd a))
  | 0x29 => sure (b == 0) (.frsq g (opnd d) (opnd a))
  | 0x2A => sure (b == 0) (.fexp2 g (opnd d) (opnd a))
  | 0x2B => sure (b == 0) (.flog2 g (opnd d) (opnd a))
  | 0x2C => sure (b == 0) (.ftanh g (opnd d) (opnd a))
  | 0x2D => (FCmp.ofCode (d.extractLsb' 3 4)).bind fun c => sure true (.fsetp g c (d.extractLsb' 0 3) (opnd a) (opnd b))
  | 0x2E => sure true (.fscale g (opnd d) (opnd a) (opnd b))
  | 0x2F => (FrndMode.ofCode (b.extractLsb' 0 3)).bind fun m => sure (b.extractLsb' 3 4 == 0) (.frnd g m (opnd d) (opnd a))
  | 0x30 => sure true (.hadd2 g (opnd d) (opnd a) (opnd b))
  | 0x31 => sure true (.hmul2 g (opnd d) (opnd a) (opnd b))
  | 0x32 => sure true (.hfma2 g (opnd d) (opnd a) (opnd b))
  | 0x33 => sure (b == 0) (.fclass g (opnd d) (opnd a))
  | 0x34 => (CvtDir.ofCode (b.extractLsb' 3 3)).bind fun c => sure (b.extractLsb' 6 1 == 0) (.cvt g c (opnd d) (opnd a) (b.extractLsb' 0 3))
  | 0x35 => (Rnd.ofCode (b.extractLsb' 2 3)).bind fun m => sure (b.extractLsb' 5 2 == 0) (.cvti g (CvtiConv.ofCode (b.extractLsb' 0 2)) m (opnd d) (opnd a))
  | 0x36 => sure true (.pack2 g (opnd d) (opnd a) (opnd b))
  | 0x37 => sure (a.extractLsb' 4 3 == 0 && b == 0) (.ballot g (opnd d) (a.getLsbD 3) (a.extractLsb' 0 3))
  | 0x38 => (VoteMode.ofCode (b.extractLsb' 0 2)).bind fun m => sure (d.extractLsb' 3 4 == 0 && a == 0 && b.extractLsb' 6 1 == 0) (.vote g m (d.extractLsb' 0 3) (b.getLsbD 5) (b.extractLsb' 2 3))
  | 0x39 => sure true (.shflIdx g (opnd d) (opnd a) (opnd b))
  | 0x3A => sure true (.shflXor g (opnd d) (opnd a) (opnd b))
  | 0x3B => sure true (.shflUp g (opnd d) (opnd a) (opnd b))
  | 0x3C => sure true (.shflDn g (opnd d) (opnd a) (opnd b))
  | 0x3D => sure true (.xchg g (opnd d) (opnd a) (opnd b))
  | 0x3E => sure (a == 0 && b == 0) (.rng g (opnd d))
  | 0x3F => (FoldOp.ofCode (b.extractLsb' 0 4)).bind fun o => sure (b.extractLsb' 4 3 == 0) (.redux g o (opnd d) (opnd a))
  | 0x40 => sure true (.bra g (d ++ a ++ b))
  | 0x41 => sure (d == 0 && b == 0) (.brx g (opnd a))
  | 0x42 => sure true (.call g (d ++ a ++ b))
  | 0x43 => sure (d == 0 && b == 0) (.callx g (opnd a))
  | 0x44 => sure (d == 0 && a == 0 && b == 0) (.ret g)
  | 0x45 => sure (d.extractLsb' 6 1 == 0 && b == 0) (.jmpf g (d.extractLsb' 0 6) (opnd a))
  | 0x46 => sure (d.extractLsb' 6 1 == 0 && b.extractLsb' 6 1 == 0) (.cfetch g (d.extractLsb' 0 6) (opnd a) (b.extractLsb' 0 6))
  | 0x47 => sure (d == 0 && a == 0 && b == 0) (.exit g)
  | 0x48 => sure (d == 0 && a == 0 && b == 0) (.yield g)
  | 0x49 => sure (d == 0 && a == 0) (.trap g b)
  | 0x4A => sure (d == 0 && a == 0 && b == 0) (.eret g)
  | 0x4B => sure (d == 0 && a == 0) (.bkpt g b)
  | 0x4C => sure true (.bru g (d ++ a ++ b))
  | 0x4D => sure (b == 0) (.cseg g (opnd d) (opnd a))
  | 0x50 => sure (d == 0 && a == 0) (.bar g b)
  | 0x51 => sure (a == 0) (.bararv g (opnd d) b)
  | 0x52 => sure (d == 0) (.barwt g (opnd a) b)
  | 0x53 => if b.getLsbD 6 then sure (d.extractLsb' 6 1 == 0 && b.extractLsb' 0 6 == 0) (.kinitReg g (d.extractLsb' 0 6) (opnd a))
    else sure (d.extractLsb' 6 1 == 0 && a == 0) (.kinitImm g (d.extractLsb' 0 6) (b.extractLsb' 0 6))
  | 0x54 => if b.getLsbD 6 then sure (d.extractLsb' 6 1 == 0 && b.extractLsb' 0 6 == 0) (.kaddReg g (d.extractLsb' 0 6) (opnd a))
    else sure (d.extractLsb' 6 1 == 0 && a == 0) (.kaddImm g (d.extractLsb' 0 6) (b.extractLsb' 0 6))
  | 0x55 => sure (d.extractLsb' 6 1 == 0 && a == 0 && b == 0) (.kwait g (d.extractLsb' 0 6))
  | 0x56 => sure (d == 0 && a == 0 && b.extractLsb' 5 2 == 0) (.phase g (b.getLsbD 4) (b.getLsbD 3) (Scope.ofCode (b.extractLsb' 0 3)))
  | 0x57 => sure (d == 0 && a == 0 && b.extractLsb' 3 4 == 0) (.fence g (Scope.ofCode (b.extractLsb' 0 3)))
  | 0x58 => sure (a == 0 && b == 0) (.tokwait g (opnd d))
  | 0x59 => sure (d == 0 && a == 0 && b == 0) (.tokpass g)
  | 0x5A => (EngineKind.ofCode (d.extractLsb' 0 2)).bind fun e => sure (d.extractLsb' 2 5 == 0 && b.extractLsb' 6 1 == 0) (.fork g e (opnd a) (b.extractLsb' 0 6))
  | 0x5B => (EngineKind.ofCode (b.extractLsb' 0 2)).bind fun e => sure (a == 0 && b.extractLsb' 2 5 == 0) (.rdv g (opnd d) e)
  | 0x5C => sure (d.extractLsb' 4 3 == 0 && a == 0 && b.extractLsb' 4 3 == 0) (.gres g (d.extractLsb' 0 4) (b.getLsbD 3) (b.extractLsb' 0 3))
  | 0x5D => sure true (.crew g (opnd d) (opnd a) (opnd b))
  | 0x5E => sure (a == 0 && b == 0) (.crwend g (opnd d))
  | 0x5F => (FoldOp.ofCode (b.extractLsb' 0 4)).bind fun o => sure (b.extractLsb' 4 3 == 0) (.crwred g o (opnd d) (opnd a))
  | _ => none

/-- The instruction of a two-word major (R125, R217 to R240, R151, R179, R305, R356, R359, R395, R473, R478). -/
def decodeLong (maj : Nat) (g : Guard) (d a b : BitVec 7) (la minor : BitVec 4) (md : BitVec 8) (imm : BitVec 16)
    (w2 : Word) : Option Instr :=
  match maj with
  | 0x60 => (Ty.ofCode (b.extractLsb' 0 4)).bind fun ty => sure (b.extractLsb' 4 3 == 0) (.ld g la (memMod md) ty (opnd d) (opnd a) imm)
  | 0x61 => (Ty.ofCode (d.extractLsb' 0 4)).bind fun ty => sure (d.extractLsb' 4 3 == 0) (.st g la (memMod md) ty (opnd a) (opnd b) imm)
  | 0x62 => (Ty.ofCode (imm.extractLsb' 0 4)).bind fun ty => sure (imm.extractLsb' 4 12 == 0) (.gather g la (memMod md) ty (opnd d) (opnd a) (opnd b))
  | 0x63 => (Ty.ofCode (imm.extractLsb' 0 4)).bind fun ty => sure (d == 0 && imm.extractLsb' 11 5 == 0) (.scatter g la (memMod md) ty (opnd a) (opnd b) (opnd (imm.extractLsb' 4 7)))
  | 0x64 => match minor.toNat with
    | 0 => sure true (.atomAdd g la (memMod md) (imm.getLsbD 15) (opnd d) (opnd a) (opnd b) (imm.extractLsb' 0 15))
    | 1 => sure true (.atomMinS g la (memMod md) (imm.getLsbD 15) (opnd d) (opnd a) (opnd b) (imm.extractLsb' 0 15))
    | 2 => sure true (.atomMinN g la (memMod md) (imm.getLsbD 15) (opnd d) (opnd a) (opnd b) (imm.extractLsb' 0 15))
    | 3 => sure true (.atomMaxS g la (memMod md) (imm.getLsbD 15) (opnd d) (opnd a) (opnd b) (imm.extractLsb' 0 15))
    | 4 => sure true (.atomMaxN g la (memMod md) (imm.getLsbD 15) (opnd d) (opnd a) (opnd b) (imm.extractLsb' 0 15))
    | 5 => sure true (.atomAnd g la (memMod md) (imm.getLsbD 15) (opnd d) (opnd a) (opnd b) (imm.extractLsb' 0 15))
    | 6 => sure true (.atomOr g la (memMod md) (imm.getLsbD 15) (opnd d) (opnd a) (opnd b) (imm.extractLsb' 0 15))
    | 7 => sure true (.atomXor g la (memMod md) (imm.getLsbD 15) (opnd d) (opnd a) (opnd b) (imm.extractLsb' 0 15))
    | 8 => sure true (.atomExch g la (memMod md) (imm.getLsbD 15) (opnd d) (opnd a) (opnd b) (imm.extractLsb' 0 15))
    | 9 => sure true (.atomCas g la (memMod md) (imm.getLsbD 15) (opnd d) (opnd a) (opnd b) (imm.extractLsb' 0 15))
    | 10 => sure true (.atomFadd g la (memMod md) (imm.getLsbD 15) (opnd d) (opnd a) (opnd b) (imm.extractLsb' 0 15))
    | 11 => sure true (.atomFmin g la (memMod md) (imm.getLsbD 15) (opnd d) (opnd a) (opnd b) (imm.extractLsb' 0 15))
    | 12 => sure true (.atomFmax g la (memMod md) (imm.getLsbD 15) (opnd d) (opnd a) (opnd b) (imm.extractLsb' 0 15))
    | 13 => sure true (.atomIncw g la (memMod md) (imm.getLsbD 15) (opnd d) (opnd a) (opnd b) (imm.extractLsb' 0 15))
    | _ => sure true (.atomDecw g la (memMod md) (imm.getLsbD 15) (opnd d) (opnd a) (opnd b) (imm.extractLsb' 0 15))
  | 0x65 => sure (a == 0 && b == 0) (.movw g (opnd d) w2)
  | 0x66 => sure (la == 0 && a == 0 && b == 0 && md == 0) (.sysr g (opnd d) imm)
  | 0x67 => sure (la == 0 && d == 0 && b == 0 && md == 0) (.sysw g (opnd a) imm)
  | 0x68 => sure (la == 0 && d.extractLsb' 4 3 == 0 && b == 0 && md == 0 && imm.extractLsb' 3 13 == 0) (.dset g (d.extractLsb' 0 4) (opnd a) (imm.getLsbD 2) (imm.extractLsb' 0 2))
  | 0x69 => sure (d == 0 && a == 0 && md.extractLsb' 1 2 == 0 && imm.extractLsb' 7 9 == 0) (.qpush g la (Scope.ofCode (md.extractLsb' 5 3)) (Order.ofCode (md.extractLsb' 3 2)) (md.getLsbD 0) (opnd b) (imm.extractLsb' 4 3) (imm.extractLsb' 0 4))
  | 0x6A => sure (a == 0 && b == 0 && md.extractLsb' 0 3 == 0 && imm.extractLsb' 7 9 == 0) (.qpop g la (Scope.ofCode (md.extractLsb' 5 3)) (Order.ofCode (md.extractLsb' 3 2)) (opnd d) (imm.extractLsb' 4 3) (imm.extractLsb' 0 4))
  | 0x6B => sure (a == 0 && b == 0 && md == 0 && imm.extractLsb' 7 9 == 0) (.qpeek g la (opnd d) (imm.extractLsb' 4 3) (imm.extractLsb' 0 4))
  | 0x6C => match minor.toNat with
    | 0 => sure (la == 0 && n4 d && n4 a && n6 b && m7 md && imm.extractLsb' 7 9 == 0) (.copy g (d.extractLsb' 0 4) (a.extractLsb' 0 4) (b.extractLsb' 0 6) (copyMod md) (imm.extractLsb' 0 7))
    | 1 => sure (la == 0 && n4 d && n4 a && n6 b && m7 md && imm.extractLsb' 3 13 == 0) (.plpack g (d.extractLsb' 0 4) (a.extractLsb' 0 4) (b.extractLsb' 0 6) (copyMod md) (imm.extractLsb' 0 3))
    | 2 => sure (la == 0 && n4 d && n4 a && n6 b && m7 md && imm.extractLsb' 3 13 == 0) (.plunpk g (d.extractLsb' 0 4) (a.extractLsb' 0 4) (b.extractLsb' 0 6) (copyMod md) (imm.extractLsb' 0 3))
    | 3 => sure (la == 0 && n4 d && n6 b && m7 md && imm.extractLsb' 7 9 == 0) (.fill g (d.extractLsb' 0 4) (opnd a) (b.extractLsb' 0 6) (copyMod md) (imm.extractLsb' 0 7))
    | 4 => sure (la == 0 && n6 b && m7 md && imm == 0) (.bkopen g (opnd d) (opnd a) (b.extractLsb' 0 6) (copyMod md))
    | _ => sure (la == 0 && d == 0 && n6 b && m7 md && imm == 0) (.bkclose g (opnd a) (b.extractLsb' 0 6) (copyMod md))
  | 0x6D => sure (la == 0 && n4 a && n6 b && md == 0 && imm.extractLsb' 8 8 == 0) (.rtcount g (opnd d) (a.extractLsb' 0 4) (b.extractLsb' 0 6) (imm.extractLsb' 0 8))
  | 0x6E => sure (la == 0 && n4 a && n6 b && md == 0 && imm.extractLsb' 8 8 == 0) (.rtdisp g (opnd d) (a.extractLsb' 0 4) (b.extractLsb' 0 6) (imm.extractLsb' 0 8))
  | 0x6F => sure (la == 0 && n4 a && n6 b && md.extractLsb' 3 5 == 0 && imm.extractLsb' 8 8 == 0) (.rtcomb g (opnd d) (a.extractLsb' 0 4) (b.extractLsb' 0 6) (md.extractLsb' 0 3) (imm.extractLsb' 0 8))
  | 0x70 => sure (la == 0 && n4 d && a == 0 && n6 b && md.extractLsb' 6 2 == 0 && imm == 0) (.mloop g (d.extractLsb' 0 4) (b.extractLsb' 0 6) (md.extractLsb' 0 3) (md.extractLsb' 3 3))
  | 0x71 => sure (la == 0 && n6 d && b == 0 && md == 0 && imm == 0) (.mzero g (d.extractLsb' 0 6) (opnd a))
  | 0x72 => sure (la == 0 && n6 d) (.mread g (d.extractLsb' 0 6) (opnd a) (opnd b) (md.extractLsb' 0 3) (Space.ofCode (md.extractLsb' 3 3)) (md.getLsbD 6) (md.getLsbD 7) imm)
  | 0x73 => sure (la == 0 && n6 d && m7 md) (.mwrite g (d.extractLsb' 0 6) (opnd a) (opnd b) (md.extractLsb' 0 3) (Space.ofCode (md.extractLsb' 3 3)) (md.getLsbD 6) imm)
  | 0x74 => sure (la == 0 && a == 0 && n6 b && md == 0 && imm == 0) (.mstat g (opnd d) (b.extractLsb' 0 6))
  | 0x75 => (Ty.ofCode (imm.extractLsb' 0 4)).bind fun ty => sure (b == 0 && md.extractLsb' 0 3 == 0 && imm.extractLsb' 11 5 == 0) (.rld g la (Scope.ofCode (md.extractLsb' 5 3)) (Order.ofCode (md.extractLsb' 3 2)) ty (opnd d) (opnd a) (opnd (imm.extractLsb' 4 7)))
  | 0x76 => (Ty.ofCode (imm.extractLsb' 0 4)).bind fun ty => sure (d == 0 && md.extractLsb' 0 3 == 0 && imm.extractLsb' 11 5 == 0) (.rst g la (Scope.ofCode (md.extractLsb' 5 3)) (Order.ofCode (md.extractLsb' 3 2)) ty (opnd a) (opnd b) (opnd (imm.extractLsb' 4 7)))
  | 0x77 => (AtomOp.ofCode (imm.extractLsb' 11 4)).bind fun op => sure (md.extractLsb' 0 3 == 0 && imm.extractLsb' 0 4 == 0) (.ratom g la (Scope.ofCode (md.extractLsb' 5 3)) (Order.ofCode (md.extractLsb' 3 2)) op (imm.getLsbD 15) (opnd d) (opnd a) (opnd b) (opnd (imm.extractLsb' 4 7)))
  | 0x78 => if md.getLsbD 0 then sure (la == 0 && a == 0 && b == 0 && md.extractLsb' 1 7 == 0 && imm == 0) (.tidewaitTide g (opnd d))
    else if imm.getLsbD 7 then
      sure (la == 0 && b == 0 && md == 0 && imm.extractLsb' 8 8 == 0) (.tidewaitPeer g (opnd d) (opnd a) (some (imm.extractLsb' 0 7)))
    else sure (la == 0 && b == 0 && md == 0 && imm == 0) (.tidewaitPeer g (opnd d) (opnd a) none)
  | 0x79 => sure (la == 0 && b == 0 && md == 0 && imm == 0) (.vqstat g (opnd d) (opnd a))
  | 0x7A => sure (la == 0 && d == 0 && b == 0 && md.extractLsb' 4 4 == 0 && md.extractLsb' 1 2 == 2 && imm.extractLsb' 0 8 == 0) (.prefetch g (md.getLsbD 0) (md.getLsbD 3) (opnd a) (imm.extractLsb' 8 8))
  | 0x7B => sure (la == 0 && n6 b && md == 0 && imm == 0) (.launch g (opnd d) (opnd a) (b.extractLsb' 0 6))
  | 0x7C => match minor.toNat with
    | 0 => sure (la == 0 && d == 0 && b == 0 && md == 0 && imm == 0) (.haltg g (opnd a))
    | 1 => sure (la == 0 && d == 0 && b == 0 && md == 0 && imm == 0) (.resumeg g (opnd a))
    | 2 => sure (la == 0 && d == 0 && b == 0 && md == 0 && imm == 0) (.step g (opnd a))
    | 3 => (WatchKind.ofCode (md.extractLsb' 3 2)).bind fun kd =>
      sure (la == 0 && d == 0 && b == 0 && md.extractLsb' 5 3 == 0 && imm.extractLsb' 2 2 == 0 && imm.extractLsb' 12 4 == 0)
        (.watch g (Space.ofCode (md.extractLsb' 0 3)) kd (imm.extractLsb' 0 2) (opnd a) (imm.extractLsb' 4 8))
    | 4 => sure (la == 0 && d == 0 && a == 0 && b == 0 && md == 0 && imm.extractLsb' 2 14 == 0) (.unwatch g (imm.extractLsb' 0 2))
    | _ => sure (la == 0 && d == 0 && b == 0 && md == 0 && imm.extractLsb' 6 10 == 0) (.mboxw g (imm.extractLsb' 0 6) (opnd a))
  | 0x7D => match md.toNat with
    | 0 => sure (la == 0 && n6 b && imm == 0) (.keyopDestroy g (opnd d) (opnd a) (b.extractLsb' 0 6))
    | 1 => sure (la == 0 && n6 b && imm.extractLsb' 14 2 == 0) (.keyopBzero g (opnd d) (opnd a) (b.extractLsb' 0 6) (imm.extractLsb' 0 9) (imm.extractLsb' 9 5))
    | _ => none
  | _ => none

/-- Why the decoder refuses an encoding (R135). -/
inductive DecodeError where
  | opcode
  | minor
  | field
deriving DecidableEq, Repr, Inhabited

/-- The instruction whose first word is `w1` and whose second word, where it has one, is `w2`; the checks Major,
Minor and Fields of R135 in their order. -/
def decode (w1 w2 : Word) : Except DecodeError Instr :=
  let maj := (majorOf w1).toNat
  let d := w1.extractLsb' 14 7
  let a := w1.extractLsb' 7 7
  let b := w1.extractLsb' 0 7
  if reservedMajor maj then .error .opcode
  else if longMajor maj then
    if maj != 0x65 && minorCount maj ≤ (w2.extractLsb' 24 4).toNat then .error .minor
    else
      match decodeLong maj (guardOf w1) d a b (w2.extractLsb' 28 4) (w2.extractLsb' 24 4) (w2.extractLsb' 16 8)
          (w2.extractLsb' 0 16) w2 with
      | some i => .ok i
      | none => .error .field
  else
    match decodeShort maj (guardOf w1) d a b with
    | some i => .ok i
    | none => .error .field

/-- R115: an instruction's size in bytes, from its first word. -/
def wordBytes (w1 : Word) : Nat := if longMajor (majorOf w1).toNat then 8 else 4

/-- Decoding of any bytes: the instruction at their start and the bytes after it, or the reason there is none;
`none` where the bytes end inside the instruction. -/
def decodeBytes (bs : List Byte) : Option (Except DecodeError Instr × List Byte) :=
  match bs with
  | b0 :: b1 :: b2 :: b3 :: rest =>
    let w1 : Word := b3 ++ b2 ++ b1 ++ b0
    if longMajor (majorOf w1).toNat && !reservedMajor (majorOf w1).toNat then
      match rest with
      | c0 :: c1 :: c2 :: c3 :: rest => some (decode w1 (c3 ++ c2 ++ c1 ++ c0), rest)
      | _ => none
    else some (decode w1 0, rest)
  | _ => none

/-- The words of an instruction; an event has none. -/
def encode : Instr → List Word
  | .nop g => [word1 0x00 g 0 0 0]
  | .mov g d a => [word1 0x01 g d.code a.code 0]
  | .movi g d imm => [word1 0x02 g d.code 0 imm]
  | .add g d a b => [word1 0x03 g d.code a.code b.code]
  | .addi g d a imm => [word1 0x04 g d.code a.code imm]
  | .sub g d a b => [word1 0x05 g d.code a.code b.code]
  | .mul g d a b => [word1 0x06 g d.code a.code b.code]
  | .mulhiS g d a b => [word1 0x07 g d.code a.code b.code]
  | .mulhiN g d a b => [word1 0x08 g d.code a.code b.code]
  | .mad g d a b => [word1 0x09 g d.code a.code b.code]
  | .minS g d a b => [word1 0x0A g d.code a.code b.code]
  | .minN g d a b => [word1 0x0B g d.code a.code b.code]
  | .maxS g d a b => [word1 0x0C g d.code a.code b.code]
  | .maxN g d a b => [word1 0x0D g d.code a.code b.code]
  | .abs g d a => [word1 0x0E g d.code a.code 0]
  | .and g d a b => [word1 0x0F g d.code a.code b.code]
  | .or g d a b => [word1 0x10 g d.code a.code b.code]
  | .xor g d a b => [word1 0x11 g d.code a.code b.code]
  | .andn g d a b => [word1 0x12 g d.code a.code b.code]
  | .shl g d a b => [word1 0x13 g d.code a.code b.code]
  | .shr g d a b => [word1 0x14 g d.code a.code b.code]
  | .sar g d a b => [word1 0x15 g d.code a.code b.code]
  | .shli g d a n => [word1 0x16 g d.code a.code (0#2 ++ n)]
  | .shri g d a n => [word1 0x16 g d.code a.code (1#2 ++ n)]
  | .sari g d a n => [word1 0x16 g d.code a.code (2#2 ++ n)]
  | .roli g d a n => [word1 0x16 g d.code a.code (3#2 ++ n)]
  | .rol g d a b => [word1 0x17 g d.code a.code b.code]
  | .clz g d a => [word1 0x18 g d.code a.code 0]
  | .popc g d a => [word1 0x19 g d.code a.code 0]
  | .brev g d a => [word1 0x1A g d.code a.code 0]
  | .bfe g d a b => [word1 0x1B g d.code a.code b.code]
  | .bfi g d a b => [word1 0x1C g d.code a.code b.code]
  | .sel g d a b => [word1 0x1D g d.code a.code b.code]
  | .isetp g c pd a b => [word1 0x1E g (c.code ++ pd) a.code b.code]
  | .add64 g d a b => [word1 0x1F g d.code a.code b.code]
  | .fadd g d a b => [word1 0x20 g d.code a.code b.code]
  | .fsub g d a b => [word1 0x21 g d.code a.code b.code]
  | .fmul g d a b => [word1 0x22 g d.code a.code b.code]
  | .ffma g d a b => [word1 0x23 g d.code a.code b.code]
  | .fmin g d a b => [word1 0x24 g d.code a.code b.code]
  | .fmax g d a b => [word1 0x25 g d.code a.code b.code]
  | .fabs g d a => [word1 0x26 g d.code a.code 0]
  | .fneg g d a => [word1 0x27 g d.code a.code 0]
  | .frcp g d a => [word1 0x28 g d.code a.code 0]
  | .frsq g d a => [word1 0x29 g d.code a.code 0]
  | .fexp2 g d a => [word1 0x2A g d.code a.code 0]
  | .flog2 g d a => [word1 0x2B g d.code a.code 0]
  | .ftanh g d a => [word1 0x2C g d.code a.code 0]
  | .fsetp g c pd a b => [word1 0x2D g (c.code ++ pd) a.code b.code]
  | .fscale g d a b => [word1 0x2E g d.code a.code b.code]
  | .frnd g m d a => [word1 0x2F g d.code a.code (0#4 ++ m.code)]
  | .hadd2 g d a b => [word1 0x30 g d.code a.code b.code]
  | .hmul2 g d a b => [word1 0x31 g d.code a.code b.code]
  | .hfma2 g d a b => [word1 0x32 g d.code a.code b.code]
  | .fclass g d a => [word1 0x33 g d.code a.code 0]
  | .cvt g dir d a slot => [word1 0x34 g d.code a.code (0#1 ++ dir.code ++ slot)]
  | .cvti g conv m d a => [word1 0x35 g d.code a.code (0#2 ++ m.code ++ conv.code)]
  | .pack2 g d a b => [word1 0x36 g d.code a.code b.code]
  | .ballot g d neg p => [word1 0x37 g d.code (0#3 ++ BitVec.ofBool neg ++ p) 0]
  | .vote g m pd neg p => [word1 0x38 g (0#4 ++ pd) 0 (0#1 ++ BitVec.ofBool neg ++ p ++ m.code)]
  | .shflIdx g d a b => [word1 0x39 g d.code a.code b.code]
  | .shflXor g d a b => [word1 0x3A g d.code a.code b.code]
  | .shflUp g d a b => [word1 0x3B g d.code a.code b.code]
  | .shflDn g d a b => [word1 0x3C g d.code a.code b.code]
  | .xchg g d a b => [word1 0x3D g d.code a.code b.code]
  | .rng g d => [word1 0x3E g d.code 0 0]
  | .redux g op d a => [word1 0x3F g d.code a.code (0#3 ++ op.code)]
  | .bra g off => [word1 0x40 g (off.extractLsb' 14 7) (off.extractLsb' 7 7) (off.extractLsb' 0 7)]
  | .brx g a => [word1 0x41 g 0 a.code 0]
  | .call g off => [word1 0x42 g (off.extractLsb' 14 7) (off.extractLsb' 7 7) (off.extractLsb' 0 7)]
  | .callx g a => [word1 0x43 g 0 a.code 0]
  | .ret g => [word1 0x44 g 0 0 0]
  | .jmpf g seg a => [word1 0x45 g (0#1 ++ seg) a.code 0]
  | .cfetch g seg a k => [word1 0x46 g (0#1 ++ seg) a.code (0#1 ++ k)]
  | .exit g => [word1 0x47 g 0 0 0]
  | .yield g => [word1 0x48 g 0 0 0]
  | .trap g n => [word1 0x49 g 0 0 n]
  | .eret g => [word1 0x4A g 0 0 0]
  | .bkpt g n => [word1 0x4B g 0 0 n]
  | .bru g off => [word1 0x4C g (off.extractLsb' 14 7) (off.extractLsb' 7 7) (off.extractLsb' 0 7)]
  | .cseg g d a => [word1 0x4D g d.code a.code 0]
  | .bar g n => [word1 0x50 g 0 0 n]
  | .bararv g d n => [word1 0x51 g d.code 0 n]
  | .barwt g a n => [word1 0x52 g 0 a.code n]
  | .kinitReg g k a => [word1 0x53 g (0#1 ++ k) a.code 0x40#7]
  | .kinitImm g k imm => [word1 0x53 g (0#1 ++ k) 0 (0#1 ++ imm)]
  | .kaddReg g k a => [word1 0x54 g (0#1 ++ k) a.code 0x40#7]
  | .kaddImm g k imm => [word1 0x54 g (0#1 ++ k) 0 (0#1 ++ imm)]
  | .kwait g k => [word1 0x55 g (0#1 ++ k) 0 0]
  | .phase g f p sc => [word1 0x56 g 0 0 (0#2 ++ BitVec.ofBool f ++ BitVec.ofBool p ++ sc.code)]
  | .fence g sc => [word1 0x57 g 0 0 (0#4 ++ sc.code)]
  | .tokwait g d => [word1 0x58 g d.code 0 0]
  | .tokpass g => [word1 0x59 g 0 0 0]
  | .fork g e a k => [word1 0x5A g (0#5 ++ e.code) a.code (0#1 ++ k)]
  | .rdv g d e => [word1 0x5B g d.code 0 (0#5 ++ e.code)]
  | .gres g slot neg p => [word1 0x5C g (0#3 ++ slot) 0 (0#3 ++ BitVec.ofBool neg ++ p)]
  | .crew g d a b => [word1 0x5D g d.code a.code b.code]
  | .crwend g d => [word1 0x5E g d.code 0 0]
  | .crwred g op n a => [word1 0x5F g n.code a.code (0#3 ++ op.code)]
  | .ld g la m ty d a disp => [word1 0x60 g d.code a.code (0#3 ++ ty.code), word2 la 0 m.code disp]
  | .st g la m ty a b disp => [word1 0x61 g (0#3 ++ ty.code) a.code b.code, word2 la 0 m.code disp]
  | .gather g la m ty d a b => [word1 0x62 g d.code a.code b.code, word2 la 0 m.code (0#12 ++ ty.code)]
  | .scatter g la m ty a b c => [word1 0x63 g 0 a.code b.code, word2 la 0 m.code (0#5 ++ c.code ++ ty.code)]
  | .atomAdd g la m w d a b disp => [word1 0x64 g d.code a.code b.code, word2 la 0 m.code (BitVec.ofBool w ++ disp)]
  | .atomMinS g la m w d a b disp => [word1 0x64 g d.code a.code b.code, word2 la 1 m.code (BitVec.ofBool w ++ disp)]
  | .atomMinN g la m w d a b disp => [word1 0x64 g d.code a.code b.code, word2 la 2 m.code (BitVec.ofBool w ++ disp)]
  | .atomMaxS g la m w d a b disp => [word1 0x64 g d.code a.code b.code, word2 la 3 m.code (BitVec.ofBool w ++ disp)]
  | .atomMaxN g la m w d a b disp => [word1 0x64 g d.code a.code b.code, word2 la 4 m.code (BitVec.ofBool w ++ disp)]
  | .atomAnd g la m w d a b disp => [word1 0x64 g d.code a.code b.code, word2 la 5 m.code (BitVec.ofBool w ++ disp)]
  | .atomOr g la m w d a b disp => [word1 0x64 g d.code a.code b.code, word2 la 6 m.code (BitVec.ofBool w ++ disp)]
  | .atomXor g la m w d a b disp => [word1 0x64 g d.code a.code b.code, word2 la 7 m.code (BitVec.ofBool w ++ disp)]
  | .atomExch g la m w d a b disp => [word1 0x64 g d.code a.code b.code, word2 la 8 m.code (BitVec.ofBool w ++ disp)]
  | .atomCas g la m w d a b disp => [word1 0x64 g d.code a.code b.code, word2 la 9 m.code (BitVec.ofBool w ++ disp)]
  | .atomFadd g la m w d a b disp => [word1 0x64 g d.code a.code b.code, word2 la 10 m.code (BitVec.ofBool w ++ disp)]
  | .atomFmin g la m w d a b disp => [word1 0x64 g d.code a.code b.code, word2 la 11 m.code (BitVec.ofBool w ++ disp)]
  | .atomFmax g la m w d a b disp => [word1 0x64 g d.code a.code b.code, word2 la 12 m.code (BitVec.ofBool w ++ disp)]
  | .atomIncw g la m w d a b disp => [word1 0x64 g d.code a.code b.code, word2 la 13 m.code (BitVec.ofBool w ++ disp)]
  | .atomDecw g la m w d a b disp => [word1 0x64 g d.code a.code b.code, word2 la 14 m.code (BitVec.ofBool w ++ disp)]
  | .movw g d imm => [word1 0x65 g d.code 0 0, imm]
  | .sysr g d num => [word1 0x66 g d.code 0 0, word2 0 0 0 num]
  | .sysw g a num => [word1 0x67 g 0 a.code 0, word2 0 0 0 num]
  | .dset g dn a al q => [word1 0x68 g (0#3 ++ dn) a.code 0, word2 0 0 0 (0#13 ++ BitVec.ofBool al ++ q)]
  | .qpush g la sc ord nb b ps q => [word1 0x69 g 0 0 b.code, word2 la 0 (sc.code ++ ord.code ++ 0#2 ++ BitVec.ofBool nb) (0#9 ++ ps ++ q)]
  | .qpop g la sc ord d ps q => [word1 0x6A g d.code 0 0, word2 la 0 (sc.code ++ ord.code ++ 0#3) (0#9 ++ ps ++ q)]
  | .qpeek g la d ps q => [word1 0x6B g d.code 0 0, word2 la 0 0 (0#9 ++ ps ++ q)]
  | .prefetch g host l2 a n => [word1 0x7A g 0 a.code 0, word2 0 0 (0#4 ++ BitVec.ofBool l2 ++ 2#2 ++ BitVec.ofBool host) (n ++ 0#8)]
  | .copy g d a k m peer => [word1 0x6C g (0#3 ++ d) (0#3 ++ a) (0#1 ++ k), word2 0 0 m.code (0#9 ++ peer)]
  | .plpack g d a k m slot => [word1 0x6C g (0#3 ++ d) (0#3 ++ a) (0#1 ++ k), word2 0 1 m.code (0#13 ++ slot)]
  | .plunpk g d a k m slot => [word1 0x6C g (0#3 ++ d) (0#3 ++ a) (0#1 ++ k), word2 0 2 m.code (0#13 ++ slot)]
  | .fill g d a k m peer => [word1 0x6C g (0#3 ++ d) a.code (0#1 ++ k), word2 0 3 m.code (0#9 ++ peer)]
  | .bkopen g d a k m => [word1 0x6C g d.code a.code (0#1 ++ k), word2 0 4 m.code 0]
  | .bkclose g a k m => [word1 0x6C g 0 a.code (0#1 ++ k), word2 0 5 m.code 0]
  | .rtcount g d dn k id => [word1 0x6D g d.code (0#3 ++ dn) (0#1 ++ k), word2 0 0 0 (0#8 ++ id)]
  | .rtdisp g d dn k id => [word1 0x6E g d.code (0#3 ++ dn) (0#1 ++ k), word2 0 0 0 (0#8 ++ id)]
  | .rtcomb g d dn k slot id => [word1 0x6F g d.code (0#3 ++ dn) (0#1 ++ k), word2 0 0 (0#5 ++ slot) (0#8 ++ id)]
  | .mloop g dn k fa fb => [word1 0x70 g (0#3 ++ dn) 0 (0#1 ++ k), word2 0 0 (0#2 ++ fb ++ fa) 0]
  | .mzero g k a => [word1 0x71 g (0#1 ++ k) a.code 0, word2 0 0 0 0]
  | .mread g k a b slot sp int clr pitch => [word1 0x72 g (0#1 ++ k) a.code b.code, word2 0 0 (BitVec.ofBool clr ++ BitVec.ofBool int ++ sp.code ++ slot) pitch]
  | .mwrite g k a b slot sp int pitch => [word1 0x73 g (0#1 ++ k) a.code b.code, word2 0 0 (0#1 ++ BitVec.ofBool int ++ sp.code ++ slot) pitch]
  | .mstat g d k => [word1 0x74 g d.code 0 (0#1 ++ k), word2 0 0 0 0]
  | .rld g la sc ord ty d a p => [word1 0x75 g d.code a.code 0, word2 la 0 (sc.code ++ ord.code ++ 0#3) (0#5 ++ p.code ++ ty.code)]
  | .rst g la sc ord ty a b p => [word1 0x76 g 0 a.code b.code, word2 la 0 (sc.code ++ ord.code ++ 0#3) (0#5 ++ p.code ++ ty.code)]
  | .ratom g la sc ord op w d a b p => [word1 0x77 g d.code a.code b.code, word2 la 0 (sc.code ++ ord.code ++ 0#3) (BitVec.ofBool w ++ op.code ++ p.code ++ 0#4)]
  | .tidewaitPeer g d a immp => [word1 0x78 g d.code a.code 0, word2 0 0 0 (match immp with | some n => 1#9 ++ n | none => 0)]
  | .tidewaitTide g d => [word1 0x78 g d.code 0 0, word2 0 0 1 0]
  | .vqstat g d a => [word1 0x79 g d.code a.code 0, word2 0 0 0 0]
  | .launch g d a k => [word1 0x7B g d.code a.code (0#1 ++ k), word2 0 0 0 0]
  | .haltg g a => [word1 0x7C g 0 a.code 0, word2 0 0 0 0]
  | .resumeg g a => [word1 0x7C g 0 a.code 0, word2 0 1 0 0]
  | .step g a => [word1 0x7C g 0 a.code 0, word2 0 2 0 0]
  | .watch g sp kind n a len => [word1 0x7C g 0 a.code 0, word2 0 3 (0#3 ++ kind.code ++ sp.code) (0#4 ++ len ++ 0#2 ++ n)]
  | .unwatch g n => [word1 0x7C g 0 0 0, word2 0 4 0 (0#14 ++ n)]
  | .mboxw g n a => [word1 0x7C g 0 a.code 0, word2 0 5 0 (0#10 ++ n)]
  | .keyopDestroy g d a k => [word1 0x7D g d.code a.code (0#1 ++ k), word2 0 0 0 0]
  | .keyopBzero g d a k key logpg => [word1 0x7D g d.code a.code (0#1 ++ k), word2 0 0 1 (0#2 ++ logpg ++ key)]
  | .laneOpPerform _
  | .segmentLanding _ _ _
  | .tokenForcedPass _
  | .engineProgramEnd _ _
  | .guardedCommandRelease _ _ _
  | .crewIterationStart _ _
  | .crewEnd _
  | .crewForcedRelease _
  | .crewCancel _ _ _
  | .loadWriteback _ _
  | .copyEntryStart _
  | .copyCompletion _ _
  | .engineTranslationFault _ _
  | .closeEvent _ _ _
  | .countVectorArrival _ _ _ _ _ _ _ _
  | .routingRowArrival _ _ _ _ _ _ _ _
  | .rtdispCompletion _ _ _
  | .rtcombCompletion _ _ _
  | .mloopStep _
  | .matrixCompletion _
  | .keyopCompletion _
  | .clauseFetch
  | .clauseWaitSatisfied
  | .impreciseDelivery
  | .preciseTrapEntry
  | .launchFatal _ _ _
  | .reportMergeExpiry _ _ _
  | .pageWalk _ _ _ _
  | .tlbiAll
  | .tlbiAsid _
  | .tlbiVa _ _ _
  | .tlbiPa _ _
  | .tlbiDone
  | .fabricInvalidation _ _ _ _
  | .memoryRequest _ _ _ _
  | .blockRead _ _ _ _ _ _ _
  | .gatherPacket _ _ _ _
  | .scatterPacket _ _ _ _ _
  | .memorySideAtomic _ _ _ _ _
  | .bankReserveRequest _ _ _ _ _
  | .streamRequest _ _ _ _ _ _
  | .foreignWindow _
  | .bankCloseRequest _
  | .bankIdleClose _
  | .baseDieKeyDestroy _ _
  | .bulkZeroCommand _ _ _
  | .migdataWrite _
  | .remoteScratchpadAccess _ _ _ _
  | .bankStarvePromote _ _ _
  | .wcDrainTimeout _
  | .itemAdmission _
  | .itemRetire _
  | .priorityAging _ _ _
  | .launchSubmit
  | .replaySubmit
  | .validatorDone
  | .launchEnd _
  | .preempt
  | .restore
  | .slotBoundary
  | .slotGuard
  | .portEngineSend _
  | .idleFlit _ _
  | .bulkHeaderFlit _ _
  | .bulkDataFlit _ _
  | .smallFlit _ _
  | .responseFlit _ _
  | .endToEndAck _ _
  | .markerFlit _ _
  | .controlFlit _ _
  | .dseqGateRelease _ _
  | .translationRequest _ _ _ _
  | .railRetrainDone _ _
  | .lockReacquired
  | .peerRemoved _
  | .remoteTimeout _
  | .podFormation
  | .podJoin _ _
  | .beaconSend _
  | .beaconReceive _ _ _ _ _
  | .beaconMissed _ _
  | .voteMessage _ _ _
  | .voteExpiry _ _ _
  | .fenceMessage _ _
  | .grantMessage _ _ _
  | .selftestDone _ _
  | .meshResend _
  | .tileStateWrite _ _
  | .hostApertureAccess _ _ _
  | .hostLinkDown
  | .hostGoneCompletion
  | .hoststatGoneClear
  | .powerOn _ _ _
  | .attestationRequest
  | .attestationDone
  | .wearThreshold _
  | .registerWrite _ _ _
  | .softError _ _
  | .linkTraining _ _ _
  | .saveComplete
  | .restoreFill
  | .bootReady _ => []

/-- A word's bytes, lowest address first (R1). -/
def wordToBytes (w : Word) : List Byte :=
  [w.extractLsb' 0 8, w.extractLsb' 8 8, w.extractLsb' 16 8, w.extractLsb' 24 8]

/-- The instruction whose bits are `w`, the first word lowest; bits past `nbits` are 0. -/
def decodeTableWord (nbits w : Nat) : Option Instr :=
  let v := w % 2 ^ nbits
  match decodeBytes (wordToBytes (BitVec.ofNat 32 v) ++ wordToBytes (BitVec.ofNat 32 (v / 2 ^ 32))) with
  | some (.ok i, _) => some i
  | _ => none

/-! Clauses (R115 to R122, R135). -/

/-- A clause header (R117). -/
structure Header where
  n : Nat
  cls : Nat
  u : Bool
  j : Bool
  wld : Bool
  wst : Bool
  wcp : Bool
  wmx : Bool
  wfb : Bool
  wcr : Bool
  wct : Bool
  ctr : Nat
deriving DecidableEq, Repr, Inhabited

/-- The fields of a header word (R117). -/
def headerOf (w : Word) : Header :=
  { n := (w.extractLsb' 28 4).toNat, cls := (w.extractLsb' 25 3).toNat, u := w.getLsbD 24, j := w.getLsbD 23,
    wld := w.getLsbD 22, wst := w.getLsbD 21, wcp := w.getLsbD 20, wmx := w.getLsbD 19, wfb := w.getLsbD 18,
    wcr := w.getLsbD 17, wct := w.getLsbD 16, ctr := (w.extractLsb' 10 6).toNat }

/-- The class of a major (R118). -/
def classOf (m : Nat) : Nat :=
  if m < 0x50 then 0 else if m < 0x60 then 1 else if m < 0x69 then 2 else if m < 0x6C then 3
  else if m < 0x70 then 4 else if m < 0x75 then 5 else if m < 0x7A then 6 else 7

/-- The majors allowed in a uniform clause (R121). -/
def uniformMajor (m : Nat) : Bool :=
  m ≤ 0x36 || (0x40 ≤ m && m ≤ 0x4D) || (0x50 ≤ m && m ≤ 0x5C) || (0x65 ≤ m && m ≤ 0x68)

/-- The control transfers (R119). -/
def transferMajor (m : Nat) : Bool :=
  (0x40 ≤ m && m ≤ 0x45) || m == 0x47 || (0x49 ≤ m && m ≤ 0x4C)

/-- The Form B transfers (R119). -/
def formBMajor (m : Nat) : Bool := m == 0x40 || m == 0x42 || m == 0x4C

/-- The target of a Form B transfer, as an offset in the segment that holds the branch; none where it lies outside
the segment (R119). -/
def formBTarget (hdr : Nat) (off : BitVec 21) : Option Nat :=
  let t : Int := (hdr : Int) + 4 * off.toInt
  if 0 ≤ t && t / 4096 == (hdr : Int) / 4096 then some t.toNat else none

/-- I = 1. -/
def Opnd.isInd : Opnd → Bool
  | .dir _ => false
  | .ind _ => true

/-- Whether some register operand field of a first word, or the operand field held in a second word, has I = 1
(R121): the fields that hold operands in the majors allowed in a uniform clause. -/
def Instr.indexed : Instr → Bool
  | .movi _ d _ | .movw _ d _ | .sysr _ d _ | .bararv _ d _ | .tokwait _ d | .rdv _ d _ => d.isInd
  | .mov _ d a | .addi _ d a _ | .abs _ d a | .clz _ d a | .popc _ d a | .brev _ d a
  | .shli _ d a _ | .shri _ d a _ | .sari _ d a _ | .roli _ d a _
  | .fabs _ d a | .fneg _ d a | .frcp _ d a | .frsq _ d a | .fexp2 _ d a | .flog2 _ d a | .ftanh _ d a
  | .frnd _ _ d a | .fclass _ d a | .cvt _ _ d a _ | .cvti _ _ _ d a | .cseg _ d a => d.isInd || a.isInd
  | .add _ d a b | .sub _ d a b | .mul _ d a b | .mulhiS _ d a b | .mulhiN _ d a b | .mad _ d a b
  | .minS _ d a b | .minN _ d a b | .maxS _ d a b | .maxN _ d a b | .and _ d a b | .or _ d a b | .xor _ d a b
  | .andn _ d a b | .shl _ d a b | .shr _ d a b | .sar _ d a b | .rol _ d a b | .bfe _ d a b | .bfi _ d a b
  | .sel _ d a b | .add64 _ d a b | .fadd _ d a b | .fsub _ d a b | .fmul _ d a b | .ffma _ d a b
  | .fmin _ d a b | .fmax _ d a b | .fscale _ d a b | .hadd2 _ d a b | .hmul2 _ d a b | .hfma2 _ d a b
  | .pack2 _ d a b => d.isInd || a.isInd || b.isInd
  | .isetp _ _ _ a b | .fsetp _ _ _ a b => a.isInd || b.isInd
  | .brx _ a | .callx _ a | .jmpf _ _ a | .cfetch _ _ a _ | .barwt _ a _ | .kinitReg _ _ a | .kaddReg _ _ a
  | .fork _ _ a _ | .sysw _ a _ | .dset _ _ a _ _ => a.isInd
  | _ => false

end Sys2Proof
end

