-- ==== Sys2Proof/Machine/Num.lean ====
section
/-! DEFINITION. Values, rounding, flags and format slots (02_number_formats.md R17 to R41). Every finite value is held
exactly, as a signed multiple of a power of two; rounding is one function. -/

namespace Sys2Proof.Machine

/-- The flags of FSTAT (R41): IS NV DZ OF UF NX from bit 5 to bit 0. -/
abbrev Flags := BitVec 6

/-- The flag IS of R41. -/
def flagIS : Flags := 0x20
/-- The flag NV of R41. -/
def flagNV : Flags := 0x10
/-- The flag DZ of R41. -/
def flagDZ : Flags := 0x08
/-- The flag OF of R41. -/
def flagOF : Flags := 0x04
/-- The flag UF of R41. -/
def flagUF : Flags := 0x02
/-- The flag NX of R41. -/
def flagNX : Flags := 0x01

/-- A floating value: a NaN, an infinity, or exactly (−1)^neg × m × 2^e. -/
inductive Fp where
  | nan
  | inf (neg : Bool)
  | fin (neg : Bool) (m : Nat) (e : Int)
deriving DecidableEq, Repr, Inhabited

/-- The floating formats of R20. -/
inductive FKind where
  | fp32 | fp16 | bf16 | e4m3 | e5m2 | e2m1 | acc36
deriving DecidableEq, Repr, Inhabited

/-- Exponent field width (R20). -/
def FKind.ew : FKind → Nat
  | .fp32 | .bf16 | .acc36 => 8
  | .fp16 | .e5m2 => 5
  | .e4m3 => 4
  | .e2m1 => 2

/-- Fraction field width (R20). -/
def FKind.fw : FKind → Nat
  | .fp32 => 23
  | .fp16 => 10
  | .bf16 => 7
  | .e4m3 => 3
  | .e5m2 => 2
  | .e2m1 => 1
  | .acc36 => 27

/-- Exponent bias (R20). -/
def FKind.bias : FKind → Nat
  | .fp32 | .bf16 | .acc36 => 127
  | .fp16 | .e5m2 => 15
  | .e4m3 => 7
  | .e2m1 => 1

/-- Whether the format has infinities (R20). -/
def FKind.hasInf : FKind → Bool
  | .e4m3 | .e2m1 => false
  | .fp32 | .fp16 | .bf16 | .e5m2 | .acc36 => true

/-- The whole width (R20). -/
def FKind.width (f : FKind) : Nat := 1 + f.ew + f.fw

/-- The pattern of the largest finite magnitude (R20). -/
def FKind.maxPat : FKind → Nat
  | .e4m3 => 0x7E
  | .e2m1 => 0x7
  | f => (2 ^ f.ew - 1) * 2 ^ f.fw - 1

/-- The canonical NaN (R20); E2M1 has none, and a NaN converts to its +6.0 (the table under R35). -/
def FKind.nanPat : FKind → Nat
  | .e4m3 => 0x7F
  | .e2m1 => 0x7
  | f => (2 ^ f.ew - 1) * 2 ^ f.fw + 2 ^ (f.fw - 1)

/-- The value of a pattern (R21), read with its first `k` significand planes (R36; 0 is all of them). -/
def FKind.readPlanes (f : FKind) (k : Nat) (mid : Bool) (bits : Nat) : Fp :=
  let neg := bitOf bits (f.ew + f.fw)
  let e := bitsOf bits (f.ew + f.fw - 1) f.fw
  let fr := bits % 2 ^ f.fw
  let special := e == 2 ^ f.ew - 1
  if f.hasInf && special then (if fr == 0 then .inf neg else .nan)
  else if f == .e4m3 && special && fr == 7 then .nan
  else
    let sig := if e == 0 then fr else 2 ^ f.fw + fr
    let ex : Int := (if e == 0 then 1 else (e : Int)) - f.bias - f.fw
    if sig == 0 || k == 0 || f.fw < k then .fin neg sig ex
    else
      let drop := f.fw + 1 - k
      let t := sig / 2 ^ drop * 2 ^ drop
      .fin neg (if mid then t + 2 ^ (drop - 1) else t) ex

/-- The value of a pattern (R21). -/
def FKind.read (f : FKind) (bits : Nat) : Fp := f.readPlanes 0 false bits

/-- The significand that rounding an exact magnitude `sig + rem / 2^d` gives (R29, R30). -/
def roundUp (mode : Rnd) (u : Nat) (neg : Bool) (sig rem d : Nat) : Bool :=
  match mode with
  | .rne => 2 ^ d < 2 * rem || (2 * rem == 2 ^ d && sig % 2 == 1)
  | .rtz => false
  | .rdn => neg && rem != 0
  | .rup => !neg && rem != 0
  | .sr => u < rem * 2 ^ 32 / 2 ^ d

/-- `m × 2^e` rounded to a multiple of `2^q`: the multiple, and whether it is inexact. -/
def roundAt (mode : Rnd) (u : Nat) (neg : Bool) (m : Nat) (e q : Int) : Nat × Bool :=
  if q ≤ e then (m * 2 ^ (e - q).toNat, false)
  else
    let d := (q - e).toNat
    let sig := m / 2 ^ d
    let rem := m % 2 ^ d
    (if roundUp mode u neg sig rem d then sig + 1 else sig, rem != 0)

/-- The pattern with a sign. -/
def FKind.signed (f : FKind) (neg : Bool) (pat : Nat) : Nat := (if neg then 2 ^ (f.ew + f.fw) else 0) + pat

/-- The pattern of an infinity, and the flags beside it: NV where the format is E4M3 (R33). -/
def FKind.infinite (f : FKind) (neg : Bool) : Nat × Flags :=
  match f with
  | .e4m3 => (f.nanPat, flagNV)
  | f => (f.signed neg (f.maxPat + 1), 0)

/-- The result of an overflow (R33). -/
def FKind.overflow (f : FKind) (mode : Rnd) (sat neg : Bool) : Nat × Flags :=
  let largest := (f.signed neg f.maxPat, flagOF ||| flagNX)
  let infinite := let r := f.infinite neg; (r.1, r.2 ||| flagOF ||| flagNX)
  if sat || f == .e2m1 then largest
  else
    match mode with
    | .rne | .sr => infinite
    | .rtz => largest
    | .rdn => if neg then infinite else largest
    | .rup => if neg then largest else infinite

/-- round_to: the pattern and the flags of a value in a floating format (R29, R30, R33, R35 and the table of special
values). `u` is the draw that SR uses. (log 50 DEDUCED) -/
def FKind.round (f : FKind) (mode : Rnd) (u : Nat) (sat flush : Bool) (v : Fp) : Nat × Flags :=
  match v with
  | .nan => (f.nanPat, if f == .e2m1 then flagNV else 0)
  | .inf neg => if sat || f == .e2m1 then (f.signed neg f.maxPat, flagOF) else f.infinite neg
  | .fin neg 0 _ => (f.signed neg 0, 0)
  | .fin neg m e =>
    let emin : Int := 1 - f.bias
    let bottom : Int := emin - f.fw
    let top : Int := e + Nat.log2 m
    let emax : Int := (2 ^ f.ew : Nat) - 1 - (f.bias : Int)
    if emax < top then f.overflow mode sat neg
    else
      let me : Nat × Int := if top < bottom - 40 then (1, bottom - 40) else (m, e)
      let q : Int := if top - f.fw < bottom then bottom else top - f.fw
      let r := roundAt mode u neg me.1 me.2 q
      let pat := (q - bottom).toNat * 2 ^ f.fw + r.1
      if f.maxPat < pat then f.overflow mode sat neg
      else
        let free := roundAt mode u neg m e (top - f.fw)
        let normal := emin ≤ top || (top == emin - 1 && 2 ^ (f.fw + 1) ≤ free.1)
        if flush && pat < 2 ^ f.fw then (f.signed neg 0, flagUF ||| flagNX)
        else (f.signed neg pat, if r.2 then (if normal then flagNX else flagUF ||| flagNX) else 0)

/-- A subnormal input reads as zero of its sign (R35). -/
def FKind.flushed (f : FKind) (flush : Bool) (bits : Nat) : Nat :=
  if flush && bitsOf bits (f.ew + f.fw - 1) f.fw == 0 then f.signed (bitOf bits (f.ew + f.fw)) 0 else bits

/-! Arithmetic on exact values: the result and the flag NV of its invalid cases. -/

/-- The negated value. -/
def Fp.neg : Fp → Fp
  | .nan => .nan
  | .inf n => .inf !n
  | .fin n m e => .fin (!n) m e

/-- An integer as an exact value; zero is +0. -/
def Fp.ofInt (x : Int) : Fp := .fin (decide (x < 0)) x.natAbs 0

/-- A finite value times 2^k. -/
def Fp.scale (k : Int) : Fp → Fp
  | .nan => .nan
  | .inf n => .inf n
  | .fin n m e => .fin n m (e + k)

/-- The signed multiple of `2^e0` that a finite term is, `e0` at most its exponent. -/
def alignTo (e0 : Int) (neg : Bool) (m : Nat) (e : Int) : Int :=
  let x : Int := (m * 2 ^ (e - e0).toNat : Nat)
  if neg then -x else x

/-- The exact sum of two values, with R26's sign of zero. -/
def Fp.add (a b : Fp) : Fp × Flags :=
  match a, b with
  | .nan, _ => (.nan, 0)
  | _, .nan => (.nan, 0)
  | .inf x, .inf y => if x == y then (.inf x, 0) else (.nan, flagNV)
  | .inf x, .fin _ _ _ => (.inf x, 0)
  | .fin _ _ _, .inf y => (.inf y, 0)
  | .fin nx mx ex, .fin ny my ey =>
    if mx == 0 && my == 0 then (.fin (nx && ny) 0 0, 0)
    else if mx == 0 then (.fin ny my ey, 0)
    else if my == 0 then (.fin nx mx ex, 0)
    else
      let e0 := if ex ≤ ey then ex else ey
      let t := alignTo e0 nx mx ex + alignTo e0 ny my ey
      (.fin (decide (t < 0)) t.natAbs e0, 0)

/-- The exact product of two values (R266: zero times infinity is invalid). -/
def Fp.mul (a b : Fp) : Fp × Flags :=
  match a, b with
  | .nan, _ => (.nan, 0)
  | _, .nan => (.nan, 0)
  | .inf x, .inf y => (.inf (x != y), 0)
  | .inf x, .fin y m _ => if m == 0 then (.nan, flagNV) else (.inf (x != y), 0)
  | .fin x m _, .inf y => if m == 0 then (.nan, flagNV) else (.inf (x != y), 0)
  | .fin x mx ex, .fin y my ey => (.fin (x != y) (mx * my) (ex + ey), 0)

/-- The exact value a × b + c; an invalid product sets NV whatever c is. (log 9 DEDUCED) -/
def Fp.fma (a b c : Fp) : Fp × Flags :=
  let p := Fp.mul a b
  let s := Fp.add p.1 c
  (s.1, p.2 ||| s.2)

/-- Whether a value is a NaN. -/
def Fp.isNan : Fp → Bool
  | .nan => true
  | .inf _ | .fin _ _ _ => false

/-- Whether `a < b`, for values neither of which is a NaN; the zeros are equal. -/
def Fp.lt (a b : Fp) : Bool :=
  match a, b with
  | .nan, _ => false
  | _, .nan => false
  | .inf x, .inf y => x && !y
  | .inf x, .fin _ _ _ => x
  | .fin _ _ _, .inf y => !y
  | .fin nx mx ex, .fin ny my ey =>
    if mx == 0 && my == 0 then false
    else if mx == 0 then !ny
    else if my == 0 then nx
    else if nx != ny then nx
    else
      let tx := ex + Nat.log2 mx
      let ty := ey + Nat.log2 my
      let below :=
        if tx != ty then decide (tx < ty)
        else
          let e0 := if ex ≤ ey then ex else ey
          decide (mx * 2 ^ (ex - e0).toNat < my * 2 ^ (ey - e0).toNat)
      let above :=
        if tx != ty then decide (ty < tx)
        else
          let e0 := if ex ≤ ey then ex else ey
          decide (my * 2 ^ (ey - e0).toNat < mx * 2 ^ (ex - e0).toNat)
      if nx then above else below

/-! FP32 operations (R265, R266). -/

/-- One FP32 result, rounded by RNE with subnormals kept and no saturation (R265). -/
def round32 (r : Fp × Flags) : Word × Flags :=
  let y := FKind.fp32.round .rne 0 false false r.1
  (BitVec.ofNat 32 y.1, r.2 ||| y.2)

/-- The value of a register read as FP32. -/
def read32 (w : Word) : Fp := FKind.fp32.read w.toNat

/-- The canonical FP32 NaN (R20). -/
def nan32 : Word := 0x7FC00000

/-- FMIN and FMAX (R230): −0 below +0, one NaN yields the other operand, two give the canonical NaN and NV. -/
def fpPick (max : Bool) (a b : Word) : Word × Flags :=
  match (read32 a).isNan, (read32 b).isNan with
  | true, true => (nan32, flagNV)
  | true, false => (b, 0)
  | false, true => (a, 0)
  | false, false =>
    let aBelow := Fp.lt (read32 a) (read32 b) || (!Fp.lt (read32 b) (read32 a) && a.getLsbD 31 && !b.getLsbD 31)
    (if aBelow == max then b else a, 0)

/-! Integer conversions (R34). -/

/-- The end points of an integer format of `w` bits. -/
def intRange (signed : Bool) (w : Nat) : Int × Int :=
  if signed then (-(2 ^ (w - 1) : Nat), (2 ^ (w - 1) : Nat) - 1) else (0, (2 ^ w : Nat) - 1)

/-- A finite value rounded to an integer (R29, R30) and whether that is inexact. -/
def roundInt (mode : Rnd) (u : Nat) (neg : Bool) (m : Nat) (e : Int) : Int × Bool :=
  let big := 4096
  if big < e then ((if neg then -1 else 1) * (2 ^ 128 : Nat), false)
  else if e + Nat.log2 m < -64 && m != 0 then
    let r := roundAt mode u neg 1 (-64) 0
    ((if neg then -(r.1 : Int) else r.1), true)
  else
    let r := roundAt mode u neg m e 0
    ((if neg then -(r.1 : Int) else r.1), r.2)

/-- From floating point to an integer range (R34): always clamped. -/
def fpToInt (mode : Rnd) (u : Nat) (range : Int × Int) (v : Fp) : Int × Flags :=
  match v with
  | .nan => (0, flagNV)
  | .inf neg => (if neg then range.1 else range.2, flagNV)
  | .fin neg m e =>
    let r := roundInt mode u neg m e
    if r.1 < range.1 then (range.1, flagNV)
    else if range.2 < r.1 then (range.2, flagNV)
    else (r.1, if r.2 then flagNX else 0)

/-- From an integer to an integer format of `w` bits (R34): clamped under the saturate bit, else the low bits kept. -/
def intToInt (sat signed : Bool) (w : Nat) (x : Int) : Int × Flags :=
  let range := intRange signed w
  if range.1 ≤ x && x ≤ range.2 then (x, 0)
  else if sat then (if x < range.1 then range.1 else range.2, flagIS)
  else (if signed then signedOf w (lowBits w x) else (lowBits w x : Int), 0)

/-! Format slots (R37 to R39). -/

/-- The element formats of R38. -/
inductive EFmt where
  | int (signed : Bool) (w : Nat)
  | ni (n : Nat)
  | fp (f : FKind)
  | accInt
deriving DecidableEq, Repr, Inhabited

/-- The element format codes (R38); the others are reserved. -/
def EFmt.ofCode (c : Nat) : Option EFmt :=
  match c with
  | 0x00 => some (.int true 8)
  | 0x01 => some (.int true 16)
  | 0x02 => some (.int true 32)
  | 0x03 => some (.int true 64)
  | 0x04 => some (.int false 8)
  | 0x05 => some (.int false 16)
  | 0x06 => some (.int false 32)
  | 0x07 => some (.int false 64)
  | 0x10 => some (.fp .fp32)
  | 0x11 => some (.fp .fp16)
  | 0x12 => some (.fp .bf16)
  | 0x13 => some (.fp .e4m3)
  | 0x14 => some (.fp .e5m2)
  | 0x15 => some (.fp .e2m1)
  | 0x18 => some (.fp .acc36)
  | 0x19 => some .accInt
  | c => if 0x08 ≤ c && c ≤ 0x0E then some (.ni (c - 6)) else none

/-- The width of an element in bits. -/
def EFmt.bits : EFmt → Nat
  | .int _ w => w
  | .ni n => n
  | .fp f => f.width
  | .accInt => 36

/-- The formats R23 allows a scale. -/
def EFmt.scalable : EFmt → Bool
  | .fp .acc36 => false
  | .fp _ => true
  | .int _ _ | .ni _ | .accInt => false

/-- The fields of a format slot (R37). -/
structure Slot where
  efmt : EFmt
  planes : Nat
  scaled : Bool
  block : Nat
  rnd : Rnd
  sat : Bool
  flush : Bool
  mid : Bool
  renorm : Bool
deriving DecidableEq, Repr, Inhabited

/-- The rounding codes (R29); 5 to 7 are reserved. -/
def rndOfCode (c : Nat) : Option Rnd :=
  match c with
  | 0 => some .rne
  | 1 => some .rtz
  | 2 => some .rdn
  | 3 => some .rup
  | 4 => some .sr
  | _ => none

/-- The plane count a format admits (R39). -/
def EFmt.planesOk (f : EFmt) (k : Nat) : Bool :=
  match f with
  | .fp .acc36 => k == 0
  | .fp f => k ≤ f.fw + 1
  | .ni n => k ≤ n
  | .int _ _ | .accInt => k == 0

/-- The slot a descriptor holds, or none where R39 rejects it. Nothing flushes an ACC36 word (R25). (log 10 DEDUCED, 51 DEDUCED) -/
def slotOf (x : Nat) : Option Slot :=
  match EFmt.ofCode (bitsOf x 5 0), rndOfCode (bitsOf x 16 14) with
  | some f, some r =>
    let sfmt := bitsOf x 11 10
    if x / 2 ^ 21 == 0 && sfmt ≤ 1 && f.planesOk (bitsOf x 9 6) && (sfmt == 0 || f.scalable) then
      some { efmt := f, planes := bitsOf x 9 6, scaled := sfmt == 1, block := 32 * 2 ^ bitsOf x 13 12, rnd := r,
             sat := bitOf x 17, flush := bitOf x 18 && f != .fp .acc36, mid := bitOf x 19, renorm := bitOf x 20 }
    else none
  | _, _ => none

/-- The first `k` planes of an `n`-bit integer (R19). -/
def niRead (n k : Nat) (mid : Bool) (x : Int) : Int :=
  if k == 0 || n ≤ k then x
  else x / (2 ^ (n - k) : Nat) * (2 ^ (n - k) : Nat) + (if mid then ((2 ^ (n - k - 1) : Nat) : Int) else 0)

/-- The value of an element's bits in a format, read at full precision; ACC36 integers are 36-bit (R25). -/
def EFmt.value (f : EFmt) (bits : Nat) : Fp :=
  match f with
  | .int true w => Fp.ofInt (signedOf w bits)
  | .int false w => Fp.ofInt ((bits % 2 ^ w : Nat) : Int)
  | .ni n => Fp.ofInt (signedOf n bits)
  | .fp k => k.read bits
  | .accInt => Fp.ofInt (signedOf 36 bits)

/-- An element read through a slot: flush (R35) and reduced reads (R19, R36). -/
def Slot.value (s : Slot) (bits : Nat) : Fp :=
  match s.efmt with
  | .fp k => k.readPlanes s.planes s.mid (k.flushed s.flush bits)
  | .ni n => Fp.ofInt (niRead n s.planes s.mid (signedOf n bits))
  | .int sg w => (EFmt.int sg w).value bits
  | .accInt => EFmt.accInt.value bits

/-- A value written in an element format by a slot's mode (R33 to R35): the element's bits and the flags. -/
def Slot.store (s : Slot) (u : Nat) (v : Fp) : Nat × Flags :=
  match s.efmt with
  | .fp k => k.round s.rnd u s.sat s.flush v
  | .int sg w => let r := fpToInt s.rnd u (intRange sg w) v; (lowBits w r.1, r.2)
  | .ni n => let r := fpToInt s.rnd u (intRange true n) v; (lowBits n r.1, r.2)
  | .accInt => let r := fpToInt s.rnd u (intRange true 36) v; (lowBits 36 r.1, r.2)

/-- The value of an E8M0 scale (R23); none where it is the NaN scale. -/
def scaleExp (c : Nat) : Option Int := if c == 0xFF then none else some ((c : Int) - 127)

/-- The poison pattern of `n` bits (R28). -/
def poison (n : Nat) : Nat := 2 ^ n - 1

/-! The generator (R31). -/

/-- One round of the generator. -/
def rngRound (i : Nat) (h : BitVec 32) (x : BitVec 32 × BitVec 32 × BitVec 32 × BitVec 32) :
    BitVec 32 × BitVec 32 × BitVec 32 × BitVec 32 :=
  let a := x.1 + x.2.1
  let d := (x.2.2.2 ^^^ a).rotateLeft 16
  let c := x.2.2.1 + d
  let b := (x.2.1 ^^^ c).rotateLeft 12
  let a := a + b + h + BitVec.ofNat 32 (0x9E3779B9 * (i + 1))
  let d := (d ^^^ a).rotateLeft 8
  let c := c + d
  let b := (b ^^^ c).rotateLeft 7
  (a, b, c, d)

/-- u of R31 for a launch seed, a logical thread id and a draw counter. -/
def rngValue (seed : Nat) (tid : Nat) (ctr : Nat) : BitVec 32 :=
  let h := BitVec.ofNat 32 (ctr / 2 ^ 32)
  let x := (upTo 10).foldl (fun x i => rngRound i h x)
    (BitVec.ofNat 32 seed, BitVec.ofNat 32 (seed / 2 ^ 32), BitVec.ofNat 32 tid, BitVec.ofNat 32 ctr)
  x.1 ^^^ x.2.2.1

/-! FRCP, FRSQ, FEXP2, FLOG2 and FTANH (R267). A value that is not a multiple of a power of two is held with more
significant bits than rounding looks at and a last bit that says that more follows. -/

/-- The integer square root, one result bit at a time from bit `i` down. -/
def isqrtFrom : Nat → Nat → Nat → Nat
  | 0, n, r => if (r + 1) * (r + 1) ≤ n then r + 1 else r
  | i + 1, n, r =>
    let c := r + 2 ^ (i + 1)
    isqrtFrom i n (if c * c ≤ n then c else r)

/-- The integer square root. -/
def isqrt (n : Nat) : Nat := isqrtFrom (Nat.log2 n / 2 + 1) n 0

/-- Fraction bits of the fixed-point series. -/
def seriesBits : Nat := 256

/-- The sum of t^k / k! for k from `k` on, `fuel` terms, in fixed point, `term` being the term before. -/
def expSeries : Nat → Nat → Nat → Nat → Nat
  | 0, _, _, _ => 0
  | fuel + 1, k, t, term =>
    let next := term * t / (k * 2 ^ seriesBits)
    next + expSeries fuel (k + 1) t next

/-- e^t for a fixed-point t ≥ 0. -/
def expFixed (t : Nat) : Nat := 2 ^ seriesBits + expSeries 240 1 t (2 ^ seriesBits)

/-- The sum of z^(2j+1) / (2j+1) for j from `j` on, `fuel` terms, `zp` being z^(2j+1). -/
def atanhSeries : Nat → Nat → Nat → Nat → Nat
  | 0, _, _, _ => 0
  | fuel + 1, j, z2, zp => zp / (2 * j + 1) + atanhSeries fuel (j + 1) z2 (zp * z2 / 2 ^ seriesBits)

/-- ln(n/d) for 1 ≤ n/d ≤ 2, in fixed point. -/
def lnFixed (n d : Nat) : Nat :=
  let z := (n - d) * 2 ^ seriesBits / (n + d)
  2 * atanhSeries 100 0 (z * z / 2 ^ seriesBits) z

/-- The exact value of a quotient with a sticky last bit. -/
def stickyFin (neg : Bool) (q : Nat) (exact : Bool) (e : Int) : Fp := .fin neg (2 * q + (if exact then 0 else 1)) (e - 1)

/-- 1/x (R267). -/
def fpRcp : Fp → Fp × Flags
  | .nan => (.nan, 0)
  | .inf n => (.fin n 0 0, 0)
  | .fin n m e =>
    if m == 0 then (.inf n, flagDZ)
    else
      let l := Nat.log2 m + 80
      (stickyFin n (2 ^ l / m) (2 ^ l % m == 0) (-e - l), 0)

/-- 1/√x (R267). -/
def fpRsq : Fp → Fp × Flags
  | .nan => (.nan, 0)
  | .inf n => if n then (.nan, flagNV) else (.fin false 0 0, 0)
  | .fin n m e =>
    if m == 0 then (.inf n, flagDZ)
    else if n then (.nan, flagNV)
    else
      let odd := e % 2 == 1
      let m' := if odd then 2 * m else m
      let e' := if odd then e - 1 else e
      let l := Nat.log2 m' + 80
      let q := isqrt (2 ^ (2 * l) / m')
      (stickyFin false q (q * q * m' == 2 ^ (2 * l)) (-(e' / 2) - l), 0)

/-- 2^x (R267). (log 8 UNVERIFIED) -/
def fpExp2 : Fp → Fp × Flags
  | .nan => (.nan, 0)
  | .inf n => if n then (.fin false 0 0, 0) else (.inf false, 0)
  | .fin n m e =>
    if m == 0 then (.fin false 1 0, 0)
    else if 10 < e + Nat.log2 m then (.fin false 1 (if n then -2000 else 2000), 0)
    else
      let x : Int := if 0 ≤ e then (m * 2 ^ e.toNat * 2 ^ seriesBits : Nat)
        else (m * 2 ^ seriesBits / 2 ^ (-e).toNat : Nat)
      let x := if n then -x else x
      let k := x / (2 ^ seriesBits : Nat)
      let f := (x % (2 ^ seriesBits : Nat)).toNat
      if f == 0 then (.fin false 1 k, 0)
      else (stickyFin false (expFixed (f * lnFixed 2 1 / 2 ^ seriesBits)) false (k - seriesBits), 0)

/-- log2 x (R267). -/
def fpLog2 : Fp → Fp × Flags
  | .nan => (.nan, 0)
  | .inf n => if n then (.nan, flagNV) else (.inf false, 0)
  | .fin n m e =>
    if m == 0 then (.inf true, flagDZ)
    else if n then (.nan, flagNV)
    else
      let k : Int := e + Nat.log2 m
      if m == 2 ^ Nat.log2 m then (Fp.ofInt k, 0)
      else
        let y := lnFixed m (2 ^ Nat.log2 m) * 2 ^ seriesBits / lnFixed 2 1
        let r : Int := k * (2 ^ seriesBits : Nat) + y
        (stickyFin (decide (r < 0)) r.natAbs false (-seriesBits), 0)

/-- tanh x (R267). -/
def fpTanh : Fp → Fp × Flags
  | .nan => (.nan, 0)
  | .inf n => (.fin n 1 0, 0)
  | .fin n m e =>
    if m == 0 then (.fin n 0 0, 0)
    else if e + Nat.log2 m < -16 then (.fin n (m * 2 ^ 64 - 1) (e - 64), 0)
    else
      let x := if 0 ≤ e then m * 2 ^ (if 4 < e then 4 else e.toNat) * 2 ^ seriesBits else m * 2 ^ seriesBits / 2 ^ (-e).toNat
      if 19 * 2 ^ seriesBits ≤ 2 * x then (.fin n (2 ^ 64 - 1) (-64), 0)
      else
        let ex := expFixed (2 * x)
        (stickyFin n ((ex - 2 ^ seriesBits) * 2 ^ seriesBits / (ex + 2 ^ seriesBits)) false (-seriesBits), 0)

end Sys2Proof.Machine
end

