-- ==== Sys2Proof/Machine/Table.lean ====
section
/-! DEFINITION. Sparse data by number: lists of (number, value) pairs in strictly rising order. A `Table` has a default
value that it never lists, so that equal tables are equal data; a `Map` says of every number whether it is there. -/

/-- An element put before the first that it may stand before. -/
def List.putBy {α : Type} (le : α → α → Bool) (x : α) : List α → List α
  | [] => [x]
  | y :: ys => if le x y then x :: y :: ys else y :: List.putBy le x ys

/-- A list in order, equal elements as they stood. -/
def List.sortedBy {α : Type} (l : List α) (le : α → α → Bool) : List α := l.foldr (List.putBy le) []

namespace Sys2Proof.Machine

/-- Pairs in rising order of their numbers. -/
abbrev Map (α : Type) := List (Nat × α)

/-- A map from which the default value is always absent. -/
abbrev Table (α : Type) := List (Nat × α)

/-- Memory: a table of bytes by address, the pairs being `Host.Cell`s. -/
abbrev Memory := Table Byte

/-- The value at a number, if it is listed. -/
def Map.find {α : Type} (k : Nat) : Map α → Option α
  | [] => none
  | (j, v) :: m => if j = k then some v else Map.find k m

/-- The map with a value at a number. -/
def Map.insert {α : Type} (k : Nat) (v : α) : Map α → Map α
  | [] => [(k, v)]
  | (j, w) :: m => if k < j then (k, v) :: (j, w) :: m else if j = k then (k, v) :: m else (j, w) :: Map.insert k v m

/-- The map without a number. -/
def Map.erase {α : Type} (k : Nat) (m : Map α) : Map α := m.filter fun x => x.1 != k

/-- The map with the value at a number, where there is one, changed. -/
def Map.adjust {α : Type} (k : Nat) (f : α → α) (m : Map α) : Map α :=
  match Map.find k m with
  | some v => Map.insert k (f v) m
  | none => m

/-- The numbers in strictly rising order, all above `lo` (the first at least `lo`). -/
def Map.risingFrom {α : Type} (lo : Nat) : Map α → Bool
  | [] => true
  | (j, _) :: m => decide (lo ≤ j) && Map.risingFrom (j + 1) m

/-- The value at a number. -/
def Table.get {α : Type} (d : α) (k : Nat) (t : Table α) : α := (Map.find k t).getD d

/-- The table with a value at a number; the default is not listed. -/
def Table.put {α : Type} [DecidableEq α] (d : α) (k : Nat) (v : α) (t : Table α) : Table α :=
  if v = d then Map.erase k t else Map.insert k v t

/-- The canonical form of a table: rising numbers, no default value. -/
def Table.wf {α : Type} [DecidableEq α] (d : α) (t : Table α) : Bool :=
  Map.risingFrom 0 t && t.all fun x => x.2 != d

/-- The form of a memory whose unlisted bytes read as 0. -/
def Memory.wf (m : Memory) : Bool := Table.wf (0 : Byte) m

/-- One byte of a memory. (log 11 DESIGN CHOICE) -/
def Memory.read (m : Memory) (a : Nat) : Byte := Table.get 0 a m

/-- A memory with one byte written. -/
def Memory.write (m : Memory) (a : Nat) (b : Byte) : Memory := Table.put 0 a b m

/-- The bytes from `a` on. -/
def Memory.readBytes (m : Memory) (a : Nat) : Nat → List Byte
  | 0 => []
  | n + 1 => m.read a :: Memory.readBytes m (a + 1) n

/-- A memory with bytes written from `a` on, in ascending order of address. -/
def Memory.writeBytes (m : Memory) (a : Nat) : List Byte → Memory
  | [] => m
  | b :: bs => Memory.writeBytes (m.write a b) (a + 1) bs

/-- A memory with the bytes of [lo, hi) removed (they read as 0). -/
def Memory.zero (m : Memory) (lo hi : Nat) : Memory := m.filter fun x => x.1 < lo || hi ≤ x.1

end Sys2Proof.Machine
end

