-- ==== Sys2Proof/Machine/State.lean ====
section
/-! DEFINITION. The state of the package: every piece of state the specification names, as plain data, with the machine
after reset. INVENTORY.md lists each field with its rule and reset value. -/

namespace Sys2Proof.Machine

/-- Why the machine stops with a fault. No rule of the specification stops the package. The one fault is raised by the
meaning of an instruction asked for when no resident strand holds the turn: there is nothing to issue it (safe; `step`
never asks, it idles). -/
inductive Fault where
  | noSuchStrand (key : Nat)
deriving DecidableEq, Repr, Inhabited

/-- Why a step has no meaning. `notModelled` is raised by an arm of the dispatch whose instruction has no meaning yet
(safe). -/
inductive Refusal where
  | notModelled (mnemonic : String)
deriving DecidableEq, Repr, Inhabited

/-- Four values, one per lane of a slice (R6). -/
structure Quad (α : Type) where
  l0 : α
  l1 : α
  l2 : α
  l3 : α
deriving DecidableEq, Repr, Inhabited

/-- The value of a lane. -/
def Quad.get {α : Type} (q : Quad α) (i : Nat) : α :=
  match i with
  | 0 => q.l0
  | 1 => q.l1
  | 2 => q.l2
  | _ => q.l3

/-- The four with one lane's value replaced. -/
def Quad.set {α : Type} (q : Quad α) (i : Nat) (x : α) : Quad α :=
  match i with
  | 0 => { q with l0 := x }
  | 1 => { q with l1 := x }
  | 2 => { q with l2 := x }
  | _ => { q with l3 := x }

/-- A value for every lane. -/
def Quad.map {α β : Type} (f : α → β) (q : Quad α) : Quad β := ⟨f q.l0, f q.l1, f q.l2, f q.l3⟩

/-- The clause a lane stands in (R115, R116, R120, R135): its header, the segment's generation, whether the wait of the
header is over, where the clause ends, the check its fetch failed (cause and reported offset), and whether the lane
resumes inside it (R116), so that the clause is fetched and checked again. -/
structure Clause where
  hdr : Nat
  gen : Nat
  word : Word
  stop : Nat
  waited : Bool
  fail : Option (Nat × Nat)
  resume : Bool
deriving DecidableEq, Repr, Inhabited

/-- Where a thread stands: program counter, clause, and return stack with the newest entry first (R284, R288). -/
structure Flow where
  pc : Nat
  ctx : Option Clause
  stack : List Word
deriving DecidableEq, Repr, Inhabited

/-- A thread: v0–v255, p0–p7 (p7 reads 1), its flow, its draw counter and its lane-private window (R131, R31, R96), the
iteration it runs and the draws made in it (R387), and the lane operation it has arrived at (R277). `bad` holds the words
of the window, and `badV` the v registers and (from 256 on) the predicates, that cannot be read (R433). Of a worker `v` and
`badV` hold, from 512 on, its own s0–s63, and at 592 its xi (R386). -/
structure Lane where
  v : Table Word
  p : BitVec 8
  flow : Flow
  exited : Bool
  dead : Bool
  draw : BitVec 64
  lp : Memory
  bad : List Nat
  badV : List Nat
  iter : Nat
  drawn : Nat
  atOp : Option Instr
deriving DecidableEq, Repr, Inhabited

/-- A register write that a long-latency instruction still owes to one lane (R130): v register, value. -/
structure RegWrite where
  lane : Nat
  reg : Nat
  val : Word
deriving DecidableEq, Repr, Inhabited

/-- What an incomplete instruction holds back (R120, R192). -/
inductive PendKind where
  | load | store | remote | engine
deriving DecidableEq, Repr, Inhabited

/-- A trap that is raised (R419, R430): its cause, the lanes that failed, INFO0 and INFO1, ORIGIN, the faulting
instruction's offset, its active lanes, the handler lanes, whether it is precise, and RETCNT. -/
structure Raise where
  code : Nat
  mask : BitVec 4 := 0
  info0 : Nat := 0
  info1 : Nat := 0
  origin : Nat := 0
  pc : Nat := 0x3FFFF
  gen : Nat := 0
  active : BitVec 4 := 0
  hmask : BitVec 4 := 0
  precise : Bool := true
  retcnt : Nat := 0
  trdetail : Nat := 0
deriving DecidableEq, Repr, Inhabited

/-- A long-latency instruction in flight (R130, R89): the locked destinations and the values they will receive, the
window left, and what its completion reports. `ready` says that its values have come back; `ifGone` is what a host-range
read becomes where the host is lost before that (R465). -/
structure Pending where
  id : Nat
  kind : PendKind
  pc : Nat
  w1 : Word
  w2 : Word
  left : Nat
  locks : List (Nat × Nat)
  writes : List RegWrite
  preds : List (Nat × BitVec 3 × Bool)
  poisoned : BitVec 4
  killed : BitVec 4
  flags : Flags
  causes : List Raise
  ready : Bool
  logged : Bool
  ifGone : Option (List RegWrite × Raise) := none
deriving DecidableEq, Repr, Inhabited

/-- One lane of a logged access (R90): its address, store data and compare value as read at issue. -/
structure LogLane where
  lane : Nat
  addr : Nat
  data : Nat
  cmp : Nat
deriving DecidableEq, Repr, Inhabited

/-- An entry of the operand log (R90); `xi` is the index register as it stood at issue, by which the destination is named
(R128). -/
structure LogEntry where
  id : Nat
  pc : Nat
  w1 : Word
  w2 : Word
  xi : BitVec 8
  lanes : List LogLane
deriving DecidableEq, Repr, Inhabited

/-- A fault record (R430) with what the handler reads beside it. -/
structure FaultRec where
  rec0 : BitVec 64
  rec1 : BitVec 64
  rec2 : BitVec 64
  rec3 : BitVec 64
deriving DecidableEq, Repr, Inhabited

/-- What a strand waits for (R120, R245, R247, R277, R360, R411, R421, R474). -/
inductive Wait where
  | none
  | clause
  | issue
  | barrier (n phase : Nat)
  | barrierAgain (n phase : Nat)
  | counter (k : Nat)
  | laneOp
  | tide (since : Nat)
  | peer (q since : Nat)
  | token
  | queueFull (q : Nat)
  | engine
  | remote
  | halt
  | crew
deriving DecidableEq, Repr, Inhabited

/-- A queued imprecise cause (R421). -/
abbrev Queued := Raise

/-- The interrupted state of a strand in handler mode (R425). -/
structure Interrupted where
  flows : Quad Flow
  cur : BitVec 4
  wait : Wait
  hmask : BitVec 4
  resume : Nat
deriving DecidableEq, Repr, Inhabited

/-- A place in a crew (R386): the crew record and the number of the strand's first worker, 0 for the recruiter's frame. -/
structure CrewSeat where
  crew : Nat
  first : Nat
deriving DecidableEq, Repr, Inhabited

/-- A strand (R6, R131): the smallest owner of a program counter. `lpBase` is where its lanes' windows lie in the
lane-private memory of its slice (R96). `badS` holds what cannot be read (R433): s registers by number, d registers from 64
on, xi as 80, the return-stack entries as 81. -/
structure Strand where
  item : Nat
  inItem : Nat
  context : Nat
  lpBase : Nat
  lanes : Quad Lane
  cur : BitVec 4
  s : Table Word
  d : Table (BitVec 256)
  xi : BitVec 8
  badS : List Nat
  fstat : Flags
  retcnt : BitVec 64
  pend : List Pending
  handler : Option Interrupted
  trapping : Option Raise
  fault : FaultRec
  trdetail : BitVec 64
  oplog : List LogEntry
  drop : BitVec 4
  queue : List Queued
  ovf : Bool
  wait : Wait
  stepArm : Bool
  stepHeld : Option Raise
  crewWord : Word
  crew : Option Nat
  seat : Option CrewSeat
  lost : Bool
deriving DecidableEq, Repr, Inhabited

/-- A barrier (R245): its phase and the strands that have arrived in it. -/
structure Barrier where
  phase : BitVec 16
  arrived : List Nat
deriving DecidableEq, Repr, Inhabited

/-- The engine program of an item on one engine (R253, R254, R380, R381): its number; whether it runs, and whether it has
met its EXIT or an error; the next instruction, how many its clause still holds, and whether the clause is guarded; its
frame; the counter and the thread that FORK named; the first error; and what its traps report. -/
structure EngineProg where
  id : Nat
  running : Bool
  ending : Bool
  pc : Nat
  left : Nat
  guarded : Bool
  v : Table Word
  d : Table (BitVec 256)
  k : Nat
  strand : Nat
  lane : Nat
  status : Nat
  retcnt : Nat
deriving DecidableEq, Repr, Inhabited

/-- A decrement that a deterministic launch holds back (R412): its counter, and the pass before which the command was
issued. -/
structure Deferred where
  id : Nat
  k : Nat
  pass : Nat
  done : Bool
deriving DecidableEq, Repr, Inhabited

/-- An item (R373, R374): its place, windows, barriers and per-item registers, and whether it was lost with its tile while
routing commands of it are still to end (R446). -/
structure Item where
  launch : Nat
  stage : Nat
  num : Nat
  tile : Nat
  strands : List Nat
  convoy : Nat
  scrBase : Nat
  accBase : Nat
  bars : Map Barrier
  poison : BitVec 64
  deadMask : BitVec 64
  engdetail : BitVec 64
  cancel : Bool
  cpstat : BitVec 64
  mstat : BitVec 64
  record : Option (Nat × Nat)
  popped : List Nat
  progs : Map EngineProg
  deferred : List Deferred
  passes : Nat
  reserved : List Nat
  lost : Bool
deriving DecidableEq, Repr, Inhabited

/-- A convoy on its cluster (R6, R103, R376): its items, its cluster-shared region and its group barriers. -/
structure Convoy where
  launch : Nat
  num : Nat
  cluster : Nat
  items : List Nat
  base : Nat
  shared : Memory
  bad : List Nat
  bars : Map Barrier
deriving DecidableEq, Repr, Inhabited

/-- A code segment of a launch on a tile (R289): state 0 EMPTY, 1 LOADING, 2 LANDED, 3 POISONED; generation; the
virtual source of its latest load (R405); and of a load in progress the physical lines with their keys, the item, the
counter and the command's number. -/
structure Seg where
  state : Nat
  gen : Nat
  source : Nat
  lines : List (Nat × Nat)
  item : Nat
  k : Option Nat
  cmd : Nat
deriving DecidableEq, Repr, Inhabited

/-- A watch slot (R476). -/
structure Watch where
  space : Space
  kind : WatchKind
  addr : Nat
  len : Nat
deriving DecidableEq, Repr, Inhabited

/-- An open merge window of reports (R423). -/
structure Merge where
  tile : Nat
  launch : Nat
  cause : Nat
  strand : Nat
  record : FaultRec
  count : Nat
deriving DecidableEq, Repr, Inhabited

/-- What a launch holds on one tile (R375): the scratchpad region, instruction memory, counters, guard slots with the item
whose GRES resolved each last (R255), watches. -/
structure TileLaunch where
  region : Nat
  scr : Memory
  bad : List Nat
  code : Table Word
  badCode : List Nat
  segs : Map Seg
  counters : Table (BitVec 32)
  guards : Table Nat
  resolvers : Table Nat
  watches : Map Watch
  lastAdmit : Nat
deriving DecidableEq, Repr, Inhabited

/-- The states of a queue entry (R146); FREE entries are absent. -/
inductive EntryState where
  | queued | active | held | bank
deriving DecidableEq, Repr, Inhabited

/-- An engine command in a queue (R144 to R147, R172, R304): its queue entry, number and state; the instruction, who
issued it and from where, with the operands as read at issue; its guard slot while that is unresolved (R255); and how far
it has come: cursor, detail code and first address in error (R170), the fault it stopped at with its cause, level, kind and
end (R167), whether its handler has cancelled it, whether it has run to its end, the remote accesses it waits for, bytes on their way, and the cursor of those
that have landed. -/
structure Command where
  no : Nat
  id : Nat
  state : EntryState
  op : Instr
  launch : Nat
  item : Nat
  stage : Nat
  strand : Nat
  lane : Nat
  program : Bool
  guardSlot : Option Nat
  floor : Bool
  descs : List (BitVec 256)
  value : BitVec 64
  value2 : BitVec 64
  pend : Option Nat
  pc : Nat
  w1 : Word
  w2 : Word
  pass : Nat
  cursor : Nat
  err : Nat
  dropped : Bool
  endBit : Bool
  seq : Nat
  handle : Nat
  started : Bool
  reruns : Nat
  flags : Flags
  drawn : Nat
  count : Nat
  wait : List Nat
  got : List (Nat × List Byte)
  retcnt : Nat
  fault : Option (Nat × Nat × Nat)
  met : List (Nat × Nat)
  finished : Bool
  gen : Nat
deriving DecidableEq, Repr, Inhabited

/-- A line of a tile's L1 (R80, R106, R191): tags, the copies of W, D, SH and AP of its translation (its MT is 0: no other
page is held), data as a number of 256 bytes, a dirty bit per byte, and the unreadable 32 B sectors. (log 136 DEDUCED) -/
structure L1Line where
  asid : Nat
  vline : Nat
  pline : Nat
  key : Nat
  w : Bool
  d : Bool
  sh : Bool
  ap : Nat
  data : Nat
  dirty : Nat
  bad : Nat
deriving DecidableEq, Repr, Inhabited

/-- A line at its L2 home (R107): key, data, dirty bytes, unreadable sectors, and the tick at which it was filled. -/
structure L2Line where
  key : Nat
  data : Nat
  dirty : Nat
  bad : Nat
  filled : Nat
deriving DecidableEq, Repr, Inhabited

/-- An entry of the write-combining buffer (R212), with the virtual line its stores were translated from, by which an
invalidation finds it (R83). -/
structure WcEntry where
  strand : Nat
  asid : Nat
  vline : Nat
  pline : Nat
  key : Nat
  data : Nat
  mask : Nat
deriving DecidableEq, Repr, Inhabited

/-- Lane-private and cluster-shared memory of a tile that no resident window holds, with the launch that held each part last
(R112): bytes at slice lane × 1,024 + offset, owners (launch handle) by slice × 64 + 16 B unit, and unreadable words by
byte address / 4; of the shared part bytes, owners by 256 B unit, and unreadable 16 B words. -/
structure Leftovers where
  lp : Memory
  lpOwner : Table Nat
  lpBad : List Nat
  share : Memory
  shareOwner : Table Nat
  shareBad : List Nat
deriving DecidableEq, Repr, Inhabited

/-- A shadow plane set of the array (R297, R306): the command and the step it is loaded for, the plane stack with its scale
array from offset 0 on and its unreadable 16 B words, and what the loader formed as it wrote the planes (R317): the sum of
each column n and K-group g at 8 n + g, and Cβ(k). -/
structure PlaneSet where
  cmd : Nat
  step : Nat
  mem : Memory
  bad : List Nat
  sums : List Int
  terms : List Int
deriving DecidableEq, Repr, Inhabited

/-- A tile: its copy queue, array queue and shadow plane sets, L1, write-combining buffer, Lamport clock, accumulator memory,
test injection (R144, R304, R297, R106, R212, R203, R109, R319), and the lane-private and shared memory that is free. -/
structure Tile where
  copies : List Command
  array : List Command
  shadow : List PlaneSet
  l1 : List L1Line
  wc : List WcEntry
  lclock : BitVec 64
  refreshed : Nat
  acc : Table (BitVec 36)
  accOwner : Table Nat
  accBad : List Nat
  mtestinj : BitVec 64
  turn : Nat
  scUnits : Table (BitVec 64)
  left : Leftovers
deriving DecidableEq, Repr, Inhabited

/-- An entry of a cluster's TLB or of the fabric translation cache (R79, R353). -/
structure TlbEntry where
  asid : Nat
  vbase : Nat
  sz : Nat
  leaf : Nat
deriving DecidableEq, Repr, Inhabited

/-- An entry of a walk cache (R79): the table that a level's entry names. -/
structure WalkEntry where
  asid : Nat
  level : Nat
  prefixVa : Nat
  table : Nat
deriving DecidableEq, Repr, Inhabited

/-- A cluster: its TLB and its walk cache, each with the latest used first (R79). -/
structure Cluster where
  tlb : List TlbEntry
  walk : List WalkEntry
deriving DecidableEq, Repr, Inhabited

/-- The count vector of one participant of a dispatch (R180). -/
structure Vector where
  package : Nat
  sums : List Nat
  crc : Nat
  k : Nat
  nexp : Nat
  rowu : Nat
deriving DecidableEq, Repr, Inhabited

/-- A dispatch context of a die (R172): its number, the launch, the dispatch id, the descriptor, the choices and the expert
table as RTCOUNT read them, the die's demand by expert, the vectors that have come from other packages, whether the die
has counted, whether this package's sum has been sent, whether the slots are assigned and RTCOUNT has completed, whether
an RTDISP has been issued, the rows of the die's experts that are written (expert × 2^20 + slot), what the exchange fixed
for each expert — the slots before the die's own choices, the demand of the dispatch, and this package's demand (R176) — and
the drop records written before RTDISP's current token. -/
structure Dispatch where
  ix : Nat
  launch : Nat
  id : Nat
  desc : List (BitVec 256)
  choices : List Nat
  table : List Nat
  sums : List Nat
  vectors : List Vector
  ready : Bool
  sent : Bool
  counted : Bool
  complete : Bool
  dispIssued : Bool
  rows : List Nat
  base : List Nat
  demand : List Nat
  own : List Nat
  drops : Nat
deriving DecidableEq, Repr, Inhabited

/-- A die: its mailbox, its routing engine's commands and dispatch contexts (R472, R172). -/
structure Die where
  mbox : Table (BitVec 64)
  routes : List Command
  ctxs : List Dispatch
deriving DecidableEq, Repr, Inhabited

/-- One contribution to a fold (R389). -/
structure Fold where
  iter : Nat
  worker : Nat
  target : Nat
  op : FoldOp
  val : Word
deriving DecidableEq, Repr, Inhabited

/-- A crew record (R385 to R394); `limit` is the number of rounds that a forced release leaves (R391). -/
structure Crew where
  tile : Nat
  recruiter : Nat
  lane : Nat
  window : Table Word
  contexts : List Nat
  seg : Nat
  g : Nat
  count : Nat
  targets : List Nat
  folds : List Fold
  begun : Table Nat
  ended : List Nat
  limit : Option Nat
  drawBase : BitVec 64
  pc : Nat
  gen : Nat
  flags : Flags
  poisoned : Bool
deriving DecidableEq, Repr, Inhabited

/-- A stage descriptor (R367). -/
structure Stage where
  eseg : Nat
  eoff : Nat
  width : Nat
  vregs : Nat
  inq : Bool
  qin : Nat
  pldies : Nat
  lpriv : Nat
  spill : Nat
  scritem : Nat
  accrows : Nat
  nbar : Nat
  crewres : Nat
  gatek : Nat
  gateen : Bool
  rbase : Nat
  count : Nat
deriving DecidableEq, Repr, Inhabited

/-- A queue of a launch (R368, R378): its descriptor, the records appended and bound so far, the records that count in
its occupancy, and the 16 B parts of records that cannot be read. -/
structure Queue where
  fromStage : Nat
  toStage : Nat
  depth : Nat
  qbase : Nat
  appended : Nat
  bound : Nat
  live : List Nat
  bad : List (Nat × Nat)
deriving DecidableEq, Repr, Inhabited

/-- A group (R370). -/
structure Group where
  stage : Nat
  gbar : Nat
  crewok : Bool
  list : List Nat
deriving DecidableEq, Repr, Inhabited

/-- The commit token of a deterministic launch (R410, R411): the ring of resident items, the holder's place, PASSES, and
the items that join at the next ring turn. -/
structure Token where
  ring : List Nat
  holder : Nat
  passes : Nat
  joining : List Nat
deriving DecidableEq, Repr, Inhabited

/-- An entry of a contact sheet's fabric input log (R416). -/
structure SheetEntry where
  tide : Nat
  slot : Nat
  kind : Nat
  lane : Nat
  stage : Nat
  strand : Nat
  retcnt : Nat
  value : Nat
  bytes : List Byte
deriving DecidableEq, Repr, Inhabited

/-- The states of a launch (R371, R403). -/
inductive LaunchState where
  | live | preempting | preempted | restoring
deriving DecidableEq, Repr, Inhabited

/-- A context image (R404 to R406): where it was saved, and the pages it needs. What it holds stands in the places of an
image of the package (`shadowTile`). -/
structure Image where
  base : Nat
  pages : Nat
deriving DecidableEq, Repr, Inhabited

/-- A launch (R365 to R372): the record's fields, the convoys its groups close into, and what has happened to it; `lostOn`
names the tiles on which it held a region when they were fenced (R104), `vectors` the count vectors of other packages that
no exchange has used yet, each with its dispatch id (R180). -/
structure Launch where
  det : Bool
  red : Bool
  strict : Bool
  capture : Bool
  prio : Nat
  asid : Nat
  priv : Bool
  seed : BitVec 64
  lkey : Nat
  nseg : Nat
  kcnt : Nat
  bcnt : Nat
  gcnt : Nat
  scrtile : Nat
  cshare : Nat
  clbase : Nat
  clcount : Nat
  diemask : Nat
  pkgmask : Nat
  cpladdr : Nat
  slots : List Nat
  stages : List Stage
  queues : List Queue
  segtab : List Nat
  groups : List Group
  image : Option Image
  state : LaunchState
  retired : Nat
  detbreak : Bool
  lostrem : Bool
  loststr : Bool
  cursors : Table Nat
  parked : List Nat
  ages : Table Nat
  halts : Table Nat
  token : Token
  home : Option (Nat × Nat)
  shape : List (Nat × Nat)
  tags : List Nat
  sheet : Nat
  sheetLen : Nat
  sheetAt : Nat
  trunc : Bool
  log : List SheetEntry
  ranges : List (Nat × Nat)
  replay : Option (List SheetEntry)
  lostOn : List Nat
  vectors : List (Nat × Vector)
deriving DecidableEq, Repr, Inhabited

/-- The granule cache of a base die (R47, R48, R62): key id, data, dirty, and the bursts that cannot be read. -/
structure CacheLine where
  key : Nat
  data : Nat
  dirty : Bool
  bad : Nat
deriving DecidableEq, Repr, Inhabited

/-- A stream request that a base die has in hand (R57, R58): its direction, next row, the rows still to move, its key id,
the bytes still to write or already read, and the status so far. -/
structure Stream where
  write : Bool
  row : Nat
  left : Nat
  key : Nat
  data : List Byte
  status : Nat
deriving DecidableEq, Repr, Inhabited

/-- A held bank (R56 to R59): the tile and copy entry that hold it, the rows streamed since the last foreign window, the
stream requests in hand, and whether it is to close after them. -/
structure Bank where
  tile : Nat
  entry : Nat
  streamed : Nat
  jobs : List Stream
  closing : Bool
deriving DecidableEq, Repr, Inhabited

/-- Main memory and its base dies (R43 to R67): stored bytes, the key id and generation each written granule is
encrypted under (0 is never written), the memory-side cache, unreadable bursts, bursts that need correction, held banks,
the generation of each key on each base die (key id + 512 × die), and the access counters. `evictions` counts the lines
given up for want of room, here and at the L2 homes; it is the model's own. -/
structure MainMem where
  dram : Memory
  granule : Table Nat
  cache : Map CacheLine
  badBursts : List Nat
  weakBursts : List Nat
  evictions : Nat
  banks : Map Bank
  keyGen : Table Nat
  counts : Table (BitVec 16)
  queued : Table Bool
  migctl : BitVec 64
  migqbase : BitVec 64
  migqstat : BitVec 64
  migidx : BitVec 64
deriving DecidableEq, Repr, Inhabited

/-- The invalidation registers (R82) and the packages an invalidation in progress waits for (R354), one entry for each
message. -/
structure Tlbi where
  va : BitVec 64
  cmd : BitVec 64
  stat : BitVec 64
  waiting : List Nat
deriving DecidableEq, Repr, Inhabited

/-- An entry of a virtual queue (R337, R338): its number, the ring, its final target, whether this is the first hop of a
ferried entry, whether it may never be ferried (R341), whether a deterministic launch owns it, or it has been
ferried already, whether it leaves its ring when the next hop has acknowledged its flits (a response, an acknowledgement, a
control message, or what is passed on), whether its translation is known, its first
flit with the data of all, the flits already sent, and the rail that has claimed it (R339, R340). -/
structure VqEntry where
  id : Nat
  small : Bool
  final : Nat
  ferry : Bool
  direct : Bool
  det : Bool
  brief : Bool
  ready : Bool
  flit : Flit
  sent : Nat
  claimed : Option Nat
deriving DecidableEq, Repr, Inhabited

/-- What one package knows of a peer (R209, R341, R342, R344, R346 to R348, R351, R355): membership, capability, both
rings in order of entry, the next SEQ and DSEQ of each queue both ways, the accesses performed ahead of SEQ, those that the
DSEQ gate holds, the results of the last 1,024 atomics, the tides without a flit, key slots and counters by rail, the
rails that owe a marker flit, the next CTR expected in order and the CTRs still to be named in a NAK by rail, the entries
ferried through it this tide by final target, the bulk entries of which flits are missing, and the tide in which a live rail
met it last (R360). -/
structure Peer where
  member : Bool
  removed : Bool
  revision : Nat
  mask : BitVec 64
  queue : List VqEntry
  seqOut : Quad Nat
  seqIn : Quad Nat
  early : List Nat
  held : List Flit
  results : List (Nat × List Nat)
  missed : Nat
  met : Bool
  heard : Bool
  keySlot : Nat
  keyNext : Bool
  rekeying : Bool
  rxSlot : Nat
  rxNext : Bool
  retire : Option Nat
  counters : Table Nat
  marked : List Nat
  nextIn : Table Nat
  nak : Map (List Nat)
  ferried : Table Nat
  partials : List Flit
  lastMet : Nat
deriving DecidableEq, Repr, Inhabited

/-- A flit that its peer has not acknowledged (R347): the peer, the meetings that have ended since it was sent (2: it is to
be sent again; 3: it is, and no ACK covers it, because a NAK named it), the entry it belongs to (0 for none), and the flit. -/
structure RetryFlit where
  peer : Nat
  age : Nat
  entry : Nat
  flit : Flit
deriving DecidableEq, Repr, Inhabited

/-- A rail (R336, R339, R347, R349, R350): its status, the retry buffer, consecutive failures by their sender, the time
its port engine has used of the slot in units of 10 ps, the data lanes found above the failure threshold, whether
this meeting is given to sparing, and the tide by which it returns from retraining. -/
structure Rail where
  stat : BitVec 64
  retry : List RetryFlit
  fails : Table Nat
  used : Nat
  weak : List Nat
  stall : Bool
  retrainUntil : Option Nat
deriving DecidableEq, Repr, Inhabited

/-- A remote access that has not had its answer (R351, R353, R358): the peer and queue, the operation and its ARG, who
issued it (a strand's instruction in flight, or an engine command), its order, its lanes, the bytes of each, type and
destination registers, the translations known so far (lane and leaf; none where the target faults), the tide of the
first transmission, the trap it raises at completion, and the logical id of its strand. For an engine command `pend` is the
cursor of its bytes. -/
structure Remote where
  id : Nat
  peer : Nat
  small : Bool
  op : Nat
  arg : Nat
  tile : Nat
  launch : Nat
  item : Nat
  strand : Nat
  pend : Nat
  command : Option Nat
  asid : Nat
  priv : Bool
  ord : Order
  scope : Scope
  lanes : List LogLane
  n : Nat
  ty : Ty
  dests : List (Nat × Nat)
  homes : List (Nat × Option Nat)
  since : Option Nat
  tmpl : Raise
  logical : Nat
deriving DecidableEq, Repr, Inhabited

/-- An invalidation that a target has sent (R354): the target, the ASID and range, and the accesses it waits for. -/
structure Inval where
  peer : Nat
  asid : Nat
  va : Nat
  log2 : Nat
  waits : List Nat
deriving DecidableEq, Repr, Inhabited

/-- The fabric unit (R325 to R361): its registers, membership of a pod, lock to the time master with the meetings in
error and the last measurement, the master and its successor at the next tide boundary, the calendar's place, the rails,
peers and packages that join, the fabric translation cache (ASID field: peer × 512 + ASID), the packages that hold
translations of each ASID, the remote accesses without an answer, the invalidations that wait for some, and the packages
whose signature or certificate the key agreement has found bad, which is an input (R469). (log 74 DEDUCED) -/
structure Fabric where
  fabcfg : BitVec 64
  tidetab : Table Byte
  vqbase : BitVec 64
  vqcfg : BitVec 64
  rekeyat : BitVec 64
  inPod : Bool
  locked : Bool
  relock : Bool
  lockErrs : Nat
  phaseBad : Option Bool
  master : Nat
  nextMaster : Option Nat
  slotno : Nat
  tidecnt : BitVec 64
  guard : Bool
  rails : Map Rail
  peers : Map Peer
  joining : List (Nat × Capability)
  tcache : List TlbEntry
  sentMask : Table Nat
  remotes : List Remote
  invals : List Inval
  distrusted : List Nat
deriving DecidableEq, Repr, Inhabited

/-- A tile's judgement of one neighbour (R440): state number 0 GOOD, 1–3 MISS, 4 SILENT, 5 BABBLING, 6 FENCED, 7 GRANT;
the cause of a fault as REASON gives it, the last SEQ, the good beacons counted, INJ above the threshold last time, the
votes and grants of other judges, whether the port is closed, and whether the neighbour's last beacon judged this tile. -/
structure Judgement where
  state : Nat
  why : Nat
  seq : Option Nat
  good : Nat
  injHigh : Bool
  votes : List Nat
  grants : List Nat
  closed : Bool
  accuses : Bool
deriving DecidableEq, Repr, Inhabited

/-- The health unit and the tiles' health blocks (R438 to R450). -/
structure Health where
  tilehealth : Table (BitVec 64)
  lanefail : Table (BitVec 64)
  beaconcfg : BitVec 64
  judgements : Map Judgement
  seqs : Table Nat
  hstate : Table Nat
deriving DecidableEq, Repr, Inhabited

/-- The host die (R457 to R471): the launch window, the notification ring, host status, identity, power and wear. -/
structure HostIf where
  lrbuf : Memory
  lrctl : BitVec 64
  lrsheet : BitVec 64
  lrstat : BitVec 64
  nqbase : BitVec 64
  nqstat : BitVec 64
  hoststat : BitVec 64
  linkstat : BitVec 64
  aperbase : BitVec 64
  held : List (List (BitVec 64))
  msix : Nat
  bootstat : BitVec 64
  attcmd : BitVec 64
  attnonce : Table (BitVec 64)
  attheld : List (BitVec 64)
  attreport : Memory
  reports : Nat
  pwrsum : BitVec 64
  pwrcap : BitVec 64
  wearth : BitVec 64
  wornSent : List Nat
  readData : List Byte
  readOk : Bool
deriving DecidableEq, Repr, Inhabited

/-- The pre-emption registers (R403), and of the operation in progress the command, base and length as they stood at
GO. -/
structure Preemption where
  cmd : BitVec 64
  base : BitVec 64
  len : BitVec 64
  stat : BitVec 64
  goCmd : BitVec 64
  goBase : BitVec 64
  goLen : BitVec 64
deriving DecidableEq, Repr, Inhabited

/-- A submission that the validator has in hand (R371, R396, R462): the record's bytes, the sheet to replay, and for
LAUNCH the submitter with its limits (R397), the register write that waits, the counter, and the place of the
instruction (R416). -/
structure Submission where
  record : Memory
  host : Bool
  priv : Bool
  sheet : Option Nat
  tile : Nat
  launch : Nat
  asid : Nat
  prio : Nat
  bound : Bool
  strand : Nat
  pend : Nat
  k : Nat
  stage : Nat
  logical : Nat
  retcnt : Nat
  lane : Nat
  fault : Bool
deriving DecidableEq, Repr, Inhabited

/-- A disagreement between the issues of an instruction of a redundant launch (R452, R453): the strand and lane, and how
it ends: 0 the retry agrees, 1 a majority against the physical lane `minority`, 2 no majority. It is an input. -/
structure Upset where
  strand : Nat
  lane : Nat
  outcome : Nat
  minority : Nat
deriving DecidableEq, Repr, Inhabited

/-- A KEYOP in hand (R478). -/
structure KeyJob where
  id : Nat
  destroy : Bool
  arg : Nat
  key : Nat
  size : Nat
  tile : Nat
  launch : Nat
  item : Nat
  strand : Nat
  pend : Nat
  k : Nat
deriving DecidableEq, Repr, Inhabited

/-- What a base die or a tile's bank answered last (R49, R54, R57, R60, R104): the status code, the data, and the mask of
poisoned entries. -/
structure Answer where
  status : Nat
  data : List Byte
  mask : Nat
deriving DecidableEq, Repr, Inhabited

/-- The package and what it can reach. `plan` holds the turns that come next, `cur` the strand whose turn it is
otherwise; `tick` counts steps and `fresh` the free values drawn so far. These four are the model's own. `idle` counts by
strand the turns of its slice for which it has been ready without issuing, `rotor` tells by slice which strand of a
deterministic launch issued last, and `yields` names the strands that are to issue before one that yielded (R402, R294). -/
structure State where
  plan : List Turn
  cur : Nat
  idle : Table Nat
  rotor : Table Nat
  yields : Map (List Nat)
  tick : Nat
  fresh : Nat
  clock : BitVec 64
  strands : Map Strand
  items : Map Item
  convoys : Map Convoy
  launches : Map Launch
  held : Map TileLaunch
  tiles : Map Tile
  clusters : Map Cluster
  dies : Map Die
  crews : Map Crew
  mem : MainMem
  answer : Answer
  l2 : Map L2Line
  l2units : Table (BitVec 64)
  dieScr : Memory
  dieScrBad : List Nat
  hostMem : Memory
  asidctx : Table (BitVec 64)
  tlbi : Tlbi
  fabric : Fabric
  health : Health
  host : HostIf
  pre : Preemption
  subs : List Submission
  merges : List Merge
  keyJobs : List KeyJob
  upsets : List Upset
  nextHandle : Nat
  nextId : Nat
deriving DecidableEq, Repr, Inhabited

/-- The fault record that holds nothing (R430). -/
def FaultRec.none : FaultRec := ⟨0, 0, 0, 0⟩

/-- A tile with nothing in it (R112). -/
def Tile.empty : Tile :=
  { copies := [], array := [], shadow := [], l1 := [], wc := [], lclock := 0, refreshed := 0, acc := [], accOwner := []
    accBad := [], mtestinj := 0, turn := 0, scUnits := [], left := ⟨[], [], [], [], [], []⟩ }

/-- A tile whose structures are zeroed: its Lamport clock, and the timestamps of its units, never go back (R203). -/
def Tile.zeroed (t : Tile) : Tile := { Tile.empty with lclock := t.lclock, scUnits := t.scUnits }

/-- A die with nothing in it (R472). -/
def Die.empty : Die := ⟨[], [], []⟩

/-- A token with no ring (R410). -/
def Token.empty : Token := ⟨[], 0, 0, []⟩

/-- A rail at reset (R336): SPARED 0x1F, STATE 0. -/
def Rail.reset : Rail := ⟨0x1F00, [], [], 0, [], false, Option.none⟩

/-- A peer of which nothing is known. -/
def Peer.empty : Peer :=
  { member := false, removed := false, revision := 0, mask := 0, queue := [], seqOut := ⟨0, 0, 0, 0⟩,
    seqIn := ⟨0, 0, 0, 0⟩, early := [], held := [], results := [], missed := 0, met := false, heard := false, keySlot := 0
    keyNext := false, rekeying := false, rxSlot := 0, rxNext := false, retire := Option.none, counters := [], marked := []
    nextIn := [], nak := [], ferried := [], partials := [], lastMet := 0 }

/-- A judgement at reset: GOOD (R440). -/
def Judgement.reset : Judgement := ⟨0, 0, Option.none, 0, false, [], [], false, false⟩

/-- The base dies at reset (R67): SRC 0b110, THRESH 0x0400. -/
def MainMem.reset : MainMem :=
  { dram := [], granule := [], cache := [], badBursts := [], weakBursts := [], evictions := 0, banks := [], keyGen := [], counts := [], queued := [],
    migctl := 0x06000400, migqbase := 0, migqstat := 0, migidx := 0 }

/-- The fabric unit at reset (R332 to R336). -/
def Fabric.reset : Fabric :=
  { fabcfg := 0xFFFF000000000019, tidetab := [], vqbase := 0, vqcfg := 0x0000003010080A06, rekeyat := 0xFFFFF00000,
    inPod := false, locked := true, relock := false, lockErrs := 0, phaseBad := Option.none, master := 0
    nextMaster := Option.none, slotno := 0, tidecnt := 0, guard := false, rails := [], peers := [], joining := []
    tcache := [], sentMask := [], remotes := [], invals := [], distrusted := [] }

/-- The health unit at reset (R450): AUTOQ 1, INJTH 0x0900. -/
def Health.reset : Health :=
  { tilehealth := [], lanefail := [], beaconcfg := 0x10900, judgements := [], seqs := [], hstate := [] }

/-- The host die at reset (R458 to R471). (log 118 DEDUCED, 119 DESIGN CHOICE) -/
def HostIf.reset : HostIf :=
  { lrbuf := [], lrctl := 0, lrsheet := 0, lrstat := 0, nqbase := 0, nqstat := 0, hoststat := 0, linkstat := 0,
    aperbase := 0, held := [], msix := 0, bootstat := 0, attcmd := 0x4000000000000000, attnonce := [], attheld := [], attreport := [], reports := 0,
    pwrsum := 0, pwrcap := 0xD48, wearth := 8760, wornSent := [], readData := [], readOk := true }

/-- The machine right after reset: every register at the value its table gives, nothing resident. (log 5 DESIGN CHOICE, 127 DESIGN CHOICE) -/
def State.reset : State :=
  { plan := [], cur := 0, idle := [], rotor := [], yields := [], tick := 0, fresh := 0, clock := 0, strands := [], items := [], convoys := [], launches := [],
    held := [], tiles := [], clusters := [], dies := [], crews := [], mem := MainMem.reset, answer := ⟨0, [], 0⟩, l2 := [], l2units := [],
    dieScr := [], dieScrBad := [], hostMem := [], asidctx := [], tlbi := ⟨0, 0x000000000C000000, 0, []⟩,
    fabric := Fabric.reset, health := Health.reset, host := HostIf.reset, pre := ⟨0, 0, 0, 0, 0, 0, 0⟩, subs := [], merges := [], keyJobs := [],
    upsets := [], nextHandle := 1, nextId := 1 }

end Sys2Proof.Machine
end

