-- ==== Sys2Proof/Machine/Memory.lean ====
section
/-! DEFINITION. Main memory behind its base dies, the die scratchpad, host memory, and the L2 homes
(03_main_memory.md R43 to R67, 05_onchip_levels.md R95, R105, R107, 08_consistency.md R189 to R191, R212, R213). A line
or granule is a number of 256 bytes, its lowest byte first. -/

namespace Sys2Proof.Machine

/-! The physical map (R95). -/

/-- Bytes of HBM (R44). -/
def hbmEnd : Nat := 0xC000000000

/-- The end of the die-scratchpad range (R95). -/
def dieEnd : Nat := 0xC018000000

/-- The start of the host range (R95). -/
def hostBase : Nat := 0x8000000000000

/-- The end of the physical address space (R68). -/
def physEnd : Nat := 0x10000000000000

/-- An address in HBM. -/
def inHbm (a : Nat) : Bool := a < hbmEnd

/-- An address in the die scratchpad. -/
def inDie (a : Nat) : Bool := hbmEnd ≤ a && a < dieEnd

/-- An address in the host range. -/
def inHost (a : Nat) : Bool := hostBase ≤ a && a < physEnd

/-! Numbers of bytes. -/

/-- A mask of whole bytes from a mask with one bit per byte, for the lowest `n` bytes. -/
def byteMask : Nat → Nat → Nat
  | 0, _ => 0
  | n + 1, m => (if m % 2 == 1 then 0xFF else 0) + 256 * byteMask n (m / 2)

/-- `old` with the bytes that `mask` names (one bit per byte) taken from `new`. -/
def blend (old new mask : Nat) : Nat :=
  let b := byteMask 256 mask
  (new &&& b) ||| (old &&& (byteMask 256 (2 ^ 256 - 1) ^^^ b))

/-- `n` bytes of a line from byte `off` on, as a number. -/
def sliceLine (line off n : Nat) : Nat := line / 256 ^ off % 256 ^ n

/-- The byte-per-bit mask of `n` bytes from byte `off` on. -/
def spanMask (off n : Nat) : Nat := (2 ^ n - 1) * 2 ^ off

/-- The 32 B sectors that `n` bytes from byte `off` on touch. -/
def sectorsOf (off n : Nat) : List Nat := (upTo 8).filter fun i => off < 32 * (i + 1) && 32 * i < off + n

/-- The sectors that a byte mask covers whole. -/
def wholeSectors (mask : Nat) : List Nat := (upTo 8).filter fun i => mask / 2 ^ (32 * i) % 2 ^ 32 == 2 ^ 32 - 1

/-- A sector mask without the sectors that a byte mask covers whole (R48, R433). -/
def clearSectors (bad mask : Nat) : Nat :=
  (wholeSectors mask).foldl (fun b i => if bitOf b i then b - 2 ^ i else b) bad

/-- A line with its unreadable sectors read as 0xFF (R48). -/
def poisonSectors (line bad : Nat) : Nat :=
  (upTo 8).foldl (fun l i => if bitOf bad i then blend l (256 ^ 256 - 1) (spanMask (32 * i) 32) else l) line

/-! DRAM under its keys (R62, R63). -/

/-- What a granule's tag says: 0 never written, else the key id and generation it is encrypted under. -/
def granuleTag (key gen : Nat) : Nat := 1 + key + 512 * gen

/-- The generation of a key id on the base die that holds a granule (R45, R63). -/
def keyGenAt (m : MainMem) (key g : Nat) : Nat := Table.get 0 (key + 512 * (g % 12)) m.keyGen

/-- The byte of DRAM at an address, decrypted under a key id as it stands now: what nothing has written, once its key id has
been given a new key, is unrelated data too (R63). (log 11 DESIGN CHOICE, 12 DEDUCED) -/
def dramByte (m : MainMem) (key a : Nat) : Byte :=
  let tag := Table.get 0 (a / 256) m.granule
  let gen := keyGenAt m key (a / 256)
  if tag == 0 && gen == 0 || tag == granuleTag key gen then m.dram.read a
  else Config.undecrypted a key gen

/-- A granule of DRAM, decrypted. -/
def dramLine (m : MainMem) (key g : Nat) : Nat :=
  ofLeBytes ((upTo 256).map fun i => dramByte m key (256 * g + i))

/-- The key id a granule was last written under, 0 where it never was. -/
def granuleKey (m : MainMem) (g : Nat) : Nat :=
  match Map.find g m.cache with
  | some c => c.key
  | none =>
    let tag := Table.get 0 g m.granule
    if tag == 0 then 0 else (tag - 1) % 512

/-- A granule stored in DRAM under a key id, some of its bursts with a check code that reads as uncorrectable: every burst
is written whole, so what was said of it before is gone (R48). -/
def dramStore (m : MainMem) (key g data : Nat) (bad : Nat := 0) : MainMem :=
  { m with
    dram := m.dram.writeBytes (256 * g) (leBytes 256 data)
    granule := Table.put 0 g (granuleTag key (keyGenAt m key g)) m.granule
    badBursts := m.badBursts.filter (fun b => b / 8 != g) ++ ((upTo 8).filter (bitOf bad)).map fun i => 8 * g + i
    weakBursts := m.weakBursts.filter fun b => b / 8 != g }

/-- A dirty line of the memory-side cache written back and every copy of the granule dropped. -/
def cacheEvict (m : MainMem) (g : Nat) : MainMem :=
  match Map.find g m.cache with
  | some c =>
    let m := { m with cache := Map.erase g m.cache }
    if c.dirty then dramStore m c.key g c.data c.bad else m
  | none => m

/-- Two granules of one set of one base die's memory-side cache: 4,096 sets of 16 ways (R43). -/
def sameCacheSet (g k : Nat) : Bool := g % 12 == k % 12 && Config.cacheSet g % 4096 == Config.cacheSet k % 4096

/-- Room in its set for a granule that the memory-side cache does not hold (R43): a full set gives up one line. (log 23
DESIGN CHOICE) -/
def cacheRoom (m : MainMem) (g : Nat) : MainMem :=
  if m.cache.length < 16 || (Map.find g m.cache).isSome then m
  else
    let set := m.cache.filter fun x => sameCacheSet g x.1
    if set.length < 16 then m
    else
      match set[Config.cacheVictim m.evictions % set.length]? with
      | some x => cacheEvict { m with evictions := m.evictions + 1 } x.1
      | none => m

/-- A granule as the memory-side cache serves it to a key id (R47, R62). (log 23 DESIGN CHOICE) -/
def granuleRead (m : MainMem) (key g : Nat) : MainMem × Nat :=
  match Map.find g m.cache with
  | some c =>
    if c.key == key then (m, c.data)
    else let m := cacheEvict m g; (m, dramLine m key g)
  | none => (m, dramLine m key g)

/-- The bursts of a granule that a list names, one bit per burst. -/
def burstsOf (l : List Nat) (g : Nat) : Nat := (upTo 8).foldl (fun b i => if l.contains (8 * g + i) then b + 2 ^ i else b) 0

/-- The unreadable bursts of a granule as its memory-side cache serves it (R48), one bit per burst. -/
def badOf (m : MainMem) (g : Nat) : Nat :=
  match Map.find g m.cache with
  | some c => c.bad
  | none => burstsOf m.badBursts g

/-- The bursts of a granule whose reading needs a correction (R48). -/
def weakOf (m : MainMem) (g : Nat) : Nat :=
  match Map.find g m.cache with
  | some _ => 0
  | none => burstsOf m.weakBursts g

/-- Bytes of a granule written under a key id; a burst covered whole becomes readable again (R48). -/
def granuleWrite (m : MainMem) (key g data mask : Nat) : MainMem :=
  let r := granuleRead m key g
  let m := cacheRoom r.1 g
  { m with
    cache := Map.insert g { key := key, data := blend r.2 data mask, dirty := true, bad := clearSectors (badOf r.1 g) mask } m.cache }

/-- The ring of migration notices is full (R66). -/
def migFull (m : MainMem) : Bool :=
  let prod := (m.migqstat.extractLsb' 24 24).toNat
  let cons := (m.migqstat.extractLsb' 0 24).toNat
  (prod + 2 ^ 24 - cons) % 2 ^ 24 == 2 ^ ((m.migqbase.extractLsb' 0 4).toNat + 8)

/-- A class's number in a notice and its enable bit in MIGCTL.SRC (R66, R67). -/
def srcNumber : SrcClass → Nat
  | .local => 1
  | .host => 2
  | .remote => 3

/-- A migration notice written to its ring, PROD advanced after it (R66). (log 15 DEDUCED) -/
def migNotice (m : MainMem) (src : SrcClass) (key q : Nat) : MainMem :=
  let prod := (m.migqstat.extractLsb' 24 24).toNat
  let size := 2 ^ ((m.migqbase.extractLsb' 0 4).toNat + 8)
  let a := (m.migqbase.extractLsb' 12 40).toNat * 4096 + 16 * (prod % size)
  let record := q + srcNumber src * 2 ^ 24 + (Table.get 0 q m.counts).toNat * 2 ^ 32 + key * 2 ^ 48
  let m := granuleWrite m 0 (a / 256) (record * 256 ^ (a % 256)) (spanMask (a % 256) 16)
  let next := m.migqstat.extractLsb' 24 24 + 1
  { m with migqstat := m.migqstat.extractLsb' 48 16 ++ next ++ m.migqstat.extractLsb' 0 24 }

/-- One counted access to a region (R65). -/
def countAccess (src : SrcClass) (key a : Nat) (m : MainMem) : MainMem :=
  if m.migctl.getLsbD 32 && m.migctl.getLsbD (23 + srcNumber src) && inHbm a then
    let q := a / 65536
    let c := Table.get 0 q m.counts
    let up : BitVec 16 := if c == 0xFFFF then 0xFFFF else c + 1
    let thresh := (m.migctl.extractLsb' 0 16).toNat
    if Table.get false q m.queued || thresh == 0 then { m with counts := Table.put 0 q up m.counts }
    else if thresh ≤ c.toNat + 1 then
      if migFull m then
        { m with counts := Table.put 0 q (BitVec.ofNat 16 thresh) m.counts
                 migqstat := m.migqstat ||| 0x8000000000000000 }
      else
        let m := migNotice m src key q
        { m with queued := Table.put false q true m.queued, counts := Table.put 0 q up m.counts }
    else { m with counts := Table.put 0 q (c + 1) m.counts }
  else m

/-! L2 homes (R107) and the host range behind them (R212, R213, R465). -/

/-- Whether the host link is lost (R465). -/
def hostGone (s : State) : Bool := s.host.hoststat.getLsbD 63

/-- One host-range write dropped and counted (R465). -/
def dropHostWrite (s : State) : State :=
  let n := (s.host.hoststat.extractLsb' 0 32).toNat
  let n := if n == 0xFFFFFFFF then n else n + 1
  { s with host := { s.host with hoststat := s.host.hoststat.extractLsb' 32 32 ++ BitVec.ofNat 32 n } }

/-- A line of host memory, by its physical line number. -/
def hostLine (s : State) (line : Nat) : Nat :=
  ofLeBytes (s.hostMem.readBytes (256 * line - hostBase) 256)

/-- Bytes of a host line written over the link; dropped and counted while the host is gone (R465). -/
def hostWriteLine (s : State) (line data mask : Nat) : State :=
  if hostGone s then dropHostWrite s
  else
    { s with
      hostMem := (upTo 256).foldl
        (fun m i => if bitOf mask i then m.write (256 * line - hostBase + i) (BitVec.ofNat 8 (sliceLine data i 1)) else m)
        s.hostMem }

/-- What an access to a level answers: the whole line, its unreadable sectors, and whether the host was gone. -/
structure LineView where
  data : Nat
  bad : Nat
  gone : Bool
deriving DecidableEq, Repr, Inhabited

/-- A line's L2 copy given up: its dirty bytes go to the memory-side cache under the line's key (R107). (log 23 DEDUCED) -/
def l2Evict (line : Nat) (s : State) : State :=
  match Map.find line s.l2 with
  | some l =>
    let s := { s with l2 := Map.erase line s.l2 }
    if l.dirty == 0 || !inHbm (256 * line) then s
    else { s with mem := granuleWrite s.mem l.key line l.data l.dirty }
  | none => s

/-- The L2 home slice of a physical address, 0 to 255 (R107). -/
def homeSlice (pa : Nat) : Nat :=
  let l := pa / 256
  (l ^^^ (l / 2 ^ 8) ^^^ (l / 2 ^ 16) ^^^ (l / 2 ^ 24) ^^^ (l / 2 ^ 32)) % 256

/-- Two lines of one set of one L2 home slice: 768 sets of 16 ways (R107). -/
def sameL2Set (line k : Nat) : Bool :=
  homeSlice (256 * line) == homeSlice (256 * k) && Config.cacheSet line % 768 == Config.cacheSet k % 768

/-- Room in its set for a line that its home does not hold (R107): a full set gives up one line. (log 23 DESIGN CHOICE) -/
def l2Room (line : Nat) (s : State) : State :=
  if s.l2.length < 16 then s
  else
    let set := s.l2.filter fun x => sameL2Set line x.1
    if set.length < 16 then s
    else
      match set[Config.cacheVictim s.mem.evictions % set.length]? with
      | some x => l2Evict x.1 { s with mem := { s.mem with evictions := s.mem.evictions + 1 } }
      | none => s

/-- A line that its home did not hold allocated there (R107). -/
def l2Fill (line : Nat) (l : L2Line) (s : State) : State :=
  let s := l2Room line s
  { s with l2 := Map.insert line l s.l2 }

/-- The source class and key of an access at a home, whether its page allocates (MT = 0), when the tile last refreshed
at system scope, and whether the access is counted (R65). -/
structure HomeReq where
  key : Nat
  alloc : Bool
  src : SrcClass
  fresh : Nat
  counted : Bool
deriving DecidableEq, Repr, Inhabited

/-- The line as its home serves it (R107, R193): from the home's copy where it holds one that is new enough, else from
the level behind it. -/
def homeRead (r : HomeReq) (line : Nat) (s : State) : State × LineView :=
  let host := inHost (256 * line)
  if host && hostGone s then (s, ⟨256 ^ 256 - 1, 0, true⟩)
  else
    let stale (l : L2Line) : Bool := if host then l.filled < r.fresh else l.key != r.key
    let s := match Map.find line s.l2 with
      | some l => if stale l then l2Evict line s else s
      | none => s
    match Map.find line s.l2 with
    | some l => (s, ⟨poisonSectors l.data l.bad, l.bad, false⟩)
    | none =>
      if host then
        let d := hostLine s line
        (if r.alloc then l2Fill line ⟨0, d, 0, 0, s.tick⟩ s else s, ⟨d, 0, false⟩)
      else
        let m := if r.counted then countAccess r.src r.key (256 * line) s.mem else s.mem
        let g := granuleRead m r.key line
        let bad := badOf g.1 line
        let s := { s with mem := g.1 }
        (if r.alloc then l2Fill line ⟨r.key, g.2, 0, bad, s.tick⟩ s else s,
          ⟨poisonSectors g.2 bad, bad, false⟩)

/-- Bytes merged into a line at its home (R107, R191); host-range lines are written through (R212). -/
def homeWrite (r : HomeReq) (line data mask : Nat) (s : State) : State :=
  if inHost (256 * line) then
    let s := match Map.find line s.l2 with
      | some l => { s with l2 := Map.insert line { l with data := blend l.data data mask } s.l2 }
      | none => s
    hostWriteLine s line data mask
  else
    let s := match Map.find line s.l2 with
      | some l => if l.key != r.key then l2Evict line s else s
      | none => s
    let s := if r.alloc then (homeRead r line s).1 else s
    match Map.find line s.l2 with
    | some l =>
      { s with
        l2 := Map.insert line
          { l with data := blend l.data data mask, dirty := l.dirty ||| mask, bad := clearSectors l.bad mask } s.l2 }
    | none =>
      let m := if r.counted then countAccess r.src r.key (256 * line) s.mem else s.mem
      { s with mem := granuleWrite m r.key line data mask }

/-! The die scratchpad (R105). -/

/-- Bytes of the die scratchpad from a physical address on. -/
def dieRead (s : State) (a n : Nat) : Nat := ofLeBytes (s.dieScr.readBytes (a - hbmEnd) n)

/-- Bytes written to the die scratchpad; an 8 B word written whole becomes readable again (R433). -/
def dieWrite (s : State) (a : Nat) (bytes : List Byte) : State :=
  let o := a - hbmEnd
  { s with
    dieScr := s.dieScr.writeBytes o bytes
    dieScrBad := s.dieScrBad.filter fun w => !(o ≤ 8 * w && 8 * w + 8 ≤ o + bytes.length) }

/-- Whether an access to the die scratchpad meets an unreadable word. -/
def dieBad (s : State) (a n : Nat) : Bool :=
  s.dieScrBad.any fun w => a - hbmEnd < 8 * w + 8 && 8 * w < a - hbmEnd + n

/-! Physical accesses of up to one line, as an MT = 1 access or an engine makes them. -/

/-- The value read at a physical address, the sectors of the line that cannot be read, and whether the host is gone. -/
structure PhysView where
  value : Nat
  bad : Bool
  gone : Bool
deriving DecidableEq, Repr, Inhabited

/-- `n` bytes at a physical address inside one line. -/
def physRead (r : HomeReq) (a n : Nat) (s : State) : State × PhysView :=
  if inDie a then
    let bad := dieBad s a n
    (s, ⟨if bad then poison (8 * n) else dieRead s a n, bad, false⟩)
  else
    let v := homeRead r (a / 256) s
    (v.1, ⟨sliceLine v.2.data (a % 256) n, (sectorsOf (a % 256) n).any fun i => bitOf v.2.bad i, v.2.gone⟩)

/-- `n` bytes written at a physical address inside one line. -/
def physWrite (r : HomeReq) (a n value : Nat) (s : State) : State :=
  if inDie a then dieWrite s a (leBytes n value)
  else homeWrite r (a / 256) (value % 256 ^ n * 256 ^ (a % 256)) (spanMask (a % 256) n) s

end Sys2Proof.Machine
end

