-- ==== Sys2Proof/Machine/Translate.lean ====
section
/-! DEFINITION. Address translation and the tile's L1 (04_translation.md R68 to R86, 05_onchip_levels.md R106,
08_consistency.md R189 to R196, R212). -/

namespace Sys2Proof.Machine

/-- A tile, as it stands. -/
def State.tile (s : State) (t : Nat) : Tile := (Map.find t s.tiles).getD Tile.empty

/-- A tile changed. -/
def State.setTile (t : Nat) (x : Tile) (s : State) : State := { s with tiles := Map.insert t x s.tiles }

/-- The row and column of a tile (R8). -/
def tileRow (t : Nat) : Nat := t / 24
/-- The column of a tile (R8). -/
def tileCol (t : Nat) : Nat := t % 24
/-- The die of a tile (R8). -/
def dieOf (t : Nat) : Nat := tileRow t / 8 * 2 + tileCol t / 12
/-- The cluster of a tile (R8). -/
def clusterOf (t : Nat) : Nat := tileRow t / 2 * 12 + tileCol t / 2
/-- The member index of a tile in its cluster (R8). -/
def memberOf (t : Nat) : Nat := tileRow t % 2 * 2 + tileCol t % 2
/-- The number of a tile within its die (R8). -/
def dieLocalTile (t : Nat) : Nat := tileRow t % 8 * 12 + tileCol t % 12
/-- The number of a tile's cluster within its die (R8). -/
def dieLocalCluster (t : Nat) : Nat := tileRow t % 8 / 2 * 6 + tileCol t % 12 / 2
/-- The tile that is member `m` of a cluster (R8). -/
def tileAt (cluster m : Nat) : Nat := (cluster / 12 * 2 + m / 2) * 24 + (cluster % 12 * 2 + m % 2)

/-! Leaf entries (R72 to R74). -/

/-- V (R72). -/
def leafV (e : Nat) : Bool := bitOf e 0
/-- LEAF (R72). -/
def leafLeaf (e : Nat) : Bool := bitOf e 1
/-- W (R72). -/
def leafW (e : Nat) : Bool := bitOf e 2
/-- X (R72). -/
def leafX (e : Nat) : Bool := bitOf e 3
/-- PRIV (R72). -/
def leafPriv (e : Nat) : Bool := bitOf e 4
/-- A (R72). -/
def leafA (e : Nat) : Bool := bitOf e 5
/-- D (R72). -/
def leafD (e : Nat) : Bool := bitOf e 6
/-- SH (R72). -/
def leafSH (e : Nat) : Bool := bitOf e 7
/-- AP (R72). -/
def leafAP (e : Nat) : Nat := bitsOf e 9 8
/-- MT (R72). -/
def leafMT (e : Nat) : Nat := bitsOf e 11 10
/-- The page's or table's address: PA << 12 (R72, R73). -/
def leafPA (e : Nat) : Nat := bitsOf e 51 12 * 4096
/-- SZ (R72). -/
def leafSZ (e : Nat) : Nat := bitsOf e 54 52
/-- KS (R72). -/
def leafKS (e : Nat) : Bool := bitOf e 55

/-- The base-2 logarithm of a page size (R74). -/
def szLog (sz : Nat) : Nat :=
  match sz with
  | 0 => 12
  | 1 => 14
  | 2 => 16
  | 3 => 21
  | 4 => 25
  | 5 => 30
  | _ => 34

/-- The size codes a level allows (R74). -/
def szAllowed (level sz : Nat) : Bool :=
  match level with
  | 0 => sz ≤ 2
  | 1 => sz == 3 || sz == 4
  | 2 => sz == 5 || sz == 6
  | _ => false

/-- Entries of a size's group (R74). -/
def groupEntries (sz : Nat) : Nat :=
  match sz with
  | 1 => 4
  | 2 | 4 | 6 => 16
  | _ => 1

/-- The kind of an access (R75, R88); an atomic says whether its member and width can travel to the host (R77). -/
inductive AccKind where
  | load | store
  | atomic (host : Bool)
  | fetch
deriving DecidableEq, Repr, Inhabited

/-- The code of a kind (R88). -/
def AccKind.code : AccKind → Nat
  | .load => 0
  | .store => 1
  | .atomic _ => 2
  | .fetch => 3

/-- A store or an atomic. -/
def AccKind.writes : AccKind → Bool
  | .load | .fetch => false
  | .store | .atomic _ => true

/-- A translation cause and the level it arose at (R87, R88). -/
structure PageFault where
  cause : Nat
  level : Nat
deriving DecidableEq, Repr, Inhabited

/-- The checks of R76 and R77 on a translated address, in their order; the cause that fails. -/
def checkAccess (e : Nat) (priv : Bool) (k : AccKind) (sp : Space) (pa : Nat) : Option Nat :=
  if leafPriv e && !priv then some 0x21
  else if k.writes && !leafW e then some 0x21
  else if k == .fetch && !leafX e then some 0x21
  else if (sp == .dieScratch && !inDie pa) || (sp == .global && !inHbm pa) || (sp == .host && !inHost pa) then some 0x25
  else if leafMT e == 2 && !inHost pa then some 0x25
  else
    match k with
    | .atomic host =>
      if sp == .dieScratch then none
      else if leafAP e ≤ 1 then (if inHbm pa then none else some 0x25)
      else if inHost pa && host then none else some 0x25
    | .load | .store | .fetch => none

/-- R68: bits [63:57] of an address all equal bit 56. -/
def canonical (a : Nat) : Bool :=
  let top := bitsOf a 63 56
  top == 0 || top == 0xFF

/-- The 57 significant bits (R68). -/
def va57 (a : Nat) : Nat := a % 2 ^ 57

/-! Table reads at the L2 home (R75). -/

/-- The line that holds a table entry, as its home holds it; none where the read is UNCORR or outside HBM (R95). (log 17 DEDUCED) -/
def tableRead (s : State) (a : Nat) : Option Nat :=
  if !inHbm a then none
  else
    match Map.find (a / 256) s.l2 with
    | some l => if bitOf l.bad (a % 256 / 32) then none else some (sliceLine l.data (a % 256) 8)
    | none =>
      if bitOf (badOf s.mem (a / 256)) (a % 256 / 32) then none
      else some (sliceLine (granuleRead s.mem (granuleKey s.mem (a / 256)) (a / 256)).2 (a % 256) 8)

/-- The atomic OR of A and D into an entry at its home (R75). -/
def tableOr (s : State) (a bits : Nat) : State :=
  match tableRead s a with
  | none => s
  | some e =>
    let data := (e ||| bits) * 256 ^ (a % 256)
    let mask := spanMask (a % 256) 8
    match Map.find (a / 256) s.l2 with
    | some l =>
      { s with
        l2 := Map.insert (a / 256) { l with data := blend l.data data mask, dirty := l.dirty ||| mask } s.l2 }
    | none => { s with mem := granuleWrite s.mem (granuleKey s.mem (a / 256)) (a / 256) data mask }

/-! The cluster TLB and walk cache (R79). -/

/-- A cluster, as it stands. -/
def State.cluster (s : State) (c : Nat) : Cluster := (Map.find c s.clusters).getD ⟨[], []⟩

/-- A cluster changed. -/
def State.setCluster (c : Nat) (x : Cluster) (s : State) : State := { s with clusters := Map.insert c x s.clusters }

/-- The set an entry lives in (R79). -/
def TlbEntry.set (e : TlbEntry) : Nat := (e.vbase / 2 ^ szLog e.sz % 512) ^^^ (e.asid % 512)

/-- Whether an entry translates an address. -/
def TlbEntry.hits (e : TlbEntry) (asid va : Nat) : Bool := e.asid == asid && va / 2 ^ szLog e.sz == e.vbase / 2 ^ szLog e.sz

/-- The entry of the smallest size that hits (R79). -/
def tlbLookup (tlb : List TlbEntry) (asid va : Nat) : Option TlbEntry :=
  (upTo 7).findSome? fun sz => tlb.find? fun e => e.sz == sz && e.hits asid va

/-- A TLB with an entry used or installed: it comes first, and a set keeps its 8 latest used (R79). -/
def tlbTouch (tlb : List TlbEntry) (e : TlbEntry) : List TlbEntry :=
  let rest := tlb.filter fun x => !(x.asid == e.asid && x.sz == e.sz && x.vbase == e.vbase)
  let inSet := rest.filter fun x => x.set == e.set
  match inSet.drop 7 with
  | [] => e :: rest
  | old => e :: rest.filter fun x => !old.contains x

/-- The table that a level's walk starts from, with the level, by the walk cache (R79): the lowest level it knows. -/
def walkStart (w : List WalkEntry) (asid va root : Nat) : Nat × Nat :=
  match [1, 2, 3, 4].findSome? fun l =>
      (w.find? fun e => e.asid == asid && e.level == l && e.prefixVa == va / 2 ^ (12 + 9 * l)).map fun e => (l - 1, e.table)
  with
  | some x => x
  | none => (4, root)

/-- The walk of R75 from a level down: the table entries read, and the leaf with its address and level. -/
def walkFrom (s : State) (va : Nat) : Nat → Nat → List (Nat × Nat) → List (Nat × Nat) × Except PageFault (Nat × Nat × Nat)
  | level, t, seen =>
    let i := va / 2 ^ (12 + 9 * level) % 512
    match tableRead s (t + 8 * i) with
    | none => (seen, .error ⟨0x24, level⟩)
    | some e =>
      if !leafV e then (seen, .error ⟨0x20, level⟩)
      else if !leafLeaf e then
        match level with
        | 0 => (seen, .error ⟨0x23, 0⟩)
        | l + 1 =>
          if e - leafPA e != 1 then (seen, .error ⟨0x23, level⟩)
          else walkFrom s va l (leafPA e) (seen ++ [(level, leafPA e)])
      else if 2 < level || !szAllowed level (leafSZ e) || leafMT e == 3 || leafAP e == 3 then (seen, .error ⟨0x23, level⟩)
      else
        let n := groupEntries (leafSZ e)
        let a := t + 8 * (i - i % n)
        match tableRead s a with
        | none => (seen, .error ⟨0x24, level⟩)
        | some e0 =>
          if !leafV e0 || !leafLeaf e0 || leafSZ e0 != leafSZ e then (seen, .error ⟨0x23, level⟩)
          else if leafPA e0 % 2 ^ szLog (leafSZ e0) != 0 || bitsOf e0 63 56 != 0 then (seen, .error ⟨0x23, level⟩)
          else (seen, .ok (e0, a, level))

/-- A translated address: its physical address, the leaf that rules it, and the key id of its data (R70, R72). -/
structure Xlat where
  pa : Nat
  leaf : Nat
  key : Nat
deriving DecidableEq, Repr, Inhabited

/-- The answer of an entry for an address. -/
def xlatOf (asid va leaf : Nat) : Xlat :=
  ⟨leafPA leaf + va % 2 ^ szLog (leafSZ leaf), leaf, if leafKS leaf then 0 else asid⟩

/-- The walk of R75 with its effects: the walk cache, A and D, and the TLB entry; a walk that faults installs nothing
(R79). (log 18 DEDUCED) -/
def walk (cl asid : Nat) (priv : Bool) (k : AccKind) (sp : Space) (va : Nat) (s : State) : State × Except PageFault Xlat :=
  let ctx := (Table.get 0 asid s.asidctx).toNat
  if !bitOf ctx 0 then (s, .error ⟨0x20, 4⟩)
  else
    let c := s.cluster cl
    let start := walkStart c.walk asid va (bitsOf ctx 51 12 * 4096)
    let r := walkFrom s va start.1 start.2 []
    let fresh : List WalkEntry := r.1.map fun x => ⟨asid, x.1, va / 2 ^ (12 + 9 * x.1), x.2⟩
    let keep := c.walk.filter fun e => !fresh.contains e
    let c := { c with walk := (fresh.reverse ++ keep).take 64 }
    match r.2 with
    | .error f => (s, .error f)
    | .ok (leaf, a, level) =>
      let x := xlatOf asid va leaf
      match checkAccess leaf priv k sp x.pa with
      | some cause => (s, .error ⟨cause, level⟩)
      | none =>
        let bits := 0x20 + (if k.writes then 0x40 else 0)
        let s := if leaf &&& bits == bits then s else tableOr s a bits
        let leaf := leaf ||| bits
        let e : TlbEntry := ⟨asid, va / 2 ^ szLog (leafSZ leaf) * 2 ^ szLog (leafSZ leaf), leafSZ leaf, leaf⟩
        (s.setCluster cl { c with tlb := tlbTouch c.tlb e }, .ok (xlatOf asid va leaf))

/-- Translation at the cluster TLB that serves a tile (R79); a store or atomic whose entry's D is 0 walks again. -/
def translate (tile asid : Nat) (priv : Bool) (k : AccKind) (sp : Space) (addr : Nat) (s : State) :
    State × Except PageFault Xlat :=
  if !canonical addr then (s, .error ⟨0x22, 0⟩)
  else
    let va := va57 addr
    let cl := clusterOf tile
    let c := s.cluster cl
    match tlbLookup c.tlb asid va with
    | some e =>
      if k.writes && leafW e.leaf && !leafD e.leaf then walk cl asid priv k sp va s
      else
        let x := xlatOf asid va e.leaf
        match checkAccess e.leaf priv k sp x.pa with
        | some cause => (s, .error ⟨cause, if e.sz ≤ 2 then 0 else if e.sz ≤ 4 then 1 else 2⟩)
        | none => (s.setCluster cl { c with tlb := tlbTouch c.tlb e }, .ok x)
    | none => walk cl asid priv k sp va s

/-! The L1 (R80, R81, R106, R189 to R191). -/

/-- A request of a tile at a home. -/
def State.tileReq (s : State) (tile key : Nat) (alloc : Bool) : HomeReq :=
  ⟨key, alloc, .local, (s.tile tile).refreshed, true⟩

/-- A line's dirty bytes merged at its home (R191). -/
def writeBack (tile : Nat) (l : L1Line) (s : State) : State :=
  if l.dirty == 0 then s else homeWrite (s.tileReq tile l.key true) l.pline l.data l.dirty s

/-- The tile's L1 replaced. -/
def State.setL1 (tile : Nat) (l1 : List L1Line) (s : State) : State := s.setTile tile { s.tile tile with l1 := l1 }

/-- A line that is in the L1 put first, as the latest used. -/
def l1Touch (tile : Nat) (l : L1Line) (s : State) : State :=
  s.setL1 tile (l :: (s.tile tile).l1.filter fun x => x.pline != l.pline)

/-- The line an address hits (R80). -/
def l1Find (s : State) (tile asid va : Nat) : Option L1Line :=
  (s.tile tile).l1.find? fun l => l.asid == asid && l.vline == va / 256

/-- The line that an access in space 4 or 5 hits without a translation (R69, R80). -/
def l1Hit (s : State) (tile asid : Nat) (sp : Space) (addr : Nat) : Option L1Line :=
  if sp == .dieScratch || !canonical addr then none else l1Find s tile asid (va57 addr)

/-- The line that a store or an atomic hits: its copies of W and D are 1 (R80). -/
def l1WriteHit (s : State) (tile asid : Nat) (sp : Space) (addr : Nat) : Option L1Line :=
  (l1Hit s tile asid sp addr).filter fun l => l.w && l.d

/-- The physical address that an address means in the line it hits (R80). -/
def L1Line.place (l : L1Line) (addr : Nat) : Nat := 256 * l.pline + addr % 256

/-- A line removed from a tile's L1, its dirty bytes merged at the home first. -/
def l1Drop (tile pline : Nat) (s : State) : State :=
  match (s.tile tile).l1.find? fun l => l.pline == pline with
  | some l => (writeBack tile l s).setL1 tile ((s.tile tile).l1.filter fun x => x.pline != pline)
  | none => s

/-- A line put into a tile's L1; the least recently used of a set of more than 8 leaves (R106). -/
def l1Install (tile : Nat) (l : L1Line) (s : State) : State :=
  let s := l1Touch tile l s
  match ((s.tile tile).l1.filter fun x => x.vline % 64 == l.vline % 64).drop 8 with
  | old :: _ => l1Drop tile old.pline s
  | [] => s

/-- Whether a tile's L1 holds the physical line of an address under its key id, whatever the line's virtual address (R81). -/
def l1Holds (s : State) (tile : Nat) (x : Xlat) : Bool :=
  (s.tile tile).l1.any fun l => l.pline == x.pa / 256 && l.key == x.key

/-- A fill of an MT = 0 line after its translation, with R81's reverse map; a write also copies W = 1 and D = 1. -/
def l1Fill (tile asid va : Nat) (x : Xlat) (s : State) : State × L1Line :=
  let pline := x.pa / 256
  let w := leafW x.leaf
  let d := leafD x.leaf
  match (s.tile tile).l1.find? fun l => l.pline == pline && l.key == x.key with
  | some l =>
    let l := { l with asid := asid, vline := va / 256, w := w, d := d, sh := leafSH x.leaf, ap := leafAP x.leaf }
    (l1Install tile l s, l)
  | none =>
    let s := l1Drop tile pline s
    let r := homeRead (s.tileReq tile x.key true) pline s
    let l : L1Line := ⟨asid, va / 256, pline, x.key, w, d, leafSH x.leaf, leafAP x.leaf, r.2.data, 0, r.2.bad⟩
    if r.2.gone then (r.1, l) else (l1Install tile l r.1, l)

/-- Who reads or writes: the tile, its launch's ASID, privilege, and the strand for the write-combining buffer. -/
structure Viewer where
  tile : Nat
  asid : Nat
  priv : Bool
  strand : Nat
  counted : Bool := true
deriving DecidableEq, Repr, Inhabited

/-- A request of a viewer at a home. -/
def Viewer.req (c : Viewer) (s : State) (key : Nat) (alloc : Bool) : HomeReq :=
  { s.tileReq c.tile key alloc with counted := c.counted }

/-- What a virtual access answers: its value, whether it met an unreadable unit, whether the host was gone, its
physical address, whether its page is shared, and the key id of its data. -/
structure Seen where
  value : Nat
  bad : Bool
  gone : Bool
  pa : Nat
  sh : Bool
  key : Nat
deriving DecidableEq, Repr, Inhabited

/-- The value an L1 line gives. -/
def L1Line.seen (l : L1Line) (va n : Nat) : Seen :=
  ⟨sliceLine (poisonSectors l.data l.bad) (va % 256) n, (sectorsOf (va % 256) n).any fun i => bitOf l.bad i, false,
    l.place va, l.sh, l.key⟩

/-- An entry of the write-combining buffer written out (R212). -/
def wcWrite (e : WcEntry) (s : State) : State := homeWrite ⟨e.key, false, .local, 0, true⟩ e.pline e.data e.mask s

/-- The oldest entry of a tile's write-combining buffer drained. -/
def wcDrainOldest (tile : Nat) (s : State) : State :=
  let t := s.tile tile
  match t.wc with
  | e :: rest => wcWrite e (s.setTile tile { t with wc := rest })
  | [] => s

/-- Every entry of a strand drained, oldest first (R192, R196). -/
def wcDrainStrand (tile strand : Nat) (s : State) : State :=
  let t := s.tile tile
  let s := s.setTile tile { t with wc := t.wc.filter fun e => e.strand != strand }
  (t.wc.filter fun e => e.strand == strand).foldl (fun s e => wcWrite e s) s

/-- A strand's own entry of a line drained, so that an access of the strand at the line's home comes after its earlier
stores (R187). (log 137 DESIGN CHOICE) -/
def wcDrainLine (c : Viewer) (line : Nat) (s : State) : State :=
  let t := s.tile c.tile
  let mine (e : WcEntry) : Bool := e.strand == c.strand && e.pline == line
  (t.wc.filter mine).foldl (fun s e => wcWrite e s) (s.setTile c.tile { t with wc := t.wc.filter fun e => !mine e })

/-- A write-combining store (R212): merged into the strand's entry of the line, or a new entry; the buffer holds 16. -/
def wcStore (c : Viewer) (x : Xlat) (va n value : Nat) (s : State) : State :=
  let line := x.pa / 256
  let data := value % 256 ^ n * 256 ^ (x.pa % 256)
  let mask := spanMask (x.pa % 256) n
  let mine (e : WcEntry) : Bool := e.strand == c.strand && e.pline == line && e.asid == c.asid && e.vline == va / 256
  let t := s.tile c.tile
  if t.wc.any mine then
    s.setTile c.tile { t with
      wc := t.wc.map fun e => if mine e then { e with data := blend e.data data mask, mask := e.mask ||| mask } else e }
  else
    let s := wcDrainLine c line s
    let s := if 16 ≤ (s.tile c.tile).wc.length then wcDrainOldest c.tile s else s
    let t := s.tile c.tile
    s.setTile c.tile { t with wc := t.wc ++ [⟨c.strand, c.asid, va / 256, line, x.key, data, mask⟩] }

/-- The bytes of a strand's own write-combining entry over what a load of its line has read: a load returns its thread's
own latest write (R187). (log 137 DESIGN CHOICE) -/
def wcForward (c : Viewer) (pa n value : Nat) (s : State) : Nat :=
  match (s.tile c.tile).wc.find? fun e => e.strand == c.strand && e.pline == pa / 256 with
  | some e => sliceLine (blend (value * 256 ^ (pa % 256)) e.data (e.mask &&& spanMask (pa % 256) n)) (pa % 256) n
  | none => value

/-- An older clean copy of a line given up once its tile has seen the home's newer value (R189, R190): the line leaves the
L1, or keeps its dirty bytes with the clean ones as the home holds them. (log 138 DEDUCED) -/
def l1Forward (tile pline : Nat) (v : LineView) (s : State) : State :=
  s.setL1 tile (((s.tile tile).l1.filter fun l => l.pline != pline || l.dirty != 0).map fun l =>
    if l.pline == pline then { l with data := blend v.data l.data l.dirty, bad := clearSectors v.bad l.dirty } else l)

/-- A load of a phased line at its home (R194, R226): bytes that the tile holds dirty come from its L1. -/
def homeLoad (c : Viewer) (pa key n : Nat) (sh : Bool) (s : State) : State × Seen :=
  let r := homeRead (c.req s key true) (pa / 256) s
  let own := (s.tile c.tile).l1.find? fun l => l.pline == pa / 256
  let line := match own with
    | some l => blend r.2.data l.data l.dirty
    | none => r.2.data
  let bad := match own with
    | some l => clearSectors r.2.bad l.dirty
    | none => r.2.bad
  (if r.2.gone then r.1 else l1Forward c.tile (pa / 256) r.2 r.1,
    ⟨sliceLine line (pa % 256) n, (sectorsOf (pa % 256) n).any fun i => bitOf bad i, r.2.gone, pa, sh, key⟩)

/-- A load of `n` bytes in space 3, 4 or 5 (R69, R80, R194): through the tile's view, or at the home when `home`. -/
def virtLoad (c : Viewer) (sp : Space) (home : Bool) (addr n : Nat) (s : State) : State × Except PageFault Seen :=
  match l1Hit s c.tile c.asid sp addr with
  | some l =>
    if home then let r := homeLoad c (l.place addr) l.key n l.sh s; (r.1, .ok r.2)
    else (l1Touch c.tile l s, .ok (l.seen (va57 addr) n))
  | none =>
    let t := translate c.tile c.asid c.priv .load sp addr s
    match t.2 with
    | .error f => (t.1, .error f)
    | .ok x =>
      let s := t.1
      if sp == .dieScratch || leafMT x.leaf != 0 then
        let r := physRead (c.req s x.key false) x.pa n s
        let value := if leafMT x.leaf == 2 then wcForward c x.pa n r.2.value s else r.2.value
        (r.1, .ok ⟨value, r.2.bad, r.2.gone, x.pa, leafSH x.leaf, x.key⟩)
      else if home then let r := homeLoad c x.pa x.key n (leafSH x.leaf) s; (r.1, .ok r.2)
      else
        let r := l1Fill c.tile c.asid (va57 addr) x s
        let gone := inHost x.pa && hostGone s && !l1Holds s c.tile x
        (r.1, .ok { r.2.seen (va57 addr) n with gone := gone, pa := x.pa, sh := leafSH x.leaf })

/-- Bytes of a line that the issuing tile holds replaced after a write at the home (R194, R229); they are clean. -/
def l1Update (tile pline data mask : Nat) (s : State) : State :=
  match (s.tile tile).l1.find? fun l => l.pline == pline with
  | some l =>
    s.setL1 tile ((s.tile tile).l1.map fun x =>
      if x.pline == pline then
        { l with data := blend l.data data mask, dirty := l.dirty - (l.dirty &&& mask), bad := clearSectors l.bad mask }
      else x)
  | none => s

/-- What a virtual store answers: its physical address, whether its page is shared, whether the host was gone, and the key
id of its data. -/
structure Stored where
  pa : Nat
  sh : Bool
  gone : Bool
  key : Nat
deriving DecidableEq, Repr, Inhabited

/-- A store to a phased line at its home (R194, R226): any copy in the issuing L1 is updated as well. -/
def homeStore (c : Viewer) (pa key n value : Nat) (s : State) : State :=
  let mask := spanMask (pa % 256) n
  let data := value % 256 ^ n * 256 ^ (pa % 256)
  l1Update c.tile (pa / 256) data mask (homeWrite (c.req s key true) (pa / 256) data mask s)

/-- A store into a line that the tile's L1 holds (R106, R191). -/
def l1Put (tile va n value : Nat) (l : L1Line) (s : State) : State :=
  let mask := spanMask (va % 256) n
  l1Touch tile { l with
    data := blend l.data (value % 256 ^ n * 256 ^ (va % 256)) mask
    dirty := l.dirty ||| mask
    bad := clearSectors l.bad mask } s

/-- A store of `n` bytes in space 3, 4 or 5 (R80, R106, R194): into the tile's L1, or at the home when `home`. -/
def virtStore (c : Viewer) (sp : Space) (home : Bool) (addr n value : Nat) (s : State) : State × Except PageFault Stored :=
  match l1WriteHit s c.tile c.asid sp addr with
  | some l =>
    (if home then homeStore c (l.place addr) l.key n value s else l1Put c.tile (va57 addr) n value l s,
      .ok ⟨l.place addr, l.sh, inHost (l.place addr) && hostGone s && home, l.key⟩)
  | none =>
    let t := translate c.tile c.asid c.priv .store sp addr s
    match t.2 with
    | .error f => (t.1, .error f)
    | .ok x =>
      let s := t.1
      let gone := inHost x.pa && hostGone s
      let done : Stored := ⟨x.pa, leafSH x.leaf, gone, x.key⟩
      if sp == .dieScratch then (dieWrite s x.pa (leBytes n value), .ok done)
      else if leafMT x.leaf == 2 then
        if home then
          let s := wcDrainLine c (x.pa / 256) s
          (physWrite (c.req s x.key false) x.pa n value s, .ok done)
        else (wcStore c x (va57 addr) n value s, .ok done)
      else if leafMT x.leaf == 1 then (physWrite (c.req s x.key false) x.pa n value s, .ok done)
      else if home then (homeStore c x.pa x.key n value s, .ok done)
      else if gone && !l1Holds s c.tile x then (dropHostWrite s, .ok done)
      else
        let r := l1Fill c.tile c.asid (va57 addr) x s
        (l1Put c.tile (va57 addr) n value r.2 r.1, .ok done)

/-- Every dirty phased line of a tile's L1 written to its home; the lines stay, clean (R192). -/
def l1Publish (tile : Nat) (s : State) : State :=
  let lines := (s.tile tile).l1
  let s := lines.foldl (fun s l => writeBack tile l s) s
  s.setL1 tile (lines.map fun l => { l with dirty := 0 })

/-- Every clean line of a tile's L1 removed, and the clean bytes of the others fetched again (R193). -/
def l1Refresh (tile : Nat) (s : State) : State :=
  let kept := (s.tile tile).l1.filter fun l => l.dirty != 0
  kept.foldl (fun s l =>
    let r := homeRead (s.tileReq tile l.key true) l.pline s
    r.1.setL1 tile ((r.1.tile tile).l1.map fun x =>
      if x.pline == l.pline then { x with data := blend r.2.data l.data l.dirty, bad := clearSectors r.2.bad l.dirty } else x))
    (s.setL1 tile kept)

/-- A scope's code (R126). -/
def scopeNum : Scope → Nat
  | .strand => 0
  | .item => 1
  | .tile => 2
  | .cluster => 3
  | .die => 4
  | .package => 5
  | .pod => 6
  | .system => 7

/-- A publish of a strand at a scope (R192), when nothing it waits for is outstanding. -/
def publish (tile strand : Nat) (sc : Scope) (s : State) : State :=
  if scopeNum sc < 3 then s
  else
    let s := l1Publish tile s
    if sc == .system then wcDrainStrand tile strand s else s

/-- A refresh of a strand at a scope (R193). -/
def refresh (tile : Nat) (sc : Scope) (s : State) : State :=
  if scopeNum sc < 3 then s
  else
    let s := if sc == .system then s.setTile tile { s.tile tile with refreshed := s.tick + 1 } else s
    l1Refresh tile s

/-- What an order does before its access (R194). -/
def orderBefore (tile strand : Nat) (o : Order) (sc : Scope) (s : State) : State :=
  if o == .rel || o == .sc then publish tile strand sc s else s

/-- What an order does after its access (R194). -/
def orderAfter (tile : Nat) (o : Order) (sc : Scope) (s : State) : State :=
  if o == .acq || o == .sc then refresh tile sc s else s

end Sys2Proof.Machine
end

