-- ==== Sys2Proof/Machine/Ops.lean ====
section
/-! DEFINITION. The named operations over the machine: access to strands, items and launches, lane sets
(10_isa_compute.md R284), notices and reports (15_traps.md R423, 17_host_boot_debug.md R463, R464), taking a trap
(R419 to R431), leaving one (R428), dead lanes (R433), barriers (R245), and how an instruction retires. -/

namespace Sys2Proof.Machine

/-! Access to the parts of the state. -/

/-- A strand, if it is resident. -/
def State.strand (s : State) (k : Nat) : Option Strand := Map.find k s.strands

/-- A strand replaced. -/
def State.setStrand (k : Nat) (x : Strand) (s : State) : State := { s with strands := Map.insert k x s.strands }

/-- A resident strand changed. -/
def State.adjStrand (k : Nat) (f : Strand → Strand) (s : State) : State := { s with strands := Map.adjust k f s.strands }

/-- A resident item changed. -/
def State.adjItem (k : Nat) (f : Item → Item) (s : State) : State := { s with items := Map.adjust k f s.items }

/-- A launch changed. -/
def State.adjLaunch (k : Nat) (f : Launch → Launch) (s : State) : State := { s with launches := Map.adjust k f s.launches }

/-- The key of what a launch holds on a tile. -/
def heldKey (tile launch : Nat) : Nat := tile * 65536 + launch

/-- What a launch that was never admitted to a tile holds there. -/
def TileLaunch.empty : TileLaunch :=
  { region := 0, scr := [], bad := [], code := [], badCode := [], segs := [], counters := [], guards := [], resolvers := [], watches := [],
    lastAdmit := 0 }

/-- What a launch holds on a tile. -/
def State.heldAt (s : State) (tile launch : Nat) : TileLaunch :=
  (Map.find (heldKey tile launch) s.held).getD TileLaunch.empty

/-- What a launch holds on a tile, changed. -/
def State.adjHeld (tile launch : Nat) (f : TileLaunch → TileLaunch) (s : State) : State :=
  { s with held := Map.adjust (heldKey tile launch) f s.held }

/-- A die, as it stands. -/
def State.die (s : State) (d : Nat) : Die := (Map.find d s.dies).getD Die.empty

/-- A die changed. -/
def State.setDie (d : Nat) (x : Die) (s : State) : State := { s with dies := Map.insert d x s.dies }

/-- An event put behind the turns already planned. -/
def State.later (i : Instr) (s : State) : State := { s with plan := s.plan ++ [.event i] }

/-- An event put before the turns already planned. -/
def State.soon (i : Instr) (s : State) : State := { s with plan := .event i :: s.plan }

/-- A value the specification leaves open, and the state that will draw another. (log 6 DESIGN CHOICE) -/
def State.free (s : State) : BitVec 64 × State := (Config.freeValue s.fresh, { s with fresh := s.fresh + 1 })

/-- This package's number (R332). -/
def State.self (s : State) : Nat := bitsOf s.fabric.fabcfg.toNat 22 16

/-- The stage of an item. -/
def stageOf (la : Launch) (it : Item) : Stage := la.stages.getD it.stage default

/-- ITEMID × W + strand-in-item, modulo 2^20 (R373). -/
def logicalId (la : Launch) (it : Item) (inItem : Nat) : Nat := (it.num * (stageOf la it).width + inItem) % 2 ^ 20

/-- THREADID (R373). -/
def threadId (it : Item) (inItem lane : Nat) : Nat := it.stage * 2 ^ 29 + (it.num * 64 + (inItem * 4 + lane)) % 2 ^ 29

/-- The state of a tile (R450). -/
def tileState (s : State) (tile : Nat) : Nat := bitsOf (Table.get 0 tile s.health.tilehealth).toNat 2 0

/-- A tile that is fenced, or has been and does not run items again (R443, R450). -/
def tileDown (s : State) (tile : Nat) : Bool := tileState s tile != 0 && tileState s tile != 4

/-! Lane masks and lane sets (R284). -/

/-- The mask of the lanes that satisfy a test. -/
def maskOf (f : Nat → Bool) : BitVec 4 :=
  BitVec.ofBool (f 3) ++ BitVec.ofBool (f 2) ++ BitVec.ofBool (f 1) ++ BitVec.ofBool (f 0)

/-- The lanes of a mask, in ascending order. -/
def lanesIn (m : BitVec 4) : List Nat := (upTo 4).filter fun i => m.getLsbD i

/-- The lowest lane of a mask. -/
def lowest (m : BitVec 4) : Option Nat := (lanesIn m).head?

/-- A lane that is neither dead nor exited (R377). -/
def Lane.live (l : Lane) : Bool := !l.exited && !l.dead

/-- The live lanes of a strand. -/
def Strand.live (st : Strand) : BitVec 4 := maskOf fun i => (st.lanes.get i).live

/-- A strand whose lanes have all exited or died has exited (R293). -/
def Strand.over (st : Strand) : Bool := st.live == 0

/-- The lanes that may issue: in handler mode the handler lanes alone (R425, R426). -/
def Strand.pool (st : Strand) : BitVec 4 :=
  match st.handler with
  | some h => st.live &&& h.hmask
  | none => st.live

/-- The current set's live lanes. -/
def Strand.set (st : Strand) : BitVec 4 := st.cur &&& st.pool

/-- The call depth of a lane. -/
def Flow.depth (f : Flow) : Nat := f.stack.length

/-- Whether one flow goes before another (R284): a lower program counter, ties to the greater depth. -/
def Flow.before (a b : Flow) : Bool := a.pc < b.pc || (a.pc == b.pc && b.depth < a.depth)

/-- Whether two flows stand at one place (R284). -/
def Flow.same (a b : Flow) : Bool := a.pc == b.pc && a.depth == b.depth

/-- A lane's flow. -/
def Strand.flow (st : Strand) (i : Nat) : Flow := (st.lanes.get i).flow

/-- Of some lanes, those that stand where the first by `Flow.before` stands. -/
def Strand.front (st : Strand) (among : BitVec 4) : BitVec 4 :=
  match lanesIn among with
  | [] => 0
  | l :: ls =>
    let best := ls.foldl (fun b i => if (st.flow i).before b then st.flow i else b) (st.flow l)
    maskOf fun i => among.getLsbD i && (st.flow i).same best

/-- The lanes that may issue and do not wait at a lane operation (R277). -/
def Strand.free (st : Strand) : BitVec 4 := st.pool &&& maskOf fun i => (st.lanes.get i).atOp.isNone

/-- The current set after a transfer, an end of lanes, or a wait at a lane operation (R284, first and third rows). (log 47 DEDUCED) -/
def Strand.resettle (st : Strand) : Strand :=
  if st.cur &&& st.free != 0 then { st with cur := st.front (st.cur &&& st.free) }
  else if st.free != 0 then { st with cur := st.front st.free }
  else { st with cur := st.front st.pool }

/-- The current set where sets meet (R284, second row): parked sets at the same place merge, then a parked set that
goes before the current one becomes current. -/
def Strand.rejoin (st : Strand) : Strand :=
  match lowest st.set with
  | none => st
  | some l =>
    let here := st.flow l
    let merged := maskOf fun i => st.pool.getLsbD i && (st.flow i).same here
    let first := st.front (st.free ||| st.set)
    match lowest first with
    | some f => if (st.flow f).before here then { st with cur := first } else { st with cur := merged }
    | none => st

/-- One lane changed. -/
def Strand.adjLane (i : Nat) (f : Lane → Lane) (st : Strand) : Strand := { st with lanes := st.lanes.set i (f (st.lanes.get i)) }

/-- A v register of a lane written; it can be read again (R433). -/
def Lane.setV (l : Lane) (n : Nat) (x : Word) : Lane := 
  { l with v := Table.put 0 n x l.v, badV := l.badV.filter (· != n) }

/-- A predicate of a lane; p7 reads 1 (R131). -/
def Lane.pred (l : Lane) (n : BitVec 3) : Bool := n == 7 || l.p.getLsbD n.toNat

/-- A lane's predicate written; writes to p7 are discarded (R131). -/
def Lane.setPred (l : Lane) (n : BitVec 3) (b : Bool) : Lane :=
  if n == 7 then l
  else
    { l with
      p := if b then l.p ||| (1#8 <<< n.toNat) else l.p &&& ~~~(1#8 <<< n.toNat)
      badV := l.badV.filter (· != 256 + n.toNat) }

/-- Lanes of a mask changed. -/
def Strand.mapLanes (m : BitVec 4) (f : Lane → Lane) (st : Strand) : Strand :=
  { st with lanes := (lanesIn m).foldl (fun q i => q.set i (f (q.get i))) st.lanes }

/-- Flows of the lanes of a mask changed. -/
def Strand.mapFlows (m : BitVec 4) (f : Flow → Flow) (st : Strand) : Strand :=
  st.mapLanes m fun l => { l with flow := f l.flow }

/-- The elected lane of an item and its strand (R377). -/
def elected (s : State) (it : Item) : Option (Nat × Nat) :=
  it.strands.findSome? fun k =>
    match s.strand k with
    | some st => (lowest st.live).map fun l => (k, l)
    | none => none

/-- The strand that a charge to the elected strand goes to (R421). -/
def electedKey (s : State) (it : Item) : Option Nat := (elected s it).map (·.1)

/-- Whether every strand of an item has exited. -/
def itemOver (s : State) (it : Item) : Bool :=
  it.strands.all fun k =>
    match s.strand k with
    | some st => st.over
    | none => true

/-! Notices (R463, R464) and reports (R423). -/

/-- The notification ring is full (R464). -/
def ringFull (s : State) : Bool :=
  let prod := bitsOf s.host.nqstat.toNat 55 32
  let cons := bitsOf s.host.nqstat.toNat 23 0
  2 ^ (bitsOf s.host.nqbase.toNat 3 0 + 6) ≤ (prod + 2 ^ 24 - cons) % 2 ^ 24

/-- A notice that the ring or the host die could not hold: OVF is set (R463, R464). -/
def dropNotice (s : State) : State := { s with host := { s.host with nqstat := s.host.nqstat ||| 0x8000000000000000 } }

/-- A notice written to the ring in host memory, PROD advanced, vector 0 signalled (R464). -/
def writeNotice (words : List (BitVec 64)) (s : State) : State :=
  if ringFull s then dropNotice s
  else
    let prod := bitsOf s.host.nqstat.toNat 55 32
    let base := bitsOf s.host.nqbase.toNat 63 12 * 4096
    let a := base + 64 * (prod % 2 ^ (bitsOf s.host.nqbase.toNat 3 0 + 6))
    let bytes := words.flatMap fun w => leBytes 8 w.toNat
    { s with
      hostMem := s.hostMem.writeBytes a bytes
      host := { s.host with
        nqstat := BitVec.ofNat 64 (putBits s.host.nqstat.toNat 55 32 (prod + 1))
        msix := s.host.msix + 1 } }

/-- A notice posted; while the host is gone up to 256 are held (R464). -/
def postNotice (words : List (BitVec 64)) (s : State) : State :=
  if hostGone s then
    if s.host.held.length < 256 then { s with host := { s.host with held := s.host.held ++ [words] } } else dropNotice s
  else writeNotice words s

/-- Word 0 of a notice (R463). -/
def noticeWord (type cause launch tile count : Nat) : BitVec 64 :=
  BitVec.ofNat 64 (type + cause * 2 ^ 8 + launch % 2 ^ 16 * 2 ^ 16 + tile * 2 ^ 32 + count % 2 ^ 16 * 2 ^ 48)

/-- The eight words of a notice. -/
def noticeOf (type cause launch tile count strand : Nat) (r : FaultRec) : List (BitVec 64) :=
  [noticeWord type cause launch tile count, BitVec.ofNat 64 strand, r.rec0, r.rec1, r.rec2, r.rec3, 0, 0]

/-- The fault record of a raise (R430). (log 111 DEDUCED) -/
def Raise.record (r : Raise) (resume : Nat) (ovf : Bool) : FaultRec :=
  { rec0 := BitVec.ofNat 64 (2 ^ 63 + (if ovf then 2 ^ 62 else 0) + r.origin % 8 * 2 ^ 59 + resume % 2 ^ 18 * 2 ^ 40 +
      r.pc % 2 ^ 18 * 2 ^ 22 + r.gen % 2 ^ 14 * 2 ^ 8 + (if r.precise then 2 ^ 7 else 0) + r.code % 2 ^ 7)
    rec1 := BitVec.ofNat 64 (r.info0 % 2 ^ 32 * 2 ^ 32 + r.hmask.toNat * 2 ^ 8 + r.mask.toNat * 2 ^ 4 + r.active.toNat)
    rec2 := BitVec.ofNat 64 r.info1
    rec3 := BitVec.ofNat 64 r.retcnt }

/-- A report (R423): merged into the open window of its cause, tile and launch, or the first of a new one. (log 112 DEDUCED) -/
def report (tile launch strand cause : Nat) (r : FaultRec) (s : State) : State :=
  let mine (m : Merge) : Bool := m.tile == tile && m.launch == launch && m.cause == cause
  if s.merges.any mine then
    { s with merges := s.merges.map fun m => if mine m then { m with count := m.count + 1 } else m }
  else
    ({ s with merges := s.merges ++ [(⟨tile, launch, cause, strand, r, 1⟩ : Merge)] }).later (.reportMergeExpiry tile launch cause)

/-- A report charged to a strand. -/
def reportStrand (k cause : Nat) (r : Raise) (s : State) : State :=
  match s.strand k with
  | none => s
  | some st =>
    match Map.find st.item s.items with
    | none => s
    | some it =>
      match Map.find it.launch s.launches with
      | none => s
      | some la => report it.tile it.launch (logicalId la it st.inItem) cause (r.record r.pc false) s

/-! Barriers (R245). -/

/-- The strands of an item that count as a barrier's party: those not exited. -/
def liveStrands (s : State) (it : Item) : List Nat :=
  it.strands.filter fun k =>
    match s.strand k with
    | some st => !st.over
    | none => false

/-- A barrier after a strand arrived or exited: its phase advances when the whole party has arrived. -/
def Barrier.settle (party : List Nat) (b : Barrier) : Barrier :=
  if b.arrived != [] && party.all b.arrived.contains then ⟨b.phase + 1, []⟩ else b

/-- The items of a convoy that hold a group's barrier: the group's listed items (R376). -/
def groupParty (s : State) (la : Launch) (cv : Convoy) (bar : Nat) : List Nat :=
  let items := (la.groups.filter fun g => g.gbar == bar).flatMap fun g =>
    cv.items.filter fun k =>
      match Map.find k s.items with
      | some it => it.stage == g.stage && g.list.contains it.num
      | none => false
  items.flatMap fun k =>
    match Map.find k s.items with
    | some it => liveStrands s it
    | none => []

/-- Every barrier of an item and of its convoy settled after an exit (R245). -/
def settleBarriers (item : Nat) (s : State) : State :=
  match Map.find item s.items with
  | none => s
  | some it =>
    let own := it.bars.map fun x => (x.1, x.2.settle (liveStrands s it))
    let s := s.adjItem item fun it => { it with bars := own }
    match Map.find it.convoy s.convoys, Map.find it.launch s.launches with
    | some cv, some la =>
      let bars := cv.bars.map fun x => (x.1, x.2.settle (groupParty s la cv x.1))
      { s with convoys := Map.insert it.convoy { cv with bars := bars } s.convoys }
    | _, _ => s

/-! Stage queues (R242, R378, R400). -/

/-- The tiles of a launch's clusters (R366). -/
def launchTiles (la : Launch) : List Nat :=
  (upTo 768).filter fun t => la.clbase ≤ clusterOf t && clusterOf t < la.clbase + la.clcount

/-- A tile looks for an item to admit (R399), unless it is about to. -/
def wakeTile (tile : Nat) (s : State) : State :=
  if s.plan.contains (.event (.itemAdmission tile)) then s else s.later (.itemAdmission tile)

/-- Every tile of a launch looks for an item to admit. -/
def wakeLaunch (launch : Nat) (s : State) : State :=
  match Map.find launch s.launches with
  | some la => (launchTiles la).foldl (fun s t => wakeTile t s) s
  | none => s

/-- The stages that are parked (R400): one of their output queues is full, or one that was parked has an output queue that
holds more than three quarters of its depth. -/
def parkedStages (la : Launch) : List Nat :=
  (upTo la.stages.length).filter fun n =>
    let outs := la.queues.filter fun q => q.fromStage == n
    outs.any (fun q => q.depth ≤ q.live.length)
      || (la.parked.contains n && !outs.all fun q => q.live.length ≤ 3 * q.depth / 4)

/-- A queue of a launch changed, and its stages parked and unparked accordingly (R400). -/
def adjQueue (launch n : Nat) (f : Queue → Queue) (s : State) : State :=
  s.adjLaunch launch fun la =>
    let la := { la with queues := la.queues.zipIdx.map fun (x : Queue × Nat) => if x.2 == n then f x.1 else x.1 }
    { la with parked := parkedStages la }

/-- The record bound to an item released (R242): it counts no longer, and waiting items may be admitted. -/
def releaseRecord (item : Nat) (s : State) : State :=
  match Map.find item s.items with
  | none => s
  | some it =>
    match it.record with
    | none => s
    | some (q, n) =>
      let s := s.adjItem item fun it => { it with record := none }
      let s := adjQueue it.launch q (fun x => { x with
        live := x.live.filter (· != n), bad := x.bad.filter fun b => b.1 != n }) s
      wakeLaunch it.launch s

/-- A record is released once every live strand of its item has popped it (R242). -/
def releaseIfPopped (item : Nat) (s : State) : State :=
  match Map.find item s.items with
  | none => s
  | some it => if it.popped != [] && (liveStrands s it).all it.popped.contains then releaseRecord item s else s

/-- What follows the end of lanes of an item (R245, R277, R293): barriers settle, a lane operation that waited only for
them performs, and an item all of whose strands have exited retires. -/
def afterExit (item : Nat) (s : State) : State :=
  let s := releaseIfPopped item (settleBarriers item s)
  match Map.find item s.items with
  | none => s
  | some it =>
    if itemOver s it then s.later (.itemRetire item)
    else if it.strands.any fun k =>
        match s.strand k with
        | some st => st.wait == .laneOp
        | none => false
    then s.later (.laneOpPerform item)
    else s

/-! Traps. -/

/-- The causes that are fatal whenever raised (R432). -/
def fatalCause (c : Nat) : Bool := (0x01 ≤ c && c ≤ 0x06) || c == 0x71

/-- The translation causes (R87). -/
def pageCause (c : Nat) : Bool := 0x20 ≤ c && c ≤ 0x25

/-- A launch-ending cause (R422): it takes place at once, after those that were raised before it. -/
def goFatal (launch cause k : Nat) (s : State) : State :=
  let first := s.plan.takeWhile fun t => match t with
    | .event (.launchFatal _ _ _) => true
    | _ => false
  { s with plan := first ++ .event (.launchFatal launch cause k) :: s.plan.drop first.length }

/-- A launch-ending cause of a strand's own: its record is the strand's most recent one (R430), from which a second cause's
notice is filled (R422). -/
def fatalTrap (launch k : Nat) (r : Raise) (s : State) : State :=
  goFatal launch r.code k (s.adjStrand k fun st => { st with fault := r.record r.pc st.ovf })

/-- The generation of the segment that holds an offset (R289). -/
def genAt (s : State) (tile launch pc : Nat) : Nat :=
  match Map.find (pc / 4096) (s.heldAt tile launch).segs with
  | some g => g.gen
  | none => 0

/-- The worker number of a lane of a crew strand (R386). -/
def workerOf (seat : CrewSeat) (lane : Nat) : Nat := if seat.first == 0 then 0 else seat.first + lane

/-- An instruction in flight whose response has not come (R89, R130); a logged fault and an engine's answer are not
waited for. -/
def Pending.open (p : Pending) : Bool := !p.ready && !p.logged && p.kind != .engine

/-- The operand log of a strand without some entries: each destination is unlocked with its current value, and the
instruction has retired (R91, R92, R239). -/
def Strand.unlog (ids : List Nat) (st : Strand) : Strand :=
  let gone := st.oplog.filter fun e => ids.contains e.id
  let kept := st.oplog.zipIdx.filter fun e => !ids.contains e.1.id
  { st with
    oplog := kept.map (·.1)
    drop := maskOf fun j => match kept[j]? with
      | some e => st.drop.getLsbD e.2
      | none => false
    pend := st.pend.filter fun p => !(p.logged && ids.contains p.id)
    retcnt := if st.seat.isSome then st.retcnt else st.retcnt + BitVec.ofNat 64 gone.length }

/-- The other strands of an item whose GATHER or SCATTER waited for log entries of this one (R227). -/
def wakeOthers (k : Nat) (ids : List Nat) (s : State) : State :=
  match s.strand k with
  | none => s
  | some st =>
    match Map.find st.item s.items with
    | none => s
    | some it => (it.strands.filter (· != k)).foldl (fun s j =>
        match s.strand j with
        | some x => (x.pend.filter fun p => ids.contains (p.id + 1) && !p.ready).foldl
            (fun s p => s.later (.loadWriteback j p.id)) s
        | none => s) s

/-- R427: a second cause in handler mode ends the strand and is reported. -/
def doubleFault (k second : Nat) (s : State) : State :=
  match s.strand k with
  | none => s
  | some st =>
    let fault := { st.fault with rec1 := BitVec.ofNat 64 (putBits st.fault.rec1.toNat 63 32 second) }
    let st' := { st with
      lanes := st.lanes.map fun l => { l with exited := true }
      fault := fault, oplog := [], queue := [], ovf := false, handler := none, trapping := none, pend := [], wait := .none }
    let s := wakeOthers k (st.oplog.map (·.id)) (s.setStrand k st')
    let s := match Map.find st.item s.items with
      | some it =>
        match Map.find it.launch s.launches with
        | some la => report it.tile it.launch (logicalId la it st.inItem) 0x72 fault s
        | none => s
      | none => s
    afterExit st.item s

/-- The strand leaves handler mode with its interrupted state restored (R426, R428). Lanes that ended meanwhile stay
ended; a lane that stands inside a clause fetches it again (R116), one that waited at a clause waits again (R421), and a
strand that had arrived at a barrier has arrived there. (log 48 DEDUCED) -/
def Strand.leaveHandler (st : Strand) : Strand :=
  match st.handler with
  | none => st
  | some h =>
    let back (f : Flow) : Flow :=
      match f.ctx with
      | some c => if c.waited then { f with ctx := some { c with resume := c.stop != f.pc } } else { f with ctx := none }
      | none => f
    let lanes := (upTo 4).foldl (fun q i => q.set i { q.get i with flow := back (h.flows.get i) }) st.lanes
    let wait := match h.wait with
      | .barrier n p => .barrier n p
      | _ => .none
    let st := { st with lanes := lanes, cur := h.cur, handler := none, wait := wait }
    if st.set == 0 then st.resettle else st

/-! Dead lanes (R433). -/

/-- A lane's places in the operand log dropped (R433): an entry without a lane is cleared. -/
def Strand.dropLogged (lane : Nat) (st : Strand) : Strand × List Nat :=
  let left (e : LogEntry) : LogEntry := { e with lanes := e.lanes.filter fun x => x.lane != lane }
  let gone := (st.oplog.filter fun e => (left e).lanes == []).map (·.id)
  ({ st with oplog := st.oplog.map left }.unlog gone, gone)

/-- A lane of an item dies (R433): DEADMASK, the report, and its entries in the operand log; a handler that it leaves without a
lane ends (R429, `handlerTurns`). -/
def killLane (k lane source : Nat) (s : State) : State :=
  match s.strand k with
  | none => s
  | some st =>
    if !(st.lanes.get lane).live then s
    else
      let j := st.inItem * 4 + lane
      let r := (st.adjLane lane fun l => { l with dead := true }).dropLogged lane
      let st' := r.1
      let st' := if st'.set == 0 && (st'.handler.isNone || st'.pool != 0) then st'.resettle else st'
      let s := wakeOthers k r.2 (s.setStrand k st')
      let s := s.adjItem st.item fun it => { it with deadMask := it.deadMask ||| (1 <<< j) }
      let s := reportStrand k 0x73
        { code := 0x73, mask := 1 <<< lane, info0 := j, info1 := source, pc := (st.flow lane).pc
          retcnt := st.retcnt.toNat } s
      afterExit st.item s

/-- A lane dies (R433); where it is a crew's worker the crew is cancelled (R392), and the recruiter's own thread is the
recruiter's lane. -/
def markDead (k lane source : Nat) (s : State) : State :=
  match s.strand k with
  | none => s
  | some st =>
    match st.seat with
    | none => killLane k lane source s
    | some seat =>
      if !(st.lanes.get lane).live then s
      else
        let s := s.setStrand k (st.adjLane lane fun l => { l with dead := true }).resettle
        let s := s.soon (.crewCancel seat.crew (workerOf seat lane) 0x73)
        match Map.find seat.crew s.crews with
        | some r => if seat.first == 0 then killLane r.recruiter r.lane source s else s
        | none => s

/-- An imprecise cause put into a strand's queue (R421); merged, or dropped with OVF. -/
def Strand.enqueue (r : Raise) (st : Strand) : Strand :=
  if st.queue.any fun q => q.code == r.code then st
  else if 8 ≤ st.queue.length then { st with ovf := true }
  else { st with queue := st.queue ++ [{ r with precise := false, retcnt := st.retcnt.toNat }] }

/-- An imprecise cause charged to a strand (R421); for a strand that has exited it goes to the elected strand of the
moment, and becomes a report where every strand of the item has exited. (log 113 DEDUCED) -/
def charge (k : Nat) (r : Raise) (s : State) : State :=
  match s.strand k with
  | none => s
  | some st =>
    if !st.over then s.adjStrand k (·.enqueue r)
    else
      match (Map.find st.item s.items).bind (electedKey s) with
      | some e => s.adjStrand e (·.enqueue r)
      | none => reportStrand k r.code r s

/-- An imprecise cause that an instruction of the strand itself raises: in crew code a worker fault (R387, R392), in
handler mode a double fault (R427). (log 110 DEDUCED) -/
def chargeOwn (k : Nat) (r : Raise) (s : State) : State :=
  match s.strand k with
  | none => s
  | some st =>
    match st.seat with
    | some seat => s.soon (.crewCancel seat.crew (workerOf seat ((lowest r.mask).getD 0)) r.code)
    | none => if st.handler.isSome then doubleFault k r.code s else charge k r s

/-! Results of long-latency instructions (R130). -/

/-- What a long-latency instruction still owes a strand written into it: registers and predicates of lanes that are
neither dead nor exited, and flags. -/
def Strand.accept (p : Pending) (st : Strand) : Strand :=
  let st := p.writes.foldl (fun st w => st.adjLane w.lane fun l => if l.live then l.setV w.reg w.val else l) st
  let st := p.preds.foldl (fun st x => st.adjLane x.1 fun l => if l.live then l.setPred x.2.1 x.2.2 else l) st
  { st with fstat := st.fstat ||| p.flags }

/-- A long-latency instruction completes: its results are written, POISONMASK, flags and causes follow (R130, R224,
R433, R436). -/
def complete (k : Nat) (p : Pending) (s : State) : State :=
  let s := s.adjStrand k fun st => { st.accept p with pend := st.pend.filter fun q => q.id != p.id }
  match s.strand k with
  | none => s
  | some st =>
    let s := if p.poisoned == 0 then s
      else match st.seat with
      | some seat => { s with crews := Map.adjust seat.crew (fun r => { r with poisoned := true }) s.crews }
      | none => s.adjItem st.item fun it => { it with poison := it.poison ||| (p.poisoned.setWidth 64 <<< (st.inItem * 4)) }
    let s := (lanesIn p.killed).foldl (fun s l => markDead k l 1 s) s
    p.causes.foldl (fun s c => chargeOwn k { c with retcnt := st.retcnt.toNat } s) s

/-- The results that may be written now: the response is there, the window is over (or the strand is held at a wait or a
trap), and no earlier instruction still owes the same register (R130). -/
def Strand.due (force : Bool) (st : Strand) : List Pending :=
  (st.pend.foldl (fun (acc : List Pending × List (Nat × Nat)) p =>
    if p.ready && !p.logged && (force || p.left == 0) && !p.locks.any acc.2.contains then (acc.1 ++ [p], acc.2)
    else (acc.1, acc.2 ++ p.locks)) ([], [])).1

/-- Every result that is due written. -/
def settle (force : Bool) (k : Nat) (s : State) : State :=
  match s.strand k with
  | none => s
  | some st => (st.due force).foldl (fun s p => complete k p s) s

/-- Handler entry (R424, R425): the interrupted state is set aside and the handler lanes start at offset 0 of segment 0.
Where segment 0 is not LANDED the cause is fatal. -/
def enterHandler (k : Nat) (r : Raise) (s : State) : State :=
  match s.strand k with
  | none => s
  | some st =>
    match Map.find st.item s.items with
    | none => s
    | some it =>
      match Map.find 0 (s.heldAt it.tile it.launch).segs with
      | some seg =>
        if seg.state == 2 then
          let resume := match lowest r.hmask with
            | some l => (st.flow l).pc
            | none => r.pc
          let saved : Interrupted := ⟨st.lanes.map (·.flow), st.cur, st.wait, r.hmask, resume⟩
          let st := (st.mapFlows r.hmask fun _ => { pc := 0, ctx := none, stack := [] }).mapLanes 15
            fun l => { l with atOp := none }
          s.setStrand k { st with
            cur := r.hmask, handler := some saved, trapping := none, fault := r.record resume st.ovf, ovf := false
            trdetail := BitVec.ofNat 64 r.trdetail, wait := .none }
        else fatalTrap it.launch k r s
      | none => fatalTrap it.launch k r s

/-- A precise cause charged to a strand (R419, R420): fatal causes end the launch, a cause in crew code cancels the crew
(R392), one in handler mode is a double fault (R427), and any other enters the handler once the strand's earlier
instructions have completed. -/
def trap (k : Nat) (r : Raise) (s : State) : State :=
  match s.strand k with
  | none => s
  | some st =>
    match Map.find st.item s.items with
    | none => s
    | some it =>
      if fatalCause r.code then fatalTrap it.launch k r s
      else
        match st.seat with
        | some seat =>
          s.soon (.crewCancel seat.crew (workerOf seat ((lowest (if r.mask == 0 then st.set else r.mask)).getD 0)) r.code)
        | none =>
          if st.handler.isSome then doubleFault k r.code s
          else if st.pend.any (·.open) then s.setStrand k { st with trapping := some r, wait := .none }
          else enterHandler k r (settle true k s)

/-- A single step that was held back (R475): it is taken, in the handler lanes that still live, once the strand runs no
handler and no crew. -/
def takeHeldStep (k : Nat) (s : State) : State :=
  match s.strand k with
  | none => s
  | some st =>
    match st.stepHeld with
    | none => s
    | some r =>
      if st.handler.isSome || st.crew.isSome then s
      else
        let s := s.setStrand k { st with stepHeld := none }
        if r.hmask &&& st.live == 0 then s else trap k { r with hmask := r.hmask &&& st.live, retcnt := st.retcnt.toNat } s

/-- An imprecise cause charged to an item's elected strand (R377, R421); a report where the item has no strand left. -/
def chargeElected (item : Nat) (r : Raise) (s : State) : State :=
  match Map.find item s.items with
  | none => s
  | some it =>
    match electedKey s it with
    | some k => charge k { r with precise := false } s
    | none =>
      match Map.find it.launch s.launches with
      | some la => report it.tile it.launch (logicalId la it 0) r.code ({ r with precise := false }.record r.pc false) s
      | none => s

/-! How an instruction ends. -/

/-- The instructions still in flight after one more instruction has issued: their windows shrink (R130). -/
def Strand.countWindow (before : List Pending) (st : Strand) : Strand :=
  { st with pend := st.pend.map fun p => if before.any (·.id == p.id) then { p with left := p.left - 1 } else p }

/-- One retired instruction in RETCNT (R239): not in a handler, not in crew code. -/
def Strand.countRetired (st : Strand) : Strand :=
  if st.handler.isSome || st.seat.isSome then st else { st with retcnt := st.retcnt + 1 }

end Sys2Proof.Machine
end

