-- ==== Sys2Proof/Machine/Operands.lean ====
section
/-! DEFINITION. Operands: which registers, counters and barriers an instruction names, the checks of
06_encoding_and_assembly.md R136 on them, and how registers are read and written in each kind of clause (R121, R127 to
R132, R387). -/

namespace Sys2Proof.Machine

/-- A register operand of an instruction: the field, how many registers from it on, and whether it is written. -/
structure Use where
  o : Opnd
  n : Nat := 1
  dest : Bool := false
deriving DecidableEq, Repr, Inhabited

/-- A source register. -/
def rd (o : Opnd) : Use := { o := o }
/-- A source pair. -/
def rdPair (o : Opnd) : Use := { o := o, n := 2 }
/-- A destination register. -/
def wr (o : Opnd) : Use := { o := o, dest := true }
/-- A destination pair. -/
def wrPair (o : Opnd) : Use := { o := o, n := 2, dest := true }
/-- A source that is a pair or not. -/
def rdW (wide : Bool) (o : Opnd) : Use := { o := o, n := if wide then 2 else 1 }
/-- A destination that is a pair or not. -/
def wrW (wide : Bool) (o : Opnd) : Use := { o := o, n := if wide then 2 else 1, dest := true }

/-- Registers of an atomic: the destination, which CAS also reads, the address and the operand (R217, R228). -/
def atomUses (m : MemMod) (w : Bool) (d a b : Opnd) : List Use := [wrW w d, rdW m.space.pairAddr a, rdW w b]

/-- The register operands of an instruction (the encoding tables of 06_, 07_, 09_, 10_, 11_, 12_, 13_ and 17_). -/
def uses : Instr → List Use
  | .mov _ d a | .addi _ d a _ | .abs _ d a | .clz _ d a | .popc _ d a | .brev _ d a
  | .shli _ d a _ | .shri _ d a _ | .sari _ d a _ | .roli _ d a _
  | .fabs _ d a | .fneg _ d a | .frcp _ d a | .frsq _ d a | .fexp2 _ d a | .flog2 _ d a | .ftanh _ d a
  | .frnd _ _ d a | .fclass _ d a | .cvt _ _ d a _ | .cvti _ _ _ d a | .cseg _ d a | .redux _ _ d a
  | .vqstat _ d a => [wr d, rd a]
  | .movi _ d _ | .movw _ d _ | .bararv _ d _ | .tokwait _ d | .rdv _ d _ | .rng _ d | .crwend _ d
  | .tidewaitTide _ d | .rtcount _ d _ _ _ | .rtdisp _ d _ _ _ | .rtcomb _ d _ _ _ _ => [wr d]
  | .add _ d a b | .sub _ d a b | .mul _ d a b | .mulhiS _ d a b | .mulhiN _ d a b | .mad _ d a b
  | .minS _ d a b | .minN _ d a b | .maxS _ d a b | .maxN _ d a b | .and _ d a b | .or _ d a b | .xor _ d a b
  | .andn _ d a b | .shl _ d a b | .shr _ d a b | .sar _ d a b | .rol _ d a b | .bfe _ d a b | .bfi _ d a b
  | .sel _ d a b | .fadd _ d a b | .fsub _ d a b | .fmul _ d a b | .ffma _ d a b
  | .fmin _ d a b | .fmax _ d a b | .fscale _ d a b | .hadd2 _ d a b | .hmul2 _ d a b | .hfma2 _ d a b
  | .pack2 _ d a b | .shflIdx _ d a b | .shflXor _ d a b | .shflUp _ d a b | .shflDn _ d a b | .xchg _ d a b
  | .crew _ d a b => [wr d, rd a, rd b]
  | .add64 _ d a b => [wrPair d, rdPair a, rdPair b]
  | .isetp _ _ _ a b | .fsetp _ _ _ a b => [rd a, rd b]
  | .ballot _ d _ _ => [wrPair d]
  | .brx _ a | .callx _ a | .jmpf _ _ a | .barwt _ a _ | .kinitReg _ _ a | .kaddReg _ _ a | .fork _ _ a _ | .crwred _ _ _ a
  | .haltg _ a | .resumeg _ a | .step _ a | .fill _ _ a _ _ _ | .bkclose _ a _ _ | .mzero _ _ a => [rd a]
  | .cfetch _ _ a _ | .prefetch _ _ _ a _ | .dset _ _ a _ _ | .mboxw _ _ a => [rdPair a]
  | .ld _ _ m ty d a _ => [wrW ty.isPair d, rdW m.space.pairAddr a]
  | .st _ _ m ty a b _ => [rdW m.space.pairAddr a, rdW ty.isPair b]
  | .gather _ _ m ty d a b => [wrW ty.isPair d, rdW m.space.pairAddr a, rd b]
  | .scatter _ _ m ty a b c => [rdW m.space.pairAddr a, rd b, rdW ty.isPair c]
  | .atomAdd _ _ m w d a b _ | .atomMinS _ _ m w d a b _ | .atomMinN _ _ m w d a b _ | .atomMaxS _ _ m w d a b _
  | .atomMaxN _ _ m w d a b _ | .atomAnd _ _ m w d a b _ | .atomOr _ _ m w d a b _ | .atomXor _ _ m w d a b _
  | .atomExch _ _ m w d a b _ | .atomCas _ _ m w d a b _ | .atomFadd _ _ m w d a b _ | .atomFmin _ _ m w d a b _
  | .atomFmax _ _ m w d a b _ | .atomIncw _ _ m w d a b _ | .atomDecw _ _ m w d a b _ => atomUses m w d a b
  | .sysr _ d num => [wrW (sysWide num.toNat) d]
  | .sysw _ a num => [rdW (sysWide num.toNat) a]
  | .qpush _ _ _ _ _ b _ _ => [{ o := b, n := 4 }]
  | .qpop _ _ _ _ d _ _ | .qpeek _ _ d _ _ => [{ o := d, n := 4, dest := true }]
  | .bkopen _ d a _ _ => [wr d, rdPair a]
  | .mread _ _ a b _ _ _ _ _ | .mwrite _ _ a b _ _ _ _ => [rd a, rd b]
  | .mstat _ d _ => [wrPair d]
  | .rld _ _ _ _ ty d a p => [wrW ty.isPair d, rdPair a, rd p]
  | .rst _ _ _ _ ty a b p => [rdPair a, rdW ty.isPair b, rd p]
  | .ratom _ _ _ _ _ w d a b p => [wrW w d, rdPair a, rdW w b, rd p]
  | .tidewaitPeer _ d a _ => [wr d, rd a]
  | .launch _ d a _ => [wr d, rdPair a]
  | .watch _ sp _ _ a _ => [rdW sp.pairAddr a]
  | .keyopDestroy _ d a _ => [wr d, rd a]
  | .keyopBzero _ d a _ _ _ => [wr d, rdPair a]
  | _ => []

/-- The instructions whose destination register is an operand too (R228, R261, R265). -/
def readsDest : Instr → Bool
  | .mad _ _ _ _ | .bfi _ _ _ _ | .ffma _ _ _ _ | .hfma2 _ _ _ _ | .atomCas _ _ _ _ _ _ _ _ => true
  | .ratom _ _ _ _ op _ _ _ _ _ => op == .cas
  | _ => false

/-- The predicates an instruction reads beside its guard. -/
def predReads : Instr → List (BitVec 3)
  | .ballot _ _ _ p | .vote _ _ _ _ p | .gres _ _ _ p => [p]
  | _ => []

/-- What an instruction reads of the registers that a strand holds once, numbered as `Strand.badS` numbers them, beside
the s registers of a uniform clause: descriptors, the newest return-stack entries, and s registers through SYSR. -/
def strandReads : Instr → List Nat
  | .copy _ d a _ _ _ | .plpack _ d a _ _ _ | .plunpk _ d a _ _ _ => [64 + d.toNat, 64 + a.toNat]
  | .fill _ d _ _ _ _ => [64 + d.toNat]
  | .rtcount _ _ d _ _ | .rtdisp _ _ d _ _ | .rtcomb _ _ d _ _ _ | .mloop _ d _ _ _ => [64 + d.toNat]
  | .fork _ _ _ _ => (upTo 16).map (64 + ·)
  | .ret _ => [81]
  | .sysr _ _ num => if 0x100 ≤ num.toNat && num.toNat ≤ 0x13F then [num.toNat - 0x100] else []
  | _ => []

/-- The counter an instruction names, which must lie in the launch's allotment (R131, R136); SYSR and SYSW name one as
KVALn (R237). -/
def counterOf : Instr → Option Nat
  | .kinitReg _ k _ | .kinitImm _ k _ | .kaddReg _ k _ | .kaddImm _ k _ | .kwait _ k | .fork _ _ _ k | .cfetch _ _ _ k
  | .copy _ _ _ k _ _ | .plpack _ _ _ k _ _ | .plunpk _ _ _ k _ _ | .fill _ _ _ k _ _ | .bkopen _ _ _ k _
  | .bkclose _ _ k _ | .rtcount _ _ _ k _ | .rtdisp _ _ _ k _ | .rtcomb _ _ _ k _ _ | .mloop _ _ k _ _ | .mzero _ k _
  | .mread _ k _ _ _ _ _ _ _ | .mwrite _ k _ _ _ _ _ _ | .mstat _ _ k | .launch _ _ _ k | .keyopDestroy _ _ _ k
  | .keyopBzero _ _ _ k _ _ => some k.toNat
  | .sysr _ _ num | .sysw _ _ num => if 0x200 ≤ num.toNat && num.toNat ≤ 0x23F then some (num.toNat - 0x200) else none
  | _ => none

/-- The barrier an instruction names (R244). -/
def barrierOf : Instr → Option Nat
  | .bar _ n | .bararv _ _ n | .barwt _ _ n => some n.toNat
  | _ => none

/-- The guard slot an instruction names (R255). -/
def guardSlotOf : Instr → Option Nat
  | .gres _ n _ _ => some n.toNat
  | _ => none

/-- The lookahead of a long-latency instruction (R125, R130). -/
def lookahead : Instr → Nat
  | .ld _ la _ _ _ _ _ | .st _ la _ _ _ _ _ | .gather _ la _ _ _ _ _ | .scatter _ la _ _ _ _ _ => la.toNat
  | .atomAdd _ la _ _ _ _ _ _ | .atomMinS _ la _ _ _ _ _ _ | .atomMinN _ la _ _ _ _ _ _ | .atomMaxS _ la _ _ _ _ _ _
  | .atomMaxN _ la _ _ _ _ _ _ | .atomAnd _ la _ _ _ _ _ _ | .atomOr _ la _ _ _ _ _ _ | .atomXor _ la _ _ _ _ _ _
  | .atomExch _ la _ _ _ _ _ _ | .atomCas _ la _ _ _ _ _ _ | .atomFadd _ la _ _ _ _ _ _ | .atomFmin _ la _ _ _ _ _ _
  | .atomFmax _ la _ _ _ _ _ _ | .atomIncw _ la _ _ _ _ _ _ | .atomDecw _ la _ _ _ _ _ _ => la.toNat
  | .qpush _ la _ _ _ _ _ _ | .qpop _ la _ _ _ _ _ | .qpeek _ la _ _ _ => la.toNat
  | .rld _ la _ _ _ _ _ _ | .rst _ la _ _ _ _ _ _ | .ratom _ la _ _ _ _ _ _ _ _ => la.toNat
  | _ => 0

/-- The instructions that run once per item (R377), by their majors. -/
def onceMajor (m : Nat) : Bool :=
  m == 0x46 || m == 0x53 || m == 0x54 || m == 0x59 || m == 0x5A || m == 0x5C || (0x6C ≤ m && m ≤ 0x74) || m == 0x7B

/-- The majors that raise CREW_STATE in crew code (R388): 0x50 to 0x5E but for CREW, JMPF, CFETCH, ERET, and classes 3
to 7. -/
def crewForbidden (m : Nat) : Bool :=
  (0x50 ≤ m && m ≤ 0x5C) || m == 0x5E || m == 0x45 || m == 0x46 || m == 0x4A || 0x69 ≤ m

/-- The system registers that need privilege (R237). -/
def sysPrivileged (n : Nat) : Bool := (0x1000 ≤ n && n ≤ 0x1202) || n == 0x1300

/-- Whether an instruction needs privilege (R136, R236). -/
def needsPrivilege : Instr → Bool
  | .keyopDestroy _ _ _ _ | .keyopBzero _ _ _ _ _ _ => true
  | .sysr _ _ num | .sysw _ _ num => sysPrivileged num.toNat
  | _ => false

/-- An instruction as its strand issues it: the strand, its item, launch and tile, the words, the kind of clause, and
its executing and active lanes (R121, R127; SEL takes its guard as the selector and BRU takes its set's lowest lane's
decision). A uniform clause of crew code runs for each worker on the s registers of its own frame (`frames`, R386). (log 145
DEDUCED) -/
structure Issue where
  key : Nat
  st : Strand
  it : Item
  la : Launch
  i : Instr
  w1 : Word
  w2 : Word
  major : Nat
  uniform : Bool
  frames : Bool
  crew : Option CrewSeat
  vregs : Nat
  window : Table Word
  set : BitVec 4
  lead : Nat
  active : BitVec 4
  pc : Nat
deriving DecidableEq, Repr, Inhabited

/-- A guard read in a lane (R127). -/
def guardHolds (g : Guard) (l : Lane) : Bool := l.pred g.p != g.neg

/-- The instruction as its strand issues it, where the strand, its item and its launch are there. -/
def issueOf (i : Instr) (s : State) : Option Issue :=
  match s.strand s.cur with
  | none => none
  | some st =>
    match Map.find st.item s.items with
    | none => none
    | some it =>
      match Map.find it.launch s.launches with
      | none => none
      | some la =>
        let ws := encode i
        let w1 := ws.getD 0 0
        let g := guardOf w1
        let set := st.set
        let here := st.flow ((lowest set).getD 0)
        let u := match here.ctx with
          | some c => (headerOf c.word).u
          | none => false
        let uniform := u && st.seat.isNone
        let lead := (lowest st.live).getD 0
        let active := if majorOf w1 == 0x1D then set
          else if majorOf w1 == 0x4C then
            (if guardHolds g (st.lanes.get (if uniform then lead else (lowest set).getD 0)) then set else 0)
          else if uniform then (if guardHolds g (st.lanes.get lead) then set else 0)
          else maskOf fun l => set.getLsbD l && guardHolds g (st.lanes.get l)
        some { key := s.cur, st := st, it := it, la := la, i := i, w1 := w1, w2 := ws.getD 1 0, major := (majorOf w1).toNat
               uniform := uniform, frames := u && st.seat.isSome, crew := st.seat, vregs := if st.seat.isSome then 64 else (stageOf la it).vregs
               window := match st.seat with
                 | some c => match Map.find c.crew s.crews with
                   | some r => r.window
                   | none => []
                 | none => []
               set := set, lead := lead, active := active, pc := here.pc }

/-- Bytes of an instruction. -/
def Issue.size (c : Issue) : Nat := if longMajor c.major then 8 else 4

/-- The number by which a worker's frame keeps its register s(n), beside its v registers; xi is kept as s(80) (R386). -/
def frameS (n : Nat) : Nat := 512 + n

/-- The register number that a field names: v(n), v(xi + n) or s(n) (R128), of a worker's frame in a uniform clause of crew
code. -/
def Issue.index (c : Issue) (o : Opnd) : Nat :=
  match o with
  | .dir n => if c.frames then frameS n.toNat else n.toNat
  | .ind n => if c.uniform || c.crew.isSome then n.toNat else c.st.xi.toNat + n.toNat

/-- A register read by an active lane, `k` registers on (R121, R128): s in a uniform clause, the recruiter's window in
crew code. -/
def Issue.regAt (c : Issue) (lane : Nat) (o : Opnd) (k : Nat) : Word :=
  let n := c.index o + k
  if c.uniform then Table.get 0 n c.st.s
  else
    match o with
    | .dir _ => Table.get 0 n (c.st.lanes.get lane).v
    | .ind _ => if c.crew.isSome then Table.get 0 n c.window else Table.get 0 n (c.st.lanes.get lane).v

/-- A register read by an active lane. -/
def Issue.reg (c : Issue) (lane : Nat) (o : Opnd) : Word := c.regAt lane o 0

/-- An even–odd pair read by an active lane (R129). -/
def Issue.pair (c : Issue) (lane : Nat) (o : Opnd) : BitVec 64 := c.regAt lane o 1 ++ c.regAt lane o 0

/-- A register or pair as a number. -/
def Issue.value (c : Issue) (wide : Bool) (lane : Nat) (o : Opnd) : Nat :=
  if wide then (c.pair lane o).toNat else (c.reg lane o).toNat

/-- A v register of one lane written. -/
def Strand.setV (lane n : Nat) (x : Word) (st : Strand) : Strand :=
  st.adjLane lane (·.setV n x)

/-- An s register written. -/
def Strand.setS (n : Nat) (x : Word) (st : Strand) : Strand :=
  { st with s := Table.put 0 n x st.s, badS := st.badS.filter (· != n) }

/-- A destination register written by a lane: v, or s in a uniform clause (R121). -/
def Issue.write (c : Issue) (lane : Nat) (o : Opnd) (x : Word) (st : Strand) : Strand :=
  if c.uniform then st.setS (c.index o) x else st.setV lane (c.index o) x

/-- A destination pair written by a lane. -/
def Issue.writePair (c : Issue) (lane : Nat) (o : Opnd) (x : BitVec 64) (st : Strand) : Strand :=
  if c.uniform then (st.setS (c.index o) (x.extractLsb' 0 32)).setS (c.index o + 1) (x.extractLsb' 32 32)
  else (st.setV lane (c.index o) (x.extractLsb' 0 32)).setV lane (c.index o + 1) (x.extractLsb' 32 32)

/-- The lanes that compute: the active ones, or in a uniform clause one for the strand (R121). -/
def Issue.doers (c : Issue) : List Nat :=
  if c.uniform then (if c.active != 0 then [c.lead] else []) else lanesIn c.active

/-- The lowest active lane (in a uniform clause the strand's), if there is one. -/
def Issue.first (c : Issue) : Option Nat := c.doers.head?

/-- A predicate written by a lane; in a uniform clause in every live lane of the strand (R121). -/
def Issue.writePred (c : Issue) (lane : Nat) (p : BitVec 3) (b : Bool) (st : Strand) : Strand :=
  if c.uniform then st.mapLanes st.live (·.setPred p b) else st.mapLanes (maskOf (· == lane)) (·.setPred p b)

/-! Registers that cannot be read (R433). -/

/-- The register operands that an instruction reads. -/
def Issue.sources (c : Issue) : List Use := (uses c.i).filter fun u => !u.dest || readsDest c.i

/-- Whether a lane reads one of its own registers or predicates that cannot be read (R433, source 2). -/
def Issue.laneStruck (c : Issue) (lane : Nat) : Bool :=
  let bad := (c.st.lanes.get lane).badV
  let pred (p : BitVec 3) : Bool := p != 7 && bad.contains (256 + p.toNat)
  if bad == [] then false
  else if c.uniform then lane == c.lead && pred (guardOf c.w1).p
  else
    (c.set.getLsbD lane && pred (guardOf c.w1).p)
      || (c.active.getLsbD lane
        && ((predReads c.i).any pred
          || (c.crew.isSome && (strandReads c.i).any fun n => n < 64 && bad.contains (frameS n))
          || c.sources.any fun u => !(c.crew.isSome && u.o.isInd)
            && (upTo u.n).any fun k => bad.contains (c.index u.o + k)))

/-- Whether the strand reads a register of its own that cannot be read (R433, source 4). -/
def Issue.strandStruck (c : Issue) : Bool :=
  let bad := c.st.badS
  if bad == [] || c.active == 0 then false
  else
    (strandReads c.i).any bad.contains
      || (c.uniform && c.sources.any fun u => (upTo u.n).any fun k => bad.contains (c.index u.o + k))
      || (!c.uniform && c.crew.isNone && bad.contains 80 && (uses c.i).any (·.o.isInd))

/-- The lanes that die of what they read, with the source code (R433). -/
def Issue.struck (c : Issue) : List (Nat × Nat) :=
  if c.strandStruck then (lanesIn c.st.live).map fun l => (l, 4)
  else ((upTo 4).filter c.laneStruck).map fun l => (l, 2)

/-! The checks of R136. -/

/-- Whether an operand lies beyond its bound, or is an indexed odd pair (R128, R129); a name of the recruiter's window is
taken as an indexed one. (log 146 DESIGN CHOICE) -/
def Issue.outOfBounds (c : Issue) (u : Use) : Bool :=
  !c.uniform && !c.frames && (c.vregs < c.index u.o + u.n || (u.n == 2 && c.index u.o % 2 == 1))

/-- Whether an instruction writes a register that is still locked by a long-latency instruction (R130). -/
def Issue.hitsLock (c : Issue) (kinds : Pending → Bool) (u : Use) : Bool :=
  !c.uniform && c.st.pend.any fun p => kinds p && p.locks.any fun l => c.index u.o ≤ l.2 && l.2 < c.index u.o + u.n

/-- The predicate that an instruction writes; p7 discards it (R131). -/
def predDest : Instr → Option (BitVec 3)
  | .isetp _ _ p _ _ | .fsetp _ _ p _ _ | .vote _ _ p _ _ | .qpush _ _ _ _ _ _ p _ | .qpop _ _ _ _ _ p _
  | .qpeek _ _ _ p _ => if p == 7 then none else some p
  | _ => none

/-- The number that the lock of a predicate goes by, beside the v registers. -/
def predLock (p : BitVec 3) : Nat := 256 + p.toNat

/-- Whether an instruction writes a predicate that a long-latency instruction still owes (R130). -/
def Issue.hitsPredLock (c : Issue) : Bool :=
  match predDest c.i with
  | some p => c.st.pend.any fun q => q.kind != .engine && q.locks.any fun l => l.2 == predLock p
  | none => false

/-- The checks of R136, in their order: the cause that fails. -/
def Issue.check (c : Issue) : Option Nat :=
  let us := uses c.i
  if needsPrivilege c.i && !c.la.priv then some 0x07
  else if us.any c.outOfBounds
      || (match counterOf c.i with | some k => c.la.kcnt ≤ k | none => false)
      || (match barrierOf c.i with | some b => c.la.bcnt ≤ b | none => false)
      || (match guardSlotOf c.i with | some g => c.la.gcnt ≤ g | none => false) then some 0x08
  else if us.any (fun u => u.dest && c.hitsLock (·.kind != .engine) u) || c.hitsPredLock then some 0x09
  else if c.crew.isSome && us.any fun u => u.dest && u.o.isInd then some 0x5B
  else if c.crew.isSome && crewForbidden c.major then some 0x59
  else none

end Sys2Proof.Machine
end

