-- ==== Sys2Proof/Machine/Issue.lean ====
section
/-! DEFINITION. How an instruction issues and retires: redundant issues (16_beacons_and_redundancy.md R452 to R455),
the waits at issue (04_translation.md R89, 06_encoding_and_assembly.md R130), the checks of R136, the instructions that
run once per item (13_execution.md R377), and what follows an instruction (R239, R284, R475, R476). -/

namespace Sys2Proof.Machine

/-! Redundant launches. -/

/-- A tile with a failing lane under AUTOQ (R450, R455): REVIEW is set, and LIVE becomes QUARANTINED. -/
def quarantine (tile : Nat) (s : State) : State :=
  if !bitOf s.health.beaconcfg.toNat 16 then s
  else
    let h := putBits (Table.get 0 tile s.health.tilehealth).toNat 31 31 1
    let h := if bitsOf h 2 0 == 0 then putBits h 2 0 4 else h
    { s with health := { s.health with tilehealth := Table.put 0 tile (BitVec.ofNat 64 h) s.health.tilehealth } }

/-- The physical lane of a lane-in-slice of a strand context (R10). -/
def physLane (context lane : Nat) : Nat := context / 8 * 4 + lane

/-- A physical lane marked as failing (R455). -/
def markFailing (tile lane : Nat) (s : State) : State :=
  let f := Table.get 0 tile s.health.lanefail
  { s with health := { s.health with lanefail := Table.put 0 tile (f ||| (1#64 <<< lane)) s.health.lanefail } }

/-- The disagreement that the issues of an instruction of a redundant launch meet (R452); it is an input. -/
def Issue.upset (c : Issue) (s : State) : Option Upset :=
  if c.la.red then s.upsets.find? fun u => u.strand == c.key else none

/-- The vote on a disagreement (R452, R453, R455): the retry agrees, a majority marks a lane as failing, or the thread dies. -/
def Issue.vote (c : Issue) (u : Upset) (s : State) : State :=
  let s := { s with upsets := s.upsets.erase u }
  if u.outcome == 1 then
    let s := (if c.uniform then upTo 4 else [u.minority % 4]).foldl
      (fun s l => markFailing c.it.tile (physLane c.st.context l) s) s
    quarantine c.it.tile (reportStrand c.key 0x75
      { code := 0x75, mask := 1 <<< u.lane, info0 := c.st.inItem * 4 + u.lane, info1 := 5
        pc := (c.st.flow u.lane).pc, retcnt := c.st.retcnt.toNat } s)
  else if u.outcome == 2 then
    (if c.uniform then upTo 4 else [u.lane % 4]).foldl (fun s l => markDead c.key l 5 s) s
  else s

/-! Building a trap. -/

/-- The lane that an instruction run once per item is charged to, as a mask (R377, R425). -/
def Issue.electedMask (c : Issue) : BitVec 4 := maskOf fun l => some l == lowest c.st.live

/-- The handler lanes of a precise trap (R425). -/
def Issue.hmask (c : Issue) : BitVec 4 :=
  if onceMajor c.major then c.electedMask else if c.active == 0 then c.set else c.active

/-- A precise cause of the instruction (R430, R431), its words in INFO0 and INFO1. -/
def Issue.raise (c : Issue) (code : Nat) (mask : BitVec 4 := 0) : Raise :=
  { code := code, mask := mask, info0 := c.w1.toNat, info1 := c.w2.toNat, pc := c.pc
    active := if onceMajor c.major then c.active &&& c.electedMask else c.active
    gen := match (c.st.flow ((lowest c.set).getD 0)).ctx with
      | some x => x.gen
      | none => 0
    hmask := c.hmask, retcnt := c.st.retcnt.toNat }

/-! Waits at issue. -/

/-- The orders and scopes of an instruction that orders accesses (R89, R126), as order and scope. -/
def orderOf : Instr → Order × Scope
  | .ld _ _ m _ _ _ _ | .st _ _ m _ _ _ _ | .gather _ _ m _ _ _ _ | .scatter _ _ m _ _ _ _
  | .atomAdd _ _ m _ _ _ _ _ | .atomMinS _ _ m _ _ _ _ _ | .atomMinN _ _ m _ _ _ _ _ | .atomMaxS _ _ m _ _ _ _ _
  | .atomMaxN _ _ m _ _ _ _ _ | .atomAnd _ _ m _ _ _ _ _ | .atomOr _ _ m _ _ _ _ _ | .atomXor _ _ m _ _ _ _ _
  | .atomExch _ _ m _ _ _ _ _ | .atomCas _ _ m _ _ _ _ _ | .atomFadd _ _ m _ _ _ _ _ | .atomFmin _ _ m _ _ _ _ _
  | .atomFmax _ _ m _ _ _ _ _ | .atomIncw _ _ m _ _ _ _ _ | .atomDecw _ _ m _ _ _ _ _ => (m.ord, m.scope)
  | .qpush _ _ sc o _ _ _ _ | .qpop _ _ sc o _ _ _ => (o, sc)
  | .rld _ _ sc o _ _ _ _ | .rst _ _ sc o _ _ _ _ | .ratom _ _ sc o _ _ _ _ _ _ => (o, sc)
  | .phase _ f p sc => (if p then (if f then .sc else .rel) else if f then .acq else .none, sc)
  | .fence _ sc => (.sc, sc)
  | .mboxw _ _ _ => (.sc, .system)
  | _ => (.none, .strand)

/-- The majors whose effect waits for every earlier access of the strand (R198, R199, R255, R386): the accesses that an
engine command, a barrier arrival, KADD, GRES, CREW, LAUNCH or a KEYOP follows. -/
def afterAccesses (m : Nat) : Bool :=
  m == 0x50 || m == 0x51 || m == 0x54 || m == 0x5A || m == 0x5C || m == 0x5D || (0x6C ≤ m && m ≤ 0x74) || m == 0x7B
    || m == 0x7D || m == 0x46

/-- Whether an instruction is an access that is translated on this package (R89). -/
def translatedMajor (m : Nat) : Bool := 0x60 ≤ m && m ≤ 0x64

/-- The majors of the accesses that strands make themselves: to memory, to stage queues and to other packages (R195). -/
def accessMajor (m : Nat) : Bool := translatedMajor m || (0x69 ≤ m && m ≤ 0x6B) || (0x75 ≤ m && m ≤ 0x77)

/-- Whether an access in flight orders the strand's later accesses after it: marked .acq or .sc (R193, R195, R203, R208). -/
def Pending.bars (p : Pending) : Bool :=
  match decode p.w1 p.w2 with
  | .ok i => (orderOf i).1 == .acq || (orderOf i).1 == .sc
  | .error _ => false

/-- Whether an instruction that orders earlier accesses waits for one in flight: at every scope for all but the remote
stores, whose acknowledgement pod and system scope wait for (R192, R195). (log 31 DEDUCED) -/
def Pending.awaited (sc : Scope) (p : Pending) : Bool := p.kind != .remote || p.locks != [] || 6 ≤ scopeNum sc

/-- Whether an instruction waits at issue (R89, R130, R193, R195, R198): past a long-latency instruction whose window is
over, on a register that an engine still owes, as a fifth incomplete translated access, because it orders earlier
accesses, or because an earlier one orders it. (log 31 DEDUCED) -/
def Issue.blocked (c : Issue) : Bool :=
  let inFlight := c.st.pend.filter (·.open)
  inFlight.any (fun p => p.left == 0)
    || (uses c.i).any (c.hitsLock fun p => p.kind == .engine)
    || (translatedMajor c.major && 4 ≤ (inFlight.filter fun p => p.kind != .remote).length)
    || ((orderOf c.i).1 != .none && inFlight.any (·.awaited (orderOf c.i).2))
    || (afterAccesses c.major && inFlight != [])
    || (accessMajor c.major && inFlight.any (·.bars))

/-- Whether an instruction that runs once per item is passed over: another strand or another lane set issues it (R377).
Crew code holds no such instruction. -/
def Issue.passed (c : Issue) (s : State) : Bool :=
  onceMajor c.major && c.crew.isNone &&
    match elected s c.it with
    | some (k, l) => k != c.key || !c.set.getLsbD l
    | none => true

/-- Whether the elected lane's guard lets an instruction that runs once per item take place (R127, R377). -/
def Issue.once (c : Issue) : Bool := c.active &&& c.electedMask != 0

/-- The elected lane of an instruction that runs once per item. -/
def Issue.elect (c : Issue) : Nat := (lowest c.st.live).getD 0

/-! Retirement. -/

/-- What an instruction did: it takes place and the executing set goes on; it takes place and has placed its lanes
itself; it takes place and a trap follows it (R476); it waits at issue; it traps; or the machine stands as given. -/
inductive Act where
  | done (s : State)
  | doneTrap (r : Raise) (s : State)
  | moved (s : State)
  | wait (w : Wait) (s : State)
  | trap (r : Raise) (s : State)
  | over (s : State)
deriving Inhabited

/-- The executing lanes move past the instruction. -/
def Issue.advance (c : Issue) (st : Strand) : Strand := st.mapFlows c.set fun f => { f with pc := f.pc + c.size }

/-- An instruction counted: RETCNT, the windows before it, and the strand no longer waits (R130, R239). -/
def Issue.count (c : Issue) (st : Strand) : Strand := { (st.countWindow c.st.pend).countRetired with wait := .none }

/-- SINGLE_STEP after the instruction (R475), its active lanes those that stepped. -/
def Issue.stepRaise (c : Issue) : Raise :=
  let r := c.raise 0x79
  { r with mask := r.active, origin := 5, info1 := 0 }

/-- What comes after a retired instruction: results whose windows have ended are written, then a single step that was
armed traps, in the instruction's active lanes of the set that is current now, or in that set (R130, R475); after a CREW once
the crew has ended. (log 124 DEDUCED) -/
def Issue.afterwards (c : Issue) (s : State) : State :=
  let s := settle false c.key s
  match s.strand c.key with
  | none => s
  | some st =>
    if st.stepArm && c.st.stepArm && st.handler.isNone && st.seat.isNone then
      let h := if c.active &&& st.set == 0 then st.set else c.active &&& st.set
      takeHeldStep c.key (s.setStrand c.key { st with stepArm := false, stepHeld := some { c.stepRaise with hmask := h } })
    else s

/-- The state after what an instruction did. -/
def Issue.finish (c : Issue) (a : Act) : State :=
  match a with
  | .done s => c.afterwards (s.adjStrand c.key fun st => c.count (c.advance st))
  | .doneTrap r s =>
    let s := settle false c.key (s.adjStrand c.key fun st => c.count (c.advance st))
    let s := s.adjStrand c.key fun st =>
      if st.stepArm && c.st.stepArm then { st with stepArm := false, stepHeld := some { c.stepRaise with hmask := r.hmask } } else st
    Sys2Proof.Machine.trap c.key { r with retcnt := c.st.retcnt.toNat + 1 } s
  | .moved s => c.afterwards (s.adjStrand c.key fun st => c.count st)
  | .wait w s => s.adjStrand c.key fun st => { st with wait := w }
  | .trap r s => Sys2Proof.Machine.trap c.key r s
  | .over s => s

/-- The trap of a failed check of R136: INFO1 is the register number for a privileged SYSR or SYSW (R431). -/
def Issue.refusal (c : Issue) (code : Nat) : Raise :=
  let r := c.raise code (if onceMajor c.major then c.electedMask else 0)
  if code == 0x07 && (c.major == 0x66 || c.major == 0x67) then { r with info1 := (c.w2.extractLsb' 0 16).toNat } else r

/-- REPLAY_DIVERGE of an instruction (R417), whose family has no INFO (R431). -/
def Issue.diverge (c : Issue) : Raise := { c.raise 0x71 with info0 := 0, info1 := 0 }

/-- The trap of an instruction, in a state. -/
def Issue.traps (c : Issue) (code : Nat) (s : State) (mask : BitVec 4 := 0) : Act := .trap (c.raise code mask) s

/-- Whether an instruction issues in a state, past its waits and checks, and as what. -/
def ready (i : Instr) (s : State) : Option Issue :=
  match issueOf i s with
  | none => none
  | some c => if c.blocked || c.passed s || c.check.isSome || c.struck != [] then none else some c

/-- The publish and the refresh of an instruction whose lanes are all dead (R194). -/
def Issue.ordersAlone (c : Issue) (s : State) : State :=
  match c.i with
  | .fence _ sc => if sc == .system then wcDrainStrand c.it.tile c.key s else s
  | i =>
    let o := orderOf i
    orderAfter c.it.tile o.1 o.2 (orderBefore c.it.tile c.key o.1 o.2 s)

/-- An instruction some of whose lanes read what cannot be read (R433): they die, and it completes in the others. -/
def Issue.strike (c : Issue) (s : State) (body : Issue → State → Act) : State :=
  let s := c.struck.foldl (fun s x => markDead c.key x.1 x.2 s) s
  match issueOf c.i s with
  | none => c.ordersAlone s
  | some d =>
    if d.set &&& c.set == 0 then c.ordersAlone s
    else if d.passed s then d.finish (.done s)
    else d.finish (body d s)

/-- An instruction issues (R89, R136, R137, R377, R433, R452): it waits, is passed over, traps, or does what `body` says
once its issues agree. -/
def issue (i : Instr) (s : State) (body : Issue → State → Act) : Host.Outcome State Fault Refusal :=
  match issueOf i s with
  | none => .fault (.noSuchStrand s.cur)
  | some c =>
    if c.blocked then .next (c.finish (.wait .issue s))
    else if c.passed s then .next (c.finish (.done s))
    else
      match c.check with
      | some code => .next (c.finish (.trap (c.refusal code) s))
      | none =>
        match c.upset s with
        | some u => .next (c.strike (c.vote u s) body)
        | none => if c.struck != [] then .next (c.strike s body) else .next (c.finish (body c s))

end Sys2Proof.Machine
end

