-- ==== Sys2Proof/Machine/Flags.lean ====
section
/-! DEFINITION. How results and flags reach a strand: register results per lane, and the flags of 02_number_formats.md
R41 ORed into FSTAT. -/

namespace Sys2Proof.Machine

/-- Flags ORed into FSTAT (R41). -/
def Strand.raiseFlags (f : Flags) (st : Strand) : Strand := { st with fstat := st.fstat ||| f }

/-- Every doing lane's destination written (R257); operands are read as at issue. -/
def Issue.put (c : Issue) (d : Opnd) (f : Nat → Word) (s : State) : Act :=
  .done (s.adjStrand c.key fun st => c.doers.foldl (fun st l => c.write l d (f l) st) st)

/-- The same for a pair (R129). -/
def Issue.putPair (c : Issue) (d : Opnd) (f : Nat → BitVec 64) (s : State) : Act :=
  .done (s.adjStrand c.key fun st => c.doers.foldl (fun st l => c.writePair l d (f l) st) st)

/-- Every doing lane's destination written and its flags ORed into FSTAT (R41, R257). -/
def Issue.putFlags (c : Issue) (d : Opnd) (f : Nat → Word × Flags) (s : State) : Act :=
  .done (s.adjStrand c.key fun st => c.doers.foldl (fun st l => (c.write l d (f l).1 st).raiseFlags (f l).2) st)

/-- Every doing lane's destination predicate written and its flags ORed into FSTAT. -/
def Issue.putPred (c : Issue) (p : BitVec 3) (f : Nat → Bool × Flags) (s : State) : Act :=
  .done (s.adjStrand c.key fun st => c.doers.foldl (fun st l => (c.writePred l p (f l).1 st).raiseFlags (f l).2) st)

/-! Draws (R31, R32, R387). -/

/-- The thread id and the counter that a lane's next draw uses: its own, or in crew code the recruiter's with the
iteration's place (R387). -/
def Issue.drawAt (c : Issue) (s : State) (st : Strand) (lane : Nat) : Nat × Nat :=
  let l := st.lanes.get lane
  match c.crew with
  | none => (threadId c.it c.st.inItem lane, l.draw.toNat)
  | some seat =>
    match Map.find seat.crew s.crews with
    | none => (threadId c.it c.st.inItem lane, l.draw.toNat)
    | some r =>
      let inItem := match s.strand r.recruiter with
        | some x => x.inItem
        | none => c.st.inItem
      (threadId c.it inItem r.lane, (r.drawBase.toNat + (l.iter + 1) * 2 ^ 40 + l.drawn) % 2 ^ 64)

/-- The value a lane's next draw gives (R31). -/
def Issue.drawValue (c : Issue) (s : State) (st : Strand) (lane : Nat) : Word :=
  let x := c.drawAt s st lane
  rngValue c.la.seed.toNat x.1 x.2

/-- A lane's draw counter advanced by one (R31); in crew code the iteration's count. -/
def Issue.drew (c : Issue) (lane : Nat) (st : Strand) : Strand :=
  st.adjLane lane fun l => if c.crew.isSome then { l with drawn := l.drawn + 1 } else { l with draw := l.draw + 1 }

/-- Every doing lane's destination written with a result that may use a draw, and its flags (R30, R32, R41). -/
def Issue.putDraw (c : Issue) (d : Opnd) (draws : Bool) (f : Nat → Nat → Word × Flags) (s : State) : Act :=
  .done (s.adjStrand c.key fun st => c.doers.foldl (fun st l =>
    let r := f l (if draws then (c.drawValue s st l).toNat else 0)
    let st := (c.write l d r.1 st).raiseFlags r.2
    if draws then c.drew l st else st) st)

end Sys2Proof.Machine
end

