-- ==== Sys2Proof/Machine/Access.lean ====
section
/-! DEFINITION. Memory accesses of strands (09_isa_memory_sync.md R217 to R231, 05_onchip_levels.md R93, R94, R104): how
an address is formed and checked, what one lane's access does at its level, the token rules that hold or report an
access (14_scheduling.md R411, R413), sequentially consistent stamps (08_consistency.md R203), faults and the operand
log (04_translation.md R90, R92), and watches (17_host_boot_debug.md R476). -/

namespace Sys2Proof.Machine

/-! What an access asks for. -/

/-- A memory access as its instruction describes it: load, store or atomic; space, order and scope; width in bytes,
type of the fill, destination, lookahead. -/
structure Access where
  op : Option AtomOp
  store : Bool
  m : MemMod
  n : Nat
  ty : Ty
  dest : Option Opnd
  la : Nat
deriving DecidableEq, Repr, Inhabited

/-- Bytes of a type (R218). -/
def tyBytes : Ty → Nat
  | .n8 | .s8 => 1
  | .n16 | .s16 => 2
  | .n32 => 4
  | .n64 => 8

/-- A load (R222). -/
def loadAccess (la : BitVec 4) (m : MemMod) (ty : Ty) (d : Opnd) : Access := ⟨none, false, m, tyBytes ty, ty, some d, la.toNat⟩

/-- A store (R222). -/
def storeAccess (la : BitVec 4) (m : MemMod) (ty : Ty) : Access := ⟨none, true, m, tyBytes ty, ty, none, la.toNat⟩

/-- An atomic (R228). -/
def atomAccess (op : AtomOp) (la : BitVec 4) (m : MemMod) (w : Bool) (d : Opnd) : Access :=
  ⟨some op, false, m, if w then 8 else 4, if w then .n64 else .n32, some d, la.toNat⟩

/-- The access that an instruction of the memory majors makes. -/
def accessOf : Instr → Option Access
  | .ld _ la m ty d _ _ | .gather _ la m ty d _ _ => some (loadAccess la m ty d)
  | .st _ la m ty _ _ _ | .scatter _ la m ty _ _ _ => some (storeAccess la m ty)
  | .atomAdd _ la m w d _ _ _ => some (atomAccess .add la m w d)
  | .atomMinS _ la m w d _ _ _ => some (atomAccess .minS la m w d)
  | .atomMinN _ la m w d _ _ _ => some (atomAccess .minN la m w d)
  | .atomMaxS _ la m w d _ _ _ => some (atomAccess .maxS la m w d)
  | .atomMaxN _ la m w d _ _ _ => some (atomAccess .maxN la m w d)
  | .atomAnd _ la m w d _ _ _ => some (atomAccess .and la m w d)
  | .atomOr _ la m w d _ _ _ => some (atomAccess .or la m w d)
  | .atomXor _ la m w d _ _ _ => some (atomAccess .xor la m w d)
  | .atomExch _ la m w d _ _ _ => some (atomAccess .exch la m w d)
  | .atomCas _ la m w d _ _ _ => some (atomAccess .cas la m w d)
  | .atomFadd _ la m w d _ _ _ => some (atomAccess .fadd la m w d)
  | .atomFmin _ la m w d _ _ _ => some (atomAccess .fmin la m w d)
  | .atomFmax _ la m w d _ _ _ => some (atomAccess .fmax la m w d)
  | .atomIncw _ la m w d _ _ _ => some (atomAccess .incw la m w d)
  | .atomDecw _ la m w d _ _ _ => some (atomAccess .decw la m w d)
  | _ => none

/-- Whether a member can travel over the host link (R77). (log 33 DEDUCED) -/
def hostedOp : AtomOp → Bool
  | .add | .exch | .cas => true
  | .minS | .minN | .maxS | .maxN | .and | .or | .xor | .fadd | .fmin | .fmax | .incw | .decw => false

/-- The kind of an access (R88). -/
def Access.kind (x : Access) : AccKind :=
  match x.op with
  | some o => .atomic (hostedOp o)
  | none => if x.store then .store else .load

/-- Whether an access reads back a value into registers. -/
def Access.loads (x : Access) : Bool := !x.store

/-- The spaces whose addresses are translated (R93). -/
def translatedSpace : Space → Bool
  | .dieScratch | .global | .host => true
  | .lanePrivate | .scratch | .shared | .acc | .remoteScratch => false

/-- Whether an ordered access goes to the line's home (R194). -/
def Access.home (x : Access) : Bool := x.m.ord != .none && 3 ≤ scopeNum x.m.scope

/-- The registers a load fills (R218): the value read, extended. -/
def fillTy (ty : Ty) (value : Nat) : List Word :=
  match ty with
  | .n8 | .n16 | .n32 => [BitVec.ofNat 32 value]
  | .n64 => [BitVec.ofNat 32 value, BitVec.ofNat 32 (value / 2 ^ 32)]
  | .s8 => [(BitVec.ofNat 8 value).signExtend 32]
  | .s16 => [(BitVec.ofNat 16 value).signExtend 32]

/-- The address a lane forms (R219): 33 bits in spaces 0 to 2 and 6, 64 bits elsewhere. -/
def Issue.address (c : Issue) (sp : Space) (lane : Nat) (a : Opnd) (disp : Int) : Nat :=
  if sp.pairAddr then lowBits 64 ((c.pair lane a).toNat + disp) else lowBits 33 ((c.reg lane a).toNat + disp)

/-! Atomic steps (R228 to R230). -/

/-- f(old, b, c) of R228 on operands of `w` bits, with flags. -/
def atomStep (op : AtomOp) (w old b c : Nat) : Nat × Flags :=
  match op with
  | .add => ((old + b) % 2 ^ w, 0)
  | .minS => (if signedOf w b < signedOf w old then b else old, 0)
  | .minN => (if b < old then b else old, 0)
  | .maxS => (if signedOf w old < signedOf w b then b else old, 0)
  | .maxN => (if old < b then b else old, 0)
  | .and => (old &&& b, 0)
  | .or => (old ||| b, 0)
  | .xor => (old ^^^ b, 0)
  | .exch => (b, 0)
  | .cas => (if old == c then b else old, 0)
  | .fadd => let r := round32 (Fp.add (read32 (BitVec.ofNat 32 old)) (read32 (BitVec.ofNat 32 b))); (r.1.toNat, r.2)
  | .fmin => let r := fpPick false (BitVec.ofNat 32 old) (BitVec.ofNat 32 b); (r.1.toNat, r.2)
  | .fmax => let r := fpPick true (BitVec.ofNat 32 old) (BitVec.ofNat 32 b); (r.1.toNat, r.2)
  | .incw => (if b ≤ old then 0 else (old + 1) % 2 ^ w, 0)
  | .decw => (if old == 0 || b < old then b else old - 1, 0)

/-! One lane's access at its level. -/

/-- What one lane's access answers: the value (before the step of an atomic), the source of R433 if the lane dies (0
if it lives), a cause that its completion raises, flags, its physical address and the key id of its data, whether its page
is shared, and whether a base die performed it. -/
structure Reply where
  value : Nat
  dead : Nat := 0
  lost : Option Nat := none
  flags : Flags := 0
  pa : Nat := 0
  key : Nat := 0
  sh : Bool := false
  side : Bool := false
deriving DecidableEq, Repr, Inhabited

/-- A memory of words under one check code each (R433), with the words that cannot be read. -/
structure Level where
  mem : Memory
  bad : List Nat
  unit : Nat
deriving DecidableEq, Repr, Inhabited

/-- Whether some of `n` bytes lie in an unreadable word. -/
def Level.hits (l : Level) (off n : Nat) : Bool := l.bad.any fun w => off < l.unit * (w + 1) && l.unit * w < off + n

/-- Bytes written; a word written whole becomes readable (R433). -/
def Level.store (l : Level) (off : Nat) (bytes : List Byte) : Level :=
  { l with
    mem := l.mem.writeBytes off bytes
    bad := l.bad.filter fun w => !(off ≤ l.unit * w && l.unit * (w + 1) ≤ off + bytes.length) }

/-- Bytes read as a number. -/
def Level.load (l : Level) (off n : Nat) : Nat := ofLeBytes (l.mem.readBytes off n)

/-- An access performed in a memory (R222, R229); an unreadable word gives poison, and an atomic then stores nothing
(R224, R231). -/
def Level.perform (l : Level) (x : Access) (off data cmp : Nat) : Level × Reply :=
  let dead := l.hits off x.n
  match x.op with
  | some op =>
    if dead then (l, { value := poison (8 * x.n), dead := 1 })
    else
      let old := l.load off x.n
      let r := atomStep op (8 * x.n) old data cmp
      (l.store off (leBytes x.n r.1), { value := old, flags := r.2 })
  | none =>
    if x.store then (l.store off (leBytes x.n data), { value := 0 })
    else if dead then (l, { value := poison (8 * x.n), dead := 1 })
    else (l, { value := l.load off x.n })

/-- The scratchpad region of a launch on a tile. -/
def scrLevel (s : State) (tile launch : Nat) : Level :=
  let h := s.heldAt tile launch
  ⟨h.scr, h.bad, 16⟩

/-- A launch's scratchpad region replaced. -/
def setScr (tile launch : Nat) (l : Level) (s : State) : State :=
  s.adjHeld tile launch fun h => { h with scr := l.mem, bad := l.bad }

/-- The cluster-shared region of a convoy. -/
def Convoy.level (cv : Convoy) : Level := ⟨cv.shared, cv.bad, 16⟩

/-- A convoy's region replaced. -/
def setShared (k : Nat) (l : Level) (s : State) : State :=
  { s with convoys := Map.adjust k (fun cv => { cv with shared := l.mem, bad := l.bad }) s.convoys }

/-- The answer where a fenced tile holds the bytes (R104, R436). (log 28 DEDUCED) -/
def fencedReply (x : Access) : Reply := { value := poison (8 * x.n), lost := some 0x2D }

/-- An access to a region of a tile's scratchpad (R97, R104). -/
def scrAccess (tile launch : Nat) (x : Access) (off data cmp : Nat) (s : State) : State × Reply :=
  if tileDown s tile then (s, fencedReply x)
  else
    let r := (scrLevel s tile launch).perform x off data cmp
    (if x.store || x.op.isSome then setScr tile launch r.1 s else s, r.2)

/-- The tile whose share holds an offset of a convoy's region (R103). -/
def shareTile (cv : Convoy) (off : Nat) : Nat := tileAt cv.cluster (off / 256 % 4)

/-- An access to a convoy's cluster-shared region (R103). -/
def sharedAccess (convoy : Nat) (x : Access) (off data cmp : Nat) (s : State) : State × Reply :=
  match Map.find convoy s.convoys with
  | none => (s, { value := 0 })
  | some cv =>
    if tileDown s (shareTile cv off) then (s, fencedReply x)
    else
      let r := cv.level.perform x off data cmp
      (if x.store || x.op.isSome then setShared convoy r.1 s else s, r.2)

/-- An access to a lane's own window (R96); an unreadable word kills the lane by source 3 (R433). -/
def laneAccess (k lane : Nat) (x : Access) (off data cmp : Nat) (s : State) : State × Reply :=
  match s.strand k with
  | none => (s, { value := 0 })
  | some st =>
    let l := st.lanes.get lane
    let r := (⟨l.lp, l.bad, 4⟩ : Level).perform x off data cmp
    (s.setStrand k (st.adjLane lane fun l => { l with lp := r.1.mem, bad := r.1.bad }),
      { r.2 with dead := if r.2.dead == 0 then 0 else 3 })

/-- The issuing tile's dirty bytes of a line written to its home before an atomic (R229). -/
def ownDirtyHome (tile pline : Nat) (s : State) : State :=
  match (s.tile tile).l1.find? fun l => l.pline == pline with
  | some l =>
    (writeBack tile l s).setL1 tile ((s.tile tile).l1.map fun y => if y.pline == pline then { y with dirty := 0 } else y)
  | none => s

/-- An atomic performed at the place that its page's AP names: the base die, the L2 home or the host (R77, R229, R231). The
answer, and the value that was stored, if one was. (log 27 DEDUCED) -/
def homeAtomic (req : HomeReq) (ap : Nat) (sh : Bool) (n : Nat) (op : AtomOp) (pa data cmp : Nat) (s : State) :
    State × Reply × Option Nat :=
  let line := pa / 256
  let none_ : Reply := { value := poison (8 * n), pa := pa, key := req.key, sh := sh }
  let step (old : Nat) : Nat × Flags := atomStep op (8 * n) old data cmp
  let mask := spanMask (pa % 256) n
  let place (value : Nat) : Nat := value * 256 ^ (pa % 256)
  let done (old : Nat) : Reply × Option Nat := ({ none_ with value := old, flags := (step old).2 }, some (step old).1)
  if inHost pa then
    if hostGone s then (s, { none_ with lost := some 0x64 }, none)
    else
      let old := sliceLine (hostLine s line) (pa % 256) n
      (homeWrite { req with alloc := false } line (place (step old).1) mask s, done old)
  else if ap == 1 then
    let s := l2Evict line s
    let m := if req.counted then countAccess req.src req.key pa s.mem else s.mem
    let g := granuleRead m req.key line
    if (sectorsOf (pa % 256) n).any (bitOf (badOf g.1 line)) then ({ s with mem := g.1 }, { none_ with dead := 1, side := true }, none)
    else
      let old := sliceLine g.2 (pa % 256) n
      ({ s with mem := granuleWrite g.1 req.key line (place (step old).1) mask }, { (done old).1 with side := true }, (done old).2)
  else
    let r := homeRead req line s
    if (sectorsOf (pa % 256) n).any (bitOf r.2.bad) then (r.1, { none_ with dead := 1 }, none)
    else
      let old := sliceLine r.2.data (pa % 256) n
      (homeWrite { req with counted := false } line (place (step old).1) mask r.1, done old)

/-- Whether the page of an L1 line lets an atomic be performed (R77), as its copied AP and its physical address say; where
not, the atomic is translated, which raises the cause. (log 136 DEDUCED) -/
def L1Line.serves (l : L1Line) (hosted : Bool) : Bool :=
  if l.ap ≤ 1 then inHbm (256 * l.pline) else hosted && inHost (256 * l.pline)

/-- An atomic of a tile at the home of a line (R229): the tile's dirty bytes go there first, and its copy of the line is
updated with the result. -/
def tileAtomic (v : Viewer) (x : Access) (op : AtomOp) (pa key ap : Nat) (sh phased : Bool) (data cmp : Nat) (s : State) :
    State × Reply :=
  let line := pa / 256
  let r := homeAtomic (v.req s key phased) ap sh x.n op pa data cmp (ownDirtyHome v.tile line s)
  (match r.2.2 with
    | some new => l1Update v.tile line (new * 256 ^ (pa % 256)) (spanMask (pa % 256) x.n) r.1
    | none => r.1, r.2.1)

/-- An atomic of a strand (R77, R80, R105, R229): by the line it hits, or at the place its translation names. -/
def virtAtomic (v : Viewer) (x : Access) (op : AtomOp) (addr data cmp : Nat) (s : State) :
    State × Except PageFault Reply :=
  match (l1WriteHit s v.tile v.asid x.m.space addr).filter (·.serves (hostedOp op)) with
  | some l =>
    let r := tileAtomic v x op (l.place addr) l.key l.ap l.sh true data cmp s
    (r.1, .ok r.2)
  | none =>
    let t := translate v.tile v.asid v.priv x.kind x.m.space addr s
    match t.2 with
    | .error f => (t.1, .error f)
    | .ok y =>
      let s := t.1
      if x.m.space == .dieScratch then
        let lost : Reply := { value := poison (8 * x.n), pa := y.pa, key := y.key, sh := leafSH y.leaf }
        if dieBad s y.pa x.n then (s, .ok { lost with dead := 1 })
        else
          let old := dieRead s y.pa x.n
          let r := atomStep op (8 * x.n) old data cmp
          (dieWrite s y.pa (leBytes x.n r.1), .ok { lost with value := old, flags := r.2 })
      else
        let s := if leafMT y.leaf == 2 then wcDrainLine v (y.pa / 256) s else s
        let r := tileAtomic v x op y.pa y.key (leafAP y.leaf) (leafSH y.leaf) (leafMT y.leaf == 0) data cmp s
        (r.1, .ok r.2)

/-- A load, store or atomic in space 3, 4 or 5 (R223, R229). -/
def virtAccess (v : Viewer) (x : Access) (home : Bool) (addr data cmp : Nat) (s : State) : State × Except PageFault Reply :=
  match x.op with
  | some op => virtAtomic v x op addr data cmp s
  | none =>
    if x.store then
      let r := virtStore v x.m.space home addr x.n data s
      (r.1, r.2.map fun y =>
        { value := 0, lost := if y.gone then some 0x64 else none, pa := y.pa, key := y.key, sh := y.sh })
    else
      let r := virtLoad v x.m.space home addr x.n s
      (r.1, r.2.map fun y =>
        { value := if y.gone || y.bad then poison (8 * x.n) else y.value, dead := if y.bad && !y.gone then 1 else 0
          lost := if y.gone then some 0x64 else none, pa := y.pa, key := y.key, sh := y.sh })

/-- Who the strand of an issue is to memory. -/
def Issue.viewer (c : Issue) : Viewer := ⟨c.it.tile, c.la.asid, c.la.priv, c.key, true⟩

/-- One lane's access (R223). -/
def Issue.reach (c : Issue) (x : Access) (v : Viewer) (home : Bool) (l : LogLane) (s : State) :
    State × Except PageFault Reply :=
  let plain (r : State × Reply) : State × Except PageFault Reply := (r.1, .ok r.2)
  match x.m.space with
  | .lanePrivate => plain (laneAccess c.key l.lane x l.addr l.data l.cmp s)
  | .scratch => plain (scrAccess c.it.tile c.it.launch x l.addr l.data l.cmp s)
  | .shared => plain (sharedAccess c.it.convoy x l.addr l.data l.cmp s)
  | .remoteScratch => plain (scrAccess (bitsOf l.addr 32 21) c.it.launch x (bitsOf l.addr 20 0) l.data l.cmp s)
  | .acc => (s, .ok { value := 0 })
  | .dieScratch | .global | .host => virtAccess v x home l.addr l.data l.cmp s

/-! The checks of R220. -/

/-- Whether an access of `n` bytes passes the bound of its space (R93, R94, R96, R104). -/
def Issue.beyond (c : Issue) (s : State) (sp : Space) (n ea : Nat) : Bool :=
  let st := stageOf c.la c.it
  match sp with
  | .lanePrivate => c.crew.isSome || st.lpriv - st.spill < ea + n
  | .scratch => c.la.scrtile < ea + n
  | .shared => c.la.cshare < ea + n
  | .remoteScratch =>
    let t := bitsOf ea 32 21
    2 ^ 33 ≤ ea || 768 ≤ t || c.la.scrtile < bitsOf ea 20 0 + n
      || ((Map.find (heldKey t c.it.launch) s.held).isNone && !(tileDown s t && c.la.lostOn.contains t))
  | .acc => (stageOf c.la c.it).accrows * 2048 < ea + n
  | .dieScratch | .global | .host => false

/-- The checks of R220 in their order, each with the addresses it turns down. (log 29 DEDUCED) -/
def Issue.accessChecks (c : Issue) (s : State) (x : Access) : List (Nat × (Nat → Bool)) :=
  [(0x28, fun _ => x.m.space == .acc || (x.op.isSome && x.m.space == .lanePrivate)),
   (0x22, fun ea => translatedSpace x.m.space && !canonical ea),
   (0x27, fun ea => ea % x.n != 0),
   (0x26, c.beyond s x.m.space x.n)]

/-- The first check that fails and the entries it fails for. -/
def Issue.accessFails (c : Issue) (s : State) (x : Access) (ls : List LogLane) : Option (Nat × List LogLane) :=
  (c.accessChecks s x).findSome? fun k =>
    match ls.filter fun l => k.2 l.addr with
    | [] => none
    | bad => some (k.1, bad)

/-- TRDETAIL (R88). -/
def trDetail (va level kind : Nat) : Nat := va57 va * 128 + level * 16 + kind * 4

/-- The mask of some lanes. -/
def laneMask (ls : List LogLane) : BitVec 4 := maskOf fun i => ls.any (·.lane == i)

/-- INFO0 of the space causes (R431). -/
def Issue.spaceInfo (c : Issue) (sp : Space) (lane : Nat) : Nat := sp.code.toNat + (c.st.inItem * 4 + lane) * 256

/-- The trap of a check that failed in some lanes, the lowest first (R220, R431). -/
def Issue.accessRaise (c : Issue) (x : Access) (code : Nat) (bad : List LogLane) : Raise :=
  let r := c.raise code (laneMask bad)
  match bad with
  | [] => r
  | l :: _ =>
    if pageCause code then
      let t := trDetail l.addr 0 x.kind.code
      { r with info1 := t, trdetail := t }
    else { r with info0 := c.spaceInfo x.m.space l.lane, info1 := l.addr }

/-! Deterministic launches (R411, R413). -/

/-- Whether an item holds its launch's commit token, and the decrements that its arrival waits for have been applied
(R410, R412). -/
def holdsToken (la : Launch) (it : Item) (item : Nat) : Bool :=
  la.token.ring[la.token.holder]? == some item && it.deferred.all fun d => it.passes ≤ d.pass

/-- Whether an instruction that is held for the token must wait for it (R411). -/
def Issue.awaitsToken (c : Issue) : Bool := c.la.det && !holdsToken c.la c.it c.st.item

/-- Whether some address of a store or an atomic lies in a shared page, by the copy of SH in the line it hits or by its
translation (R78, R80). -/
def Issue.touchesShared (c : Issue) (x : Access) (ls : List LogLane) (s : State) : Bool :=
  x.m.space == .global && ls.any fun l =>
    match l1WriteHit s c.it.tile c.la.asid x.m.space l.addr with
    | some h => h.sh
    | none =>
      match (translate c.it.tile c.la.asid c.la.priv x.kind x.m.space l.addr s).2 with
      | .ok y => leafSH y.leaf
      | .error _ => false

/-- Whether a store or an atomic is held until the item holds the token (R78, R411). -/
def Issue.heldBack (c : Issue) (x : Access) (ls : List LogLane) (s : State) : Bool :=
  c.la.det && !holdsToken c.la c.it c.st.item && (x.store || x.op.isSome) && c.touchesShared x ls s

/-- The tags after a write to a line: a deterministic launch that writes under its token tags the line; the launches
whose tags another launch's write meets lose their reproducibility (R413). (log 62 DEDUCED) -/
def tagWrite (launch pa : Nat) (sh hold : Bool) (s : State) : State :=
  let line := pa / 256
  { s with
    launches := s.launches.map fun x =>
      if x.1 == launch then
        (x.1, if x.2.det && sh && hold && !x.2.tags.contains line then { x.2 with tags := x.2.tags ++ [line] } else x.2)
      else if x.2.tags.contains line then (x.1, { x.2 with detbreak := true }) else x }

/-- Whether another launch's tags name a line (R413). -/
def foreignTag (s : State) (launch pa : Nat) : Bool := s.launches.any fun x => x.1 != launch && x.2.tags.contains (pa / 256)

/-! Sequentially consistent stamps (R203). -/

/-- The unit that performs an access (R203): a scratchpad bank of a tile, or an L2 home slice (0 to 255), a
die-scratchpad slice (256 to 511) or a base-die atomic unit (512 on). Lane-private and accumulator memory, for which no unit
is listed, take the tile's bank 0, and an access below package scope is stamped at the home slice of its line though the
L1 serves it. (log 149 DESIGN CHOICE) -/
def Issue.unitOf (c : Issue) (s : State) (x : Access) (ea pa : Nat) (side : Bool) : Option Nat × Nat :=
  let bank (t off : Nat) : Option Nat × Nat := (some t, ((s.heldAt t c.it.launch).region + off) / 16 % 192)
  match x.m.space with
  | .lanePrivate | .acc => (some c.it.tile, 0)
  | .scratch => bank c.it.tile ea
  | .remoteScratch => bank (bitsOf ea 32 21) (bitsOf ea 20 0)
  | .shared =>
    match Map.find c.it.convoy s.convoys with
    | some cv => (some (shareTile cv ea), 192 + (cv.base + ea / 1024 * 256 + ea % 256) / 16 % 32)
    | none => (some c.it.tile, 0)
  | .dieScratch => (none, 256 + (pa - hbmEnd) / 0x3000000 * 32 + (pa - hbmEnd) % 0x3000000 / 256 % 32)
  | .global | .host => (none, if side then 512 + pa / 256 % 12 else homeSlice pa)

/-- A stamp at a unit: the issuing tile's Lamport clock and the unit's timestamp advance (R203). (log 132 DEDUCED) -/
def stampSc (tile : Nat) (u : Option Nat × Nat) (s : State) : State :=
  let t := s.tile tile
  let ts := t.lclock + 1
  let old := match u.1 with
    | some k => Table.get 0 u.2 (s.tile k).scUnits
    | none => Table.get 0 u.2 s.l2units
  let ts : BitVec 64 := if ts.toNat < old.toNat + 1 then old + 1 else ts
  let s := match u.1 with
    | some k => s.setTile k { s.tile k with scUnits := Table.put 0 u.2 ts (s.tile k).scUnits }
    | none => { s with l2units := Table.put 0 u.2 ts s.l2units }
  s.setTile tile { s.tile tile with lclock := ts }

/-! A whole access. -/

/-- What the lanes of an access have done so far: by strand, the lanes that have their answers and those that fault. -/
structure Sweep where
  s : State
  got : List (Nat × LogLane × Reply)
  faults : List (Nat × LogLane × PageFault)
  hit : List Nat

/-- One entry of an access performed, with its stamp, its tags and its place in the access counters (R65): the lanes of
an atomic that name one address are one request (R205). -/
def Sweep.entry (x : Access) (home packet : Bool) (w : Sweep) (c : Issue) (l : LogLane) : Sweep :=
  let again := x.op.isSome && w.got.any fun g => g.2.1.addr == l.addr
  let r := c.reach x { c.viewer with counted := !packet && !again } home l w.s
  match r.2 with
  | .error f => { w with s := r.1, faults := w.faults ++ [(c.key, l, f)] }
  | .ok y =>
    let s := if x.m.ord == .sc && !again then stampSc c.it.tile (c.unitOf w.s x l.addr y.pa y.side) r.1 else r.1
    let writes := x.store || x.op.isSome
    let foreign := writes && x.m.space == .global && foreignTag s c.it.launch y.pa
    let s := if writes && x.m.space == .global then tagWrite c.it.launch y.pa y.sh (holdsToken c.la c.it c.st.item) s else s
    let counts := packet && x.m.space == .global && (Map.find (y.pa / 256) w.s.l2).isNone
      && !w.hit.contains (y.pa / 256 % 12)
    let s := if counts then { s with mem := countAccess .local y.key y.pa s.mem } else s
    let y := if foreign then { y with lost := some 0x170 } else y
    { w with s := s, got := w.got ++ [(c.key, l, y)]
             hit := if counts then w.hit ++ [y.pa / 256 % 12] else w.hit }

/-- A cause that an access raises when it completes (R413, R436): INFO0 and INFO1 by R431. -/
def Issue.lateCause (c : Issue) (x : Access) (code : Nat) (ls : List (LogLane × Reply)) : Raise :=
  let r := { c.raise (code % 256) (laneMask (ls.map (·.1))) with origin := 4, precise := false }
  match ls with
  | [] => r
  | (l, _) :: _ =>
    if code == 0x2D then { r with info0 := c.spaceInfo x.m.space l.lane, info1 := l.addr }
    else if code == 0x64 then { r with info0 := 0x7F, info1 := l.addr }
    else { r with info0 := if code == 0x170 then 0 else 1, info1 := l.addr / 256 * 256 }

/-- The causes an access raises, each once (R436). (log 105 DEDUCED) -/
def Issue.lateCauses (c : Issue) (x : Access) (got : List (LogLane × Reply)) : List Raise :=
  let of (code : Nat) : List Raise :=
    match got.filter fun g => g.2.lost == some code with
    | [] => []
    | ls => [c.lateCause x code ls]
  let unheld : List Raise :=
    if c.la.det && x.m.space == .global && x.loads && x.op.isNone && !holdsToken c.la c.it c.st.item then
      match got.filter (·.2.sh) with
      | [] => []
      | ls => [c.lateCause x 0x270 ls]
    else []
  of 0x2D ++ of 0x64 ++ of 0x170 ++ unheld

/-- The registers of one lane that an access writes (R218). -/
def Issue.fills (c : Issue) (x : Access) (l : LogLane) (y : Reply) : List RegWrite :=
  match x.dest with
  | none => []
  | some d => (fillTy x.ty y.value).zipIdx.map fun w => ⟨l.lane, c.index d + w.2, w.1⟩

/-- The registers of some lanes that an access locks (R130). -/
def Issue.locks (c : Issue) (x : Access) (ls : List LogLane) : List (Nat × Nat) :=
  match x.dest with
  | none => []
  | some d => ls.flatMap fun l => (upTo (if x.ty.isPair then 2 else 1)).map fun k => (l.lane, c.index d + k)

/-- The instruction in flight after its lanes have been served (R130, R224). -/
def Issue.inFlight (c : Issue) (x : Access) (id : Nat) (got : List (LogLane × Reply)) : Pending :=
  { id := id, kind := if x.store then .store else .load, pc := c.pc, w1 := c.w1, w2 := c.w2, left := x.la
    locks := c.locks x (got.map (·.1)), writes := got.flatMap fun g => c.fills x g.1 g.2, preds := []
    poisoned := laneMask ((got.filter fun g => g.2.lost == some 0x2D || g.2.lost == some 0x64 || g.2.dead == 1).map (·.1))
    killed := laneMask ((got.filter fun g => g.2.dead == 1).map (·.1))
    flags := got.foldl (fun f g => f ||| g.2.flags) 0
    causes := c.lateCauses x got, ready := false, logged := false
    ifGone := if x.m.space == .host && x.loads then
        some (got.flatMap fun g => c.fills x g.1 { g.2 with value := poison (8 * x.n) },
          c.lateCause x 0x64 got)
      else none }

/-- The translation trap of an access, by its lowest faulting lane (R88, R90, R430). -/
def Issue.pageRaise (c : Issue) (x : Access) (faults : List (LogLane × PageFault)) : Raise :=
  match faults with
  | [] => c.raise 0
  | (l, f) :: _ =>
    let t := trDetail l.addr f.level x.kind.code
    { c.raise f.cause (laneMask (faults.map (·.1))) with info1 := t, trdetail := t }

/-- The lanes that an access has served, and those that fault, put into flight and into the operand log under a number
and the next one (R90, R130); `hold` says that the instruction stays in flight for other strands' logs (R227). (log 133 DEDUCED) -/
def Issue.record (c : Issue) (x : Access) (id : Nat) (hold : Bool) (got : List (LogLane × Reply))
    (faults : List (LogLane × PageFault)) (s : State) : State :=
  let s := (got.filter fun g => g.2.dead == 3).foldl (fun s g => markDead c.key g.1.lane 3 s) s
  let p := c.inFlight x id got
  let idle := got == [] || (x.store && p.causes == [] && p.poisoned == 0 && !hold)
  let s := if p.causes.any fun r => r.code == 0x70 && r.info0 == 1 then
      s.adjLaunch c.it.launch fun la => { la with detbreak := true }
    else s
  let s := if idle then s
    else (s.adjStrand c.key fun st => { st with pend := st.pend ++ [p] }).later (.loadWriteback c.key id)
  if faults == [] then s
  else
    let ls := faults.map (·.1)
    let q : Pending := { c.inFlight x (id + 1) [] with locks := c.locks x ls, logged := true }
    s.adjStrand c.key fun st => { st with
      pend := st.pend ++ [q], oplog := st.oplog ++ [⟨id + 1, c.pc, c.w1, c.w2, c.st.xi, ls⟩] }

/-! Watches (R476). -/

/-- Whether a watch matches an access to some bytes. (log 35 DEDUCED) -/
def Watch.matches (w : Watch) (x : Access) (ea : Nat) : Bool :=
  let kinds := match w.kind with
    | .ld => !x.store
    | .st => x.store || x.op.isSome
    | .ldst => true
  kinds && w.space == x.m.space && w.addr < ea + x.n && ea < w.addr + w.len

/-- The trap of a watch that an access has touched. -/
def Issue.watchRaise (c : Issue) (x : Access) (ls : List LogLane) (s : State) : Option Raise :=
  if c.st.handler.isSome || c.crew.isSome then none
  else
    let ws := (s.heldAt c.it.tile c.it.launch).watches
    match ls.filter fun l => ws.any fun w => w.2.matches x l.addr with
    | [] => none
    | l :: rest => some { c.raise 0x77 (laneMask (l :: rest)) with info1 := l.addr, origin := 5 }

/-! Whole accesses. -/

/-- The end of an access in one strand: it goes on, traps after the access for a watch, or takes the translation trap
with its executing lanes moved past it (R90). -/
def Issue.conclude (c : Issue) (x : Access) (ls : List LogLane) (faults : List (LogLane × PageFault)) (s : State) : Act :=
  if faults == [] then
    match c.watchRaise x ls s with
    | some r => .doneTrap r s
    | none => .done s
  else
    let s := s.adjStrand c.key fun st => { (c.advance st).countWindow c.st.pend with wait := .none }
    .over (trap c.key (c.pageRaise x faults) s)

/-- LD, ST or ATOM by the active lanes of a strand, each with its operands (R220, R222, R229). (log 30 DESIGN CHOICE) -/
def Issue.access (c : Issue) (x : Access) (ls : List LogLane) (s : State) : Act :=
  match c.accessFails s x ls with
  | some (code, bad) => .trap (c.accessRaise x code bad) s
  | none =>
    if c.heldBack x ls s then .wait .token s
    else
      let s := orderBefore c.it.tile c.key x.m.ord x.m.scope s
      let w := ls.foldl (fun w l => w.entry x x.home false c l) (⟨s, [], [], []⟩ : Sweep)
      let s := orderAfter c.it.tile x.m.ord x.m.scope w.s
      let got := w.got.map fun g => (g.2.1, g.2.2)
      let faults := w.faults.map fun g => (g.2.1, g.2.2)
      let id := s.nextId
      c.conclude x ls faults (c.record x id false got faults { s with nextId := id + 2 })

/-! GATHER and SCATTER (R225 to R227). -/

/-- GATHER or SCATTER performed once for the strands that stand at it, every present entry with its item lane. (log 34 DEDUCED) -/
def performPacket (x : Access) (cs : List Issue) (entries : List (Nat × Issue × LogLane)) (s : State) : State :=
  match cs with
  | [] => s
  | c0 :: _ =>
    let es := (entries.sortedBy fun a b => a.1 ≤ b.1)
    let ls := es.map (·.2.2)
    match c0.accessFails s x ls with
    | some (code, _) =>
      let bad (e : Nat × Issue × LogLane) : Bool := ((c0.accessFails s x [e.2.2]).map (·.1)) == some code
      match es.filter bad with
      | [] => s
      | e :: rest =>
        let mine := (e :: rest).filter fun y => y.2.1.key == e.2.1.key
        e.2.1.finish (.trap (e.2.1.accessRaise x code (mine.map (·.2.2))) s)
    | none =>
      if es.any fun e => e.2.1.heldBack x [e.2.2] s then s
      else
        let s := cs.foldl (fun s c => orderBefore c.it.tile c.key x.m.ord x.m.scope s) s
        let w := es.foldl (fun w e => w.entry x true true e.2.1 e.2.2) (⟨s, [], [], []⟩ : Sweep)
        let s := orderAfter c0.it.tile x.m.ord x.m.scope w.s
        let id := s.nextId
        let s := { s with nextId := id + 2 }
        cs.foldl (fun s c =>
          let got := (w.got.filter fun g => g.1 == c.key).map fun g => (g.2.1, g.2.2)
          let faults := (w.faults.filter fun g => g.1 == c.key).map fun g => (g.2.1, g.2.2)
          let s := s.adjStrand c.key fun st => { st.mapLanes c.set fun l => { l with atOp := none } with cur := c.set }
          let mine := (es.filter fun e => e.2.1.key == c.key).map (·.2.2)
          c.finish (c.conclude x mine faults (c.record x id (w.faults != []) got faults s))) s

/-! The end of an access, and replays. -/

/-- Whether a strand holds the log entry of a number, not yet replayed or dropped. -/
def Strand.logs (st : Strand) (id : Nat) : Bool := st.pend.any fun p => p.logged && p.id == id

/-- Whether another strand of the item still holds the log entry that a GATHER or SCATTER left there (R227). -/
def othersLog (s : State) (k id : Nat) : Bool :=
  match s.strand k with
  | none => false
  | some st =>
    match Map.find st.item s.items with
    | none => false
    | some it => it.strands.any fun j => j != k &&
        match s.strand j with
        | some x => x.logs (id + 1)
        | none => false

/-- Whether what an access has served waits for another strand's log entry; where the strand has one of its own, its
handler comes first (R90, R227). -/
def awaitsOthers (s : State) (k id : Nat) : Bool :=
  match s.strand k with
  | none => false
  | some st => !st.logs (id + 1) && othersLog s k id

/-- The response of an access reaches its strand (R130): what it owes is written at once where the window is over. -/
def respond (k id : Nat) (s : State) : State :=
  if awaitsOthers s k id then s
  else settle false k (s.adjStrand k fun st => { st with
    pend := st.pend.map fun p => if p.id == id then { p with ready := true } else p })

/-- An entry of the operand log cleared: its destination is unlocked (R91, R92). A GATHER or SCATTER that other strands
still log stays in flight (R227). -/
def clearEntry (k : Nat) (e : LogEntry) (s : State) : State :=
  let s := wakeOthers k [e.id] (s.adjStrand k (·.unlog [e.id]))
  if othersLog s k (e.id - 1) then
    s.adjStrand k fun st => { st with
      pend := st.pend ++ [{ id := e.id - 1, kind := .store, pc := e.pc, w1 := e.w1, w2 := e.w2, left := 0, locks := [], writes := []
                            preds := [], poisoned := 0, killed := 0, flags := 0, causes := [], ready := false, logged := false }] }
  else s

/-- An entry of the operand log performed again for its lanes (R92): the trap it raises if it faults again. -/
def replayEntry (k : Nat) (e : LogEntry) (s : State) : State × Option Raise :=
  match decode e.w1 e.w2 with
  | .error _ => (clearEntry k e s, none)
  | .ok i =>
    match accessOf i, issueOf i { s with cur := k } with
    | some x, some c =>
      let live := c.st.live
      let ls := e.lanes.filter fun l => live.getLsbD l.lane
      let c := { c with st := { c.st with xi := e.xi }, uniform := false, active := laneMask ls, pc := e.pc }
      let s := orderBefore c.it.tile k x.m.ord x.m.scope s
      let w := ls.foldl (fun w l => w.entry x (x.home || c.major == 0x62 || c.major == 0x63) false c l) (⟨s, [], [], []⟩ : Sweep)
      let s := orderAfter c.it.tile x.m.ord x.m.scope w.s
      let got := w.got.map fun g => (g.2.1, g.2.2)
      let faults := w.faults.map fun g => (g.2.1, g.2.2)
      let s := (got.filter fun g => g.2.dead == 3).foldl (fun s g => markDead k g.1.lane 3 s) s
      let p := { c.inFlight x e.id got with ready := true }
      if faults == [] then (complete k p (clearEntry k e s), none)
      else
        let keep := faults.map (·.1)
        let s := complete k { p with id := 0 } s
        let s := s.adjStrand k fun st => { st with
          oplog := st.oplog.map fun y => if y.id == e.id then { y with lanes := keep } else y
          pend := st.pend.map fun q => if q.id == e.id then { q with locks := c.locks x keep } else q }
        (s, some { c.pageRaise x faults with hmask := laneMask keep })
    | _, _ => (clearEntry k e s, none)

/-- The operand log replayed in order, each entry with its DROP bit (R92): a dropped entry is cleared, and a new fault stops
the replay. -/
def replayLog (k : Nat) : List (Bool × LogEntry) → State → State
  | [], s => s
  | (dropped, e) :: es, s =>
    if dropped then replayLog k es (clearEntry k e s)
    else
      let r := replayEntry k e s
      match r.2 with
      | none => replayLog k es r.1
      | some t => trap k t r.1

end Sys2Proof.Machine
end

