-- ==== Sys2Proof/Machine/LaneOps.lean ====
section
/-! DEFINITION. The lane operations (10_isa_compute.md R277 to R282): a lane arrives when its strand issues one, and the
operation at the lowest offset is performed when every live lane has arrived or exited. -/

namespace Sys2Proof.Machine

/-- A lane of a lane operation: its strand, its place there, and its number j (R277, R280). -/
structure OpLane where
  key : Nat
  lane : Nat
  j : Nat
deriving DecidableEq, Repr, Inhabited

/-- The strands whose lanes a strand's lane operation spans (R277): in a handler or in crew code its own, else the
item's. (log 49 DEDUCED) -/
def opStrands (k : Nat) (st : Strand) (it : Item) : List Nat :=
  if st.handler.isSome || st.seat.isSome then [k] else it.strands

/-- The number of a lane in its strand's lane operations (R238, R277): its item lane, in crew code its place in the helper's
strand, and 0 for the recruiter alone. -/
def Strand.opNumber (st : Strand) (lane : Nat) : Nat :=
  match st.seat with
  | some seat => if seat.first == 0 then 0 else lane
  | none => st.inItem * 4 + lane

/-- The lanes that an operation spans and that still can take part; a strand in handler mode holds back the lanes it has
set aside (R426). -/
def opLanes (s : State) (k : Nat) (st : Strand) (it : Item) : List OpLane :=
  let own := st.handler.isSome || st.seat.isSome
  (opStrands k st it).flatMap fun k' =>
    match s.strand k' with
    | some x => (lanesIn (if own then x.pool else x.live)).map fun l => ⟨k', l, x.opNumber l⟩
    | none => []

/-- The number of item lanes, W (R277, R280): of a handler's too, whose lanes keep their numbers. (log 49 DEDUCED) -/
def opWidth (st : Strand) (la : Launch) (it : Item) : Nat :=
  match st.seat with
  | some seat => if seat.first == 0 then 1 else 4
  | none => 4 * (stageOf la it).width

/-- Whether a lane has arrived at a lane operation (R277); the lanes of a strand in handler mode have not, for the item's
other strands. -/
def OpLane.arrived (s : State) (own : Bool) (x : OpLane) : Option (Flow × Instr) :=
  match s.strand x.key with
  | none => none
  | some st =>
    if st.handler.isSome && !own then none
    else (st.lanes.get x.lane).atOp.map fun i => ((st.lanes.get x.lane).flow, i)

/-- The point at which the next operation is performed: the lowest offset, ties to the greatest depth (R277); none while
some lane has not arrived. -/
def opPoint (s : State) (own : Bool) (ls : List OpLane) : Option (Flow × Instr) :=
  let at_ := ls.map (·.arrived s own)
  if at_.any Option.isNone then none
  else
    match at_.filterMap id with
    | [] => none
    | x :: xs => some (xs.foldl (fun b y => if y.1.before b.1 then y else b) x)

/-- One combination of REDUX and CRWRED (R282). -/
def combineFold (op : FoldOp) (a b : Word) : Word × Flags :=
  match op with
  | .add => (a + b, 0)
  | .minS => (if b.toInt < a.toInt then b else a, 0)
  | .minN => (if b.toNat < a.toNat then b else a, 0)
  | .maxS => (if a.toInt < b.toInt then b else a, 0)
  | .maxN => (if a.toNat < b.toNat then b else a, 0)
  | .and => (a &&& b, 0)
  | .or => (a ||| b, 0)
  | .xor => (a ^^^ b, 0)
  | .fadd => round32 (Fp.add (read32 a) (read32 b))
  | .fmin => fpPick false a b
  | .fmax => fpPick true a b

/-- The value of a fold's first participant: a floating fold carries no NaN pattern of an operand to its result (R27). -/
def foldStart (op : FoldOp) (x : Word) : Word :=
  match op with
  | .fadd | .fmin | .fmax => if (read32 x).isNan then nan32 else x
  | .add | .minS | .minN | .maxS | .maxN | .and | .or | .xor => x

/-- A sequential fold with the flags of every step (R282). -/
def foldWords (op : FoldOp) (x : Word) (xs : List Word) : Word × Flags :=
  xs.foldl (fun acc w => let r := combineFold op acc.1 w; (r.1, acc.2 ||| r.2)) (foldStart op x, 0)

/-- The source lane of a SHFL form (R280), as an integer. -/
def shflSource (i : Instr) (j : Nat) (n : Nat) : Int :=
  match i with
  | .shflXor _ _ _ _ => ((j ^^^ n : Nat) : Int)
  | .shflUp _ _ _ _ => (j : Int) - n
  | .shflDn _ _ _ _ => (j : Int) + n
  | _ => (n : Int)

/-- The mask M of XCHG (R281). -/
def xchgMask (s : Nat) : Word :=
  match s with
  | 0 => 0x55555555
  | 1 => 0x33333333
  | 2 => 0x0F0F0F0F
  | 3 => 0x00FF00FF
  | _ => 0x0000FFFF

/-- What XCHG writes in lane j, `own` being its vA and `p` its partner's (R281). -/
def xchgWord (s j w : Nat) (own p : Word) : Word :=
  let m := 2 ^ s
  if 5 ≤ s || w ≤ (j ^^^ m) then own
  else if j &&& m == 0 then own ^^^ ((((own >>> m) ^^^ p) &&& xchgMask s) <<< m)
  else own ^^^ (((p >>> m) ^^^ own) &&& xchgMask s)

/-- The sources of a lane operation: every live lane's vA by its number, W, and the participants with their vB and
predicate. -/
structure OpInput where
  w : Nat
  va : List (Nat × Word)
  parts : List (Nat × Word × Bool)
deriving DecidableEq, Repr, Inhabited

/-- vA of lane j; 0 where the lane is dead or has exited (R280, R281). -/
def OpInput.src (x : OpInput) (j : Nat) : Word := ((x.va.find? fun y => y.1 == j).map (·.2)).getD 0

/-- The bits of BALLOT (R279). -/
def OpInput.ballot (x : OpInput) : BitVec 64 :=
  x.parts.foldl (fun b y => if y.2.2 then b ||| (1#64 <<< y.1) else b) 0

/-- The result of VOTE (R279). -/
def OpInput.vote (x : OpInput) (m : VoteMode) : Bool :=
  match m with
  | .all => x.parts.all (·.2.2)
  | .any => x.parts.any (·.2.2)
  | .uni => x.parts.all (·.2.2) || x.parts.all fun y => !y.2.2

/-- What a SHFL form writes in lane j (R280). -/
def OpInput.shfl (x : OpInput) (i : Instr) (j : Nat) (vb : Word) : Word :=
  let src := shflSource i j (vb.extractLsb' 0 6).toNat
  if src < 0 || (x.w : Int) ≤ src then x.src j else x.src src.toNat

/-- What XCHG writes in lane j (R281): the control is that of the lowest-numbered participant. -/
def OpInput.xchg (x : OpInput) (j : Nat) : Word :=
  let s := match x.parts with
    | y :: _ => (y.2.1.extractLsb' 0 3).toNat
    | [] => 7
  xchgWord s j x.w (x.src j) (x.src (j ^^^ 2 ^ s))

/-- What REDUX writes in every participant (R282). -/
def OpInput.redux (x : OpInput) (op : FoldOp) : Word × Flags :=
  match x.parts with
  | [] => (0, 0)
  | y :: ys => foldWords op (x.src y.1) (ys.map fun z => x.src z.1)

/-- The field an operation reads vA from, where it has one (R278). -/
def opSourceField : Instr → Option Opnd
  | .shflIdx _ _ a _ | .shflXor _ _ a _ | .shflUp _ _ a _ | .shflDn _ _ a _ | .xchg _ _ a _ | .redux _ _ _ a => some a
  | _ => none

/-- vA of a lane, as its own strand reads the field (R277): 0 at or beyond its VREGS. -/
def opSource (s : State) (c : Issue) (x : OpLane) (a : Opnd) : Word :=
  match s.strand x.key with
  | none => 0
  | some st =>
    let n := match a with
      | .dir n => n.toNat
      | .ind n => if c.crew.isSome then n.toNat else st.xi.toNat + n.toNat
    match a, c.crew with
    | .ind _, some _ => Table.get 0 n c.window
    | _, _ => if n < c.vregs then Table.get 0 n (st.lanes.get x.lane).v else 0

/-- vB and the predicate that a participant gives (R279 to R281). -/
def opArgs (c : Issue) (lane : Nat) : Word × Bool :=
  match c.i with
  | .shflIdx _ _ _ b | .shflXor _ _ _ b | .shflUp _ _ _ b | .shflDn _ _ _ b | .xchg _ _ _ b => (c.reg lane b, false)
  | .ballot _ _ n p | .vote _ _ _ n p => (0, (c.st.lanes.get lane).pred p != n)
  | _ => (0, false)

/-- What a participant receives (R279 to R282). -/
def opWrite (x : OpInput) (c : Issue) (lane j : Nat) (vb : Word) (st : Strand) : Strand :=
  match c.i with
  | .ballot _ d _ _ => c.writePair lane d x.ballot st
  | .vote _ m pd _ _ => c.writePred lane pd (x.vote m) st
  | .shflIdx _ d _ _ | .shflXor _ d _ _ | .shflUp _ d _ _ | .shflDn _ d _ _ => c.write lane d (x.shfl c.i j vb) st
  | .xchg _ d _ _ => c.write lane d (x.xchg j) st
  | .redux _ op d _ => let r := x.redux op; { c.write lane d r.1 st with fstat := st.fstat ||| r.2 }
  | _ => st

/-- The strands that stand at the point of an operation, each with the lanes there made its current set. -/
def opIssues (s : State) (i : Instr) (here : Flow) (ls : List OpLane) : List Issue :=
  let keys := (ls.map (·.key)).eraseDups
  keys.filterMap fun k =>
    match s.strand k with
    | none => none
    | some st =>
      let m := maskOf fun l => (ls.any fun x => x.key == k && x.lane == l) && (st.flow l).same here
      if m == 0 then none
      else issueOf i { (s.setStrand k { st with cur := m }) with cur := k }

/-- The entries of GATHER and SCATTER (R225): the elected lane's base, and every active lane's offset and data, by item
lane. -/
def packetEntries (s : State) (i : Instr) (c0 : Issue) (x : Access) (ls : List OpLane) (cs : List Issue)
    (numberOf : Nat → Nat → Nat) : List (Nat × Issue × LogLane) :=
  let f : Opnd × Opnd × Option Opnd := match i with
    | .gather _ _ _ _ _ a b => (a, b, none)
    | .scatter _ _ _ _ a b v => (a, b, some v)
    | _ => (.dir 0, .dir 0, none)
  let base : Nat := match ls with
    | [] => 0
    | e :: _ =>
      match s.strand e.key with
      | some st => ({ c0 with st := st }).address x.m.space e.lane f.1 0
      | none => 0
  let width := if x.m.space.pairAddr then 64 else 33
  cs.flatMap fun c => (lanesIn c.active).map fun l =>
    (numberOf c.key l, c, ⟨l, lowBits width ((base : Int) + (c.reg l f.2.1).toNat),
      match f.2.2 with
      | some v => c.value x.ty.isPair l v % 256 ^ x.n
      | none => 0, 0⟩)

/-- A lane operation performed once for all the lanes at its point (R277); nothing where some lane is still to come. -/
def performOp (k : Nat) (s : State) : State :=
  match s.strand k with
  | none => s
  | some st =>
    match Map.find st.item s.items with
    | none => s
    | some it =>
      match Map.find it.launch s.launches with
      | none => s
      | some la =>
        let own := st.handler.isSome || st.seat.isSome
        let ls := opLanes s k st it
        match opPoint s own ls with
        | none => s
        | some (here, i) =>
          let cs := opIssues s i here ls
          let numberOf (key lane : Nat) : Nat := ((ls.find? fun x => x.key == key && x.lane == lane).map (·.j)).getD 0
          let c0 := cs.headD default
          match accessOf i with
          | some x => performPacket x cs (packetEntries s i c0 x ls cs numberOf) s
          | none =>
          let a := opSourceField i
          let input : OpInput :=
            { w := opWidth st la it
              va := match a with
                | some a => ls.map fun x => (x.j, opSource s c0 x a)
                | none => []
              parts := cs.flatMap fun c => (lanesIn c.active).map fun l => (numberOf c.key l, opArgs c l) }
          cs.foldl (fun s c =>
            let s := s.adjStrand c.key fun st => { st with cur := c.set }
            let s := s.adjStrand c.key fun st =>
              (lanesIn c.active).foldl (fun st l => opWrite input c l (numberOf c.key l) (opArgs c l).1 st) st
            let s := s.adjStrand c.key fun st => st.mapLanes c.set fun l => { l with atOp := none }
            c.finish (.done s)) s

/-- The executing set arrives at a lane operation (R277, R284): sets at the same place join it, one that goes before it
runs first, and the operation is performed if every other lane has arrived. -/
def arrive (c : Issue) (s : State) : Act :=
  match s.strand c.key with
  | none => .over s
  | some st =>
    let st := st.rejoin
    if st.cur &&& c.set == 0 then .over (s.setStrand c.key st)
    else
      let st := st.mapLanes st.set fun l => { l with atOp := some c.i }
      let st := { st.resettle with wait := if st.free == 0 then .laneOp else .none }
      .over (performOp c.key (s.setStrand c.key st))

/-- BALLOT (R279). -/
def execBallot (g : Guard) (d : Opnd) (neg : Bool) (p : BitVec 3) (s : State) : Host.Outcome State Fault Refusal :=
  issue (.ballot g d neg p) s arrive

/-- VOTE (R279). -/
def execVote (g : Guard) (m : VoteMode) (pd : BitVec 3) (neg : Bool) (p : BitVec 3) (s : State) :
    Host.Outcome State Fault Refusal :=
  issue (.vote g m pd neg p) s arrive

/-- SHFL.IDX (R280). -/
def execShflIdx (g : Guard) (d a b : Opnd) (s : State) : Host.Outcome State Fault Refusal :=
  issue (.shflIdx g d a b) s arrive

/-- SHFL.XOR (R280). -/
def execShflXor (g : Guard) (d a b : Opnd) (s : State) : Host.Outcome State Fault Refusal :=
  issue (.shflXor g d a b) s arrive

/-- SHFL.UP (R280). -/
def execShflUp (g : Guard) (d a b : Opnd) (s : State) : Host.Outcome State Fault Refusal :=
  issue (.shflUp g d a b) s arrive

/-- SHFL.DN (R280). -/
def execShflDn (g : Guard) (d a b : Opnd) (s : State) : Host.Outcome State Fault Refusal :=
  issue (.shflDn g d a b) s arrive

/-- XCHG (R281). -/
def execXchg (g : Guard) (d a b : Opnd) (s : State) : Host.Outcome State Fault Refusal :=
  issue (.xchg g d a b) s arrive

/-- REDUX (R282). -/
def execRedux (g : Guard) (op : FoldOp) (d a : Opnd) (s : State) : Host.Outcome State Fault Refusal :=
  issue (.redux g op d a) s arrive

/-- A lane operation of an item performed when the lanes it waited for have exited or died (R277). -/
def execLaneOpPerform (item : Nat) (s : State) : Host.Outcome State Fault Refusal :=
  match Map.find item s.items with
  | none => .next s
  | some it =>
    match it.strands.find? fun k => match s.strand k with | some st => !st.over && st.handler.isNone | none => false with
    | some k => .next (if it.tile < 768 then performOp k s else s)
    | none => .next s

end Sys2Proof.Machine
end

