-- ==== Sys2Proof/Machine/Place.lean ====
section
/-! DEFINITION. The resources of a tile and what an item needs of them (13_execution.md R374, R375, R383, R409,
05_onchip_levels.md R96, R97, R103, R110). -/

namespace Sys2Proof.Machine

/-- What one item asks of a tile (R374). -/
structure Demand where
  launch : Nat
  width : Nat
  words : Nat
  lpriv : Nat
  scr : Nat
  acc : Nat
  bars : Nat
  reserve : Nat
  crewRec : Bool
deriving DecidableEq, Repr, Inhabited

/-- What is taken on a tile: contexts, register words, lane-private windows as (slice, base, size), scratchpad windows and
accumulator rows as (owner, base, size), barriers, and crew records. -/
structure Taken where
  contexts : List Nat
  words : Nat
  lp : List (Nat × Nat × Nat)
  scr : List (Nat × Nat × Nat)
  acc : List (Nat × Nat)
  bars : Nat
  crews : Nat
deriving DecidableEq, Repr, Inhabited

/-- A place for an item: its contexts with the bases of their lane-private windows, its scratchpad window and its
accumulator rows. -/
structure Spot where
  contexts : List (Nat × Nat)
  reserved : List Nat
  scrBase : Nat
  accBase : Nat
deriving DecidableEq, Repr, Inhabited

/-- Nothing taken. -/
def Taken.none : Taken := ⟨[], 0, [], [], [], 0, 0⟩

/-- Words of the register file of a tile (R13). -/
def registerWords : Nat := 65536

/-- What an item of a stage asks (R374, R452: a redundant launch holds its registers twice). -/
def demandOf (h : Nat) (la : Launch) (st : Stage) : Demand :=
  { launch := h, width := st.width, words := st.width * 4 * st.vregs * (if la.red then 2 else 1), lpriv := st.lpriv
    scr := st.scritem, acc := st.accrows, bars := st.nbar, reserve := if la.det then st.crewres else 0
    crewRec := la.det && st.crewres != 0 }

/-- The first base at which a window of a size fits beside windows (base, size) that are taken, in ascending order of
base (R97, R110). -/
def firstFit (size limit : Nat) (used : List (Nat × Nat)) : Option Nat :=
  if size == 0 then some 0
  else
    let starts := 0 :: used.map fun x => x.1 + x.2
    let ok (b : Nat) : Bool := b + size ≤ limit && used.all fun x => b + size ≤ x.1 || x.1 + x.2 ≤ b
    (starts.filter ok).foldl (fun m b => match m with | some a => some (min a b) | none => some b) none

/-- The lowest free context of a slice (R373: any may be chosen). -/
def freeContext (t : Taken) (slice : Nat) : Option Nat :=
  ((upTo 8).map fun i => slice * 8 + i).find? fun c => !t.contexts.contains c

/-- The base of a window of lane-private memory on a slice: the lowest at which it is contiguous and free (R96). -/
def lpFit (t : Taken) (lpriv slice : Nat) : Option Nat :=
  firstFit lpriv 1024 ((t.lp.filter fun x => x.1 == slice).map (·.2))

/-- Contexts on distinct slices with room for their lanes' windows, each with its windows' base (R96, R374). (log 95 DESIGN CHOICE) -/
def pickContexts (t : Taken) (lpriv : Nat) : Nat → List Nat → List (Nat × Nat)
  | 0, _ => []
  | _, [] => []
  | n + 1, sl :: sls =>
    match lpFit t lpriv sl, freeContext t sl with
    | some b, some c => (c, b) :: pickContexts t lpriv n sls
    | _, _ => pickContexts t lpriv (n + 1) sls

/-- Windows of strands as they are taken: slice, base and size, where the size is not 0. -/
def lpWindows (lpriv : Nat) (cs : List (Nat × Nat)) : List (Nat × Nat × Nat) :=
  if lpriv == 0 then [] else cs.map fun x => (x.1 / 8, x.2, lpriv)

/-- The slices of a tile, those with the fewest contexts taken first. -/
def slicesByUse (t : Taken) : List Nat :=
  let used (sl : Nat) : Nat := (t.contexts.filter fun c => c / 8 == sl).length
  (upTo 16).sortedBy fun a b => used a ≤ used b

/-- Further free contexts of a tile, the lowest first. -/
def moreContexts (t : Taken) (n : Nat) : List Nat := ((upTo 128).filter fun c => !t.contexts.contains c).take n

/-- An item placed on a tile, if everything it needs is free at once (R374). -/
def placeItem (d : Demand) (scrtile : Nat) (t : Taken) : Option (Spot × Taken) :=
  let cs := pickContexts t d.lpriv d.width (slicesByUse t)
  if cs.length < d.width then none
  else
    let t1 := { t with contexts := t.contexts ++ cs.map (·.1), lp := t.lp ++ lpWindows d.lpriv cs }
    let rs := moreContexts t1 d.reserve
    let words := t.words + d.words + 256 * d.reserve
    if rs.length < d.reserve || registerWords < words || 96 < t.bars + d.bars || (d.crewRec && 4 ≤ t.crews) then none
    else
      match firstFit d.scr scrtile ((t.scr.filter fun x => x.1 == d.launch).map (·.2)), firstFit d.acc 512 t.acc with
      | some sb, some ab =>
        some (⟨cs, rs, sb, ab⟩,
          { t1 with
            contexts := t1.contexts ++ rs, words := words
            scr := if d.scr == 0 then t.scr else t.scr ++ [(d.launch, sb, d.scr)]
            acc := if d.acc == 0 then t.acc else t.acc ++ [(ab, d.acc)]
            bars := t.bars + d.bars, crews := t.crews + (if d.crewRec then 1 else 0) })
      | _, _ => none

/-- Several items put on a tile one after the other, if they fit. -/
def fillTile (t : Taken) : List (Demand × Nat) → Option Taken
  | [] => some t
  | (d, scr) :: ds => (placeItem d scr t).bind fun x => fillTile x.2 ds

/-- Several tiles filled, if everything fits. -/
def fillTiles : List (Taken × List (Demand × Nat)) → Option (List Taken)
  | [] => some []
  | x :: xs => (fillTile x.1 x.2).bind fun t => (fillTiles xs).map (t :: ·)

/-- A list with the place of each element. -/
def numbered {α : Type} (l : List α) : List (Nat × α) := (upTo l.length).zip l

/-! Convoys (R6, R373). -/

/-- Groups that share items: their numbers in ascending order, the stage, and the items. -/
structure Closure where
  groups : List Nat
  stage : Nat
  items : List Nat
deriving DecidableEq, Repr, Inhabited

/-- A group joined to the closures that it shares an item with. -/
def joinGroup (cs : List Closure) (n : Nat) (g : Group) : List Closure :=
  let meets (c : Closure) : Bool := c.stage == g.stage && c.items.any g.list.contains
  let mine := cs.filter meets
  let new : Closure :=
    { groups := (mine.flatMap (·.groups) ++ [n]).sortedBy (· ≤ ·), stage := g.stage
      items := (mine.flatMap (·.items) ++ g.list).eraseDups }
  cs.filter (fun c => !meets c) ++ [new]

/-- The convoys that groups close into, by their lowest group number (R373). -/
def closuresOf (gs : List Group) : List Closure :=
  ((numbered gs).foldl (fun cs x => joinGroup cs x.1 x.2) []).sortedBy fun a b => a.groups.headD 0 ≤ b.groups.headD 0

/-- The distinct barrier numbers of the groups of a closure. -/
def closureBars (gs : List Group) (c : Closure) : List Nat :=
  ((c.groups.filterMap fun n => gs[n]?).filterMap fun g => if g.gbar == 0x7F then none else some g.gbar).eraseDups

/-! What stands on a tile. -/

/-- The items on a tile, but those that were lost with it. -/
def itemsOn (s : State) (tile : Nat) : List (Nat × Item) := s.items.filter fun x => x.2.tile == tile && !x.2.lost

/-- The barrier numbers below BCNT that a group names (R375). -/
def groupBars (la : Launch) : List Nat := ((la.groups.map (·.gbar)).filter (· < la.bcnt)).eraseDups

/-- The launches that hold something on a tile. -/
def launchesOn (s : State) (tile : Nat) : List (Nat × Launch) :=
  s.launches.filter fun x => (Map.find (heldKey tile x.1) s.held).isSome

/-- The first key of the crew strands of a tile (model convention: a context's crew frame has its own key). (log 126 DESIGN CHOICE) -/
def crewKey (tile context : Nat) : Nat := 98304 + tile * 128 + context

/-- The contexts of a tile that crews use. -/
def crewContexts (s : State) (tile : Nat) : List Nat :=
  (s.crews.filter fun x => x.2.tile == tile).flatMap fun x => x.2.contexts

/-- The barriers that the convoys of groups on a tile's cluster take there: one for each distinct GBAR on every member
tile (R374). -/
def convoyBars (s : State) (tile : Nat) : Nat :=
  (s.convoys.filter fun x => x.2.cluster == clusterOf tile).foldl (fun n x =>
    match (Map.find x.2.launch s.launches).bind fun la => (closuresOf la.groups)[x.2.num]?.map fun c => closureBars la.groups c with
    | some bars => n + bars.length
    | none => n) 0

/-- What the items, crews, convoys and launches on a tile hold. -/
def takenOn (s : State) (tile : Nat) : Taken :=
  let here := itemsOn s tile
  let own := here.foldl (fun (t : Taken) x =>
    match Map.find x.2.launch s.launches with
    | none => t
    | some la =>
      let d := demandOf x.2.launch la (stageOf la x.2)
      let cs := x.2.strands.map fun k => (k % 128, ((s.strand k).map (·.lpBase)).getD 0)
      { contexts := t.contexts ++ cs.map (·.1) ++ x.2.reserved
        words := t.words + d.words + 256 * x.2.reserved.length
        lp := t.lp ++ lpWindows d.lpriv cs
        scr := if d.scr == 0 then t.scr else t.scr ++ [(d.launch, x.2.scrBase, d.scr)]
        acc := if d.acc == 0 then t.acc else t.acc ++ [(x.2.accBase, d.acc)]
        bars := t.bars + d.bars
        crews := t.crews + (if d.crewRec then 1 else 0) }) Taken.none
  let crews := s.crews.filter fun x => x.2.tile == tile
  let loose := crews.filter fun x =>
    match s.strand x.2.recruiter with
    | some st => match Map.find st.item s.items with
      | some it => it.reserved == []
      | none => true
    | none => true
  { own with
    contexts := (own.contexts ++ crewContexts s tile).eraseDups
    words := own.words + loose.foldl (fun n x => n + 256 * x.2.contexts.length) 0
    bars := own.bars + (launchesOn s tile).foldl (fun n x => n + (groupBars x.2).length) 0 + convoyBars s tile
    crews := own.crews + loose.length }

/-! The tile-wide allotments (R375). -/

/-- Bytes of scratchpad of a tile (R97). -/
def scratchBytes : Nat := 0x180000

/-- The other launches whose tile-wide allotments a tile has to hold: those that hold something there, and the
deterministic launches whose shape takes its cluster (R409). -/
def claimants (s : State) (tile h : Nat) : List (Nat × Launch) :=
  s.launches.filter fun x => x.1 != h &&
    ((Map.find (heldKey tile x.1) s.held).isSome
      || (x.2.state != .preempted && x.2.shape.any fun c => c.1 == clusterOf tile))

/-- Whether the tile-wide allotments of a launch that holds nothing on a tile fit the free part of every pool there
(R375). -/
def tileWideFits (s : State) (tile h : Nat) (la : Launch) : Bool :=
  let ls := claimants s tile h
  let sum (f : Launch → Nat) : Nat := ls.foldl (fun n x => n + f x.2) 0
  let coming := (ls.filter fun x => (Map.find (heldKey tile x.1) s.held).isNone).foldl
    (fun n x => n + (groupBars x.2).length) 0
  sum (·.scrtile) + la.scrtile ≤ scratchBytes && sum (·.kcnt) + la.kcnt ≤ 64 && sum (·.gcnt) + la.gcnt ≤ 16
    && sum (·.nseg) + la.nseg ≤ 64
    && (takenOn s tile).bars + coming + (groupBars la).length ≤ 96

/-- Whether a stage may be placed on a tile: its die is in PLDIES (0 is every die) and its cluster in the launch's range
(R367, R383). -/
def placeable (la : Launch) (st : Stage) (tile : Nat) : Bool :=
  (st.pldies == 0 || bitOf st.pldies (dieOf tile)) && la.clbase ≤ clusterOf tile && clusterOf tile < la.clbase + la.clcount

/-- Whether a launch has an item of a stage on a tile. -/
def stageOn (s : State) (tile h stage : Nat) : Bool :=
  s.items.any fun x => x.2.tile == tile && x.2.launch == h && x.2.stage == stage

/-- The floors that must stay free on a tile when an item of (launch, stage) is placed (R383): one item of each other
placeable stage of the launches there that has none resident. -/
def floorDemands (s : State) (tile : Nat) (ls : List (Nat × Launch)) (h stage : Nat) : List (Demand × Nat) :=
  ls.flatMap fun x =>
    ((numbered x.2.stages).filter fun y =>
      placeable x.2 y.2 tile && !(x.1 == h && y.1 == stage) && !stageOn s tile x.1 y.1).map fun y =>
        (demandOf x.1 x.2 y.2, x.2.scrtile)

/-- Whether a tile takes items of a launch (R451). -/
def tileTakes (s : State) (tile : Nat) (la : Launch) : Bool := tileState s tile == 0 || (tileState s tile == 4 && la.red)

end Sys2Proof.Machine
end

