-- ==== Sys2Proof/Machine/Crew.lean ====
section
/-! DEFINITION. Crews (13_execution.md R384 to R394): CREW, CRWRED and CRWEND, the workers' iterations, the end of a
crew, its forced release and its cancellation. -/

namespace Sys2Proof.Machine

/-- Workers of a crew: C = 4G + 1 (R386). -/
def Crew.workers (r : Crew) : Nat := 4 * r.g + 1

/-- A frame of a worker before its first iteration (R386): everything zero, and nothing running. -/
def freshLane : Lane :=
  { v := [], p := 0, flow := { pc := 0, ctx := none, stack := [] }, exited := true, dead := false, draw := 0, lp := []
    bad := [], badV := [], iter := 0, drawn := 0, atOp := none }

/-- A strand of workers on a context, for a recruiter's strand (R386). -/
def workerStrand (st : Strand) (crew first context : Nat) : Strand :=
  { item := st.item, inItem := st.inItem, context := context, lpBase := 0, lanes := ⟨freshLane, freshLane, freshLane, freshLane⟩
    cur := 0, s := [], d := [], xi := 0, badS := [], fstat := 0, retcnt := 0, pend := [], handler := none, trapping := none
    fault := FaultRec.none, trdetail := 0, oplog := [], drop := 0, queue := [], ovf := false, wait := .none
    stepArm := false, stepHeld := none, crewWord := 0, crew := none, seat := some ⟨crew, first⟩
    lost := false }

/-! Grants (R385). -/

/-- The contexts of exited strands of an item, in ascending order. -/
def exitedContexts (s : State) (it : Item) : List Nat :=
  (it.strands.filter fun k => match s.strand k with | some st => st.over | none => false).map (· % 128)

/-- Whether two items are listed together in a group whose CREWOK bit is 1 (R385). -/
def lends (la : Launch) (a b : Item) : Bool :=
  la.groups.any fun g => g.crewok && g.stage == a.stage && g.stage == b.stage && g.list.contains a.num && g.list.contains b.num

/-- Contexts that may help, in R385's order: of the recruiter's item, of items that lend, and unoccupied ones. -/
def crewCandidates (s : State) (la : Launch) (it : Item) (item : Nat) : List Nat :=
  let used := crewContexts s it.tile
  let own := exitedContexts s it
  let others := (itemsOn s it.tile).filter fun x => x.1 != item && x.2.launch == it.launch && lends la it x.2
  let lent := others.flatMap fun x => exitedContexts s x.2
  let taken := (takenOn s it.tile).contexts
  let loose := (upTo 128).filter fun c => !taken.contains c
  let sorted (l : List Nat) : List Nat := (upTo 128).filter l.contains
  ((sorted own) ++ (sorted lent) ++ loose).filter fun c => !used.contains c

/-- The contexts granted outside a deterministic launch (R385): as many as requested, as register blocks last and as
leave every floor on the tile able to be met beside them and the crew's record (R383). (log 99 DEDUCED) -/
def grantContexts (s : State) (la : Launch) (it : Item) (item request : Nat) : List Nat :=
  let floors := floorDemands s it.tile (launchesOn s it.tile) it.launch it.stage
  let t := takenOn s it.tile
  let t := { t with crews := t.crews + 1 }
  ((crewCandidates s la it item).foldl (fun (acc : List Nat × Taken) c =>
    let t' := { acc.2 with contexts := if acc.2.contexts.contains c then acc.2.contexts else acc.2.contexts ++ [c]
                           words := acc.2.words + 256 }
    if acc.1.length < request && t'.words ≤ registerWords && (fillTile t' floors).isSome then (acc.1 ++ [c], t') else acc)
    ([], t)).1

/-- The reason CREW refuses, if it does (R385): 2 in crew code, 5 with nothing to do, 4, 3, then 1 with no helper. -/
def crewReason (c : Issue) (s : State) (seg request n : Nat) (granted : List Nat) : Nat :=
  let st := stageOf c.la c.it
  if c.crew.isSome then 2
  else if n == 0 || request == 0 then 5
  else if c.la.det && st.crewres == 0 then 4
  else if ((Map.find seg (s.heldAt c.it.tile c.it.launch).segs).map (·.state)) != some 2 then 3
  else if granted == [] || (!c.la.det && 4 ≤ (takenOn s c.it.tile).crews) then 1
  else 0

/-- The crew that CREW forms (R386), its workers waiting for their first iterations. -/
def formCrew (c : Issue) (lane seg n : Nat) (ctxs : List Nat) (s : State) : State :=
  let id := s.nextId
  match s.strand c.key with
  | none => s
  | some st =>
    let window : Table Word := ((st.lanes.get lane).v).filter fun x => x.1 < 64 && x.1 < c.vregs
    let rec_ : Crew :=
      { tile := c.it.tile, recruiter := c.key, lane := lane, window := window, contexts := ctxs, seg := seg, g := ctxs.length
        count := n, targets := [], folds := [], begun := [], ended := [], limit := none
        drawBase := (st.lanes.get lane).draw, pc := c.pc, gen := (c.raise 0).gen, flags := 0, poisoned := false }
    let own := workerStrand st id 0 st.context
    let s := s.setStrand (crewKey c.it.tile st.context) own
    let s := ((numbered ctxs).foldl (fun s x =>
      s.setStrand (crewKey c.it.tile x.2) (workerStrand st id (1 + 4 * x.1) x.2)) s)
    let s := { s with crews := Map.insert id rec_ s.crews, nextId := id + 1 }
    let s := s.adjStrand c.key fun st => { st with crew := some id }
    (upTo rec_.workers).foldl (fun s w => s.later (.crewIterationStart id w)) s

/-- CREW (R385, R386); in crew code the reason goes to the worker's own s63. (log 145 DEDUCED) The window is copied after vD
and s63 are written. (log 147 DESIGN CHOICE) -/
def execCrew (g : Guard) (d a b : Opnd) (s : State) : Host.Outcome State Fault Refusal :=
  issue (.crew g d a b) s fun c s =>
    match lowest c.active with
    | none => .done s
    | some lane =>
      let va := (c.reg lane a).toNat
      let seg := bitsOf va 5 0
      let request := bitsOf va 22 16
      let n := (c.reg lane b).toNat
      if c.st.handler.isSome then c.traps 0x59 s
      else if c.la.nseg ≤ seg then c.traps 0x08 s (maskOf (· == lane))
      else if !bitOf (c.la.segtab.getD seg 0) 1 then c.traps 0x59 s (maskOf (· == lane))
      else
        let granted := if c.la.det then (if request == 0 then [] else c.it.reserved) else grantContexts s c.la c.it c.st.item request
        let ctxs := (upTo 128).filter granted.contains
        let reason := crewReason c s seg request n ctxs
        let grant := if reason == 0 then 4 * ctxs.length else 0
        let s := s.adjStrand c.key fun st =>
          let st := (lanesIn c.active).foldl (fun st l => c.write l d (if l == lane then BitVec.ofNat 32 grant else 0) st) st
          if c.crew.isSome then st.setV lane (frameS 63) (BitVec.ofNat 32 reason)
          else { st.setS 63 (BitVec.ofNat 32 reason) with crewWord := 0 }
        if reason == 0 then .done (formCrew c lane seg n ctxs s) else .done s

/-! Iterations (R386). -/

/-- The strand and lane of a worker (R386). -/
def workerAt (s : State) (r : Crew) (w : Nat) : Nat × Nat :=
  if w == 0 then
    match s.strand r.recruiter with
    | some st => (crewKey r.tile st.context, r.lane)
    | none => (crewKey r.tile 0, r.lane)
  else (crewKey r.tile (r.contexts.getD ((w - 1) / 4) 0), (w - 1) % 4)

/-- The iterations of a round (R386). -/
def Crew.round (r : Crew) (n : Nat) : List Nat := ((upTo r.workers).map fun h => n * r.workers + h).filter (· < r.count)

/-- Whether every iteration of a round below N has ended (R390). -/
def Crew.roundDone (r : Crew) (n : Nat) : Bool := (r.round n).all r.ended.contains

/-- Rounds there are (R386). -/
def Crew.rounds (r : Crew) : Nat := (r.count + r.workers - 1) / r.workers

/-- The rounds completed from the first on (R390). -/
def Crew.completed (r : Crew) : Nat := ((upTo r.rounds).takeWhile r.roundDone).length

/-- The next round a worker may begin, where it may (R386, R391): it has one, no release forbids it, and the round two
before it has ended. -/
def Crew.mayBegin (r : Crew) (w : Nat) : Option Nat :=
  let n := Table.get 0 w r.begun
  let within := match r.limit with
    | some l => n < l
    | none => true
  if n * r.workers + w < r.count && within && (n < 2 || r.roundDone (n - 2)) then some n else none

/-- Whether a crew has nothing left to run (R386, R391). -/
def Crew.finished (r : Crew) : Bool :=
  match r.limit with
  | some l => (upTo l).all r.roundDone
  | none => (upTo r.rounds).all r.roundDone

/-- A worker placed at offset 0 of the crew segment for its next iteration, if it may begin one (R386). -/
def execCrewIterationStart (crew worker : Nat) (s : State) : Host.Outcome State Fault Refusal :=
  match Map.find crew s.crews with
  | none => .next s
  | some r =>
    let at_ := workerAt s r worker
    match s.strand at_.1, r.mayBegin worker with
    | some st, some n =>
      if (st.lanes.get at_.2).live then .next s
      else
        let iter := n * r.workers + worker
        let st := st.adjLane at_.2 fun l =>
          (({ l with exited := false, iter := iter, drawn := 0, atOp := none
                     flow := { pc := r.seg * 4096, ctx := none, stack := [] } }).setV 0 (BitVec.ofNat 32 iter))
        let st := if st.cur &&& st.free == 0 then st.resettle else st
        .next ({ s with crews := Map.insert crew { r with begun := Table.put 0 worker (n + 1) r.begun } s.crews }.setStrand
          at_.1 st)
    | _, _ => .next s

/-- What follows the end of iterations: workers that may begin another are placed, and a crew with nothing left ends. -/
def afterIteration (crew : Nat) (s : State) : State :=
  match Map.find crew s.crews with
  | none => s
  | some r =>
    if r.finished then s.later (.crewEnd crew)
    else
      (upTo r.workers).foldl (fun s w =>
        let at_ := workerAt s r w
        match s.strand at_.1 with
        | some st => if (st.lanes.get at_.2).live || (r.mayBegin w).isNone then s else s.later (.crewIterationStart crew w)
        | none => s) s

/-- EXIT in crew code ends the iterations of the active lanes (R386). -/
def endIterations (c : Issue) (seat : CrewSeat) (s : State) : State :=
  let ended := (lanesIn c.active).map fun l => (c.st.lanes.get l).iter
  let s := { s with crews := Map.adjust seat.crew (fun r => { r with ended := r.ended ++ ended }) s.crews }
  s.adjStrand c.key fun st => st.mapLanes c.active fun l => { l with exited := true }

/-! Folds (R389). -/

/-- The result of a target: the window's register combined with the contributions of completed rounds in ascending
iteration order (R389). -/
def foldTarget (r : Crew) (rounds target : Nat) : Word × Flags :=
  let start := Table.get 0 target r.window
  ((upTo (rounds * r.workers)).flatMap fun i => r.folds.filter fun f => f.iter == i && f.target == target).foldl
    (fun acc f => let x := combineFold f.op acc.1 f.val; (x.1, acc.2 ||| x.2)) (start, 0)

/-- The end of a crew (R386 to R390): folds, flags and poison marks reach the recruiter, the contexts return. -/
def finishCrew (crew rounds : Nat) (cancelled : Bool) (s : State) : State :=
  match Map.find crew s.crews with
  | none => s
  | some r =>
    let keys := (match s.strand r.recruiter with | some st => [crewKey r.tile st.context] | none => []) ++
      r.contexts.map (crewKey r.tile)
    let flags := keys.foldl (fun f k => match s.strand k with | some st => f ||| st.fstat | none => f) (0 : Flags)
    let results := r.targets.map fun t => (t, foldTarget r rounds t)
    let s := s.adjStrand r.recruiter fun st =>
      let st := results.foldl (fun st x => (st.adjLane r.lane (·.setV x.1 x.2.1)).raiseFlags x.2.2) st
      { st.raiseFlags flags with
        crewWord := BitVec.ofNat 32 ((if cancelled then 2 ^ 31 else 0) + rounds), crew := none, wait := .none }
    let s := if r.poisoned then
        match s.strand r.recruiter with
        | some st => s.adjItem st.item fun it => { it with poison := it.poison ||| (1#64 <<< (st.inItem * 4 + r.lane)) }
        | none => s
      else s
    takeHeldStep r.recruiter (wakeTile r.tile
      { s with crews := Map.erase crew s.crews, strands := s.strands.filter fun x => !keys.contains x.1 })

/-- A crew all of whose workers have finished ends (R386). -/
def execCrewEnd (crew : Nat) (s : State) : Host.Outcome State Fault Refusal :=
  match Map.find crew s.crews with
  | none => .next s
  | some r =>
    if r.finished then .next (finishCrew crew (match r.limit with | some l => min l r.rounds | none => r.rounds) false s)
    else .next s

/-- R391: no worker begins a round beyond the highest that any has begun. -/
def releaseCrew (crew : Nat) (s : State) : State :=
  match Map.find crew s.crews with
  | none => s
  | some r =>
    let top := (upTo r.workers).foldl (fun m w => max m (Table.get 0 w r.begun)) 0
    let s := { s with crews := Map.insert crew { r with limit := some top } s.crews }
    afterIteration crew s

/-- A forced release (R391); a deterministic launch's crew is never released (R394). -/
def execCrewForcedRelease (crew : Nat) (s : State) : Host.Outcome State Fault Refusal :=
  match Map.find crew s.crews with
  | none => .next s
  | some r =>
    let det := match s.strand r.recruiter with
      | some st =>
        match Map.find st.item s.items with
        | some it => match Map.find it.launch s.launches with | some la => la.det | none => false
        | none => false
      | none => false
    .next (if det || r.limit.isSome then s else releaseCrew crew s)

/-- A worker fault cancels the crew, and CREW_FAULT is queued for the recruiter (R392, R431). (log 100 DEDUCED) -/
def execCrewCancel (crew worker cause : Nat) (s : State) : Host.Outcome State Fault Refusal :=
  match Map.find crew s.crews with
  | none => .next s
  | some r =>
    let at_ := workerAt s r worker
    let iter := match s.strand at_.1 with
      | some st => (st.lanes.get at_.2).iter
      | none => 0
    let s := finishCrew crew r.completed true s
    .next (charge r.recruiter
      { code := 0x58, info0 := worker * 2 ^ 22 + at_.2 * 2 ^ 8 + cause % 128, info1 := iter
        origin := 3, pc := r.pc, gen := r.gen, precise := false } s)

/-- CRWRED (R384, R388, R389): each active worker contributes to the recruiter's register; [6] = 1 raises CREW_WRITE after
the bound of R136. -/
def execCrwred (g : Guard) (op : FoldOp) (n a : Opnd) (s : State) : Host.Outcome State Fault Refusal :=
  issue (.crwred g op n a) s fun c s =>
    match n, c.crew with
    | .ind t, some _ => c.traps (if (stageOf c.la c.it).vregs ≤ t.toNat then 0x08 else 0x5B) s
    | _, none => c.traps 0x59 s
    | .dir t, some seat =>
      match Map.find seat.crew s.crews with
      | none => .over s
      | some r =>
        let t := t.toNat
        if (stageOf c.la c.it).vregs ≤ t then c.traps 0x08 s
        else
          let again := maskOf fun l => c.active.getLsbD l &&
            r.folds.any fun f => f.iter == (c.st.lanes.get l).iter && f.target == t
          if c.active == 0 then .done s
          else if again != 0 then c.traps 0x59 s again
          else if !r.targets.contains t && 4 ≤ r.targets.length then c.traps 0x59 s c.active
          else
            let folds : List Fold := (lanesIn c.active).map fun l =>
              ⟨(c.st.lanes.get l).iter, workerOf seat l, t, op, c.reg l a⟩
            let r := { r with
              targets := if r.targets.contains t then r.targets else r.targets ++ [t], folds := r.folds ++ folds }
            .done { s with crews := Map.insert seat.crew r s.crews }

/-- CRWEND (R390): the outcome of the strand's latest crew. -/
def execCrwend (g : Guard) (d : Opnd) (s : State) : Host.Outcome State Fault Refusal :=
  issue (.crwend g d) s fun c s => c.put d (fun _ => c.st.crewWord) s

end Sys2Proof.Machine
end

