-- ==== Sys2Proof/Machine/Engine.lean ====
section
/-! DEFINITION. What all engine commands share: dependence counters (09_isa_memory_sync.md R246, R247), the issue of a
command as an access of its strand (08_consistency.md R199), and its end (07_copy_and_routing.md R147, with the deferred
decrements of 14_scheduling.md R412). -/

namespace Sys2Proof.Machine

/-- A counter of a launch on a tile. -/
def counterAt (s : State) (tile launch k : Nat) : BitVec 32 := Table.get 0 k (s.heldAt tile launch).counters

/-- A counter written; when it reaches 0 the stages gated on it may admit (R247, R379). -/
def setCounter (tile launch k : Nat) (x : BitVec 32) (s : State) : State :=
  let old := counterAt s tile launch k
  let s := s.adjHeld tile launch fun h => { h with counters := Table.put 0 k x h.counters }
  let gated := match Map.find launch s.launches with
    | some la => la.stages.any fun st => st.gateen && st.gatek == k
    | none => false
  if x == 0 && old != 0 && gated then s.later (.itemAdmission tile) else s

/-- A sum clamped to a signed 32-bit counter (R247), and whether it was clamped. -/
def clampCounter (x : Int) : BitVec 32 × Bool :=
  if x < -(2 ^ 31) then (0x80000000, true) else if 2 ^ 31 - 1 < x then (0x7FFFFFFF, true) else (BitVec.ofInt 32 x, false)

/-- An engine's decrement of a counter: at −2^31 it stays (R247). (log 38 DEDUCED) -/
def countDown (tile launch k : Nat) (s : State) : State :=
  setCounter tile launch k (clampCounter ((counterAt s tile launch k).toInt - 1)).1 s

/-- A command of an item of a deterministic launch noted with the pass before which it was issued (R412). -/
def deferCount (item id k : Nat) (s : State) : State :=
  s.adjItem item fun it => { it with deferred := it.deferred ++ [⟨id, k, it.passes, false⟩] }

/-- The decrement at the end of an engine command (R147): at once, or in a deterministic launch when the token comes
(R412). -/
def countEnd (tile launch item id k : Nat) (s : State) : State :=
  match Map.find item s.items with
  | some it =>
    if it.deferred.any fun d => d.id == id then
      s.adjItem item fun it => { it with deferred := it.deferred.map fun d => if d.id == id then { d with done := true } else d }
    else countDown tile launch k s
  | none => countDown tile launch k s

/-- The issue of an engine command (R199): the tile's dirty phased lines are published at package scope, and in a
deterministic launch its decrement is deferred. (log 86 DEDUCED) -/
def commandIssued (c : Issue) (id k : Nat) (s : State) : State :=
  let s := l1Publish c.it.tile s
  if c.la.det then deferCount c.st.item id k s else s

/-- A number for a command, and the state that will give the next. -/
def State.newId (s : State) : Nat × State := (s.nextId, { s with nextId := s.nextId + 1 })

/-! Guard slots and engine programs that wait (R254, R255). -/

/-- The states of a guard slot (R255). -/
def slotEmpty : Nat := 0
/-- A slot that was resolved true. -/
def slotTrue : Nat := 1
/-- A slot that was resolved false. -/
def slotFalse : Nat := 2

/-- A guard slot of a launch on a tile. -/
def guardAt (s : State) (tile launch n : Nat) : Nat := Table.get slotEmpty n (s.heldAt tile launch).guards

/-- A guard slot given a state. -/
def setGuard (tile launch n x : Nat) (s : State) : State :=
  s.adjHeld tile launch fun h => { h with guards := Table.put slotEmpty n x h.guards }

/-- An event planned, unless it is already. -/
def State.once (i : Instr) (s : State) : State := if s.plan.contains (.event i) then s else s.later i

/-- A guarded command that stands at its item's head is released where its slot is resolved (R255). -/
def wakeGuard (e : Command) (s : State) : State :=
  match e.guardSlot, Map.find e.item s.items with
  | some n, some it =>
    if guardAt s it.tile e.launch n != slotEmpty then s.once (.guardedCommandRelease it.tile e.launch n) else s
  | _, _ => s

/-- The guarded commands of a queue that stand at their items' heads. -/
def headGuarded (q : List Command) : List Command :=
  q.filter fun e => e.guardSlot.isSome && e.state == .queued &&
    !(q.takeWhile fun x => x.id != e.id).any fun x => x.item == e.item && x.state == .queued

/-- Every guarded command at a head of a queue looks at its slot. -/
def wakeGuards (q : List Command) (s : State) : State := (headGuarded q).foldl (fun s e => wakeGuard e s) s

/-- The engines by their codes (R252). -/
def engineOf (n : Nat) : EngineKind := if n == 0 then .copy else if n == 1 then .matrix else .routing

/-- Every engine program that runs goes on (R380): a place in a queue may have become free, or a command has ended. -/
def wakePrograms (s : State) : State :=
  s.items.foldl (fun s x =>
    x.2.progs.foldl (fun s p => if p.2.running then s.once (.engineProgramEnd x.1 (engineOf p.1)) else s) s) s

/-- The first error of an item's program on an engine noted (R254). -/
def noteProgram (e : Command) (engine : Nat) (s : State) : State :=
  if !e.program || e.err == 0 then s
  else s.adjItem e.item fun it => { it with
    progs := Map.adjust engine (fun p => if p.status == 0 then { p with status := e.err } else p) it.progs }

/-! Commands held at a translation fault (R167, R168). -/

/-- ENGDETAIL of a command (R168). -/
def engDetail (routing : Bool) (e : Command) : Nat :=
  e.cursor % 2 ^ 40 * 2 ^ 24 + (if e.endBit then 2 ^ 23 else 0) + (if routing then 2 ^ 20 else 0) + e.no % 64 * 2 ^ 14 +
    e.err % 64 * 2 ^ 8

/-- The trap of an engine's imprecise cause (R430, R431). -/
def engineRaise (code : Nat) (routing : Bool) (e : Command) : Raise :=
  { code := code, info0 := e.w1.toNat, info1 := engDetail routing e, origin := 2, pc := e.pc, gen := e.gen, precise := false
    retcnt := e.retcnt
    trdetail := match e.fault with
      | some (a, level, kind) => trDetail a level kind
      | none => 0 }

/-- The engines' commands of an item that are HELD, oldest first, with the number of their queue: the tile's copy engine,
or 768 + die for a routing engine. -/
def heldCommands (item : Nat) (s : State) : List (Nat × Command) :=
  match Map.find item s.items with
  | none => []
  | some it =>
    let of (n : Nat) (q : List Command) : List (Nat × Command) :=
      (q.filter fun e => e.item == item && e.state == .held).map fun e => (n, e)
    (of it.tile (s.tile it.tile).copies ++ of (768 + dieOf it.tile) (s.die (dieOf it.tile)).routes).sortedBy
      fun a b => a.2.seq ≤ b.2.seq

/-- A command of a queue changed: the queue is a tile's copy queue, or 768 + die for a routing engine's. -/
def adjCommand (n id : Nat) (f : Command → Command) (s : State) : State :=
  let on (q : List Command) : List Command := q.map fun e => if e.id == id then f e else e
  if n < 768 || 3072 ≤ n then s.setTile n { s.tile n with copies := on (s.tile n).copies }
  else s.setDie (n - 768) { s.die (n - 768) with routes := on (s.die (n - 768)).routes }

/-- ENGINE_PAGE raised for the oldest HELD command of an item; ENGDETAIL and TRDETAIL describe it (R167). -/
def raiseHeld (item : Nat) (s : State) : State :=
  match heldCommands item s with
  | [] => s
  | (n, e) :: _ =>
    chargeElected item (engineRaise 0x52 (768 ≤ n) e)
      (s.adjItem item fun it => { it with engdetail := BitVec.ofNat 64 (engDetail (768 ≤ n) e) })

/-- A HELD command cancelled (R167): its detail is 5 at least, and it ends once what it has sent is acknowledged (R200). -/
def cancelCommand (n : Nat) (e : Command) (s : State) : State :=
  let copy := n < 768
  let s := adjCommand n e.id (fun e => { e with
    state := .active, fault := none, err := max e.err 5, dropped := true, got := [], finished := copy && e.wait == [] }) s
  if !copy || e.wait == [] then s.later (.copyCompletion n (if copy then e.no else e.id)) else s

/-- What the return from a handler of ENGINE_PAGE does to the oldest HELD command (R167): it is queued again, or cancelled
where CANCEL was written; the next oldest raises ENGINE_PAGE again. -/
def resumeHeld (item : Nat) (s : State) : State :=
  match heldCommands item s, Map.find item s.items with
  | (n, e) :: _, some it =>
    let s := if it.cancel then cancelCommand n e s
      else (adjCommand n e.id (fun e => { e with state := .queued, fault := none }) s).later (.copyEntryStart n)
    raiseHeld item (s.adjItem item fun it => { it with cancel := false })
  | _, _ => s

/-- Lines removed from a tile's L1 after an engine wrote them; dirty bytes it did not write reach the home first
(R200). -/
def engineDropLine (tile pline mask : Nat) (s : State) : State :=
  match (s.tile tile).l1.find? fun l => l.pline == pline with
  | some l =>
    (writeBack tile { l with dirty := l.dirty - (l.dirty &&& mask) } s).setL1 tile
      ((s.tile tile).l1.filter fun x => x.pline != pline)
  | none => s

end Sys2Proof.Machine
end

