-- ==== Sys2Proof/Machine/Control.lean ====
section
/-! DEFINITION. The control majors (10_isa_compute.md R284 to R296): branches, calls and returns, code segments, EXIT,
YIELD, TRAP, BKPT and ERET. -/

namespace Sys2Proof.Machine

/-! Transfers. -/

/-- The clause that the executing set stands in. -/
def Issue.clause (c : Issue) : Option Clause := (c.st.flow ((lowest c.set).getD 0)).ctx

/-- The segment slot of the launch on the tile. -/
def Issue.seg (c : Issue) (s : State) (n : Nat) : Option Seg := Map.find n (s.heldAt c.it.tile c.it.launch).segs

/-- Some lanes moved, the rest of the executing set falling through (R284, R287). -/
def Issue.move (c : Issue) (moves : BitVec 4) (dest : Nat → Flow → Flow) (s : State) : State :=
  s.adjStrand c.key fun st =>
    let st := st.mapFlows (c.set &&& ~~~moves) fun f => { f with pc := f.pc + c.size }
    ((lanesIn moves).foldl (fun st l => st.adjLane l fun x => { x with flow := dest l x.flow }) st).resettle

/-- A lane at the header of a clause. -/
def Flow.at (f : Flow) (target : Nat) : Flow := { f with pc := target, ctx := none }

/-- INFO1 of a transfer cause (R431): the segment and its generation. -/
def Issue.segInfo (c : Issue) (s : State) (n : Nat) : Nat :=
  n + (match c.seg s n with | some g => g.gen | none => 0) * 64

/-- The check of a transfer's targets (R287, R388): each must lie in the allotment, in a segment that is LANDED, and in
crew code in the crew segment. (log 45 DEDUCED) A check of any lane comes before the next check of a lower one. (log 150
DESIGN CHOICE) -/
def Issue.targetFails (c : Issue) (s : State) (moves : BitVec 4) (target : Nat → Nat) : Option Raise :=
  let crewSeg := match c.crew with
    | some seat => (Map.find seat.crew s.crews).map (·.seg)
    | none => none
  let out := maskOf fun l => moves.getLsbD l && c.la.nseg * 4096 ≤ target l
  let dark := maskOf fun l => moves.getLsbD l && ((c.seg s (target l / 4096)).map (·.state)) != some 2
  let away := maskOf fun l => moves.getLsbD l && match crewSeg with
    | some g => target l / 4096 != g
    | none => false
  if away != 0 then some (c.raise 0x59 away)
  else if out != 0 then some (c.raise 0x08 out)
  else
    match lowest dark with
    | some l => some { c.raise 0x0A dark with info1 := c.segInfo s (target l / 4096) }
    | none => none

/-- A branch of some lanes (R287). -/
def Issue.branch (c : Issue) (moves : BitVec 4) (target : Nat → Nat) (s : State) : Act :=
  match c.targetFails s moves target with
  | some r => .trap r s
  | none => .moved (c.move moves (fun l f => f.at (target l)) s)

/-- Entries a return stack can hold (R288): four, and those the spill area takes. (log 90 DEDUCED) -/
def Issue.depthLimit (c : Issue) : Nat :=
  if c.st.handler.isSome || c.crew.isSome then 4 else (stageOf c.la c.it).spill / 4 + 4

/-- The offset in a lane's window of the word that holds the return entry at a depth, as a word number (R288). -/
def Issue.spillWord (c : Issue) (depth : Nat) : Nat :=
  let st := stageOf c.la c.it
  (st.lpriv - st.spill) / 4 + (depth - 1)

/-- A call of the active lanes (R287, R288): a return entry is pushed in each; the entry that leaves the four newest is
spilled, which writes its word whole. -/
def Issue.call (c : Issue) (target : Nat → Nat) (s : State) : Act :=
  match c.targetFails s c.active target with
  | some r => .trap r s
  | none =>
    let full := maskOf fun l => c.active.getLsbD l && c.depthLimit ≤ (c.st.flow l).depth
    match lowest full with
    | some l => .trap { c.raise 0x0B full with
        info1 := c.segInfo s (target l / 4096) + (c.st.flow l).depth % 65536 * 2 ^ 32 } s
    | none =>
      let back := match c.clause with
        | some x => x.stop
        | none => c.pc + c.size
      let entry : Word := BitVec.ofNat 32 (back % 2 ^ 18 * 2 ^ 14 + genAt s c.it.tile c.it.launch back % 2 ^ 14)
      let s := c.move c.active (fun l f => { f.at (target l) with stack := entry :: f.stack }) s
      .moved (s.adjStrand c.key fun st => st.mapLanes c.active fun l =>
        let n := l.flow.depth
        if 5 ≤ n then
          let w := c.spillWord (n - 4)
          { l with bad := l.bad.filter (· != w), lp := l.lp.writeBytes (4 * w) (leBytes 4 (l.flow.stack.getD 4 0).toNat) }
        else l)

/-- The target in v(A), aligned to a word (R287). -/
def Issue.target (c : Issue) (a : Opnd) (lane : Nat) : Nat := (c.reg lane a).toNat % 2 ^ 18 / 4 * 4

/-- The target of a Form B transfer (R119). -/
def Issue.formB (c : Issue) (off : BitVec 21) : Nat :=
  match c.clause with
  | some x => (formBTarget x.hdr off).getD x.hdr
  | none => 0

/-- BRA (R287). -/
def execBra (g : Guard) (off : BitVec 21) (s : State) : Host.Outcome State Fault Refusal :=
  issue (.bra g off) s fun c s => c.branch c.active (fun _ => c.formB off) s

/-- BRX (R287). -/
def execBrx (g : Guard) (a : Opnd) (s : State) : Host.Outcome State Fault Refusal :=
  issue (.brx g a) s fun c s => c.branch c.active (c.target a) s

/-- CALL (R287, R288). -/
def execCall (g : Guard) (off : BitVec 21) (s : State) : Host.Outcome State Fault Refusal :=
  issue (.call g off) s fun c s => c.call (fun _ => c.formB off) s

/-- CALLX (R287, R288). -/
def execCallx (g : Guard) (a : Opnd) (s : State) : Host.Outcome State Fault Refusal :=
  issue (.callx g a) s fun c s => c.call (c.target a) s

/-- BRU (R287): the lowest live lane of the set decides for the whole set. -/
def execBru (g : Guard) (off : BitVec 21) (s : State) : Host.Outcome State Fault Refusal :=
  issue (.bru g off) s fun c s => c.branch c.active (fun _ => c.formB off) s

/-- JMPF (R291). -/
def execJmpf (g : Guard) (seg : BitVec 6) (a : Opnd) (s : State) : Host.Outcome State Fault Refusal :=
  issue (.jmpf g seg a) s fun c s => c.branch c.active (fun l => seg.toNat * 4096 + (c.reg l a).toNat % 4096 / 4 * 4) s

/-- The lane whose return entry a lane of the executing set follows: its own, or in a uniform clause that of the strand's
lowest live lane, or of the set's where that lane stands elsewhere (R284). (log 44 DEDUCED) -/
def Issue.guide (c : Issue) (l : Nat) : Nat :=
  if c.uniform then (if c.set.getLsbD c.lead then c.lead else (lowest c.set).getD 0) else l

/-- RET (R288): an entry whose segment is not LANDED or has been loaded again fails it for every lane; an entry that
comes back from the spill area is read there, and an unreadable one kills its lane (R433). -/
def execRet (g : Guard) (s : State) : Host.Outcome State Fault Refusal :=
  issue (.ret g) s fun c s =>
    let top (l : Nat) : Nat := ((c.st.flow l).stack.headD 0).toNat
    let target (l : Nat) : Nat := top (c.guide l) / 2 ^ 14
    let gen (l : Nat) : Nat := top l % 2 ^ 14
    let empty := maskOf fun l => c.active.getLsbD l && (c.st.flow l).stack == []
    let crewSeg := match c.crew with
      | some seat => (Map.find seat.crew s.crews).map (·.seg)
      | none => none
    let away := maskOf fun l => c.active.getLsbD l && match crewSeg with
      | some n => target l / 4096 != n
      | none => false
    let stale := maskOf fun l => c.active.getLsbD l && match c.seg s (top l / 2 ^ 14 / 4096) with
      | some x => x.state != 2 || x.gen != gen l
      | none => true
    if empty != 0 then .trap { c.raise 0x0E empty with info1 := 0 } s
    else if away != 0 then c.traps 0x59 s away
    else
      match lowest stale with
      | some l => .trap { c.raise 0x0A stale with info1 := c.segInfo s (top l / 2 ^ 14 / 4096) } s
      | none =>
        let lost := (lanesIn c.active).filter fun l =>
          let x := c.st.lanes.get l
          5 ≤ x.flow.depth && x.bad.contains (c.spillWord (x.flow.depth - 4))
        let s := c.move c.active (fun l f => { f.at (target l) with stack := f.stack.drop 1 }) s
        .moved (lost.foldl (fun s l => markDead c.key l 3 s) s)

/-! Code segments. -/

/-- CSEG (R292). -/
def execCseg (g : Guard) (d a : Opnd) (s : State) : Host.Outcome State Fault Refusal :=
  issue (.cseg g d a) s fun c s =>
    let slot (l : Nat) : Nat := (c.reg l a).toNat % 64
    match c.doers.find? fun l => c.la.nseg ≤ slot l with
    | some l => c.traps 0x08 s (maskOf (· == l))
    | none => c.put d (fun l =>
        match c.seg s (slot l) with
        | some x => BitVec.ofNat 32 (x.gen % 2 ^ 14 * 4 + x.state)
        | none => 0) s

/-- Whether a slot is in use (R290): it is loading, or a set, a handler's resume point or an engine program stands in
it. -/
def slotBusy (s : State) (tile launch seg : Nat) : Bool :=
  let inSlot (pc : Nat) : Bool := pc / 4096 == seg
  let loading := match Map.find seg (s.heldAt tile launch).segs with
    | some x => x.state == 1
    | none => false
  let mine (item : Nat) : Bool := match Map.find item s.items with
    | some it => it.tile == tile && it.launch == launch
    | none => false
  loading
    || s.strands.any (fun x => mine x.2.item && (upTo 4).any fun l =>
        (x.2.lanes.get l).live && (inSlot (x.2.flow l).pc ||
          match x.2.handler with
          | some h => inSlot (h.flows.get l).pc
          | none => false))
    || s.items.any (fun x => x.2.tile == tile && x.2.launch == launch && x.2.progs.any fun p => p.2.running && inSlot p.2.pc)

/-- The physical lines of 4 KiB of code at a virtual address, with their keys, or the fault of the first page that does
not translate (R290). -/
def sourceLines (tile asid : Nat) (priv : Bool) (a : Nat) : Nat → State → State × Except (Nat × PageFault) (List (Nat × Nat))
  | 0, s => (s, .ok [])
  | n + 1, s =>
    let va := (a + 256 * (15 - n)) % 2 ^ 64
    let t := translate tile asid priv .fetch .global va s
    match t.2 with
    | .error f => (t.1, .error (va, f))
    | .ok x =>
      let r := sourceLines tile asid priv a n t.1
      (r.1, r.2.map fun ls => (x.pa / 256, x.key) :: ls)

/-- CFETCH (R290): once per item. (log 87 DEDUCED) -/
def execCfetch (g : Guard) (seg : BitVec 6) (a : Opnd) (k : BitVec 6) (s : State) : Host.Outcome State Fault Refusal :=
  issue (.cfetch g seg a k) s fun c s =>
    let lane := c.elect
    let va := (c.pair lane a).toNat
    let t := trDetail va 0 3
    if !c.once then .done s
    else if c.la.nseg ≤ seg.toNat then c.traps 0x08 s c.electedMask
    else if slotBusy s c.it.tile c.it.launch seg.toNat then c.traps 0x0F s c.electedMask
    else if !canonical va then .trap { c.raise 0x22 c.electedMask with info1 := t, trdetail := t } s
    else if va % 256 != 0 then .trap { c.raise 0x27 c.electedMask with info0 := c.spaceInfo .global lane, info1 := va } s
    else
      let r := sourceLines c.it.tile c.la.asid c.la.priv va 16 s
      match r.2 with
      | .error (at_, f) =>
        let t := trDetail at_ f.level 3
        .trap { c.raise f.cause c.electedMask with info1 := t, trdetail := t } r.1
      | .ok ls =>
        let n := r.1.newId
        let s := commandIssued c n.1 k.toNat n.2
        let s := s.adjHeld c.it.tile c.it.launch fun h => { h with
          segs := Map.adjust seg.toNat (fun x => { x with
            state := 1, source := va, lines := ls, item := c.st.item, k := some k.toNat, cmd := n.1 }) h.segs }
        .done (s.later (.segmentLanding c.it.tile c.it.launch seg.toNat))

/-- The landing of a code segment (R289, R290): its 4 KiB are read at their homes; a burst that cannot be read makes it
POISONED; the generation advances; the counter is decremented. -/
def execSegmentLanding (tile launch seg : Nat) (s : State) : Host.Outcome State Fault Refusal :=
  match Map.find seg (s.heldAt tile launch).segs with
  | none => .next s
  | some g =>
    if g.state != 1 then .next s
    else
      let r := g.lines.foldl (fun (acc : State × List Word × Bool) l =>
        let v := homeRead (acc.1.tileReq tile l.2 true) l.1 acc.1
        (v.1, acc.2.1 ++ (upTo 64).map (fun i => BitVec.ofNat 32 (sliceLine v.2.data (4 * i) 4)), acc.2.2 || v.2.bad != 0))
        (s, [], false)
      let s := r.1
      let s := s.adjHeld tile launch fun h => { h with
        code := r.2.1.zipIdx.foldl (fun t w => Table.put 0 (seg * 1024 + w.2) w.1 t) h.code
        badCode := h.badCode.filter (· != seg)
        segs := Map.insert seg { g with
          state := if r.2.2 then 3 else 2, gen := (g.gen + 1) % 2 ^ 14, lines := [], k := none } h.segs }
      .next (match g.k with
        | some k => countEnd tile launch g.item g.cmd k s
        | none => s)

/-! Ends of lanes and of handlers. -/

/-- The end of handler mode (R426, R428): the interrupted state is restored, log entries without a live lane are
dropped, the log is replayed, and a single step that a watch held back is taken (R475). -/
def endHandler (k : Nat) (s : State) : State :=
  let s := match s.strand k with
    | some st => if st.handler.isSome && st.fault.rec0.toNat % 128 == 0x52 then resumeHeld st.item s else s
    | none => s
  let s := s.adjStrand k fun st => st.leaveHandler
  match s.strand k with
  | none => s
  | some st =>
    let gone := st.oplog.filter fun e => e.lanes.all fun l => !st.live.getLsbD l.lane
    let s := s.adjStrand k fun st => { st with
      oplog := st.oplog.map fun e => { e with lanes := e.lanes.filter fun l => st.live.getLsbD l.lane } }
    let s := gone.foldl (fun s e => clearEntry k e s) s
    let log := match s.strand k with
      | some st => st.oplog.zipIdx.map fun e => (st.drop.getLsbD e.2, e.1)
      | none => []
    takeHeldStep k (replayLog k log s)

/-- Whether a replay would perform a store or an atomic on a shared page without the token (R411). -/
def replayHeld (k : Nat) (st : Strand) (s : State) : Bool :=
  st.oplog.zipIdx.any fun e => !st.drop.getLsbD e.2 &&
    match decode e.1.w1 e.1.w2 with
    | .error _ => false
    | .ok i =>
      match accessOf i, issueOf i { s with cur := k } with
      | some x, some c => c.heldBack x e.1.lanes s
      | _, _ => false

/-- Lanes that exit (R293), and what follows. -/
def Issue.exitLanes (c : Issue) (s : State) : State :=
  s.adjStrand c.key fun st =>
    let st := st.mapFlows (c.set &&& ~~~c.active) fun f => { f with pc := f.pc + c.size }
    (st.mapLanes c.active fun l => { l with exited := true }).resettle

/-- EXIT (R293): in crew code the iteration ends (R386); in a handler its lanes end, and the handler with the last of
them (R426). -/
def execExit (g : Guard) (s : State) : Host.Outcome State Fault Refusal :=
  issue (.exit g) s fun c s =>
    if c.active == 0 then .done s
    else
      match c.crew with
      | some seat =>
        let s := (endIterations c seat s).adjStrand c.key fun st =>
          (st.mapFlows (c.set &&& ~~~c.active) fun f => { f with pc := f.pc + c.size }).resettle
        .moved (afterIteration seat.crew s)
      | none =>
        if c.st.handler.isSome then
          if c.st.pool &&& ~~~c.active != 0 then .moved (afterExit c.st.item (c.exitLanes s))
          else if c.st.pend.any (·.open) then .wait .issue s
          else if replayHeld c.key c.st s then .wait .token s
          else .over (afterExit c.st.item (endHandler c.key (c.exitLanes (settle true c.key s))))
        else .moved (afterExit c.st.item (c.exitLanes s))

/-- YIELD (R294): the strand's turn ends, which the passing of the turn sees to (`passTurn`); its state changes in RETCNT
alone. -/
def execYield (g : Guard) (s : State) : Host.Outcome State Fault Refusal := issue (.yield g) s fun _ s => .done s

/-- TRAP (R295): resumes at the next clause header. -/
def execTrap (g : Guard) (n : BitVec 7) (s : State) : Host.Outcome State Fault Refusal :=
  issue (.trap g n) s fun c s =>
    if c.active == 0 then .done s
    else .doneTrap { c.raise 0x0C c.active with info0 := n.toNat, info1 := 0 } s

/-- BKPT (R295). -/
def execBkpt (g : Guard) (n : BitVec 7) (s : State) : Host.Outcome State Fault Refusal :=
  issue (.bkpt g n) s fun c s =>
    if c.active == 0 then .done s
    else .doneTrap { c.raise 0x78 c.active with info0 := n.toNat, info1 := 0, origin := 5 } s

/-- Word 1 of a HALTG whose halt covers an item: of its group's, or of the all-items halt (R474). (log 124 DEDUCED) -/
def haltWord (la : Launch) (it : Item) : Option Nat :=
  (la.halts.find? fun h => h.1 == 0x100 || match la.groups[h.1]? with
    | some g => g.stage == it.stage && g.list.contains it.num
    | none => false).map (·.2)

/-- Whether a halt covers an item (R474). -/
def haltCovers (la : Launch) (it : Item) : Bool := (haltWord la it).isSome

/-- ERET (R428): outside a handler ERET_CONTEXT (R295); it waits for the handler's accesses and while a halt covers the
strand (R474), then the strand leaves handler mode and replays its log. (log 46 DEDUCED) -/
def execEret (g : Guard) (s : State) : Host.Outcome State Fault Refusal :=
  issue (.eret g) s fun c s =>
    if c.active == 0 then .done s
    else if c.st.handler.isNone then .trap { c.raise 0x0D with info0 := 0, info1 := 0 } s
    else if c.st.pend.any (·.open) then .wait .issue s
    else if haltCovers c.la c.it then .wait .halt s
    else if replayHeld c.key c.st s then .wait .token s
    else .over (endHandler c.key (settle true c.key s))

end Sys2Proof.Machine
end

