-- ==== Sys2Proof/Machine/Clause.lean ====
section
/-! DEFINITION. Clauses (06_encoding_and_assembly.md R115 to R122, R135): the checks of a clause at its fetch, the wait of
its header, and the sequencer's turns: clause fetch, the end of a clause wait, imprecise delivery and precise trap entry
(15_traps.md R420, R421). -/

namespace Sys2Proof.Machine

/-! The checks of R135. -/

/-- An instruction of a clause where it stands. -/
structure CodeSlot where
  off : Nat
  w1 : Word
  w2 : Word
deriving DecidableEq, Repr, Inhabited

/-- The word of instruction memory at an offset. -/
def codeWord (h : TileLaunch) (off : Nat) : Word := Table.get 0 (off / 4) h.code

/-- The instructions of a clause from an offset on, up to a reserved major, and where they end; none where the clause
runs past `limit`. -/
def walkClause (h : TileLaunch) (limit : Nat) : Nat → Nat → Option (List CodeSlot × Nat)
  | 0, off => some ([], off)
  | n + 1, off =>
    let w1 := codeWord h off
    let m := (majorOf w1).toNat
    if limit ≤ off then none
    else if reservedMajor m then some ([⟨off, w1, 0⟩], off + 4)
    else if longMajor m then
      if limit < off + 8 then none
      else (walkClause h limit n (off + 8)).map fun r => (⟨off, w1, codeWord h (off + 4)⟩ :: r.1, r.2)
    else (walkClause h limit n (off + 4)).map fun r => (⟨off, w1, 0⟩ :: r.1, r.2)

/-- Whether a header fails its own check, its length apart (R135). -/
def headerFails (w : Word) : Bool :=
  let h := headerOf w
  h.n == 0 || w.extractLsb' 0 10 != 0 || (h.ctr != 0 && !h.wct) || (h.u && 2 < h.cls)

/-- Whether a decoding failed by its MINOR code. -/
def badMinor : Except DecodeError Instr → Bool
  | .error .minor => true
  | _ => false

/-- The checks of R135 on one instruction of a clause: the cause that fails. -/
def slotFails (hdr : Nat) (h : Header) (last : Bool) (x : CodeSlot) : Option Nat :=
  let m := (majorOf x.w1).toNat
  let r := decode x.w1 x.w2
  if reservedMajor m then some 0x01
  else if badMinor r then some 0x02
  else if (classOf m != 0 && classOf m != h.cls) || (h.u && !uniformMajor m) then some 0x04
  else if (transferMajor m && !last) || (formBMajor m && (formBTarget hdr (x.w1.extractLsb' 0 21)).isNone) then some 0x06
  else
    match r with
    | .error _ => some 0x03
    | .ok i => if h.u && i.indexed then some 0x03 else none

/-- The first instruction of a clause that fails, with its cause. -/
def clauseFails (hdr : Nat) (h : Header) : List CodeSlot → Option (Nat × Nat)
  | [] => none
  | x :: xs =>
    match slotFails hdr h xs.isEmpty x with
    | some c => some (c, x.off)
    | none => clauseFails hdr h xs

/-! Raising fetch causes. -/

/-- A cause raised at a clause header or an instruction of a clause (R424, R430, R431). -/
def fetchRaise (h : TileLaunch) (st : Strand) (code off : Nat) : Raise :=
  let w := codeWord h off
  let long := longMajor (majorOf w).toNat && !reservedMajor (majorOf w).toNat
  let gen := match Map.find (off / 4096) h.segs with
    | some g => g.gen
    | none => 0
  { code := code, info0 := w.toNat
    info1 := if code == 0x0A then off / 4096 % 64 + gen * 64
      else if code == 0x08 || code == 0x05 then 0 else if long then (codeWord h (off + 4)).toNat else 0
    origin := 1, pc := off, gen := gen, hmask := st.set, retcnt := st.retcnt.toNat }

/-- The strand that has the turn, with its item and launch. -/
structure Here where
  key : Nat
  st : Strand
  it : Item
  la : Launch
  held : TileLaunch
deriving DecidableEq, Repr, Inhabited

/-- The strand that has the turn, where it is resident. -/
def State.here (s : State) : Option Here :=
  match s.strand s.cur with
  | none => none
  | some st =>
    match Map.find st.item s.items with
    | none => none
    | some it =>
      match Map.find it.launch s.launches with
      | none => none
      | some la => some ⟨s.cur, st, it, la, s.heldAt it.tile it.launch⟩

/-- Where the current set stands. -/
def Here.flow (h : Here) : Flow := h.st.flow ((lowest h.st.set).getD 0)

/-- The current set put into a clause. -/
def Here.enter (h : Here) (x : Clause) (s : State) : State :=
  s.adjStrand h.key fun st => { st.mapFlows st.set fun f => { f with ctx := some x } with wait := .none }

/-- A segment whose fetch meets words that cannot be read: it is POISONED, and the fetch traps at the header (R434). -/
def poisonSegment (h : Here) (seg hdr : Nat) (s : State) : State :=
  trap h.key (fetchRaise h.held h.st 0x0A hdr) (s.adjHeld h.it.tile h.it.launch fun t => { t with
    segs := Map.adjust seg (fun g => { g with state := 3 }) t.segs })

/-- The current set resumes inside a clause (R116): its segment must still be LANDED in the same generation, and the
clause is fetched from its header and checked again without its wait. A resume point at which the clause, changed since
(R405), no longer has an instruction raises CLAUSE_FORMAT at the header. (log 144 DESIGN CHOICE) -/
def resumeClause (h : Here) (x : Clause) (s : State) : State :=
  let pc := h.flow.pc
  let seg := x.hdr / 4096
  let ok := match Map.find seg h.held.segs with
    | some g => g.state == 2 && g.gen == x.gen
    | none => false
  if !ok then trap h.key (fetchRaise h.held h.st 0x0A pc) s
  else if h.held.badCode.contains seg then poisonSegment h seg x.hdr s
  else
    let w := codeWord h.held x.hdr
    let hd := headerOf w
    match (if headerFails w then none else walkClause h.held (seg * 4096 + 4096) hd.n (x.hdr + 4)) with
    | none => trap h.key (fetchRaise h.held h.st 0x05 x.hdr) s
    | some (slots, stop) =>
      if hd.wct && h.la.kcnt ≤ hd.ctr then trap h.key (fetchRaise h.held h.st 0x08 x.hdr) s
      else
        match clauseFails x.hdr hd slots with
        | some (cause, off) => trap h.key (fetchRaise h.held h.st cause off) s
        | none =>
          if pc == stop || slots.any (·.off == pc) then h.enter { x with word := w, stop := stop, resume := false } s
          else trap h.key (fetchRaise h.held h.st 0x05 x.hdr) s

/-- A clause fetched at a header (R115, R135, R136, R434): sets rejoin at a J header (R284); a header that fails its check
traps at once, any other failure after the wait of R120. (log 88 DEDUCED) -/
def fetchClause (h : Here) (s : State) : State :=
  let pc := h.flow.pc
  let seg := pc / 4096
  let landed := ((Map.find seg h.held.segs).map (·.state)) == some 2
  if h.held.badCode.contains seg && landed then poisonSegment h seg pc s
  else if !landed then trap h.key (fetchRaise h.held h.st 0x0A pc) s
  else
    let w := codeWord h.held pc
    let hd := headerOf w
    let body := walkClause h.held (seg * 4096 + 4096) hd.n (pc + 4)
    let st := if hd.j && !headerFails w then h.st.rejoin else h.st
    if st.cur &&& h.st.set == 0 then s.setStrand h.key st
    else
      let s := s.setStrand h.key st
      match (if headerFails w then none else body) with
      | none => trap h.key (fetchRaise h.held st 0x05 pc) s
      | some (slots, stop) =>
        if hd.wct && h.la.kcnt ≤ hd.ctr then trap h.key (fetchRaise h.held st 0x08 pc) s
        else
          let gen := match Map.find seg h.held.segs with
            | some g => g.gen
            | none => 0
          let x : Clause :=
            { hdr := pc, gen := gen, word := w, stop := stop, waited := false, fail := clauseFails pc hd slots, resume := false }
          s.adjStrand h.key fun st => { st.mapFlows st.set fun f => { f with ctx := some x } with wait := .none }

/-- CLAUSE_FETCH: the current set, at a header or resuming inside a clause, has its clause fetched; one that ran past
the last word of its segment raises CLAUSE_CONTROL (R119). (log 89 DEDUCED) -/
def execClauseFetch (s : State) : Host.Outcome State Fault Refusal :=
  match s.here with
  | none => .fault (.noSuchStrand s.cur)
  | some h =>
    if h.st.set == 0 then .next s
    else
      match h.flow.ctx with
      | none => .next (fetchClause h s)
      | some x =>
        if x.waited && x.resume then .next (resumeClause h x s)
        else if x.waited && x.stop == h.flow.pc then
          if h.flow.pc % 4096 == 0 then .next (trap h.key { fetchRaise h.held h.st 0x06 h.flow.pc with info0 := 0, info1 := 0 } s)
          else .next (fetchClause h s)
        else .next s

/-! The wait of a header (R120). -/

/-- Whether an item's commands on the copy and routing engines have all completed. -/
def copiesDone (s : State) (it : Item) (item : Nat) : Bool :=
  (s.tile it.tile).copies.all (fun e => e.item != item || e.state == .bank)
    && (s.die (dieOf it.tile)).routes.all fun e => e.item != item

/-- Whether the conditions that a header selects hold at once (R120). Accesses that stand in the operand log of a handler's
strand are not waited for. (log 143 DESIGN CHOICE) -/
def clauseReady (s : State) (h : Here) (x : Clause) : Bool :=
  let hd := headerOf x.word
  let idle (k : PendKind) : Bool := h.st.pend.all fun p => p.kind != k || p.ready || p.logged
  (!hd.wld || idle .load) && (!hd.wst || idle .store) && (!hd.wfb || idle .remote)
    && (!hd.wcp || copiesDone s h.it h.st.item)
    && (!hd.wmx || (s.tile h.it.tile).array.all fun e => e.item != h.st.item)
    && (!hd.wcr || h.st.crew.isNone)
    && (!hd.wct || counterAt s h.it.tile h.it.launch hd.ctr == 0)

/-- CLAUSE_WAIT_SATISFIED: a clause whose wait is over issues from its first instruction, unless its fetch failed a
check (R120, R135). -/
def execClauseWaitSatisfied (s : State) : Host.Outcome State Fault Refusal :=
  match s.here with
  | none => .fault (.noSuchStrand s.cur)
  | some h =>
    match h.flow.ctx with
    | none => .next s
    | some x =>
      if h.st.set == 0 || x.waited then .next s
      else if !clauseReady s h x then .next (s.adjStrand h.key fun st => { st with wait := .clause })
      else
        let hd := headerOf x.word
        let s := if hd.wld || hd.wfb then settle true h.key s else s
        match x.fail with
        | some (cause, off) => .next (trap h.key (fetchRaise h.held h.st cause off) s)
        | none =>
          let s := h.enter { x with waited := true } s
          .next (s.adjStrand h.key fun st => st.mapFlows h.st.set fun f => { f with pc := x.hdr + 4 })

/-! Delivery. -/

/-- Whether the current set stands at a clause boundary (R421). -/
def atBoundary (f : Flow) : Bool :=
  match f.ctx with
  | none => true
  | some x => !x.waited || (!x.resume && x.stop == f.pc)

/-- Whether a strand may take an imprecise cause now (R387, R421). -/
def mayDeliver (st : Strand) : Bool :=
  st.queue != [] && st.handler.isNone && st.seat.isNone && st.crew.isNone && st.trapping.isNone && st.set != 0
    && (atBoundary (st.flow ((lowest st.set).getD 0)) || st.wait != .none)

/-- IMPRECISE_DELIVERY: the oldest queued cause enters the handler (R421, R425). -/
def execImpreciseDelivery (s : State) : Host.Outcome State Fault Refusal :=
  match s.strand s.cur with
  | none => .fault (.noSuchStrand s.cur)
  | some st =>
    if !mayDeliver st then .next s
    else
      match st.queue with
      | [] => .next s
      | q :: rest =>
        let r := { q with precise := false, hmask := st.set }
        .next (enterHandler s.cur r (s.setStrand s.cur { st with queue := rest }))

/-- PRECISE_TRAP_ENTRY: a precise trap whose strand's earlier instructions have completed enters the handler (R420). -/
def execPreciseTrapEntry (s : State) : Host.Outcome State Fault Refusal :=
  match s.strand s.cur with
  | none => .fault (.noSuchStrand s.cur)
  | some st =>
    match st.trapping with
    | none => .next s
    | some r => if st.pend.any (·.open) then .next s else .next (enterHandler s.cur r (settle true s.cur s))

/-- REPORT_MERGE_EXPIRY: the merge window closes and the fault notice is posted (R423, R463). -/
def execReportMergeExpiry (tile launch cause : Nat) (s : State) : Host.Outcome State Fault Refusal :=
  match s.merges.find? fun m => m.tile == tile && m.launch == launch && m.cause == cause with
  | none => .next s
  | some m =>
    .next (postNotice (noticeOf 1 cause launch tile m.count m.strand m.record) { s with merges := s.merges.erase m })

end Sys2Proof.Machine
end

