-- ==== Sys2Proof/Machine/Agent.lean ====
section
/-! DEFINITION. Bytes moved at virtual addresses by the hardware itself: engines (08_consistency.md R199, R200), records
that a launch's completion, queues and contact sheet are made of, and the capture and replay of fabric inputs
(14_scheduling.md R416, R417). -/

namespace Sys2Proof.Machine

/-- Who moves bytes: the tile whose cluster translates, the ASID and privilege of the launch, and the granules that move in
whole rows of a held bank, whose requests are never counted (R65, R165). -/
structure Agent where
  tile : Nat
  asid : Nat
  priv : Bool
  rows : List Nat
deriving DecidableEq, Repr, Inhabited

/-- The parts of `n` bytes from an address on that lie in one line each: address, offset from the first byte, length. -/
def lineParts (addr n : Nat) : List (Nat × Nat × Nat) :=
  ((upTo ((addr % 256 + n + 255) / 256)).map fun i =>
    let lo := if i == 0 then 0 else 256 * i - addr % 256
    let hi := min n (256 * (i + 1) - addr % 256)
    ((addr + lo) % 2 ^ 64, lo, hi - lo)).filter fun x => x.2.2 != 0

/-- The translations of some parts, in order; the first fault, with its address. -/
def Agent.places (g : Agent) (k : AccKind) (sp : Space) :
    List (Nat × Nat × Nat) → State → State × Except (Nat × PageFault) (List (Xlat × Nat × Nat))
  | [], s => (s, .ok [])
  | (a, lo, n) :: ps, s =>
    let t := translate g.tile g.asid g.priv k sp a s
    match t.2 with
    | .error f => (t.1, .error (a, f))
    | .ok x =>
      let r := g.places k sp ps t.1
      (r.1, r.2.map fun xs => (x, lo, n) :: xs)

/-- The request of an agent at a home. -/
def Agent.req (g : Agent) (x : Xlat) (s : State) : HomeReq :=
  let r := s.tileReq g.tile x.key (leafMT x.leaf == 0)
  { r with counted := r.counted && !g.rows.contains (x.pa / 256) }

/-- Bytes read at homes: the bytes, whether some were unreadable, and whether the host was gone. -/
structure Bulk where
  bytes : List Byte
  bad : Bool
  gone : Bool
deriving DecidableEq, Repr, Inhabited

/-- Bytes read at places already translated. -/
def Agent.fetch (g : Agent) (ps : List (Xlat × Nat × Nat)) (s : State) : State × Bulk :=
  ps.foldl (fun r p =>
    let v := physRead (g.req p.1 r.1) p.1.pa p.2.2 r.1
    (v.1, ⟨r.2.bytes ++ leBytes p.2.2 v.2.value, r.2.bad || v.2.bad, r.2.gone || v.2.gone⟩)) (s, ⟨[], false, false⟩)

/-- Bytes written at places already translated; every line written leaves the tile's L1 (R200). Whether a write was
dropped because the host is gone. -/
def Agent.put (g : Agent) (ps : List (Xlat × Nat × Nat)) (bytes : List Byte) (s : State) : State × Bool :=
  ps.foldl (fun r p =>
    let part := (bytes.drop p.2.1).take p.2.2
    let s := physWrite (g.req p.1 r.1) p.1.pa p.2.2 (ofLeBytes part) r.1
    (engineDropLine g.tile (p.1.pa / 256) (spanMask (p.1.pa % 256) p.2.2) s,
      r.2 || (inHost p.1.pa && hostGone s))) (s, false)

/-- Bytes read from a virtual address on. -/
def Agent.read (g : Agent) (sp : Space) (addr n : Nat) (s : State) : State × Except (Nat × PageFault) Bulk :=
  let t := g.places .load sp (lineParts addr n) s
  match t.2 with
  | .error f => (t.1, .error f)
  | .ok ps => let r := g.fetch ps t.1; (r.1, .ok r.2)

/-- Bytes written from a virtual address on; nothing is written where a part faults. -/
def Agent.write (g : Agent) (sp : Space) (addr : Nat) (bytes : List Byte) (s : State) :
    State × Except (Nat × PageFault) Bool :=
  let t := g.places .store sp (lineParts addr bytes.length) s
  match t.2 with
  | .error f => (t.1, .error f)
  | .ok ps => let r := g.put ps bytes t.1; (r.1, .ok r.2)

/-- The agent of a launch on a tile. -/
def Launch.agent (la : Launch) (tile : Nat) : Agent := ⟨tile, la.asid, la.priv, []⟩

/-! Fabric inputs (R416, R417). -/

/-- What names the instruction or event that an input belongs to: launch, stage, STRANDID.LOGICAL, RETCNT (PASSES for
KIND 9), and the item lane (0x3F for the item). -/
structure InputAt where
  tile : Nat
  launch : Nat
  stage : Nat
  logical : Nat
  retcnt : Nat
  lane : Nat
deriving DecidableEq, Repr, Inhabited

/-- The 32 bytes of a log entry (R416). -/
def SheetEntry.words (e : SheetEntry) : List Byte :=
  leBytes 8 e.tide ++
    leBytes 8 (e.slot % 256 + e.kind % 256 * 2 ^ 8 + e.lane % 64 * 2 ^ 16 + e.stage % 8 * 2 ^ 29 +
      e.strand % 2 ^ 20 * 2 ^ 32) ++
    leBytes 8 e.retcnt ++ leBytes 8 e.value

/-- Bytes that the kinds 6 to 9 have put at the end of a sheet. -/
def sheetBytes (log : List SheetEntry) : Nat := log.foldl (fun n e => n + e.bytes.length) 0

/-- A fabric input of a capture launch logged (R416): an entry, and its bytes below the bytes of the entries before it.
When the sheet is full, or cannot be written, capture stops with TRUNC, bit 16 of the header. -/
def captureInput (at_ : InputAt) (kind value : Nat) (bytes : List Byte) (s : State) : State :=
  match Map.find at_.launch s.launches with
  | none => s
  | some la =>
    if !la.capture || la.trunc then s
    else
      let top := la.sheetLen - sheetBytes la.log - bytes.length
      let e : SheetEntry :=
        { tide := s.fabric.tidecnt.toNat, slot := s.fabric.slotno, kind := kind, lane := at_.lane, stage := at_.stage
          strand := at_.logical, retcnt := at_.retcnt, value := if 6 ≤ kind then top else value, bytes := bytes }
      let g := la.agent at_.tile
      let stop (s : State) : State :=
        (g.write .global (la.sheet + 2) [1] s).1.adjLaunch at_.launch fun la => { la with trunc := true }
      if la.sheetLen < la.sheetAt + 32 + sheetBytes la.log + bytes.length then stop s
      else
        let w := g.write .global (la.sheet + la.sheetAt) e.words s
        match w.2 with
        | .error _ => stop w.1
        | .ok _ =>
          let w := g.write .global (la.sheet + top) bytes w.1
          match w.2 with
          | .error _ => stop w.1
          | .ok _ => w.1.adjLaunch at_.launch fun la => { la with sheetAt := la.sheetAt + 32, log := la.log ++ [e] }

/-- Whether a launch replays a contact sheet. -/
def replaying (s : State) (launch : Nat) : Bool :=
  match Map.find launch s.launches with
  | some la => la.replay.isSome
  | none => false

/-- The next log entry of an instruction in a replay (R417); none where the sheet holds no such entry next. -/
def replayInput (at_ : InputAt) (kind : Nat) (s : State) : State × Option SheetEntry :=
  match Map.find at_.launch s.launches with
  | none => (s, none)
  | some la =>
    match la.replay with
    | none => (s, none)
    | some log =>
      let mine (e : SheetEntry) : Bool :=
        e.stage == at_.stage && e.strand == at_.logical && e.retcnt == at_.retcnt && e.lane == at_.lane && e.kind != 9
      match log.find? mine with
      | none => (s, none)
      | some e =>
        if e.kind != kind then (s, none)
        else (s.adjLaunch at_.launch fun la => { la with replay := some (log.erase e) }, some e)

/-- The place of an input of a strand's instruction. -/
def Issue.inputAt (c : Issue) (lane : Nat) : InputAt :=
  ⟨c.it.tile, c.it.launch, c.it.stage, logicalId c.la c.it c.st.inItem, c.st.retcnt.toNat,
    if lane == 0x3F then 0x3F else c.st.inItem * 4 + lane⟩

/-- A value that an instruction takes from outside the package (R416, R417): in a replay the logged value, else the value
itself, logged in a capture. `none` ends the replay with REPLAY_DIVERGE. -/
def fabricInput (at_ : InputAt) (kind value : Nat) (s : State) : State × Option Nat :=
  if replaying s at_.launch then
    let r := replayInput at_ kind s
    (r.1, r.2.map (·.value))
  else (captureInput at_ kind value [] s, some value)

end Sys2Proof.Machine
end

