-- ==== Sys2Proof/Machine/Fabric.lean ====
section
/-! DEFINITION. The fabric unit of this package (12_fabric.md R325 to R355): the calendar and the time registers, the
virtual queues with ferrying and sequence numbers, the fabric translation cache, and remote requests on their way. -/

namespace Sys2Proof.Machine

/-! The calendar (R327, R328). -/

/-- N, the packages of the pod (R332). -/
def podSize (s : State) : Nat := bitsOf s.fabric.fabcfg.toNat 29 23 + 1

/-- FABCFG.CAL (R332). -/
def calendarOf (s : State) : Nat := bitsOf s.fabric.fabcfg.toNat 31 30

/-- The smallest power of two that is at least `n` (R327). -/
def powerAbove (n : Nat) : Nat := (((upTo 8).map fun i => 2 ^ i).find? fun p => n ≤ p).getD 128

/-- The slots of a tide on the spread (0) and gang (1) calendars (R327); a pod of one package has one slot. -/
def standardSlots (cal n : Nat) : Nat :=
  let p := powerAbove n - 1
  max 1 (if cal == 0 then (p + 15) / 16 else p)

/-- The slots of a tide. -/
def slotsOf (s : State) : Nat :=
  if calendarOf s == 2 then max 1 (bitsOf s.fabric.fabcfg.toNat 46 39) else standardSlots (calendarOf s) (podSize s)

/-- peer(p, t, r) of the spread and gang calendars (R327). -/
def standardPeer (cal n p t r : Nat) : Option Nat :=
  let d := if cal == 0 then 16 * t + r + 1 else t + 1
  if d ≤ powerAbove n - 1 && (p ^^^ d) < n then some (p ^^^ d) else none

/-- A peer, as it stands. -/
def State.peer (s : State) (q : Nat) : Peer := (Map.find q s.fabric.peers).getD Peer.empty

/-- A peer changed. -/
def State.setPeer (q : Nat) (p : Peer) (s : State) : State := { s with fabric := { s.fabric with peers := Map.insert q p s.fabric.peers } }

/-- A known peer changed. -/
def State.adjPeer (q : Nat) (f : Peer → Peer) (s : State) : State := { s with fabric := { s.fabric with peers := Map.adjust q f s.fabric.peers } }

/-- Whether a package is a member of the pod that is not declared removed (R326, R351); in a pod of one package none is. -/
def isMember (s : State) (q : Nat) : Bool :=
  s.fabric.inPod && 1 < podSize s && q < podSize s && (q == s.self || ((s.peer q).member && !(s.peer q).removed))

/-- The peer of this package on a rail in a slot by the calendar; none where it is dark (R327, R328, R351). -/
def peerAt (s : State) (t r : Nat) : Option Nat :=
  if !bitOf s.fabric.fabcfg.toNat (48 + r) || podSize s ≤ 1 then none
  else
    let q := if calendarOf s == 2 then
        let b := (Table.get 0x80 (16 * t + r) s.fabric.tidetab).toNat
        if bitOf b 7 then none else some b
      else standardPeer (calendarOf s) (podSize s) s.self t r
    match q with
    | some q => if q != s.self && isMember s q then some q else none
    | none => none

/-- A rail, as it stands. -/
def State.rail (s : State) (r : Nat) : Rail := (Map.find r s.fabric.rails).getD Rail.reset

/-- A rail changed. -/
def State.setRail (r : Nat) (x : Rail) (s : State) : State := { s with fabric := { s.fabric with rails := Map.insert r x s.fabric.rails } }

/-- RAILSTAT.STATE (R336). -/
def Rail.state (x : Rail) : Nat := bitsOf x.stat.toNat 2 0

/-- A rail with another STATE. -/
def Rail.setState (x : Rail) (n : Nat) : Rail := { x with stat := BitVec.ofNat 64 (putBits x.stat.toNat 2 0 n) }

/-- A 16-bit saturating count of RAILSTAT, at bit `lo`, advanced. -/
def Rail.count (x : Rail) (lo : Nat) : Rail :=
  let n := bitsOf x.stat.toNat (lo + 15) lo
  if n == 0xFFFF then x else { x with stat := BitVec.ofNat 64 (putBits x.stat.toNat (lo + 15) lo (n + 1)) }

/-- A rail that is up (R336). -/
def railUp (s : State) (r : Nat) : Bool := (s.rail r).state == 2 || (s.rail r).state == 3

/-- The peer that a rail is joined to in a slot, where rails are up and the package is in lock (R331). -/
def livePeer (s : State) (t r : Nat) : Option Nat :=
  if s.fabric.inPod && s.fabric.locked && railUp s r then peerAt s t r else none

/-- The peer that a rail is joined to now, outside the guard (R331). -/
def joined (s : State) (r : Nat) : Option Nat := if s.fabric.guard then none else livePeer s s.fabric.slotno r

/-- The rails joined to a peer in a slot, as a mask. -/
def railsTo (s : State) (q t : Nat) : Nat :=
  (upTo 16).foldl (fun m r => if livePeer s t r == some q then m + 2 ^ r else m) 0

/-- SLOTPEER (first = 0) and SLOTPEERH (first = 8) (R238, R331). -/
def slotPeer (s : State) (first : Nat) : BitVec 64 :=
  BitVec.ofNat 64 ((upTo 8).foldl (fun v i =>
    v + (match joined s (first + i) with
      | some q => q
      | none => 0x80) * 2 ^ (8 * i)) 0)

/-! Time in a slot (R325, R329, R340), in units of 10 ps. -/

/-- The time one flit takes (R325). -/
def flitTime (s : State) : Nat := if bitOf s.fabric.fabcfg.toNat 47 then 1024 else 64

/-- The slot length. -/
def slotTime (s : State) : Nat := bitsOf s.fabric.fabcfg.toNat 8 0 * 800

/-- A flit that starts now completes before the guard (R329). (log 77 DEDUCED) -/
def flitFits (s : State) (r : Nat) : Bool := !s.fabric.guard && (s.rail r).used + flitTime s ≤ slotTime s - 800

/-- The closing window of the slot has begun on a rail (R329). -/
def railClosing (s : State) (r : Nat) : Bool := s.fabric.guard || slotTime s - 1200 ≤ (s.rail r).used

/-- The closing window has begun, by the time that the port engines have used. -/
def closing (s : State) : Bool := s.fabric.guard || (upTo 16).any fun r => slotTime s - 1200 ≤ (s.rail r).used

/-! The virtual queues (R334, R337, R338). -/

/-- Entries of a ring (R334). -/
def ringSize (s : State) (small : Bool) : Nat :=
  2 ^ (if small then bitsOf s.fabric.vqcfg.toNat 15 8 else bitsOf s.fabric.vqcfg.toNat 7 0)

/-- The entries of a ring, oldest first; messages for which it has no room wait behind them (R337, R338). (log 141 DESIGN
CHOICE) -/
def ringEntries (s : State) (q : Nat) (small : Bool) : List VqEntry :=
  ((s.peer q).queue.filter fun e => e.small == small).take (ringSize s small)

/-- The depth of a ring. -/
def ringDepth (s : State) (q : Nat) (small : Bool) : Nat := (ringEntries s q small).length

/-- A ring that takes another entry (R338). -/
def ringRoom (s : State) (q : Nat) (small : Bool) : Bool := ringDepth s q small < ringSize s small

/-- REMTO, in tides (R334). -/
def remTo (s : State) : Nat := bitsOf s.fabric.vqcfg.toNat 23 16

/-- What TIDEWAIT.peer writes now, where it has waited since a tide (R360): 0 for this package, for no member, and where no
live rail has met the peer for REMTO tides; else the slot and the rails that meet it outside the closing window; none
where it waits. -/
def peerAnswer (s : State) (q since : Nat) : Option Nat :=
  let now := if s.fabric.guard then 0 else railsTo s q s.fabric.slotno
  if q == s.self || !isMember s q then some 0
  else if now != 0 && !closing s then some (s.fabric.slotno * 65536 + now)
  else if max since (s.peer q).lastMet + remTo s ≤ s.fabric.tidecnt.toNat then some 0
  else none

/-- Slots from a slot until the next in which `meets` holds, the first included where `now`; S at most. -/
def slotsUntil (s : State) (t : Nat) (now : Bool) (meets : Nat → Bool) : Option Nat :=
  let n := slotsOf s
  (upTo (n + 1)).find? fun k => (k != 0 || now) && meets ((t + k) % n)

/-- Slots until this package's next direct meeting with a peer (R341). -/
def untilPeer (s : State) (q : Nat) : Option Nat :=
  let t := s.fabric.slotno
  let now := !s.fabric.guard && (upTo 16).any fun r => livePeer s t r == some q && !railClosing s r
  slotsUntil s t now fun t => railsTo s q t != 0

/-- The gain of ferrying for `q` through `m` (R341): d − a(m) − b(m) where it is positive, else 0. A table calendar names
no meetings of other packages. (log 73 DEDUCED) -/
def ferryGain (s : State) (q m : Nat) : Nat :=
  if calendarOf s == 2 || m == q || m == s.self || !isMember s m then 0
  else
    let cap := bitsOf s.fabric.vqcfg.toNat 31 24
    if cap != 0 && cap ≤ Table.get 0 q (s.peer m).ferried then 0
    else
      match untilPeer s m with
      | none => 0
      | some a =>
        let t := (s.fabric.slotno + a) % slotsOf s
        let meets (t : Nat) : Bool := (upTo 16).any fun r => standardPeer (calendarOf s) (podSize s) m t r == some q
        match slotsUntil s t false meets with
        | none => 0
        | some b =>
          match untilPeer s q with
          | some d => d - (a + b)
          | none => 2 * slotsOf s + 1 - (a + b)

/-- The intermediate for an entry bound for `q`, drawn by its gain from the entropy source (R341). -/
def ferryVia (s : State) (q : Nat) : Option Nat × State :=
  let gains := ((upTo (podSize s)).map fun m => (m, ferryGain s q m)).filter fun x => x.2 != 0
  let total := gains.foldl (fun n x => n + x.2) 0
  if total == 0 then (none, s)
  else
    let draw := Config.entropy s.fresh % total
    let pick := gains.foldl (fun (st : Nat × Option Nat) x =>
      match st.2 with
      | some m => (st.1, some m)
      | none => if draw < st.1 + x.2 then (st.1, some x.1) else (st.1 + x.2, none)) (0, none)
    (pick.2, { s with fresh := s.fresh + 1 })

/-- An entry put at the end of its ring in the queue for a hop. -/
def pushEntry (hop : Nat) (e : VqEntry) (s : State) : State := s.adjPeer hop fun p => { p with queue := p.queue ++ [e] }

/-- An entry in the queue for an intermediate (R341). -/
def ferryEntry (via : Nat) (e : VqEntry) (s : State) : State :=
  pushEntry via { e with ferry := true, direct := true }
    (s.adjPeer via fun p => { p with ferried := Table.put 0 e.final (Table.get 0 e.final p.ferried + 1) p.ferried })

/-- The next SEQ of a queue. -/
def Peer.seqFor (p : Peer) (small : Bool) : Nat := if small then p.seqOut.l1 else p.seqOut.l0

/-- The next DSEQ of a queue. -/
def Peer.dseqFor (p : Peer) (small : Bool) : Nat := if small then p.seqOut.l3 else p.seqOut.l2

/-- A SEQ given away. -/
def Peer.giveSeq (p : Peer) (small : Bool) : Peer :=
  { p with seqOut := if small then { p.seqOut with l1 := (p.seqOut.l1 + 1) % 2 ^ 32 } else { p.seqOut with l0 := (p.seqOut.l0 + 1) % 2 ^ 32 } }

/-- A DSEQ given away. -/
def Peer.giveDseq (p : Peer) (small : Bool) : Peer :=
  { p with seqOut := if small then { p.seqOut with l3 := (p.seqOut.l3 + 1) % 2 ^ 32 } else { p.seqOut with l2 := (p.seqOut.l2 + 1) % 2 ^ 32 } }

/-- On the spread calendar, the one rail of a pair is down (R350). -/
def pairDown (s : State) (q : Nat) : Bool := calendarOf s == 0 && isMember s q && q != s.self && (untilPeer s q).isNone

/-- An access enters the queues for its target (R209, R341, R342): a write, atomic or fill takes a SEQ; a deep queue may
send it by a ferry hop, and a direct access takes a DSEQ. -/
def sendAccess (e : VqEntry) (s : State) : State :=
  let q := e.final
  let p := s.peer q
  let numbered := e.flit.op == 1 || e.flit.op == 2 || e.flit.op == 3
  let e := { e with flit := { e.flit with seq := if numbered then p.seqFor e.small else 0, final := q } }
  let s := if numbered then s.adjPeer q fun p => p.giveSeq e.small else s
  let th := bitsOf s.fabric.vqcfg.toNat 47 32
  let deep := th != 0 && th ≤ ringDepth s q e.small
  let v := if (deep && !e.direct && !e.det) || (pairDown s q && !e.det) then ferryVia s q else (none, s)
  match v.1 with
  | some m => ferryEntry m e v.2
  | none =>
    pushEntry q { e with flit := { e.flit with dseq := some (p.dseqFor e.small) } }
      (v.2.adjPeer q fun p => p.giveDseq e.small)

/-- A response, acknowledgement or control message for a peer, which leaves its ring when the next hop has acknowledged its
flits (R338, R347); while the pair's rail is down it is ferried (R350). (log 141 DESIGN CHOICE) -/
def sendBrief (q : Nat) (small : Bool) (f : Flit) (s : State) : State :=
  let n := s.newId
  let e : VqEntry :=
    { id := n.1, small := small, final := q, ferry := false, direct := true, det := false, brief := true, ready := true
      flit := { f with final := q, small := small }, sent := 0, claimed := none }
  let v := if pairDown n.2 q then ferryVia n.2 q else (none, n.2)
  match v.1 with
  | some m => ferryEntry m e v.2
  | none => pushEntry q e v.2

/-- A control message (R338): its kind is ARG. -/
def sendControl (q arg : Nat) (f : Flit) (s : State) : State :=
  sendBrief q true { f with
    type := 7, op := 5, arg := arg, cookie := if f.cookie == 0 then s.self * 2 ^ 32 else f.cookie } s

/-- Kinds of control message: a translation and its answer, capability, key agreement, an invalidation and its
acknowledgement, a count vector. -/
def ctlAnswer : Nat := 0
/-- A capability advertisement. -/
def ctlCapability : Nat := 1
/-- A key that the receiver has installed. -/
def ctlKeyReady : Nat := 2
/-- A request to agree a key. -/
def ctlKeyAsk : Nat := 3
/-- An invalidation acknowledged. -/
def ctlInvalDone : Nat := 4
/-- A translation request. -/
def ctlTranslate : Nat := 5
/-- An invalidation. -/
def ctlInval : Nat := 6
/-- A count vector. -/
def ctlVector : Nat := 7

/-- The flits of an entry (R338). -/
def VqEntry.flits (e : VqEntry) : Nat :=
  if e.small || e.flit.type == 2 then 1 else 1 + (e.flit.data.length + 223) / 224

/-- The flit of an entry with a number (R338, R345): the first carries the headers, the others 224 B of data each, the
last padded with zeros; ADDR of a data flit is its offset. -/
def VqEntry.nth (e : VqEntry) (k : Nat) : Flit :=
  if k == 0 then { e.flit with data := if e.small || e.flit.type == 2 then e.flit.data else [] }
  else
    let d := (e.flit.data.drop (224 * (k - 1))).take 224
    { type := 2, final := e.flit.final, small := e.small, seq := e.flit.seq, cookie := e.flit.cookie, addr := 224 * (k - 1)
      data := d ++ List.replicate (224 - d.length) 0 }

/-- An entry found in the queues by its number, changed. -/
def adjEntry (id : Nat) (f : VqEntry → VqEntry) (s : State) : State :=
  { s with fabric := { s.fabric with
      peers := s.fabric.peers.map fun x => (x.1, { x.2 with queue := x.2.queue.map fun e => if e.id == id then f e else e }) } }

/-- An entry taken out of its ring. -/
def dropEntry (id : Nat) (s : State) : State :=
  { s with fabric := { s.fabric with
      peers := s.fabric.peers.map fun x => (x.1, { x.2 with queue := x.2.queue.filter fun e => e.id != id }) } }

/-- The flits of an entry forgotten by every retry buffer. -/
def dropRetry (id : Nat) (s : State) : State :=
  { s with fabric := { s.fabric with
      rails := s.fabric.rails.map fun x => (x.1, { x.2 with retry := x.2.retry.filter fun f => f.entry != id }) } }

/-- An entry whose next hop cannot be met is ferried by another member, with its SEQ and DSEQ (R350); where none gains, an
entry on its first ferry hop goes direct once its final target is met, or if its hop is `gone`. -/
def rerouteEntry (gone : Bool) (e : VqEntry) (s : State) : State :=
  let v := ferryVia s e.final
  let taken (s : State) : State := dropRetry e.id (dropEntry e.id s)
  let e := { e with sent := 0, claimed := none }
  match v.1 with
  | some m => ferryEntry m e (taken v.2)
  | none =>
    if e.ferry && (gone || (untilPeer v.2 e.final).isSome) then pushEntry e.final { e with ferry := false } (taken v.2) else v.2

/-! Remote translation (R353). -/

/-- The number under which a peer's ASID stands in the fabric translation cache. -/
def peerAsid (q asid : Nat) : Nat := q * 512 + asid

/-- An entry installed: the latest used first, 8 in each of 2,048 sets (R353). -/
def fabricTouch (c : List TlbEntry) (e : TlbEntry) : List TlbEntry :=
  let set (x : TlbEntry) : Nat := (x.vbase / 2 ^ szLog x.sz + x.asid) % 2048
  let rest := c.filter fun x => !(x.asid == e.asid && x.sz == e.sz && x.vbase == e.vbase)
  match (rest.filter fun x => set x == set e).drop 7 with
  | [] => e :: rest
  | old => e :: rest.filter fun x => !old.contains x

/-- The kind of a remote operation. -/
def remoteKind (op : Nat) (host : Bool) : AccKind := if op == 0 then .load else if op == 2 then .atomic host else .store

/-- The number of a kind in a translation request: R88's code, 3 for an atomic that cannot travel to the host, and 4 more
for a privileged launch. -/
def kindNumber (k : AccKind) (priv : Bool) : Nat :=
  (match k with
    | .load => 0
    | .store => 1
    | .atomic true => 2
    | .atomic false => 3
    | .fetch => 0) + (if priv then 4 else 0)

/-- The member of an atomic's ARG (R355: 2m + W). -/
def memberAt (arg : Nat) : AtomOp :=
  match arg / 2 with
  | 0 => .add | 1 => .minS | 2 => .minN | 3 => .maxS | 4 => .maxN | 5 => .and | 6 => .or | 7 => .xor | 8 => .exch
  | 9 => .cas | 10 => .fadd | 11 => .fmin | 12 => .fmax | 13 => .incw | _ => .decw

/-- A member's number (R228). -/
def memberNumber : AtomOp → Nat
  | .add => 0 | .minS => 1 | .minN => 2 | .maxS => 3 | .maxN => 4 | .and => 5 | .or => 6 | .xor => 7 | .exch => 8
  | .cas => 9 | .fadd => 10 | .fmin => 11 | .fmax => 12 | .incw => 13 | .decw => 14

/-- The kind of a remote access. -/
def Remote.kind (r : Remote) : AccKind := remoteKind r.op (hostedOp (memberAt r.arg))

/-- Whether an invalidation names an entry of the fabric translation cache (R354). -/
def Inval.hits (v : Inval) (e : TlbEntry) : Bool :=
  e.asid == peerAsid v.peer v.asid && (v.log2 == 64 || e.vbase / 2 ^ v.log2 == v.va / 2 ^ v.log2 ||
    (v.log2 < szLog e.sz && e.vbase / 2 ^ szLog e.sz == v.va / 2 ^ szLog e.sz))

/-- The leaf that the fabric translation cache holds for an access, where it allows it (R353); an entry that is about to be
invalidated serves no further access (R354). (log 22 DEDUCED) -/
def cachedLeaf (s : State) (r : Remote) (va : Nat) : Option Nat :=
  match (tlbLookup s.fabric.tcache (peerAsid r.peer r.asid) (va57 va)).filter fun e => !s.fabric.invals.any (·.hits e) with
  | none => none
  | some e =>
    let pa := (xlatOf r.asid (va57 va) e.leaf).pa
    if (checkAccess e.leaf r.priv r.kind .global pa).isNone && (!r.kind.writes || leafD e.leaf) then some e.leaf else none

/-- The first flit of a remote access whose translations are known (R345, R353). (log 71 DEDUCED) -/
def Remote.flit (r : Remote) (self ts : Nat) (data : List Byte) (f : Flit) : Flit :=
  let known := r.lanes.filterMap fun l =>
    match Map.find l.lane r.homes with
    | some (some leaf) => some (l, leaf, (xlatOf r.asid (va57 l.addr) leaf).pa)
    | _ => none
  let base := match known with
    | x :: _ => x.2.2
    | [] => 0
  { f with
    type := if r.small then 3 else 1
    addr := base, len := if r.small then r.n * known.length else if known == [] then 0 else r.n, op := r.op, arg := r.arg, asid := r.asid
    ord := scopeNum r.scope * 32 + (match r.ord with
      | .none => 0
      | .acq => 1
      | .rel => 2
      | .sc => 3) * 8
    lanes := known.foldl (fun m x => m + 2 ^ x.1.lane) 0
    ts := ts, cookie := self * 2 ^ 32 + r.id
    leaf := match known with
      | x :: _ => x.2.1
      | [] => 0
    recs := if r.small then known.map fun x => ⟨x.1.lane, lowBits 64 ((x.2.2 : Int) - base), x.1.data, x.1.cmp, x.2.1⟩ else []
    data := if known == [] then [] else data, small := r.small }

/-- A remote access found by its number. -/
def findRemote (s : State) (id : Nat) : Option Remote := s.fabric.remotes.find? fun r => r.id == id

/-- A remote access changed. -/
def adjRemote (id : Nat) (f : Remote → Remote) (s : State) : State :=
  { s with fabric := { s.fabric with remotes := s.fabric.remotes.map fun r => if r.id == id then f r else r } }

/-- A remote access all of whose lanes are translated may be sent; none of them is left to send where all fault. -/
def releaseEntry (id : Nat) (s : State) : State :=
  match findRemote s id with
  | none => s
  | some r =>
    if r.lanes.all fun l => (Map.find l.lane r.homes).isSome then
      adjEntry id (fun e => { e with ready := true, flit := r.flit s.self e.flit.ts e.flit.data e.flit }) s
    else s

/-- The translations that a remote access still lacks are asked of its target, each page once (R353). -/
def askTranslations (r : Remote) (s : State) : State :=
  let lack := r.lanes.filter fun l => (Map.find l.lane r.homes).isNone
  let pages := (lack.map fun l => va57 l.addr / 4096).eraseDups
  pages.foldl (fun s p =>
    sendControl r.peer ctlTranslate
      { addr := p * 4096, asid := r.asid, lanes := kindNumber r.kind r.priv, cookie := s.self * 2 ^ 32 + r.id } s) s

/-- A remote access set going: its record, its entry in the queue, and its translations; one to
a package that has been declared removed is lost at once (R351). The entry of a replay is not
made (R417). -/
def postRemote (r : Remote) (det direct : Bool) (ts : Nat) (data : List Byte) (s : State) : State :=
  let homes := r.lanes.filterMap fun l => (cachedLeaf s r l.addr).map fun leaf => (l.lane, some leaf)
  let r := { r with homes := homes }
  let e : VqEntry :=
    { id := r.id, small := r.small, final := r.peer, ferry := false, direct := direct, det := det, brief := false
      ready := false, flit := { op := r.op, ts := ts, data := data, small := r.small }, sent := 0, claimed := none }
  let s := { s with fabric := { s.fabric with remotes := s.fabric.remotes ++ [r] } }
  if (s.peer r.peer).removed then s.later (.remoteTimeout r.id)
  else releaseEntry r.id (askTranslations r (sendAccess e s))

/-- Writes and atomics to a target that it has not acknowledged (R209). -/
def unacked (s : State) (q : Nat) : Nat := (s.fabric.remotes.filter fun r => r.peer == q && r.op != 0).length

/-- An invalidation is acknowledged when every access that it waited for has ended (R354). -/
def settleInvals (s : State) : State :=
  let done := s.fabric.invals.filter fun v => v.waits == []
  let s := { s with fabric := { s.fabric with invals := s.fabric.invals.filter fun v => v.waits != [] } }
  done.foldl (fun s v =>
    let s := { s with fabric := { s.fabric with tcache := s.fabric.tcache.filter fun e => !v.hits e } }
    sendControl v.peer ctlInvalDone { asid := v.asid, addr := v.va } s) s

/-- A remote access ended: its record and its entry are gone. -/
def endRemote (id : Nat) (s : State) : State :=
  let s := dropEntry id s
  settleInvals { s with fabric := { s.fabric with
    remotes := s.fabric.remotes.filter fun r => r.id != id
    invals := s.fabric.invals.map fun v => { v with waits := v.waits.filter fun i => i != id } } }

end Sys2Proof.Machine
end

