-- ==== Sys2Proof/Machine/Token.lean ====
section
/-! DEFINITION. The commit token of a deterministic launch (14_scheduling.md R410 to R414, 09_isa_memory_sync.md R250,
R251). -/

namespace Sys2Proof.Machine

/-- The sort key of an item in the ring: (stage, ITEMID) (R410). -/
def ringKey (s : State) (item : Nat) : Nat :=
  match Map.find item s.items with
  | some it => it.stage * 2 ^ 32 + it.num
  | none => 0

/-- Items in ring order. -/
def ringSort (s : State) (l : List Nat) : List Nat := l.sortedBy fun a b => ringKey s a ≤ ringKey s b

/-- A launch's token changed. -/
def adjToken (h : Nat) (f : Token → Token) (s : State) : State := s.adjLaunch h fun la => { la with token := f la.token }

/-- The bytes that peers wrote, which a replay writes again at a recorded pass (R417). -/
def replayPass (h : Nat) (s : State) : State :=
  match Map.find h s.launches with
  | none => s
  | some la =>
    match la.replay with
    | none => s
    | some es =>
      (es.filter fun e => e.kind == 9 && e.retcnt == la.token.passes).foldl (fun s e =>
        let w := ofLeBytes (e.bytes.take 8)
        (e.bytes.drop 8).zipIdx.foldl (fun s b =>
          physWrite ⟨w / 2 ^ 52, true, .remote, 0, true⟩ (w % 2 ^ 52 + b.2) 1 b.1.toNat s) s) s

/-- The token arrives at its holder: the holder's tile refreshes at package scope (R410). -/
def tokenArrives (h : Nat) (s : State) : State :=
  match Map.find h s.launches with
  | none => s
  | some la =>
    match la.token.ring[la.token.holder]? with
    | none => s
    | some item =>
      match Map.find item s.items with
      | none => s
      | some it => l1Refresh it.tile s

/-- The slot of a convoy whose items have all left the ring becomes free, behind the slots that became free before
(R409, R411). -/
def freeSlot (h convoy : Nat) (s : State) : State :=
  match Map.find h s.launches, Map.find convoy s.convoys with
  | some la, some cv =>
    if cv.items.any fun i => la.token.ring.contains i || la.token.joining.contains i then s
    else
      match la.shape.find? fun x => x.2 == convoy with
      | none => s
      | some x =>
        wakeTile (tileAt x.1 0) (s.adjLaunch h fun la => { la with shape := la.shape.filter (· != x) ++ [(x.1, 0)] })
  | _, _ => s

/-- The token passes (R410): the holder's tile publishes at package scope, PASSES advances, and the next member holds it;
where the last member passes to the first, the items that were admitted meanwhile join. `leaves` takes the holder out. -/
def passToken (h : Nat) (leaves : Bool) (s : State) : State :=
  match Map.find h s.launches with
  | none => s
  | some la =>
    let t := la.token
    match t.ring[t.holder]? with
    | none => s
    | some item =>
      let s := match Map.find item s.items with
        | some it => l1Publish it.tile (s.adjItem item fun it => { it with passes := it.passes + 1 })
        | none => s
      let ring := if leaves then t.ring.eraseIdx t.holder else t.ring
      let next := if leaves then t.holder else t.holder + 1
      let turn := ring.length ≤ next
      let ring := if turn then ringSort s (ring ++ t.joining) else ring
      let s := adjToken h (fun t => { t with
        ring := ring, holder := if turn then 0 else next, passes := (t.passes + 1) % 2 ^ 64
        joining := if turn then [] else t.joining }) s
      let s := match leaves, Map.find item s.items with
        | true, some it => freeSlot h it.convoy s
        | _, _ => s
      tokenArrives h (replayPass h s)

/-- Whether a strand waits where the token does not, and still has to (R411): at a barrier whose phase has not completed, on a
counter that is not 0, at TIDEWAIT before what it waits for, or at a full queue. -/
def stillWaits (s : State) (la : Launch) (it : Item) (st : Strand) : Bool :=
  match st.wait with
  | .barrier n phase | .barrierAgain n phase =>
    let b := if n < (stageOf la it).nbar then Map.find n it.bars
      else match Map.find it.convoy s.convoys with
        | some cv => Map.find n cv.bars
        | none => none
    (match b with | some b => b.phase.toNat | none => 0) == phase
  | .counter k => counterAt s it.tile it.launch k != 0
  | .clause =>
    match (st.flow ((lowest st.set).getD 0)).ctx with
    | some x =>
      let hd := headerOf x.word
      hd.wct && counterAt s it.tile it.launch hd.ctr != 0
    | none => false
  | .tide t => s.fabric.tidecnt.toNat == t
  | .peer q since => (peerAnswer s q since).isNone
  | .queueFull q => match la.queues[q]? with
    | some x => x.depth ≤ x.live.length
    | none => false
  | .none | .issue | .laneOp | .token | .engine | .remote | .halt | .crew => false

/-- Whether every live strand of an item satisfies a test. -/
def allLive (s : State) (it : Item) (f : Strand → Bool) : Bool :=
  (liveStrands s it).all fun k =>
    match s.strand k with
    | some st => f st
    | none => true

/-- The deferred decrements that an arrival waits for are applied in issue order, once all their commands have ended
(R412). -/
def applyDeferred (item : Nat) (all : Bool) (s : State) : State :=
  match Map.find item s.items with
  | none => s
  | some it =>
    let due := it.deferred.filter fun d => all || d.pass < it.passes
    if due.all (·.done) then
      let s := s.adjItem item fun it => { it with deferred := it.deferred.filter fun d => !(all || d.pass < it.passes) }
      due.foldl (fun s d => countDown it.tile it.launch d.k s) s
    else s

/-- What the token of a launch does between turns (R410 to R412): it comes to a first member, applies the decrements due
at an arrival, and passes on from an item that has exited or whose strands wait where it does not. (log 104 DEDUCED) -/
def tokenTurn (h : Nat) (s : State) : State :=
  match Map.find h s.launches with
  | none => s
  | some la =>
    if !la.det || la.state != .live then s
    else
      match la.token.ring[la.token.holder]? with
      | none =>
        if la.token.joining == [] then s
        else tokenArrives h (adjToken h (fun t => { t with ring := ringSort s t.joining, holder := 0, joining := [] }) s)
      | some item =>
        match Map.find item s.items with
        | none => passToken h true s
        | some it =>
          if itemOver s it then
            let s := applyDeferred item true s
            match Map.find item s.items with
            | none => s
            | some it => if it.deferred == [] then (passToken h true s).later (.itemRetire item) else s
          else
            let s := applyDeferred item false s
            match Map.find item s.items with
            | none => s
            | some it => if holdsToken la it item && allLive s it (stillWaits s la it) then passToken h false s else s

/-! Tags of evicted lines (R413). -/

/-- The tags of evicted lines that a home slice keeps (R413). -/
def tagTable : Nat := 4096

/-- The tags, as launch and line, whose lines stand in no home: those that the tables of the home slices keep. -/
def evictedTags (s : State) : List (Nat × Nat) :=
  s.launches.flatMap fun x => (x.2.tags.filter fun l => (Map.find l s.l2).isNone).map fun l => (x.1, l)

/-- The tags that full tables drop: of the evicted lines of a home slice, those behind the first 4,096. -/
def droppedTags (s : State) : List (Nat × Nat) :=
  let ts := evictedTags s
  if ts.length ≤ tagTable then []
  else (upTo 256).flatMap fun k => (ts.filter fun t => homeSlice (t.2 * 256) == k).drop tagTable

/-- A tag dropped from a full home tag table (R413): the line is no longer watched, the launch's reproducibility is lost,
and the elected strand of the ring's first member is told. -/
def dropTag (h line : Nat) (s : State) : State :=
  let s := s.adjLaunch h fun la => { la with tags := la.tags.filter (· != line), detbreak := true }
  match (Map.find h s.launches).bind fun la => la.token.ring.head? with
  | some item => chargeElected item { code := 0x70, info0 := 3, info1 := line * 256, origin := 4, pc := 0x3FFFF } s
  | none => s

/-- The tokens of every deterministic launch, once full tables have dropped their tags. -/
def tokenTurns (s : State) : State :=
  let s := (droppedTags s).foldl (fun s t => dropTag t.1 t.2 s) s
  s.launches.foldl (fun s x => tokenTurn x.1 s) s

/-- TOKWAIT (R250). -/
def execTokwait (g : Guard) (d : Opnd) (s : State) : Host.Outcome State Fault Refusal :=
  issue (.tokwait g d) s fun c s =>
    if !c.la.det then c.put d (fun _ => 0) s
    else if holdsToken c.la c.it c.st.item then c.put d (fun _ => BitVec.ofNat 32 c.la.token.passes) s
    else .wait .token s

/-- Whether another strand of an item stands at an access that the token rules hold (R251, R411). -/
def accessHeld (s : State) (it : Item) (k : Nat) : Bool :=
  (liveStrands s it).any fun j => j != k && match s.strand j with
    | some st => st.wait == .token
    | none => false

/-- TOKPASS (R250, R251): once per item; an item that does not hold the token is unaffected. It waits while an access of
another strand of the item that the token rules hold is still to be performed. -/
def execTokpass (g : Guard) (s : State) : Host.Outcome State Fault Refusal :=
  issue (.tokpass g) s fun c s =>
    if !c.once || !c.la.det || !holdsToken c.la c.it c.st.item then .done s
    else if accessHeld s c.it c.key then .wait .issue s
    else .done (passToken c.it.launch false s)

/-- The forced pass (R411, R413): where every live strand of the holder waits, the token moves on, and the launch's
reproducibility is lost. -/
def execTokenForcedPass (launch : Nat) (s : State) : Host.Outcome State Fault Refusal :=
  match Map.find launch s.launches with
  | none => .next s
  | some la =>
    match la.token.ring[la.token.holder]? with
    | none => .next s
    | some item =>
      match Map.find item s.items with
      | none => .next s
      | some it =>
        if la.det && la.state == .live && !itemOver s it && allLive s it (fun st => st.wait != .none) then
          let s := s.adjLaunch launch fun la => { la with detbreak := true }
          let s := chargeElected item { code := 0x70, info0 := 2, origin := 6, pc := 0x3FFFF } s
          .next (passToken launch false s)
        else .next s

end Sys2Proof.Machine
end

