-- ==== Sys2Proof/Machine/Tensor.lean ====
section
/-! DEFINITION. Tensor descriptors, element formats in memory and the planes of a plane stack
(07_copy_and_routing.md R148 to R150, R155, R159 to R161; 03_main_memory.md R51 to R53; 05_onchip_levels.md R100). -/

namespace Sys2Proof.Machine

/-- A dimension (R149). -/
structure Dim where
  ext : Nat
  stride : Int
deriving DecidableEq, Repr, Inhabited

/-- A tensor as its descriptor gives it (R148). -/
structure Tensor where
  base : Nat
  ndim : Nat
  esz : Nat
  lay : Nat
  pln : Nat
  efmt : Nat
  stream : Bool
  handle : Nat
  dims : List Dim
deriving DecidableEq, Repr, Inhabited

/-- The dimension in a 64-bit field (R149). -/
def dimOf (x : Nat) : Dim := ⟨x % 65536 + 1, signedOf 48 (x / 65536)⟩

/-- The dimension fields of up to three descriptor registers. -/
def dimFields (ds : List (BitVec 256)) : List Nat :=
  match ds with
  | [] => []
  | d :: rest =>
    [bitsOf d.toNat 191 128, bitsOf d.toNat 255 192] ++
      rest.flatMap fun e => (upTo 4).map fun i => bitsOf e.toNat (64 * i + 63) (64 * i)

/-- The tensor that one to three descriptor registers hold. -/
def tensorOf (ds : List (BitVec 256)) : Tensor :=
  let x := (ds.headD 0).toNat
  let n := bitsOf x 67 64
  { base := bitsOf x 63 0, ndim := n, esz := 2 ^ bitsOf x 69 68, lay := bitsOf x 71 70, pln := bitsOf x 75 72
    efmt := bitsOf x 81 76, stream := bitOf x 82, handle := bitsOf x 111 96
    dims := ((dimFields ds).take n).map dimOf }

/-- The number of descriptor registers a tensor takes (R149). -/
def descRegs (x : Nat) : Nat :=
  let n := bitsOf x 67 64
  if n ≤ 2 then 1 else if n ≤ 6 then 2 else 3

/-- Elements of some dimensions. -/
def extents (ds : List Dim) : Nat := ds.foldl (fun n d => n * d.ext) 1

/-- The offset from BASE of the element with a cursor (R149). -/
def offsetAt : List Dim → Nat → Int
  | [], _ => 0
  | d :: ds, i => ((i % d.ext : Nat) : Int) * d.stride + offsetAt ds (i / d.ext)

/-! Elements in memory (R18, R22). -/

/-- The element width that a block read or a plane stack moves. -/
def EFmt.width (f : EFmt) : Nat := f.bits

/-- Element `j` of a row of packed elements: NIn rows are plane-major blocks of 32 (R18), all others stand by R22. -/
def rowGet (f : EFmt) (row j : Nat) : Nat :=
  match f with
  | .ni n =>
    let block := row / 2 ^ (32 * n * (j / 32))
    (upTo n).foldl (fun x q => 2 * x + block / 2 ^ (32 * q + j % 32) % 2) 0
  | .int _ _ | .fp _ | .accInt => row / 2 ^ (f.bits * j) % 2 ^ f.bits

/-- A row of packed elements from element `j` on. -/
def rowPut (f : EFmt) (xs : List Nat) : Nat :=
  match f with
  | .ni n =>
    xs.zipIdx.foldl (fun r x => (upTo n).foldl (fun r q =>
      r + (x.1 / 2 ^ (n - 1 - q) % 2) * 2 ^ (32 * n * (x.2 / 32) + 32 * q + x.2 % 32)) r) 0
  | .int _ _ | .fp _ | .accInt => xs.zipIdx.foldl (fun r x => r + x.1 % 2 ^ f.bits * 2 ^ (f.bits * x.2)) 0

/-- Bytes of a row of `n` elements. -/
def rowBytes (f : EFmt) (n : Nat) : Nat :=
  match f with
  | .ni k => (n + 31) / 32 * 4 * k
  | .int _ _ | .fp _ | .accInt => (n * f.bits + 7) / 8

/-! Planes (R52, R100). -/

/-- Planes of a format with a declared count (0 is all). -/
def planeCount (f : EFmt) (k : Nat) : Nat :=
  match f with
  | .fp g => 1 + g.ew + (if k == 0 then g.fw + 1 else k)
  | .int _ w => if k == 0 then w else k
  | .ni n => if k == 0 then n else k
  | .accInt => 36

/-- Bit of an element in plane `q` (R52). -/
def planeBit (f : EFmt) (e q : Nat) : Bool :=
  match f with
  | .fp g =>
    if q == 0 then bitOf e (g.ew + g.fw)
    else if q ≤ g.ew then bitOf e (g.fw + g.ew - q)
    else if q == g.ew + 1 then e / 2 ^ g.fw % 2 ^ g.ew != 0
    else bitOf e (g.fw - (q - g.ew - 1))
  | .int _ w => bitOf e (w - 1 - q)
  | .ni n => bitOf e (n - 1 - q)
  | .accInt => bitOf e (35 - q)

/-- An element's pattern rebuilt from its first planes (R160): missing bits are 0, or with `mid` the highest of them
is 1. -/
def planeBuild (f : EFmt) (k : Nat) (mid : Bool) (bit : Nat → Bool) : Nat :=
  let b (q : Nat) : Nat := if bit q then 1 else 0
  let fraction (w have_ : Nat) (first : Nat) : Nat :=
    let got := (upTo have_).foldl (fun x i => 2 * x + b (first + i)) 0
    let lack := w - have_
    got * 2 ^ lack + (if mid && 0 < lack then 2 ^ (lack - 1) else 0)
  match f with
  | .fp g =>
    let sig := if k == 0 then g.fw else k - 1
    b 0 * 2 ^ (g.ew + g.fw) + (upTo g.ew).foldl (fun x i => 2 * x + b (1 + i)) 0 * 2 ^ g.fw + fraction g.fw sig (g.ew + 2)
  | .int _ w => fraction w (if k == 0 then w else k) 0
  | .ni n => fraction n (if k == 0 then n else k) 0
  | .accInt => fraction 36 36 0

/-- The formats of plane stacks (R161). -/
def planeFormat : EFmt → Bool
  | .fp .fp16 | .fp .bf16 | .fp .e4m3 | .fp .e5m2 | .fp .e2m1 => true
  | .int _ w => w == 8 || w == 16
  | .ni _ => true
  | .fp _ | .accInt => false

/-! Block reads (R51 to R53). -/

/-- Whether a block read's format, pitch and plane count are answered OK (R51, R53). (log 131 DEDUCED) -/
def blockOk (lay : Nat) (f : Option EFmt) (pln : Nat) (pitch : Int) : Bool :=
  match f with
  | none => false
  | some f =>
    let w := f.bits
    let b : Nat := 4 * w
    let acc := match f with
      | .accInt | .fp .acc36 => true
      | .int _ _ | .ni _ | .fp _ => false
    let planes := match f with
      | .fp g => g.fw + 1
      | .ni n => n
      | .int _ w => w
      | .accInt => 0
    (w == 4 || w == 8 || w == 16 || w == 32) && !acc && pitch % (b : Int) == 0 && (b : Int) ≤ pitch && pitch < 2 ^ 24
      && (lay != 3 || pln ≤ planes)

/-- Bytes a converted block returns (R155). -/
def blockBytes (lay : Nat) (f : EFmt) (pln : Nat) : Nat :=
  if lay == 3 then 32 * planeCount f pln * 4 else 32 * 4 * f.bits

/-- The bytes of a converted block (R51, R52) from its 32 rows. -/
def blockConvert (lay : Nat) (f : EFmt) (pln : Nat) (rows : List Nat) : List Byte :=
  let b := 4 * f.bits
  if lay == 1 then
    (upTo 32).flatMap fun i => leBytes b (rowPut f (rows.map fun r => rowGet f r i))
  else if lay == 2 then rows.flatMap fun r => leBytes b r
  else
    rows.flatMap fun r =>
      let es := (upTo 32).map (rowGet f r)
      (upTo (planeCount f pln)).flatMap fun q =>
        leBytes 4 (es.zipIdx.foldl (fun w e => w + (if planeBit f e.1 q then 2 ^ e.2 else 0)) 0)

/-! The checks of R150. -/

/-- Which end a descriptor serves, and in which space (R150). -/
structure EndUse where
  source : Bool
  space : Space
deriving DecidableEq, Repr, Inhabited

/-- Whether a tensor with a layout reads malformed blocks (R51, R53, R150): block addresses must be multiples of the row
size. -/
def layoutFails (t : Tensor) : Bool :=
  let f := EFmt.ofCode t.efmt
  let b : Int := match f with
    | some f => 4 * (f.bits : Int)
    | none => 1
  match t.dims with
  | d0 :: d1 :: rest =>
    d0.ext != 32 || d1.ext != 32 || !blockOk t.lay f t.pln d1.stride || (t.base : Int) % b != 0
      || rest.any fun d => d.ext != 1 && d.stride % b != 0
  | _ => true

/-- The first case of R150 that a descriptor fails: COPY_DESC, or REG_BOUND where it needs a register beyond d15.
`ds` are the registers from dN on that exist. -/
def descFails (u : EndUse) (n : Nat) (ds : List (BitVec 256)) : Option Nat :=
  let x := (ds.headD 0).toNat
  let nd := bitsOf x 67 64
  let regs := descRegs x
  let have_ := ds.take regs
  let t := tensorOf have_
  if nd == 0 || 10 < nd then some 0x50
  else if bitsOf x 127 112 != 0 || bitsOf x 95 83 != 0 then some 0x50
  else if ((dimFields have_).drop nd).any (· != 0) then some 0x50
  else if 2 ^ 40 < extents t.dims then some 0x50
  else if t.stream && u.space != .global then some 0x50
  else if t.lay != 0 && (!u.source || u.space != .global) then some 0x50
  else if t.lay == 0 && (t.pln != 0 || t.efmt != 0) then some 0x50
  else if t.lay != 0 && layoutFails t then some 0x50
  else if 16 < n + regs then some 0x08
  else none

/-- Bytes that an end moves (R154, R155). -/
def Tensor.bytes (t : Tensor) : Nat :=
  if t.lay == 0 then extents t.dims * t.esz
  else
    match EFmt.ofCode t.efmt with
    | some f => extents (t.dims.drop 2) * blockBytes t.lay f t.pln
    | none => 0

/-- Bytes of one element, or of one block (R155). -/
def Tensor.unit (t : Tensor) : Nat :=
  if t.lay == 0 then t.esz
  else
    match EFmt.ofCode t.efmt with
    | some f => blockBytes t.lay f t.pln
    | none => 1

/-- Bytes that one element, or the 32 rows of one block, takes at its source (R51). -/
def Tensor.rawUnit (t : Tensor) : Nat :=
  if t.lay == 0 then t.esz
  else
    match EFmt.ofCode t.efmt with
    | some f => 32 * (4 * f.bits)
    | none => 1

/-- The bytes that an element, or a block with its layout, gives at its destination (R155). -/
def Tensor.convert (t : Tensor) (raw : List Byte) : List Byte :=
  if t.lay == 0 then raw
  else
    match EFmt.ofCode t.efmt with
    | some f => blockConvert t.lay f t.pln ((upTo 32).map fun k => ofLeBytes ((raw.drop (4 * f.bits * k)).take (4 * f.bits)))
    | none => raw

/-- The address of the element, or block, with a cursor. -/
def Tensor.addr (t : Tensor) (i : Nat) : Int :=
  (t.base : Int) + (if t.lay == 0 then offsetAt t.dims i else offsetAt (t.dims.drop 2) i)

/-- The lowest byte and the byte after the highest that a tensor's elements touch. -/
def Tensor.span (t : Tensor) : Int × Int :=
  t.dims.foldl (fun r d =>
    let reach := ((d.ext - 1 : Nat) : Int) * d.stride
    if reach < 0 then (r.1 + reach, r.2) else (r.1, r.2 + reach)) ((t.base : Int), (t.base : Int) + t.esz)

/-- Whether every element of a tensor is naturally aligned to `n` bytes. -/
def Tensor.aligned (t : Tensor) (n : Nat) : Bool :=
  t.base % n == 0 && t.dims.all fun d => d.ext == 1 || d.stride % (n : Int) == 0

end Sys2Proof.Machine
end

