-- ==== Sys2Proof/Machine/Copy.lean ====
section
/-! DEFINITION. The issue of the COPY family (07_copy_and_routing.md R144 to R165): what a command is read from, its
checks (R153), its place in the tile's queue (R145), and the instructions. -/

namespace Sys2Proof.Machine

/-! Where a command comes from: a strand, or an engine program's frame (R381). -/

/-- The source of an engine command: the item and the elected lane, the instruction with its words, the registers and
descriptors it reads, the base of the traps it raises, and its guard slot. -/
structure CmdSource where
  item : Nat
  it : Item
  la : Launch
  strand : Nat
  lane : Nat
  i : Instr
  w1 : Word
  w2 : Word
  pc : Nat
  reg : Opnd → Nat → Word
  index : Opnd → Nat
  desc : Nat → BitVec 256
  vregs : Nat
  raise : Nat → Raise
  program : Bool
  slot : Option Nat
  retcnt : Nat

/-- The source that a strand's elected lane is. -/
def Issue.source (c : Issue) : CmdSource :=
  { item := c.st.item, it := c.it, la := c.la, strand := c.key, lane := c.elect, i := c.i, w1 := c.w1, w2 := c.w2, pc := c.pc
    reg := c.regAt c.elect, index := c.index, desc := fun n => Table.get 0 n c.st.d, vregs := c.vregs
    raise := fun code => c.raise code c.electedMask, program := false, slot := none, retcnt := c.st.retcnt.toNat }

/-- A value operand of one register. -/
def CmdSource.word (c : CmdSource) (o : Opnd) : Nat := (c.reg o 0).toNat

/-- A value operand of a pair. -/
def CmdSource.pair (c : CmdSource) (o : Opnd) : Nat := (c.reg o 0).toNat + (c.reg o 1).toNat * 2 ^ 32

/-- The descriptor registers from dN on. -/
def CmdSource.descs (c : CmdSource) (n : Nat) : List (BitVec 256) := ((upTo 3).filter fun i => n + i < 16).map fun i => c.desc (n + i)

/-- A copy cause, with ENGDETAIL in INFO1 (R431). -/
def CmdSource.copyRaise (c : CmdSource) (code : Nat) : Raise :=
  let r := c.raise code
  if code == 0x50 || code == 0x51 || code == 0x54 || code == 0x55 then { r with info1 := c.it.engdetail.toNat } else r

/-- A space cause of an end: the space, the elected lane and the address (R431). (log 57 DEDUCED) -/
def CmdSource.spaceRaise (c : CmdSource) (code : Nat) (sp : Space) (addr : Int) : Raise :=
  let j := match c.it.strands.idxOf? c.strand with
    | some k => k * 4 + c.lane
    | none => c.lane
  if code == 0x42 then c.raise code
  else { c.raise code with info0 := sp.code.toNat + j * 256, info1 := lowBits 64 addr }

/-! Checks (R153). -/

/-- Whether a peer field names this package (R151). -/
def hereField (s : State) (peer : Nat) : Bool := peer == 0x7F || peer == s.self

/-- Whether a peer field names another member of the pod. -/
def podMember (s : State) (peer : Nat) : Bool :=
  s.fabric.inPod && (match Map.find peer s.fabric.peers with
    | some p => p.member && !p.removed
    | none => false)

/-- The bound of an untranslated space, in bytes (R93, R96, R110). -/
def CmdSource.bound (c : CmdSource) (sp : Space) : Nat :=
  let st := stageOf c.la c.it
  match sp with
  | .lanePrivate => st.lpriv - st.spill
  | .scratch | .remoteScratch => c.la.scrtile
  | .shared => c.la.cshare
  | .acc => st.accrows * 2048
  | .dieScratch | .global | .host => 0

/-- The trap of bytes [lo, hi) that leave an untranslated space, its address that of the lowest or highest unit. -/
def CmdSource.range (c : CmdSource) (sp : Space) (lo hi : Int) (unit : Nat := 1) : Option Raise :=
  let code := if sp == .acc then 0x42 else 0x26
  if sp == .remoteScratch then
    let t := lo / 2 ^ 21
    if lo < 0 || t != (hi - 1) / 2 ^ 21 || 768 ≤ t then some (c.spaceRaise code sp lo)
    else if (c.la.scrtile : Int) < hi - t * 2 ^ 21 then some (c.spaceRaise code sp (hi - unit))
    else none
  else if lo < 0 then some (c.spaceRaise code sp lo)
  else if (c.bound sp : Int) < hi then some (c.spaceRaise code sp (hi - unit))
  else none

/-- The checks on an untranslated end (R94, R110, R153). -/
def CmdSource.endFails (c : CmdSource) (sp : Space) (t : Tensor) : Option Raise :=
  if sp == .dieScratch || sp == .global || sp == .host then none
  else if sp == .acc && (t.esz != 8 || t.base % 8 != 0 || t.dims.any fun d => d.stride % 8 != 0) then some (c.spaceRaise 0x27 sp t.base)
  else if !t.aligned t.esz then some (c.spaceRaise 0x27 sp t.base)
  else c.range sp t.span.1 t.span.2 t.esz

/-- A command of a source, as it enters a queue. -/
def CmdSource.command (c : CmdSource) (id : Nat) (descs : List (BitVec 256)) (value : Nat) : Command :=
  { no := 0, id := id, state := .queued, op := c.i, launch := c.it.launch, item := c.item, stage := c.it.stage
    strand := c.strand, lane := c.lane, program := c.program, guardSlot := c.slot, floor := false, descs := descs
    value := BitVec.ofNat 64 value, value2 := 0, pend := none, pc := c.pc, w1 := c.w1, w2 := c.w2, pass := c.it.passes
    cursor := 0, err := 0, dropped := false, endBit := false, seq := 0, handle := 0, started := false, reruns := 0, flags := 0, drawn := 0
    count := 0, wait := [], got := [], retcnt := c.retcnt, fault := none, met := [], finished := false
    gen := (c.raise 0).gen }

/-- The checks of COPY (R153 to R156). (log 58 DEDUCED) -/
def CmdSource.checkCopy (c : CmdSource) (s : State) (d a : Nat) (m : CopyMod) (peer : Nat) : Option Raise :=
  let dst := tensorOf ((c.descs d).take (descRegs (c.desc d).toNat))
  let src := tensorOf ((c.descs a).take (descRegs (c.desc a).toNat))
  let away := !hereField s peer
  match descFails ⟨false, m.dst⟩ d (c.descs d), descFails ⟨true, m.src⟩ a (c.descs a) with
  | some code, _ => some (c.copyRaise code)
  | none, some code => some (c.copyRaise code)
  | none, none =>
    if away && (!podMember s peer || (if m.pdir then m.src else m.dst) != .global) then some (c.copyRaise 0x51)
    else if dst.bytes != src.bytes then some (c.copyRaise 0x50)
    else
      match (if away && !m.pdir then none else c.endFails m.dst dst) with
      | some r => some r
      | none => if away && m.pdir then none else c.endFails m.src src

/-- The plane slot of PLPACK and PLUNPK (R159, R161). -/
def CmdSource.planeSlot (c : CmdSource) (slot : Nat) : Option Slot :=
  match slotOf (c.la.slots.getD slot 0) with
  | some f => if planeFormat f.efmt then some f else none
  | none => none

/-- The checks of PLPACK and PLUNPK (R159 to R161): `packs` says which end is the destination. -/
def CmdSource.checkPlanes (c : CmdSource) (packs : Bool) (stack packed slot : Nat) (m : CopyMod) : Option Raise :=
  let t := tensorOf ((c.descs packed).take (descRegs (c.desc packed).toNat))
  let base := bitsOf (c.desc stack).toNat 63 0
  match descFails ⟨packs, if packs then m.src else m.dst⟩ packed (c.descs packed) with
  | some code => some (c.copyRaise code)
  | none =>
    match c.planeSlot slot, t.dims with
    | some f, [d0, d1] =>
      if m.pdir || m.src != .scratch || m.dst != .scratch || 256 < d0.ext || 256 < d1.ext || d1.stride % 4 != 0
          || base % 256 != 0 then some (c.copyRaise 0x51)
      else
        let reach := ((d1.ext - 1 : Nat) : Int) * d1.stride
        let lo : Int := (t.base : Int) + (if reach < 0 then reach else 0)
        let hi : Int := (t.base : Int) + (if reach < 0 then 0 else reach) + rowBytes f.efmt d0.ext
        let stackRange := c.range .scratch base ((base : Int) + 8192 * planeCount f.efmt f.planes)
        let packedRange := c.range .scratch lo hi
        if packs then stackRange.or packedRange else packedRange.or stackRange
    | _, _ => some (c.copyRaise 0x51)

/-- The checks on a value operand that is a pair by its descriptor (R129, R162), with those of R136: a direct odd name is
RESERVED_FIELD, an indexed odd one and one beyond VREGS REG_BOUND. (log 34 DEDUCED) -/
def CmdSource.pairFails (c : CmdSource) (o : Opnd) : Option Raise :=
  if !o.pairOk then some (c.raise 0x03)
  else if c.index o % 2 == 1 || c.vregs < c.index o + 2 then some (c.raise 0x08)
  else none

/-- The checks of FILL (R153, R162). -/
def CmdSource.checkFill (c : CmdSource) (s : State) (d : Nat) (a : Opnd) (m : CopyMod) (peer : Nat) : Option Raise :=
  let t := tensorOf ((c.descs d).take (descRegs (c.desc d).toNat))
  let away := !hereField s peer
  match (if t.esz == 8 then c.pairFails a else none), descFails ⟨false, m.dst⟩ d (c.descs d) with
  | some r, _ => some r
  | none, some code => some (c.copyRaise code)
  | none, none =>
    if m.pdir || m.src != .lanePrivate || t.stream || (away && (!podMember s peer || m.dst != .global)) then
      some (c.copyRaise 0x51)
    else if away then none
    else c.endFails m.dst t

/-- The checks of a COPY-family command: the trap it raises. -/
def CmdSource.checkCopyFamily (c : CmdSource) (s : State) : Option Raise :=
  match c.i with
  | .copy _ d a _ m peer => c.checkCopy s d.toNat a.toNat m peer.toNat
  | .plpack _ d a _ m slot => c.checkPlanes true d.toNat a.toNat slot.toNat m
  | .plunpk _ d a _ m slot => c.checkPlanes false a.toNat d.toNat slot.toNat m
  | .fill _ d a _ m peer => c.checkFill s d.toNat a m peer.toNat
  | .bkopen _ _ _ _ m => if m.pdir || m.src != .lanePrivate || m.dst != .global then some (c.copyRaise 0x51) else none
  | .bkclose _ _ _ m => if m.pdir || m.src != .lanePrivate || m.dst != .lanePrivate then some (c.copyRaise 0x51) else none
  | _ => none

/-- The descriptor registers a COPY-family command keeps: the destination's three, then the source's. -/
def CmdSource.copyDescs (c : CmdSource) : List (BitVec 256) :=
  let three (n : Nat) : List (BitVec 256) := (upTo 3).map fun i => if n + i < 16 then c.desc (n + i) else 0
  match c.i with
  | .copy _ d a _ _ _ => three d.toNat ++ three a.toNat
  | .plpack _ d a _ _ _ | .plunpk _ d a _ _ _ => three d.toNat ++ three a.toNat
  | .fill _ d _ _ _ _ => three d.toNat
  | _ => []

/-- The value operand of a COPY-family command. -/
def CmdSource.copyValue (c : CmdSource) : Nat :=
  match c.i with
  | .fill _ d a _ _ _ =>
    let t := tensorOf [c.desc d.toNat]
    if t.esz == 8 then c.pair a else c.word a % 256 ^ t.esz
  | .bkopen _ _ a _ _ => c.pair a
  | .bkclose _ a _ _ => c.word a % 65536
  | _ => 0

/-! The queue (R144, R145). -/

/-- The stages that hold a floor entry on a tile, as (launch, stage) (R145, R304). -/
def floorStages (s : State) (tile : Nat) (accOnly : Bool) : List (Nat × Nat) :=
  (launchesOn s tile).flatMap fun x =>
    ((numbered x.2.stages).filter fun y => placeable x.2 y.2 tile && (!accOnly || y.2.accrows != 0)).map fun y => (x.1, y.1)

/-- Whether a queue of `size` entries, in which some stages hold floor entries, takes a command of (launch, stage), and if
so whether as its floor entry: a shared entry first (R145). (log 84 DEDUCED) -/
def queueTakes (q : List Command) (size : Nat) (floors : List (Nat × Nat)) (launch stage : Nat) : Option Bool :=
  if (q.filter fun e => !e.floor).length < size - floors.length then some false
  else if !floors.contains (launch, stage) || q.any fun e => e.floor && e.launch == launch && e.stage == stage then none
  else some true

/-- The lowest free entry number. -/
def freeEntry (q : List Command) (size : Nat) : Nat := ((upTo size).find? fun n => q.all fun e => e.no != n).getD 0

/-- A command put into its tile's copy queue; none where it must wait. -/
def enqueueCopy (tile : Nat) (e : Command) (s : State) : Option State :=
  let t := s.tile tile
  match queueTakes t.copies 64 (floorStages s tile false) e.launch e.stage with
  | none => none
  | some floor =>
    let e := { e with no := freeEntry t.copies 64, floor := floor }
    some ((s.setTile tile { t with copies := t.copies ++ [e] }).later (.copyEntryStart tile))

/-- A register that an engine's answer is owed to is locked (R163). (log 32 DEDUCED) -/
def owe (c : Issue) (id : Nat) (o : Opnd) (n : Nat) (lanes : BitVec 4) (s : State) : State :=
  let p : Pending :=
    { id := id, kind := .engine, pc := c.pc, w1 := c.w1, w2 := c.w2, left := 0
      locks := (lanesIn lanes).flatMap fun l => (upTo n).map fun i => (l, c.index o + i)
      writes := [], preds := [], poisoned := 0, killed := 0, flags := 0, causes := [], ready := false, logged := false }
  s.adjStrand c.key fun st => { st with pend := st.pend ++ [p] }

/-- The register of a COPY-family command that waits for its completion. -/
def copyResult : Instr → Option Opnd
  | .bkopen _ d _ _ _ => some d
  | _ => none

/-- A COPY-family command issued by a strand (R144, R145, R153, R199). -/
def copyCommand (k : BitVec 6) (c : Issue) (s : State) : Act :=
  if !c.once then .done s
  else
    let src := c.source
    match src.checkCopyFamily s with
    | some r => .trap r s
    | none =>
      let n := s.newId
      let pend := (copyResult c.i).map fun _ => n.1
      let e := { src.command n.1 src.copyDescs src.copyValue with pend := pend }
      match enqueueCopy c.it.tile e n.2 with
      | none => .wait .engine s
      | some s =>
        let s := match copyResult c.i with
          | some d => owe c n.1 d 1 c.electedMask s
          | none => s
        .done (commandIssued c n.1 k.toNat s)

/-- COPY (R154). -/
def execCopy (g : Guard) (d a : BitVec 4) (k : BitVec 6) (m : CopyMod) (peer : BitVec 7) (s : State) :
    Host.Outcome State Fault Refusal :=
  issue (.copy g d a k m peer) s (copyCommand k)

/-- PLPACK (R159). -/
def execPlpack (g : Guard) (d a : BitVec 4) (k : BitVec 6) (m : CopyMod) (slot : BitVec 3) (s : State) :
    Host.Outcome State Fault Refusal :=
  issue (.plpack g d a k m slot) s (copyCommand k)

/-- PLUNPK (R160). -/
def execPlunpk (g : Guard) (d a : BitVec 4) (k : BitVec 6) (m : CopyMod) (slot : BitVec 3) (s : State) :
    Host.Outcome State Fault Refusal :=
  issue (.plunpk g d a k m slot) s (copyCommand k)

/-- FILL (R162). -/
def execFill (g : Guard) (d : BitVec 4) (a : Opnd) (k : BitVec 6) (m : CopyMod) (peer : BitVec 7) (s : State) :
    Host.Outcome State Fault Refusal :=
  issue (.fill g d a k m peer) s (copyCommand k)

/-- BKOPEN (R163). -/
def execBkopen (g : Guard) (d a : Opnd) (k : BitVec 6) (m : CopyMod) (s : State) : Host.Outcome State Fault Refusal :=
  issue (.bkopen g d a k m) s (copyCommand k)

/-- BKCLOSE (R164). -/
def execBkclose (g : Guard) (a : Opnd) (k : BitVec 6) (m : CopyMod) (s : State) : Host.Outcome State Fault Refusal :=
  issue (.bkclose g a k m) s (copyCommand k)

end Sys2Proof.Machine
end

