-- ==== Sys2Proof/Machine/Remote.lean ====
section
/-! DEFINITION. Remote accesses (12_fabric.md R342, R351 to R361, 08_consistency.md R203, R206 to R211): what a target
performs, what its answer does at the source, and RLD, RST, RATOM, TIDEWAIT and VQSTAT. -/

namespace Sys2Proof.Machine

/-! The target (R206, R342, R355, R358). -/

/-- A request at a home from another package. -/
def remoteReq (key leaf : Nat) : HomeReq := ⟨key, leafMT leaf == 0, .remote, 0, true⟩

/-- The key id of a page's data (R70, R72). -/
def leafKey (leaf asid : Nat) : Nat := if leafKS leaf then 0 else asid

/-- Whether the memory side performs an atomic of a member and width on an address (R60, R77, R355). -/
def atomicServed (op : AtomOp) (wide : Bool) (pa : Nat) : Bool :=
  !(wide && (op == .fadd || op == .fmin || op == .fmax)) && (inHbm pa || (inHost pa && hostedOp op))

/-- A timestamp given by the unit that performs a .sc access (R203): the L2 home slice, or the atomic unit of the base die
(`side`). -/
def stampHome (side : Bool) (pa ts : Nat) (s : State) : State × Nat :=
  if ts == 0 then (s, 0)
  else
    let u := if side then 512 + pa / 256 % 12 else homeSlice pa
    let ts := max ts ((Table.get 0 u s.l2units).toNat + 1)
    ({ s with l2units := Table.put 0 u (BitVec.ofNat 64 ts) s.l2units }, ts)

/-- What follows a write that a peer makes (R413, R416): the bytes, behind a word of their address and key id, are an input of
a capture launch with the ASID that has begun its sheet, and the tags of a deterministic launch of another ASID are met.
(log 106 DESIGN CHOICE) -/
def peerWrote (asid key pa : Nat) (bytes : List Byte) (s : State) : State :=
  let s := { s with
    launches := s.launches.map fun (x : Nat × Launch) =>
      if x.2.asid != asid && x.2.tags.contains (pa / 256) then (x.1, { x.2 with detbreak := true }) else x }
  (s.launches.filter fun x => x.2.asid == asid && x.2.capture && x.2.sheetAt != 0).foldl (fun s x =>
    captureInput ⟨x.2.clbase * 4, x.1, 0, 0, x.2.token.passes, 0x3F⟩ 9 pa
      (leBytes 8 (pa % 2 ^ 52 + key * 2 ^ 52) ++ bytes) s) s

/-- One lane record performed at its home: the answer's record, flags and timestamp; an atomic that an earlier lane's
request carries has that one's timestamp and is not counted again (R65, R205). (log 75 DEDUCED) -/
def serveLane (f : Flit) (earlier : Option Nat) (r : LaneRec) (s : State) : State × LaneRec × Flags × Nat :=
  let pa := (f.addr + r.offset) % 2 ^ 64
  let answer (status value : Nat) : LaneRec := { lane := r.lane, offset := status, data := value }
  let width := if f.op == 2 then (if f.arg % 2 == 1 then 8 else 4) else
    match f.arg with
    | 0 | 4 => 1
    | 1 | 5 => 2
    | 3 => 8
    | _ => 4
  let all := poison (8 * width)
  if !(inHbm pa || inHost pa) || pa % width != 0 then (s, answer 2 all, 0, f.ts)
  else
    let req := remoteReq (leafKey r.leaf f.asid) r.leaf
    if f.op == 0 then
      let st := stampHome false pa f.ts s
      let v := physRead req pa width st.1
      (v.1, answer (if v.2.bad then 1 else 0) (if v.2.bad then all else v.2.value), 0, st.2)
    else if f.op == 1 then
      let st := stampHome false pa f.ts s
      let s := physWrite req pa width r.data st.1
      (peerWrote f.asid req.key pa (leBytes width r.data) s, answer 0 0, 0, st.2)
    else if !atomicServed (memberAt f.arg) (f.arg % 2 == 1) pa then (s, answer 2 all, 0, f.ts)
    else
      let st := match earlier with
        | some ts => (s, ts)
        | none => stampHome (leafAP r.leaf == 1 && inHbm pa) pa f.ts s
      let a := homeAtomic { req with counted := earlier.isNone } (leafAP r.leaf) (leafSH r.leaf) width (memberAt f.arg) pa r.data
        r.cmp st.1
      match a.2.2 with
      | some new => (peerWrote f.asid req.key pa (leBytes width new) a.1, answer 0 a.2.1.value, a.2.1.flags, st.2)
      | none => (a.1, answer (if a.2.1.dead == 1 then 1 else 0) all, 0, st.2)

/-- A small entry performed, lane by lane in ascending order, and its answer: a response, or an end-to-end acknowledgement
of writes (R338, R355). -/
def serveSmall (f : Flit) (s : State) : State × Flit :=
  let r := (f.recs.sortedBy fun a b => a.lane ≤ b.lane).foldl
    (fun (acc : State × List LaneRec × Flags × List (Nat × Nat)) x =>
      let y := serveLane f (if f.op == 2 then Map.find x.offset acc.2.2.2 else none) x acc.1
      (y.1, acc.2.1 ++ [y.2.1], acc.2.2.1 ||| y.2.2.1, Map.insert x.offset y.2.2.2 acc.2.2.2)) (s, [], 0, [])
  let refused := r.2.1.any fun x => x.offset == 2
  (r.1, { type := if f.op == 1 && !refused then 5 else 4, op := 4, arg := r.2.2.1.toNat, seq := f.seq, cookie := f.cookie
          ts := (r.2.2.2.map (·.2)).foldl max f.ts, recs := r.2.1, lanes := f.lanes, small := true })

/-- The places of a bulk entry's bytes, which lie in one page. -/
def bulkParts (f : Flit) : List (Xlat × Nat × Nat) :=
  (lineParts f.addr f.len).map fun p => (⟨p.1, f.leaf, leafKey f.leaf f.asid⟩, p.2.1, p.2.2)

/-- A bulk entry performed: the bytes of a get, or bytes written (R206, R338). ARG of the answer is 6 where the target does
not support it (R170). -/
def serveBulk (f : Flit) (s : State) : State × Flit :=
  let base : Flit := { op := 4, seq := f.seq, cookie := f.cookie }
  if !((inHbm f.addr && inHbm (f.addr + f.len - 1)) || (inHost f.addr && inHost (f.addr + f.len - 1))) then
    (s, { base with type := 4, arg := 6, small := true })
  else if f.op == 0 then
    let r := (bulkParts f).foldl (fun (acc : State × List Byte × Bool) p =>
      let v := physRead (remoteReq p.1.key f.leaf) p.1.pa p.2.2 acc.1
      (v.1, acc.2.1 ++ leBytes p.2.2 v.2.value, acc.2.2 || v.2.bad)) (s, [], false)
    (r.1, { base with type := 4, arg := if r.2.2 then 1 else 0, len := f.len, data := r.2.1 })
  else
    let bytes := f.data.take f.len
    let s := (bulkParts f).foldl (fun s p =>
      physWrite (remoteReq p.1.key f.leaf) p.1.pa p.2.2 (ofLeBytes ((bytes.drop p.2.1).take p.2.2)) s) s
    (peerWrote f.asid (leafKey f.leaf f.asid) f.addr bytes s, { base with type := 5, small := true })

/-- The source of an access (R341: the hop's sender is another after a ferry hop). -/
def flitOrigin (f : Flit) : Nat := f.cookie / 2 ^ 32 % 128

/-- `a` comes before `b` in the order of 32-bit sequence numbers. -/
def seqBefore (a b : Nat) : Bool := a != b && (b + 2 ^ 32 - a) % 2 ^ 32 < 2 ^ 31

/-- A number for a SEQ of a queue. -/
def seqTag (small : Bool) (seq : Nat) : Nat := seq * 2 + (if small then 1 else 0)

/-- The lowest SEQ of a queue that has not been performed. -/
def Peer.seqLow (p : Peer) (small : Bool) : Nat := if small then p.seqIn.l1 else p.seqIn.l0

/-- The DSEQ that a queue performs next. -/
def Peer.dseqNext (p : Peer) (small : Bool) : Nat := if small then p.seqIn.l3 else p.seqIn.l2

/-- Whether an access with a SEQ has been performed (R209). -/
def Peer.performed (p : Peer) (small : Bool) (seq : Nat) : Bool :=
  seqBefore seq (p.seqLow small) || p.early.contains (seqTag small seq)

/-- The lowest SEQ moved over the accesses that were performed ahead of it. -/
def Peer.catchUp (small : Bool) : Nat → Peer → Peer
  | 0, p => p
  | n + 1, p =>
    let low := p.seqLow small
    if p.early.contains (seqTag small low) then
      catchUp small n { p with
        early := p.early.filter (· != seqTag small low)
        seqIn := if small then { p.seqIn with l1 := (low + 1) % 2 ^ 32 } else { p.seqIn with l0 := (low + 1) % 2 ^ 32 } }
    else p

/-- An access with a SEQ noted as performed (R209). -/
def Peer.note (p : Peer) (small : Bool) (seq : Nat) : Peer :=
  Peer.catchUp small (p.early.length + 1) { p with early := p.early ++ [seqTag small seq] }

/-- The DSEQ gate of a queue moved on (R342). -/
def Peer.openGate (p : Peer) (small : Bool) : Peer :=
  { p with seqIn := if small then { p.seqIn with l3 := (p.seqIn.l3 + 1) % 2 ^ 32 } else { p.seqIn with l2 := (p.seqIn.l2 + 1) % 2 ^ 32 } }

/-- A request performed once (R209): a write or atomic that has been performed is only answered again, an atomic with its
recorded result, flags and timestamp; the results of the last 1,024 atomics are kept. -/
def performRequest (f : Flit) (s : State) : State :=
  let q := flitOrigin f
  let p := s.peer q
  if f.op != 0 && p.performed f.small f.seq then
    let base : Flit := { op := 4, seq := f.seq, cookie := f.cookie, small := true }
    match (if f.op == 2 then Map.find (seqTag f.small f.seq) p.results else none) with
    | some old =>
      let place (i : Nat) : Nat := old.getD (i + 2) 0
      let recs : List LaneRec := (f.recs.sortedBy fun a b => a.lane ≤ b.lane).zipIdx.map fun r =>
        { lane := r.1.lane, offset := place (2 * r.2), data := place (2 * r.2 + 1) }
      sendBrief q true { base with
        type := 4, arg := old.getD 0 0, ts := old.getD 1 0, recs := recs, lanes := f.lanes } s
    | none => sendBrief q true { base with type := 5 } s
  else
    let r := if f.small then serveSmall f s else serveBulk f s
    let s := if f.op == 0 then r.1
      else r.1.adjPeer q fun p =>
        let p := p.note f.small f.seq
        let kept := p.results.drop (p.results.length + 1 - 1024)
        if f.op == 2 then
          { p with results := kept ++ [(seqTag f.small f.seq, r.2.arg :: r.2.ts :: r.2.recs.flatMap fun x => [x.offset, x.data])] }
        else p
    sendBrief q r.2.small r.2 s

/-- A complete request arrives (R342): a direct one waits for its predecessor's DSEQ, a ferried one is performed. -/
def arriveRequest (f : Flit) (s : State) : State :=
  let q := flitOrigin f
  let p := s.peer q
  match f.dseq with
  | none => performRequest f s
  | some d =>
    let next := p.dseqNext f.small
    if d == next then
      let s := (performRequest f s).adjPeer q fun p => p.openGate f.small
      if p.held.any fun h => h.small == f.small && h.dseq == some ((next + 1) % 2 ^ 32) then
        s.later (.dseqGateRelease q f.small)
      else s
    else if seqBefore d next then performRequest f s
    else if p.held.any fun h => h.small == f.small && h.dseq == f.dseq then s
    else s.adjPeer q fun p => { p with held := p.held ++ [f] }

/-! The source. -/

/-- The lowest lane that a raise names. -/
def Raise.lane (r : Raise) : Nat := (lowest r.mask).getD 4

/-- A cause added to those that a completion raises, each once (R436): the lanes together, INFO of the lowest. -/
def mergeCause (cs : List Raise) (r : Raise) : List Raise :=
  if cs.any fun c => c.code == r.code then
    cs.map fun c => if c.code == r.code then { (if r.lane < c.lane then r else c) with mask := c.mask ||| r.mask } else c
  else cs ++ [r]

/-- What one lane of a remote access receives: its value, and the cause of R436 that it meets (0 none, 1 UNCORR). -/
def Remote.laneResult (r : Remote) (f : Option Flit) (l : LogLane) : Nat × Nat :=
  let all := poison (8 * r.n)
  match Map.find l.lane r.homes with
  | some none => (all, 0x62)
  | _ =>
    match f with
    | none => (all, 0x60)
    | some f =>
      match f.recs.find? fun x => x.lane == l.lane with
      | none => (0, 0)
      | some x => if x.offset == 0 then (x.data, 0) else if x.offset == 1 then (all, 1) else (all, 0x61)

/-- The place of a remote access as an input of its launch. -/
def Remote.inputAt (r : Remote) (s : State) (lane : Nat) : InputAt :=
  match s.strand r.strand with
  | none => ⟨r.tile, r.launch, 0, 0, r.tmpl.retcnt, lane⟩
  | some st =>
    match Map.find st.item s.items, Map.find r.launch s.launches with
    | some it, some la => ⟨r.tile, r.launch, it.stage, logicalId la it st.inItem, r.tmpl.retcnt, st.inItem * 4 + lane⟩
    | _, _ => ⟨r.tile, r.launch, 0, 0, r.tmpl.retcnt, lane⟩

/-- The causes that the answers of some lanes raise, beside those raised before (R436). -/
def Remote.causes (r : Remote) (got : List (LogLane × Nat × Nat)) (before : List Raise) : List Raise :=
  got.foldl (fun cs g =>
    if 1 < g.2.2 then
      mergeCause cs { r.tmpl with code := g.2.2, mask := 1#4 <<< g.1.lane, info0 := r.peer, info1 := g.1.addr }
    else cs) before

/-- What a strand's instruction in flight gains by the answers of some lanes (R130, R351, R355, R358). -/
def Remote.deliver (r : Remote) (flags : Flags) (got : List (LogLane × Nat × Nat)) (p : Pending) : Pending :=
  let regs (l : LogLane) (v : Nat) : List RegWrite :=
    ((r.dests.filter fun d => d.1 == l.lane).map (·.2)).zip (fillTy r.ty v) |>.map fun x => ⟨l.lane, x.1, x.2⟩
  let poisoned := got.filter fun g => r.op != 1 && g.2.2 != 0
  { p with
    writes := p.writes ++ (if r.op == 1 then [] else got.flatMap fun g => regs g.1 g.2.1)
    poisoned := p.poisoned ||| laneMask (poisoned.map (·.1))
    killed := p.killed ||| laneMask ((got.filter fun g => g.2.2 == 1).map (·.1))
    flags := p.flags ||| flags, causes := r.causes got p.causes }

/-- A strand's instruction in flight after some of its answers: it completes with the last, and an acquiring one then
refreshes (R194, R208). -/
def settleRemote (r : Remote) (s : State) : State :=
  if s.fabric.remotes.any fun x => x.command.isNone && x.strand == r.strand && x.pend == r.pend then s
  else (orderAfter r.tile r.ord r.scope s).later (.loadWriteback r.strand r.pend)

/-- Whether a launch is strict-remote, and the note that a remote access was lost (R351, R372, R436). -/
def noteLost (launch key : Nat) (s : State) : State :=
  match Map.find launch s.launches with
  | none => s
  | some la =>
    let s := s.adjLaunch launch fun la => { la with lostrem := true }
    if la.strict then goFatal launch 0x60 key s else s

/-- Whether the instruction of a remote access is still in flight. -/
def Remote.awaited (r : Remote) (s : State) : Bool :=
  match s.strand r.strand with
  | some st => st.pend.any fun p => p.id == r.pend && p.kind == .remote
  | none => false

/-- The answer of a strand's remote access: a response, or none where it is lost (R351, R358). What an answer raises after the
item has retired is reported (R421). -/
def answerStrand (r : Remote) (f : Option Flit) (s : State) : State :=
  let s := endRemote r.id s
  let got := r.lanes.map fun l => (l, r.laneResult f l)
  let flags : Flags := match f with
    | some f => BitVec.ofNat _ f.arg
    | none => 0
  let s := if r.op == 1 then s
    else got.foldl (fun s g => captureInput (r.inputAt s g.1.lane) (if r.op == 0 then 2 else 3) g.2.1 [] s) s
  let s := match f with
    | some f => s.setTile r.tile { s.tile r.tile with lclock := BitVec.ofNat 64 (max (s.tile r.tile).lclock.toNat f.ts) }
    | none => s
  let s := s.adjStrand r.strand fun st => { st with
    pend := st.pend.map fun p => if p.id == r.pend && p.kind == .remote then r.deliver flags got p else p }
  let s := if r.awaited s then s
    else (r.causes got []).foldl (fun s c => report r.tile r.launch r.logical c.code (c.record c.pc false) s) s
  let s := if got.any fun g => g.2.2 == 0x60 then noteLost r.launch r.strand s else s
  settleRemote r s

/-! RLD, RST and RATOM (R356 to R358). -/

/-- One lane of a remote instruction: its peer and its access. -/
structure RemoteLane where
  peer : Nat
  l : LogLane
deriving DecidableEq, Repr, Inhabited

/-- A remote instruction: the operation and its ARG, order, scope, bytes, type, destination, lookahead. -/
structure RemoteOp where
  op : Nat
  arg : Nat
  ord : Order
  scope : Scope
  n : Nat
  ty : Ty
  dest : Option Opnd
  la : Nat
deriving DecidableEq, Repr, Inhabited

/-- The code of a type (R218). -/
def tyNumber : Ty → Nat
  | .n8 => 0 | .n16 => 1 | .n32 => 2 | .n64 => 3 | .s8 => 4 | .s16 => 5

/-- The kind of a remote instruction. -/
def RemoteOp.kind (x : RemoteOp) : AccKind := remoteKind x.op (hostedOp (memberAt x.arg))

/-- The first check of R357 that a lane fails. -/
def remoteCheck (s : State) (x : RemoteOp) (l : RemoteLane) : Option Nat :=
  if !isMember s l.peer then some 0x63
  else if !canonical l.l.addr then some 0x22
  else if l.l.addr % x.n != 0 then some 0x27
  else if x.op == 2 && l.peer != s.self && !(s.peer l.peer).mask.getLsbD x.arg then some 0x61
  else none

/-- The check that fails in the lowest failing lane (R357), with the lanes that fail it first. (log 134 DEDUCED) -/
def remoteFails (s : State) (x : RemoteOp) (ls : List RemoteLane) : Option (Nat × List RemoteLane) :=
  match ls.find? fun l => (remoteCheck s x l).isSome with
  | none => none
  | some l =>
    let code := (remoteCheck s x l).getD 0
    some (code, ls.filter fun y => remoteCheck s x y == some code)

/-- The trap of a check of R357 (R431). -/
def Issue.remoteRaise (c : Issue) (x : RemoteOp) (code : Nat) (bad : List RemoteLane) : Raise :=
  let r := c.raise code (laneMask (bad.map (·.l)))
  match bad with
  | [] => r
  | b :: _ =>
    if code == 0x22 then
      let t := trDetail b.l.addr 0 x.kind.code
      { r with info1 := t, trdetail := t }
    else if code == 0x27 then { r with info0 := c.spaceInfo .global b.l.lane, info1 := b.l.addr }
    else { r with info0 := b.peer, info1 := b.l.addr }

/-- The instruction in flight, with its destinations locked and no answer yet. An acquiring one holds back the strand's later
accesses until its response (R193, R208). (log 25 DEDUCED) -/
def Issue.remotePending (c : Issue) (x : RemoteOp) (id : Nat) (ls : List RemoteLane) : Pending :=
  let a : Access := ⟨none, x.op == 1, ⟨x.scope, x.ord, .global⟩, x.n, x.ty, x.dest, x.la⟩
  { id := id, kind := .remote, pc := c.pc, w1 := c.w1, w2 := c.w2
    left := x.la
    locks := c.locks a (ls.map (·.l)), writes := [], preds := [], poisoned := 0, killed := 0, flags := 0, causes := []
    ready := false, logged := false }

/-- The remote access of some lanes that name one peer. (log 68 DEDUCED) -/
def Issue.remoteTo (c : Issue) (x : RemoteOp) (id pend q : Nat) (ls : List LogLane) : Remote :=
  let a : Access := ⟨none, x.op == 1, ⟨x.scope, x.ord, .global⟩, x.n, x.ty, x.dest, x.la⟩
  { id := id, peer := q, small := true, op := x.op, arg := x.arg, tile := c.it.tile, launch := c.it.launch, item := c.st.item
    strand := c.key, pend := pend, command := none, asid := c.la.asid, priv := c.la.priv, ord := x.ord, scope := x.scope
    lanes := ls, n := x.n, ty := x.ty, dests := c.locks a ls, homes := [], since := none
    tmpl := { c.raise 0 with origin := 4, precise := false }, logical := logicalId c.la c.it c.st.inItem }

/-- The lanes that name this package: performed at its own homes, as a target performs them (R358). -/
def serveSelf (r : Remote) (ts : Nat) (s : State) : State :=
  let t := r.lanes.foldl (fun (acc : State × List (Nat × Option Nat)) l =>
    let x := translate r.tile r.asid r.priv r.kind .global l.addr acc.1
    match x.2 with
    | .ok y => (x.1, acc.2 ++ [(l.lane, some y.leaf)])
    | .error _ => (x.1, acc.2 ++ [(l.lane, none)])) (s, [])
  let r := { r with homes := t.2 }
  let a := serveSmall (r.flit s.self ts [] {}) t.1
  answerStrand r (some a.2) a.1

/-- The values of a remote load or atomic in a replay (R417): the next log entry of each lane. -/
def replayLanes (c : Issue) (x : RemoteOp) (r : Remote) (ls : List LogLane) (s : State) : Act :=
  let kind := if x.op == 0 then 2 else 3
  let t := ls.foldl (fun (acc : State × Option (List (LogLane × Nat × Nat))) l =>
    match acc.2 with
    | none => acc
    | some got =>
      let e := replayInput (c.inputAt l.lane) kind acc.1
      (e.1, e.2.map fun e => got ++ [(l, e.value, 0)])) (s, some [])
  match t.2 with
  | none => .over (fatalTrap c.it.launch c.key c.diverge t.1)
  | some got =>
    let s := t.1.adjStrand c.key fun st => { st with
      pend := st.pend.map fun p => if p.id == r.pend && p.kind == .remote then r.deliver 0 got p else p }
    .done (settleRemote r s)

/-- A remote instruction by the active lanes (R357, R358): they share one small entry per peer; a full ring, or 1,024
writes and atomics without an acknowledgement, makes the strand wait (R209, R338). -/
def Issue.remote (c : Issue) (x : RemoteOp) (ls : List RemoteLane) (s : State) : Act :=
  match remoteFails s x ls with
  | some (code, bad) => .trap (c.remoteRaise x code bad) s
  | none =>
    let peers := (ls.map (·.peer)).eraseDups
    let away := peers.filter (· != s.self)
    if away.any fun q => !ringRoom s q true || (x.op != 0 && 1024 ≤ unacked s q) then .wait .remote s
    else
      let s := orderBefore c.it.tile c.key x.ord x.scope s
      if ls == [] then .done (orderAfter c.it.tile x.ord x.scope s)
      else
        let tile := s.tile c.it.tile
        let ts := if x.ord == .sc then tile.lclock.toNat + 1 else 0
        let s := if x.ord == .sc then s.setTile c.it.tile { tile with lclock := tile.lclock + 1 } else s
        let id := s.nextId
        let s := { s with nextId := id + 2 + peers.length }
        if replaying s c.it.launch && x.op == 1 then .done (orderAfter c.it.tile x.ord x.scope s)
        else
          let s := s.adjStrand c.key fun st => { st with pend := st.pend ++ [c.remotePending x id ls] }
          let access (i q : Nat) : Remote :=
            c.remoteTo x (id + 2 + i) id q ((ls.filter fun l => l.peer == q).map (·.l))
          if replaying s c.it.launch then replayLanes c x (c.remoteTo x id id 0 (ls.map (·.l))) (ls.map (·.l)) s
          else
            let s := peers.zipIdx.foldl (fun s q =>
              if q.1 == s.self then s else postRemote (access q.2 q.1) c.la.det false ts [] s) s
            .done (peers.zipIdx.foldl (fun s q => if q.1 == s.self then serveSelf (access q.2 q.1) ts s else s) s)

/-- The lanes of a remote instruction with the peer that P names in each (R356). -/
def Issue.remoteLanes (c : Issue) (a p : Opnd) (data cmp : Nat → Nat) : List RemoteLane :=
  (lanesIn c.active).map fun l => ⟨(c.reg l p).toNat % 128, ⟨l, (c.pair l a).toNat, data l, cmp l⟩⟩

/-- RLD (R358). -/
def execRld (g : Guard) (la : BitVec 4) (scope : Scope) (ord : Order) (ty : Ty) (d a p : Opnd) (s : State) :
    Host.Outcome State Fault Refusal :=
  issue (.rld g la scope ord ty d a p) s fun c s =>
    c.remote ⟨0, tyNumber ty, ord, scope, tyBytes ty, ty, some d, la.toNat⟩ (c.remoteLanes a p (fun _ => 0) fun _ => 0) s

/-- RST (R358). -/
def execRst (g : Guard) (la : BitVec 4) (scope : Scope) (ord : Order) (ty : Ty) (a b p : Opnd) (s : State) :
    Host.Outcome State Fault Refusal :=
  issue (.rst g la scope ord ty a b p) s fun c s =>
    c.remote ⟨1, tyNumber ty, ord, scope, tyBytes ty, ty, none, la.toNat⟩
      (c.remoteLanes a p (fun l => c.value ty.isPair l b % 256 ^ tyBytes ty) fun _ => 0) s

/-- RATOM (R358): D is the destination and, for CAS, the compare value. -/
def execRatom (g : Guard) (la : BitVec 4) (scope : Scope) (ord : Order) (op : AtomOp) (w : Bool) (d a b p : Opnd) (s : State) :
    Host.Outcome State Fault Refusal :=
  issue (.ratom g la scope ord op w d a b p) s fun c s =>
    c.remote ⟨2, memberNumber op * 2 + (if w then 1 else 0), ord, scope, if w then 8 else 4, if w then .n64 else .n32, some d,
        la.toNat⟩
      (c.remoteLanes a p (fun l => c.value w l b) fun l => c.value w l d) s

/-! TIDEWAIT and VQSTAT (R359 to R361). -/

/-- A value of TIDEWAIT written into the active lanes; it is a fabric input (R360, R416). (log 70 DEDUCED) -/
def Issue.tideValue (c : Issue) (d : Opnd) (value : Nat) (s : State) : Act :=
  let r := fabricInput (c.inputAt ((lowest c.active).getD 0)) 4 value s
  match r.2 with
  | some v => c.put d (fun _ => BitVec.ofNat 32 v) r.1
  | none => .over (fatalTrap c.it.launch c.key c.diverge r.1)

/-- TIDEWAIT.peer (R360). -/
def execTidewaitPeer (g : Guard) (d a : Opnd) (immp : Option (BitVec 7)) (s : State) : Host.Outcome State Fault Refusal :=
  issue (.tidewaitPeer g d a immp) s fun c s =>
    match c.first with
    | none => .done s
    | some l =>
      let q := match immp with
        | some q => q.toNat
        | none => (c.reg l a).toNat % 128
      let since := match c.st.wait with
        | .peer p t => if p == q then t else s.fabric.tidecnt.toNat
        | _ => s.fabric.tidecnt.toNat
      if replaying s c.it.launch then c.tideValue d 0 s
      else
        match peerAnswer s q since with
        | some v => c.tideValue d v s
        | none => .wait (.peer q since) s

/-- TIDEWAIT.tide (R360). -/
def execTidewaitTide (g : Guard) (d : Opnd) (s : State) : Host.Outcome State Fault Refusal :=
  issue (.tidewaitTide g d) s fun c s =>
    match c.first with
    | none => .done s
    | some _ =>
      let now := s.fabric.tidecnt.toNat
      if replaying s c.it.launch then c.tideValue d 0 s
      else
        match c.st.wait with
        | .tide t => if t != now then c.tideValue d now s else .wait (.tide t) s
        | _ => .wait (.tide now) s

/-- The word of VQSTAT for a peer (R361). -/
def queueState (s : State) (q : Nat) : Word :=
  if q == s.self then 0
  else if !isMember s q then 0x40000000
  else
    let small := ringDepth s q true
    let bulk := ringDepth s q false
    let th := bitsOf s.fabric.vqcfg.toNat 47 32
    let ferry := th != 0 && (th ≤ small || th ≤ bulk)
    let dark := (upTo (slotsOf s)).all fun t => railsTo s q t == 0
    BitVec.ofNat 32 ((if ferry then 2 ^ 31 else 0) + (if dark then 2 ^ 30 else 0) + min small 0x3FFF * 65536 + min bulk 0xFFFF)

/-- VQSTAT (R361). (log 69 DEDUCED) -/
def execVqstat (g : Guard) (d a : Opnd) (s : State) : Host.Outcome State Fault Refusal :=
  issue (.vqstat g d a) s fun c s => c.put d (fun l => queueState s ((c.reg l a).toNat % 128)) s

end Sys2Proof.Machine
end

