-- ==== Sys2Proof/Machine/CopyRun.lean ====
section
/-! DEFINITION. The copy engine at work (07_copy_and_routing.md R144 to R147, R154 to R171; 03_main_memory.md R56, R59;
08_consistency.md R199, R200): the ends of a command, its elements, transfers to and from a peer, held banks, and how a
command ends. -/

namespace Sys2Proof.Machine

/-! The ends of a command. -/

/-- A command with the item and the launch that it belongs to, and the granules that it moves in rows of a held bank
(R165). -/
structure Job where
  e : Command
  it : Item
  la : Launch
  rows : List Nat := []

/-- The agent that moves a job's bytes. -/
def Job.agent (x : Job) : Agent := { x.la.agent x.it.tile with rows := x.rows }

/-- Bytes read at an end, and the detail code of R170 they meet (0 none). -/
structure EndRead where
  bytes : List Byte
  detail : Nat
deriving DecidableEq, Repr, Inhabited

/-- Bytes of an element that cannot be read (R28). -/
def poisonBytes (n : Nat) : List Byte := List.replicate n 0xFF

/-- An element of a memory with check codes. -/
def Level.element (l : Level) (off n : Nat) : EndRead :=
  if l.hits off n then ⟨poisonBytes n, 1⟩ else ⟨l.mem.readBytes off n, 0⟩

/-- A word of accumulator memory at an offset of the item's window, in its 64-bit form (R25, R109). -/
def accElement (s : State) (it : Item) (off : Nat) : EndRead :=
  let k := it.accBase * 256 + off / 8
  let t := s.tile it.tile
  if t.accBad.contains k then ⟨poisonBytes 8, 1⟩
  else ⟨leBytes 8 (lowBits 64 (signedOf 36 (Table.get 0 k t.acc).toNat)), 0⟩

/-- A word of accumulator memory written (R109, R433). -/
def accStore (tile k : Nat) (v : BitVec 36) (s : State) : State :=
  let t := s.tile tile
  s.setTile tile { t with acc := Table.put 0 k v t.acc, accBad := t.accBad.filter (· != k) }

/-- `n` bytes read at an end of a command (R154, R170). (log 60 DEDUCED) -/
def Job.read (x : Job) (sp : Space) (addr : Int) (n : Nat) (s : State) : State × Except (Nat × PageFault) EndRead :=
  let a := addr.toNat
  match sp with
  | .lanePrivate =>
    match s.strand x.e.strand with
    | none => (s, .ok ⟨poisonBytes n, 1⟩)
    | some st =>
      let l := st.lanes.get x.e.lane
      (s, .ok ((⟨l.lp, l.bad, 4⟩ : Level).element a n))
  | .scratch => (s, .ok ((scrLevel s x.it.tile x.it.launch).element a n))
  | .remoteScratch =>
    let t := a / 2 ^ 21
    if tileDown s t then (s, .ok ⟨poisonBytes n, 2⟩)
    else if (Map.find (heldKey t x.it.launch) s.held).isNone then (s, .ok ⟨poisonBytes n, 7⟩)
    else (s, .ok ((scrLevel s t x.it.launch).element (a % 2 ^ 21) n))
  | .shared =>
    match Map.find x.it.convoy s.convoys with
    | none => (s, .ok ⟨poisonBytes n, 7⟩)
    | some cv => if tileDown s (shareTile cv a) then (s, .ok ⟨poisonBytes n, 2⟩) else (s, .ok (cv.level.element a n))
  | .acc => (s, .ok (accElement s x.it a))
  | .dieScratch | .global | .host =>
    let r := x.agent.read sp (lowBits 64 addr) n s
    (r.1, r.2.map fun b => if b.gone then ⟨poisonBytes n, 4⟩ else ⟨b.bytes, if b.bad then 1 else 0⟩)

/-- Where the bytes of some destination elements go: the translations of each, in a translated space. -/
def Job.places (x : Job) (sp : Space) : List (Int × List Byte) → State →
    State × Except (Nat × PageFault) (List (List (Xlat × Nat × Nat)))
  | [], s => (s, .ok [])
  | (a, bs) :: rest, s =>
    if translatedSpace sp then
      let t := x.agent.places .store sp (lineParts (lowBits 64 a) bs.length) s
      match t.2 with
      | .error f => (t.1, .error f)
      | .ok ps =>
        let r := x.places sp rest t.1
        (r.1, r.2.map fun qs => ps :: qs)
    else
      let r := x.places sp rest s
      (r.1, r.2.map fun qs => [] :: qs)

/-- One destination element written, and the detail code it meets. -/
def Job.write (x : Job) (sp : Space) (addr : Int) (ps : List (Xlat × Nat × Nat)) (bs : List Byte) (s : State) :
    State × Nat :=
  let a := addr.toNat
  match sp with
  | .lanePrivate =>
    (s.adjStrand x.e.strand fun st => st.adjLane x.e.lane fun l =>
      let r := (⟨l.lp, l.bad, 4⟩ : Level).store a bs
      { l with lp := r.mem, bad := r.bad }, 0)
  | .scratch => (setScr x.it.tile x.it.launch ((scrLevel s x.it.tile x.it.launch).store a bs) s, 0)
  | .remoteScratch =>
    let t := a / 2 ^ 21
    if tileDown s t then (s, 2)
    else if (Map.find (heldKey t x.it.launch) s.held).isNone then (s, 7)
    else (setScr t x.it.launch ((scrLevel s t x.it.launch).store (a % 2 ^ 21) bs) s, 0)
  | .shared =>
    match Map.find x.it.convoy s.convoys with
    | none => (s, 7)
    | some cv => if tileDown s (shareTile cv a) then (s, 2) else (setShared x.it.convoy (cv.level.store a bs) s, 0)
  | .acc => (accStore x.it.tile (x.it.accBase * 256 + a / 8) (BitVec.ofNat 36 (ofLeBytes bs)) s, 0)
  | .dieScratch | .global | .host => let r := x.agent.put ps bs s; (r.1, if r.2 then 4 else 0)

/-- Destination elements written, the higher detail code kept; nothing is written where one faults (R167). -/
def Job.writeAll (x : Job) (sp : Space) (es : List (Int × List Byte)) (s : State) : State × Except (Nat × PageFault) Nat :=
  let t := x.places sp es s
  match t.2 with
  | .error f => (t.1, .error f)
  | .ok ps =>
    let r := (es.zip ps).foldl (fun (acc : State × Nat) y =>
      let w := x.write sp y.1.1 y.2 y.1.2 acc.1
      (w.1, max acc.2 w.2)) (t.1, 0)
    (r.1, .ok r.2)

/-! A command as it stands in its queue. -/

/-- How a command's run stopped: with a fault at an end, or at its end so far. -/
structure Run where
  s : State
  e : Command
  fault : Option (Bool × Nat × PageFault)

/-- A detail code met at an address of an end: the highest is kept with its end (R168, R170), and of each the first address
(R436). (log 59 DEDUCED) -/
def Command.note (e : Command) (detail addr : Nat) (dest : Bool := false) : Command :=
  if detail == 0 then e
  else
    { e with
      err := max e.err detail, endBit := if e.err < detail then dest else e.endBit
      met := if e.met.any fun m => m.1 == detail then e.met else e.met ++ [(detail, addr)] }

/-- The command of a job put back into its tile's queue. -/
def putCommand (tile : Nat) (e : Command) (s : State) : State := adjCommand tile e.id (fun _ => e) s

/-- A command that stopped: at a fault, its cursor and TRDETAIL are kept and it is to pass to HELD (R167). -/
def stopCommand (tile : Nat) (kind : Nat) (r : Run) : State :=
  match r.fault with
  | none => putCommand tile r.e r.s
  | some (dest, a, f) =>
    let e := { r.e with endBit := dest, fault := some (a, f.level, if dest then 1 else kind) }
    (putCommand tile e r.s).later (.engineTranslationFault tile r.e.no)

/-- A command that has nothing left to do completes (R147). -/
def finishCommand (tile : Nat) (e : Command) (s : State) : State :=
  (putCommand tile { e with finished := true } s).later (.copyCompletion tile e.no)

/-! Elements (R154, R155, R157). -/

/-- The bytes of a source element, or of a block with its layout (R155); rows are read one by one. -/
def Job.readUnit (x : Job) (sp : Space) (t : Tensor) (i : Nat) (s : State) : State × Except (Nat × PageFault) EndRead :=
  if t.lay == 0 then x.read sp (t.addr i) t.esz s
  else
    match EFmt.ofCode t.efmt, t.dims with
    | some f, _ :: d1 :: _ =>
      let r := (upTo 32).foldl (fun (acc : State × Except (Nat × PageFault) (List Nat × Nat)) (k : Nat) =>
        match acc.2 with
        | .error e => (acc.1, .error e)
        | .ok (rows, d) =>
          let y := x.read sp (t.addr i + ((k : Nat) : Int) * d1.stride) (4 * f.bits) acc.1
          (y.1, y.2.map fun b => (rows ++ [ofLeBytes b.bytes], max d b.detail))) (s, .ok ([], 0))
      (r.1, r.2.map fun y => ⟨blockConvert t.lay f t.pln y.1, y.2⟩)
    | _, _ => (s, .ok ⟨[], 0⟩)

/-- Some source units read one after the other. -/
def Job.readUnits (x : Job) (sp : Space) (t : Tensor) (is : List Nat) (s : State) :
    State × Except (Nat × PageFault) EndRead :=
  is.foldl (fun acc i =>
    match acc.2 with
    | .error f => (acc.1, .error f)
    | .ok b =>
      let y := x.readUnit sp t i acc.1
      (y.1, y.2.map fun z => ⟨b.bytes ++ z.bytes, max b.detail z.detail⟩)) (s, .ok ⟨[], 0⟩)

/-- The destination elements of bytes that start at a byte of the linear order, which is a multiple of the element size. -/
def elementsAt (t : Tensor) (off : Nat) (bytes : List Byte) : List (Int × List Byte) :=
  (upTo (bytes.length / t.esz)).map fun j => (t.addr (off / t.esz + j), (bytes.drop (j * t.esz)).take t.esz)

/-- Whether two ends of one COPY may share bytes (R157). (log 56 DESIGN CHOICE) -/
def mayOverlap (dsp ssp : Space) (dst src : Tensor) : Bool :=
  dsp == ssp && dst.span.1 < src.span.2 && src.span.1 < dst.span.2

/-- The bytes moved together: the larger of the two units. -/
def groupBytes (dst src : Tensor) : Nat := max src.unit dst.esz

/-- A local COPY from a group on, `n` groups: a group's source is read, its destination translated, then written. Where the
ends overlap a source element may be read as it stood when the copy began (R157). -/
def copyGroups (x : Job) (m : CopyMod) (dst src : Tensor) (s0 : State) : Nat → Run → Run
  | 0, r => r
  | n + 1, r =>
    let g := groupBytes dst src
    let per := g / src.unit
    let i := r.e.cursor
    let is := (upTo per).map fun k => i + k
    let y := x.readUnits m.src src is r.s
    match y.2 with
    | .error f => { r with s := y.1, fault := some (false, f.1, f.2) }
    | .ok b =>
      let b := if mayOverlap m.dst m.src dst src && !Config.overlapNew r.e.id i then
          match (x.readUnits m.src src is s0).2 with
          | .ok old => old
          | .error _ => b
        else b
      let w := x.writeAll m.dst (elementsAt dst (i * src.unit) b.bytes) y.1
      match w.2 with
      | .error f => { r with s := w.1, fault := some (true, f.1, f.2) }
      | .ok d =>
        let e := (r.e.note b.detail (lowBits 64 (src.addr i))).note d (lowBits 64 (dst.addr (i * src.unit / dst.esz))) true
        copyGroups x m dst src s0 n { r with s := w.1, e := { e with cursor := i + per } }

/-- FILL from an element on, `n` elements (R162). -/
def fillElements (x : Job) (sp : Space) (t : Tensor) : Nat → Run → Run
  | 0, r => r
  | n + 1, r =>
    let i := r.e.cursor
    let w := x.writeAll sp [(t.addr i, leBytes t.esz r.e.value.toNat)] r.s
    match w.2 with
    | .error f => { r with s := w.1, fault := some (true, f.1, f.2) }
    | .ok d => fillElements x sp t n { r with s := w.1, e := { r.e.note d (lowBits 64 (t.addr i)) true with cursor := i + 1 } }

/-! Plane stacks (R100, R159, R160). -/

/-- The address of the 32 B of a plane's row (R100). -/
def planeRow (base q k : Nat) : Nat := base + 8192 * q + 32 * k

/-- Bytes of scratchpad read with unreadable words as poison, and whether there were any. -/
def scrBytes (l : Level) (off n : Nat) : List Byte × Bool :=
  ((upTo n).map fun i => if l.hits (off + i) 1 then 0xFF else l.mem.read (off + i), l.hits off n)

/-- PLPACK (R159). -/
def runPack (x : Job) (f : EFmt) (planes base : Nat) (t : Tensor) (s : State) : State × Nat :=
  match t.dims with
  | [d0, d1] =>
    let l := scrLevel s x.it.tile x.it.launch
    let rows := (upTo 256).map fun k =>
      if k < d1.ext then scrBytes l ((t.base : Int) + (k : Int) * d1.stride).toNat (rowBytes f d0.ext) else ([], false)
    let words := rows.map fun r => ofLeBytes r.1
    let l' := words.zipIdx.foldl (fun l w =>
      (upTo (planeCount f planes)).foldl (fun (l : Level) q =>
        let bits := (upTo 256).foldl (fun v n =>
          if w.2 < d1.ext && n < d0.ext && planeBit f (rowGet f w.1 n) q then v + 2 ^ n else v) 0
        l.store (planeRow base q w.2) (leBytes 32 bits)) l) l
    (setScr x.it.tile x.it.launch l' s, if rows.any (·.2) then 1 else 0)
  | _ => (s, 0)

/-- PLUNPK (R160). -/
def runUnpack (x : Job) (f : EFmt) (planes : Nat) (mid : Bool) (base : Nat) (t : Tensor) (s : State) : State × Nat :=
  match t.dims with
  | [d0, d1] =>
    let r := (upTo d1.ext).foldl (fun (acc : Level × Nat) k =>
      let stack := (upTo (planeCount f planes)).map fun q => scrBytes acc.1 (planeRow base q k) 32
      let bits := stack.map fun p => ofLeBytes p.1
      let row := rowPut f ((upTo d0.ext).map fun n => planeBuild f planes mid fun q => bitOf (bits.getD q 0) n)
      let mask := rowPut f (List.replicate d0.ext (2 ^ f.bits - 1))
      let a := ((t.base : Int) + (k : Int) * d1.stride).toNat
      let n := rowBytes f d0.ext
      let old := acc.1.load a n
      let all := 2 ^ (8 * n) - 1
      (acc.1.store a (leBytes n ((row &&& mask) ||| (old &&& (all ^^^ (mask % 2 ^ (8 * n)))))),
        max acc.2 (if stack.any (·.2) then 1 else 0))) (scrLevel s x.it.tile x.it.launch, 0)
    (setScr x.it.tile x.it.launch r.1 s, r.2)
  | _ => (s, 0)

/-! Transfers to and from a peer (R156, R338). -/

/-- Bytes at an address split where a 4 KiB page of the target ends. -/
def splitPages (a : Nat) (bytes : List Byte) : List (Nat × List Byte) :=
  let first := 4096 - a % 4096
  if bytes.length ≤ first then [(a, bytes)] else [(a, bytes.take first), ((a + first) % 2 ^ 64, bytes.drop first)]

/-- Pieces in cursor order gathered into entries of contiguous bytes inside one page (R338). -/
def gatherPieces (ps : List (Nat × List Byte)) : List (Nat × List Byte) :=
  (ps.foldl (fun (acc : List (Nat × List Byte)) p =>
    match acc with
    | [] => [p]
    | q :: rest =>
      if q.1 + q.2.length == p.1 && q.1 / 4096 == p.1 / 4096 then (q.1, q.2 ++ p.2) :: rest else p :: q :: rest) []).reverse

/-- Whether some elements of a destination share bytes (R341). -/
def selfOverlaps (t : Tensor) : Bool :=
  let as := ((upTo (extents t.dims)).map t.addr).sortedBy fun a b => a ≤ b
  (as.zip (as.drop 1)).any fun p => p.2 < p.1 + t.esz

/-- The remote access of one entry of a command. -/
def Job.entry (x : Job) (id q op addr n cursor : Nat) : Remote :=
  { id := id, peer := q, small := false, op := op, arg := 0, tile := x.it.tile, launch := x.e.launch, item := x.e.item
    strand := x.e.strand, pend := cursor, command := some x.e.id, asid := x.la.asid, priv := x.la.priv, ord := .none
    scope := .pod, lanes := [⟨0, addr, 0, 0⟩], n := n, ty := .n8, dests := [], homes := [], since := none
    tmpl := { engineRaise 0 false x.e with origin := 2 }, logical := 0 }

/-- Entries of a put sent while the ring for the peer takes them (R338). (log 76 DEDUCED) -/
def sendPuts (x : Job) (q op : Nat) (direct : Bool) : List (Nat × List Byte) → Command → State → Command × State
  | [], e, s => ({ e with got := [] }, s)
  | (a, bs) :: rest, e, s =>
    if ringRoom s q false && unacked s q < 1024 then
      let n := s.newId
      sendPuts x q op direct rest { e with wait := e.wait ++ [n.1] }
        (postRemote (x.entry n.1 q op a bs.length e.cursor) x.la.det direct 0 bs n.2)
    else ({ e with got := (a, bs) :: rest }, s)

/-- Entries of a get sent while the ring takes them; `drawn` counts those that have been sent. -/
def sendGets (x : Job) (q : Nat) (direct : Bool) : List (Nat × Nat × Nat) → Command → State → Command × State
  | [], e, s => (e, s)
  | (a, off, n) :: rest, e, s =>
    if ringRoom s q false then
      let i := s.newId
      sendGets x q direct rest { e with wait := e.wait ++ [i.1], drawn := e.drawn + 1 }
        (postRemote (x.entry i.1 q 0 a n off) x.la.det direct 0 [] i.2)
    else (e, s)

/-- Entries for the source of a get: address, offset in the order of the bytes read, length; the rows of a block are read one
by one (R155). -/
def getPieces (src : Tensor) : List (Nat × Nat × Nat) :=
  let row (a : Int) (n : Nat) : List (Nat × List Byte) := splitPages (lowBits 64 a) (List.replicate n 0)
  let unit (i : Nat) : List (Nat × List Byte) :=
    if src.lay == 0 then row (src.addr i) src.esz
    else
      let pitch := (src.dims.getD 1 ⟨1, 0⟩).stride
      (upTo 32).flatMap fun k => row (src.addr i + ((k : Nat) : Int) * pitch) (src.rawUnit / 32)
  let ps := gatherPieces ((upTo (src.bytes / src.unit)).flatMap unit)
  (ps.foldl (fun (acc : List (Nat × Nat × Nat) × Nat) p => (acc.1 ++ [(p.1, acc.2, p.2.length)], acc.2 + p.2.length))
    ([], 0)).1

/-- Bytes that have come from a peer, in order of their place, neighbours joined. -/
def joinGot (got : List (Nat × List Byte)) : List (Nat × List Byte) :=
  ((got.sortedBy fun a b => a.1 ≤ b.1).foldl (fun (acc : List (Nat × List Byte)) p =>
    match acc with
    | [] => [p]
    | q :: rest => if q.1 + q.2.length == p.1 then (q.1, q.2 ++ p.2) :: rest else p :: q :: rest) []).reverse

/-- Some elements written at the destination of a get. -/
def landElements (x : Job) (sp : Space) (dst : Tensor) : List (Int × List Byte) → Run → Run
  | [], r => r
  | el :: rest, r =>
    let w := x.writeAll sp [el] r.s
    match w.2 with
    | .error f => { r with s := w.1, fault := some (true, f.1, f.2) }
    | .ok d =>
      landElements x sp dst rest { r with s := w.1, e := { r.e.note d (lowBits 64 el.1) true with count := r.e.count + dst.esz } }

/-- The bytes that have come land as far as they are contiguous (R156), a block once all of it is there; the cursor is that
of the elements complete. -/
def landGot (x : Job) (sp : Space) (dst src : Tensor) (s : State) : Run :=
  let unit := if src.lay == 0 then dst.esz else src.unit
  let raw := if src.lay == 0 then dst.esz else src.rawUnit
  match joinGot x.e.got with
  | (off, bs) :: rest =>
    let first := x.e.count / unit
    if off != first * raw then { s := s, e := x.e, fault := none }
    else
      let bytes := (upTo (bs.length / raw)).flatMap fun i => src.convert ((bs.drop (raw * i)).take raw)
      let es := (elementsAt dst (first * unit) bytes).drop ((x.e.count - first * unit) / dst.esz)
      let r := landElements x sp dst es { s := s, e := x.e, fault := none }
      let left := bs.drop ((r.e.count / unit - first) * raw)
      { r with e := { r.e with
          cursor := r.e.count / src.unit
          got := (if left == [] then [] else [(r.e.count / unit * raw, left)]) ++ rest } }
  | [] => { s := s, e := x.e, fault := none }

/-- A get in a replay takes its bytes from the log (R417). -/
def replayGets (at_ : InputAt) (need : Nat) : Nat → List Byte → State → State × Option (List Byte)
  | 0, bs, s => (s, if need ≤ bs.length then some bs else none)
  | n + 1, bs, s =>
    if need ≤ bs.length then (s, some bs)
    else
      let r := replayInput at_ 6 s
      match r.2 with
      | some e => replayGets at_ need n (bs ++ e.bytes) r.1
      | none => (r.1, none)

/-- The place of a command's inputs from outside the package (R416). -/
def Job.inputAt (x : Job) (s : State) : InputAt :=
  let inItem := match s.strand x.e.strand with
    | some st => st.inItem
    | none => 0
  ⟨x.it.tile, x.e.launch, x.e.stage, logicalId x.la x.it inItem, x.e.retcnt, 0x3F⟩

/-! Banks (R45, R56, R59, R163, R164). -/

/-- The bank of a granule's address as its handle (R45, R56). -/
def bankOf (a : Nat) : Nat :=
  let g := a / 256
  let w := g / 12
  let pc := bitsOf w 5 0 ^^^ bitsOf w 19 14
  g % 12 * 4096 + pc * 64 + bitsOf w 13 8

/-- The granule of a column of a row of a held bank (R46). -/
def bankGranule (h row col : Nat) : Nat :=
  let pc := bitsOf h 11 6
  let w := row * 16384 + (h % 64) * 256 + col * 64 + (pc ^^^ (row % 64))
  w * 12 + h / 4096

/-- The answer to a request for a bank (R49, R56): 0 OK, 4 BANK_HELD, 5 BANK_LIMIT. -/
def bankAnswer (s : State) (h : Nat) : Nat :=
  if (Map.find h s.mem.banks).isSome then 4
  else if 2 ≤ (s.mem.banks.filter fun b => b.1 / 64 == h / 64).length
      || 32 ≤ (s.mem.banks.filter fun b => b.1 / 4096 == h / 4096).length then 5
  else 0

/-- A bank held for an entry of a tile (R56). -/
def reserveBank (tile entry h : Nat) (s : State) : State :=
  { s with mem := { s.mem with banks := Map.insert h ⟨tile, entry, 0, [], false⟩ s.mem.banks } }

/-- A bank let go, and the BANK entry of the tile that held it freed. -/
def releaseBank (tile h : Nat) (s : State) : State :=
  let t := s.tile tile
  State.setTile tile { t with copies := t.copies.filter fun e => !(e.state == .bank && e.handle == h) }
    { s with mem := { s.mem with banks := Map.erase h s.mem.banks } }

/-- A status word for BKOPEN's register: the command has run to its end (R163). -/
def openStatus (e : Command) (code handle : Nat) : Command :=
  { e with value2 := BitVec.ofNat 64 (code * 65536 + if code == 0 then handle else 0), handle := if code == 0 then handle else 0 }

/-- The granules of an end that move in whole rows of the held bank which its descriptor names (R165): those of rows whose
four granules all belong to the end, whole, under one key id. -/
def Job.bankRows (x : Job) (kind : AccKind) (t : Tensor) (s : State) : List Nat :=
  let holds := t.stream && (Map.find t.handle s.mem.banks).isSome &&
    (s.tile x.it.tile).copies.any fun e => e.state == .bank && e.handle == t.handle && e.launch == x.e.launch
  if !holds then []
  else
    let unit (i : Nat) : List (Nat × Nat) :=
      if t.lay == 0 then [(lowBits 64 (t.addr i), t.esz)]
      else
        let pitch := (t.dims.getD 1 ⟨1, 0⟩).stride
        (upTo 32).map fun k => (lowBits 64 (t.addr i + ((k : Nat) : Int) * pitch), t.rawUnit / 32)
    let bytes := (upTo (t.bytes / t.unit)).flatMap fun i => (unit i).flatMap fun p => (upTo p.2).map fun k => p.1 + k
    let lines := ((bytes.map (· / 256)).eraseDups).filter fun l => (upTo 256).all fun k => bytes.contains (256 * l + k)
    let places := lines.filterMap fun l =>
      match (translate x.it.tile x.la.asid x.la.priv kind .global (256 * l) s).2 with
      | .ok y => if bankOf y.pa == t.handle then some (y.pa / 256, y.key) else none
      | .error _ => none
    let row (g : Nat) : Nat := bitsOf (g / 12) 27 14
    (places.filter fun p => (upTo 4).all fun c => places.contains (bankGranule t.handle (row p.1) c, p.2)).map (·.1)

/-! A command's run. -/

/-- A command that has started, or goes on, in its tile's queue (R144). -/
def runCopy (x : Job) (s : State) : State :=
  let tile := x.it.tile
  let e := x.e
  let dst := tensorOf ((e.descs.take 3).take (descRegs ((e.descs.getD 0 0).toNat)))
  let src := tensorOf (((e.descs.drop 3).take 3).take (descRegs ((e.descs.getD 3 0).toNat)))
  let conclude (kind : Nat) (r : Run) : State :=
    if r.fault.isSome then stopCommand tile kind r else finishCommand tile r.e r.s
  let goOn (e : Command) (more : Bool) (s : State) : State :=
    if more || e.wait != [] || e.got != [] then putCommand tile e s else finishCommand tile e s
  if e.dropped then (if e.wait == [] then finishCommand tile e s else putCommand tile e s)
  else match e.op with
  | .copy _ _ _ _ m peer =>
    if hereField s peer.toNat then
      let per := groupBytes dst src / src.unit
      let x := { x with rows := x.bankRows .load src s ++ x.bankRows .store dst s }
      conclude 0 (copyGroups x m dst src s ((src.bytes / src.unit - e.cursor) / per) { s := s, e := e, fault := none })
    else if m.pdir then
      if replaying s e.launch then
        let total := src.bytes / src.unit * src.rawUnit
        let t := if e.drawn == 0 then
            let y := replayGets (x.inputAt s) total total [] s
            (y.1, y.2.map fun bs => { e with drawn := 1, got := [(0, bs)] })
          else (s, some e)
        match t.2 with
        | none => goFatal e.launch 0x71 e.strand t.1
        | some e => conclude 0 (landGot { x with e := e } m.dst dst src t.1)
      else
        let r := landGot { x with rows := x.bankRows .store dst s } m.dst dst src s
        if r.fault.isSome then stopCommand tile 0 r
        else
          let ps := getPieces src
          let g := sendGets x peer.toNat (selfOverlaps dst) (ps.drop r.e.drawn) r.e r.s
          goOn g.1 (g.1.drawn < ps.length) g.2
    else
      let x := { x with rows := x.bankRows .load src s }
      let total := src.bytes / src.unit
      let run := (upTo (total - e.cursor)).foldl (fun (acc : Run × List (Nat × List Byte)) _ =>
        if acc.1.fault.isSome then acc
        else
          let i := acc.1.e.cursor
          let y := x.readUnit m.src src i acc.1.s
          match y.2 with
          | .error f => ({ acc.1 with s := y.1, fault := some (false, f.1, f.2) }, acc.2)
          | .ok b =>
            ({ acc.1 with s := y.1, e := { acc.1.e.note b.detail (lowBits 64 (src.addr i)) with cursor := i + 1 } },
              acc.2 ++ [(i * src.unit, b.bytes)])) (({ s := s, e := e, fault := none } : Run), [])
      let stream := joinGot run.2
      let pieces := stream.flatMap fun p =>
        (upTo p.2.length).flatMap fun j =>
          let o := p.1 + j
          [(lowBits 64 (dst.addr (o / dst.esz) + ((o % dst.esz : Nat) : Int)), [p.2.getD j 0])]
      let ents := if replaying s e.launch then [] else e.got ++ gatherPieces pieces
      let g := sendPuts x peer.toNat 1 (selfOverlaps dst) ents run.1.e run.1.s
      if run.1.fault.isSome then stopCommand tile 0 { run.1 with s := g.2, e := g.1 } else goOn g.1 false g.2
  | .fill _ _ _ _ m peer =>
    let n := extents dst.dims
    if hereField s peer.toNat then conclude 1 (fillElements x m.dst dst (n - e.cursor) { s := s, e := e, fault := none })
    else
      let pieces := ((upTo (n - e.cursor)).flatMap fun k =>
        splitPages (lowBits 64 (dst.addr (e.cursor + k))) (leBytes dst.esz e.value.toNat))
      let ents := if replaying s e.launch then [] else e.got ++ gatherPieces pieces
      let g := sendPuts x peer.toNat 3 (selfOverlaps dst) ents { e with cursor := n } s
      goOn g.1 false g.2
  | .plpack _ _ _ _ _ slot =>
    match slotOf (x.la.slots.getD slot.toNat 0) with
    | none => finishCommand tile e s
    | some f =>
      let r := runPack x f.efmt f.planes dst.base src s
      finishCommand tile (e.note r.2 src.base) r.1
  | .plunpk _ _ _ _ _ slot =>
    match slotOf (x.la.slots.getD slot.toNat 0) with
    | none => finishCommand tile e s
    | some f =>
      let r := runUnpack x f.efmt f.planes f.mid src.base dst s
      finishCommand tile (e.note r.2 src.base) r.1
  | .bkopen _ _ _ _ _ =>
    let t := translate tile x.la.asid x.la.priv .load .global e.value.toNat s
    match t.2 with
    | .error f =>
      if f.cause == 0x25 then finishCommand tile (openStatus e 3 0) t.1
      else stopCommand tile 0 { s := t.1, e := e, fault := some (false, e.value.toNat, f) }
    | .ok y =>
      if !inHbm y.pa then finishCommand tile (openStatus e 3 0) t.1
      else
        let h := bankOf y.pa
        let code := bankAnswer t.1 h
        let s := if code == 0 then reserveBank tile e.no h t.1 else t.1
        finishCommand tile (openStatus e code h) s
  | .bkclose _ _ _ _ =>
    let h := e.value.toNat
    let mine := (s.tile tile).copies.any fun c => c.state == .bank && c.handle == h && c.launch == e.launch
    finishCommand tile e (if mine then releaseBank tile h s else s)
  | _ => finishCommand tile e s

/-- The job of a command of a tile's copy queue. -/
def jobOf (e : Command) (s : State) : Option Job :=
  match Map.find e.item s.items, Map.find e.launch s.launches with
  | some it, some la => some { e := e, it := it, la := la }
  | _, _ => none

/-- Whether a command may start: it is QUEUED and resolved, and no held command of its item stands before it (R321). (log 85 DEDUCED) -/
def mayStart (q : List Command) (e : Command) : Bool :=
  e.state == .queued && e.guardSlot.isNone &&
    !(q.takeWhile fun x => x.id != e.id).any fun x => x.item == e.item && x.state == .queued && x.guardSlot.isSome

/-- The copy engine of a tile: a command that waits for room goes on, the first that may starts where fewer than 8 are at
work (R144), and commands at a head look at their guard slots. (log 55 DESIGN CHOICE) -/
def startCopy (tile : Nat) (s : State) : State :=
  let q := (s.tile tile).copies
  let s := (q.filter fun e => e.state == .active && !e.finished && e.fault.isNone).foldl (fun s e =>
    match (s.tile tile).copies.find? fun y => y.id == e.id with
    | some e => match jobOf e s with
      | some x => runCopy x s
      | none => s
    | none => s) s
  let q := (s.tile tile).copies
  let s := wakeGuards q s
  if 8 ≤ (q.filter fun e => e.state == .active).length then s
  else
    match q.find? (mayStart q) with
    | none => s
    | some e =>
      let e := { e with state := .active, started := true }
      match jobOf e s with
      | some x => (runCopy x (putCommand tile e s)).later (.copyEntryStart tile)
      | none => s

/-- An engine's command that is in error (R169, R170, R436): CPSTAT, ENGDETAIL and the causes, each once, to the item's elected
strand; in a strict-remote launch those of a lost access are fatal. -/
def reportError (routing : Bool) (e : Command) (s : State) : State :=
  if e.err == 0 then s
  else
    let s := s.adjItem e.item fun it => { it with
      cpstat := BitVec.ofNat 64 (putBits (putBits it.cpstat.toNat 28 28 1) 27 22 e.err)
      engdetail := if heldCommands e.item s == [] then BitVec.ofNat 64 (engDetail routing e) else it.engdetail }
    let r := engineRaise 0x53 routing e
    let strict := match Map.find e.launch s.launches with
      | some la => la.strict
      | none => false
    let also (detail code info0 : Nat) (s : State) : State :=
      match e.met.find? fun m => m.1 == detail with
      | none => s
      | some m =>
        let s := if detail == 3 then s.adjLaunch e.launch fun la => { la with lostrem := true } else s
        if detail == 3 && strict then goFatal e.launch code e.strand s
        else chargeElected e.item { r with code := code, info0 := info0, info1 := m.2 } s
    let peer := match e.op with
      | .copy _ _ _ _ _ p | .fill _ _ _ _ _ p => p.toNat
      | _ => 0
    let s := also 3 0x60 peer (also 4 0x64 0x7F (also 2 0x2D 7 s))
    if e.err == 3 && strict then goFatal e.launch 0x53 e.strand s else chargeElected e.item r s

/-- The counter that an engine command names. -/
def commandCounter (e : Command) : Nat := (counterOf e.op).getD 0

/-- A value that an engine answers written into the registers that wait for it (R163, R179). -/
def answerEngine (strand id v : Nat) (s : State) : State :=
  respond strand id (s.adjStrand strand fun st => { st with
    pend := st.pend.map fun p =>
      if p.id == id && p.kind == .engine then
        { p with writes := p.locks.zipIdx.map fun l => ⟨l.1.1, l.1.2, BitVec.ofNat 32 (v / 2 ^ (32 * l.2))⟩ }
      else p })

/-- The result of a command written into the register that waits for it. -/
def giveResult (e : Command) (s : State) : State :=
  match e.pend with
  | none => s
  | some id => answerEngine e.strand id e.value2.toNat s

/-- BKOPEN's status, or a free value where the command was cancelled, of which no rule states the status. (log 61 DEDUCED) -/
def giveOpen (e : Command) (s : State) : State :=
  if e.err == 0 || e.pend.isNone then giveResult e s else giveResult { e with value2 := s.free.1 } s.free.2

/-- An item whose strands have all exited retires once its commands are complete (R293). -/
def retireIfOver (item : Nat) (s : State) : State :=
  match Map.find item s.items with
  | some it => if itemOver s it then s.later (.itemRetire item) else s
  | none => s

/-- What follows the end of a command of an engine: the engine programs go on, and the item may retire. -/
def afterCommand (e : Command) (engine : Nat) (s : State) : State := retireIfOver e.item (wakePrograms (noteProgram e engine s))

/-- A BKOPEN that has run to its end with status OK (R163). -/
def Command.opened (e : Command) : Bool :=
  e.finished && e.err == 0 && match e.op with
    | .bkopen _ _ _ _ _ => e.value2.toNat / 65536 == 0
    | _ => false

/-- Whether a bank is held for an entry of a tile under its handle. -/
def holdsBank (tile : Nat) (e : Command) (s : State) : Bool :=
  match Map.find e.handle s.mem.banks with
  | some b => b.tile == tile && b.entry == e.no
  | none => false

/-- The completion of a copy command, in the order of R147: result, counter, entry; BKOPEN's entry stays while its bank is
held. -/
def completeCopy (tile no : Nat) (s : State) : State :=
  match (s.tile tile).copies.find? fun e => e.no == no && e.finished && e.state == .active with
  | none => s
  | some e =>
    let s := reportError false e (giveOpen e s)
    let s := match Map.find e.item s.items with
      | some it => countEnd it.tile e.launch e.item e.id (commandCounter e) s
      | none => s
    let t := s.tile tile
    let s := if e.opened && holdsBank tile e s then putCommand tile { e with state := .bank } s
      else s.setTile tile { t with copies := t.copies.filter fun x => x.id != e.id }
    afterCommand e 0 (s.later (.copyEntryStart tile))

/-- A command passes to HELD (R167): ENGINE_PAGE for the oldest of its item; a later one raises it when the handler of those
before it has returned. (log 59 DEDUCED) A routing engine's command goes by its own
number; one whose tile is fenced has no handler, and is cancelled (R184). (log 148 DESIGN CHOICE) -/
def holdCommand (n no : Nat) (s : State) : State :=
  let q := if n < 768 then (s.tile n).copies else (s.die (n - 768)).routes
  match q.find? fun e => (if n < 768 then e.no else e.id) == no && e.fault.isSome && e.state == .active with
  | none => s
  | some e =>
    let s := { s with nextId := s.nextId + 1 }
    let more := heldCommands e.item s != []
    let s := adjCommand n e.id (fun e => { e with state := .held, seq := s.nextId }) s
    let lost := match Map.find e.item s.items with
      | some it => it.lost
      | none => false
    if lost then cancelCommand n e s else if more then s else raiseHeld e.item s

/-- The answer of an entry of a command to or from a peer (R156, R167, R170, R416): bytes of a get, an acknowledgement, a
refusal, a fault at the peer, or none where it is lost. -/
def answerCopy (r : Remote) (f : Option Flit) (s : State) : State :=
  let s := endRemote r.id s
  match (s.tile r.tile).copies.find? fun e => some e.id == r.command with
  | none => s
  | some e =>
    let addr := (r.lanes.map (·.addr)).headD 0
    let fault := r.homes.any fun h => h.2.isNone
    let detail := if fault then 10 else
      match f with
      | none => 3
      | some f => f.arg
    let bytes := match f with
      | some f => if fault || f.arg == 6 then poisonBytes r.n else f.data.take r.n
      | none => poisonBytes r.n
    let e := { e.note detail addr (r.op != 0) with wait := e.wait.filter (· != r.id) }
    let e := if r.op == 0 then { e with got := e.got ++ [(r.pend, bytes)] } else e
    let s := match (if r.op == 0 then jobOf e s else none) with
      | some x => captureInput (x.inputAt s) 6 0 bytes s
      | none => s
    (putCommand r.tile e s).later (.copyEntryStart r.tile)

/-- A bank closed by the base die (R59, R164): the BANK entry that held it is freed, and CPSTAT of its item says so. An
entry whose bank is held again stays; one whose BKOPEN is still to complete is freed by that. -/
def closeBank (tile h reason : Nat) (s : State) : State :=
  let t := s.tile tile
  match t.copies.find? fun e => (e.state == .bank || e.opened) && e.handle == h && !holdsBank tile e s with
  | none => s
  | some e =>
    (s.setTile tile { t with copies := t.copies.filter fun x => x.id != e.id || e.state != .bank }).adjItem e.item fun it =>
      { it with cpstat := BitVec.ofNat 64 (putBits (putBits (putBits it.cpstat.toNat 47 32 h) 31 30 reason) 29 29 1) }

/-- CLOSE_EVENT (R164). -/
def execCloseEvent (tile handle reason : Nat) (s : State) : Host.Outcome State Fault Refusal :=
  .next (closeBank tile handle reason s)

end Sys2Proof.Machine
end

