-- ==== Sys2Proof/Machine/Routing.lean ====
section
/-! DEFINITION. The routing engine of a die (07_copy_and_routing.md R172 to R186): RTCOUNT, RTDISP and RTCOMB, their
checks, dispatch contexts, the exchange of count vectors, placement, rows, and the combination of rows. -/

namespace Sys2Proof.Machine

/-! The dispatch descriptor and the expert table (R173, R174). -/

/-- A dispatch descriptor (R173). -/
structure DispDesc where
  choices : Nat
  gates : Nat
  rows : Nat
  exptab : Nat
  manifest : Nat
  drops : Nat
  out : Nat
  tokbase : Nat
  tokcnt : Nat
  k : Nat
  nexp : Nat
  rowu : Nat
  reserved : Nat
deriving DecidableEq, Repr, Inhabited

/-- The dispatch that dN and dN+1 describe. -/
def dispOf (ds : List (BitVec 256)) : DispDesc :=
  let a := (ds.getD 0 0).toNat
  let b := (ds.getD 1 0).toNat
  { choices := bitsOf a 63 0, gates := bitsOf a 127 64, rows := bitsOf a 191 128, exptab := bitsOf a 255 192
    manifest := bitsOf b 63 0, drops := bitsOf b 127 64, out := bitsOf b 191 128, tokbase := bitsOf b 207 192
    tokcnt := bitsOf b 224 208, k := bitsOf b 228 225, nexp := bitsOf b 240 229 + 1, rowu := bitsOf b 251 241
    reserved := bitsOf b 255 252 }

/-- Bytes of a row (R173). -/
def DispDesc.rowBytes (d : DispDesc) : Nat := (d.rowu + 1) * 32

/-- Fields of an expert's entry (R174): buffer. -/
def expBuf (e : Nat) : Nat := bitsOf e 63 0
/-- The inverse-permutation array. -/
def expInv (e : Nat) : Nat := bitsOf e 127 64
/-- The count word. -/
def expCnt (e : Nat) : Nat := bitsOf e 191 128
/-- The capacity. -/
def expCap (e : Nat) : Nat := bitsOf e 211 192
/-- The home package. -/
def expPkg (e : Nat) : Nat := bitsOf e 218 212
/-- The home die. -/
def expDie (e : Nat) : Nat := bitsOf e 221 219

/-- The dies of a mask. -/
def diesIn (m : Nat) : List Nat := (upTo 8).filter fun d => bitOf m d

/-- The die that an expert is homed on, for every duty (R180, R181). -/
def homeDie (mask e : Nat) : Nat := if bitOf mask (expDie e) then expDie e else (diesIn mask).headD 0

/-- CRC-32C of some bytes. -/
def crc32c (bytes : List Byte) : Nat :=
  let step (c : Nat) : Nat := if c % 2 == 1 then (c / 2) ^^^ 0x82F63B78 else c / 2
  let r := bytes.foldl (fun c b => (upTo 8).foldl (fun c _ => step c) (c ^^^ b.toNat)) 0xFFFFFFFF
  r ^^^ 0xFFFFFFFF

/-- The bytes of an expert table. -/
def tableBytes (t : List Nat) : List Byte := t.flatMap (leBytes 32)

/-! Issue (R179, R183). -/

/-- The die of a source's tile. -/
def CmdSource.die (c : CmdSource) : Nat := dieOf c.it.tile

/-- A routing command of an instruction: the descriptor's number, the dispatch id, and the format slot of RTCOMB. -/
def routeFields : Instr → Option (Nat × Nat × Option Nat)
  | .rtcount _ _ dn _ id => some (dn.toNat, id.toNat, none)
  | .rtdisp _ _ dn _ id => some (dn.toNat, id.toNat, none)
  | .rtcomb _ _ dn _ slot id => some (dn.toNat, id.toNat, some slot.toNat)
  | _ => none

/-- Whether an instruction is RTCOUNT. -/
def isCount : Instr → Bool
  | .rtcount _ _ _ _ _ => true
  | _ => false

/-- Whether an instruction is RTDISP. -/
def isDisp : Instr → Bool
  | .rtdisp _ _ _ _ _ => true
  | _ => false

/-- The formats of RTCOMB (R182). -/
def combFormat (la : Launch) (slot : Nat) : Option Slot :=
  match slotOf (la.slots.getD slot 0) with
  | some f => if f.efmt == .fp .fp32 || f.efmt == .fp .fp16 || f.efmt == .fp .bf16 then some f else none
  | none => none

/-- The context of a dispatch on a die; that of a pre-empted RTDISP stands in the image (R185). -/
def findCtx (s : State) (die launch id : Nat) : Option Dispatch :=
  ((s.die die).ctxs ++ (s.die (die + 32)).ctxs).find? fun c => c.launch == launch && c.id == id

/-- The context of a dispatch changed. -/
def adjCtx (die launch id : Nat) (f : Dispatch → Dispatch) (s : State) : State :=
  let on (d : Nat) (s : State) : State :=
    if (s.die d).ctxs.any fun c => c.launch == launch && c.id == id then
      s.setDie d { s.die d with ctxs := (s.die d).ctxs.map fun c => if c.launch == launch && c.id == id then f c else c }
    else s
  on (die + 32) (on die s)

/-- The context of a dispatch closed. -/
def closeCtx (die launch id : Nat) (s : State) : State :=
  s.setDie die { s.die die with ctxs := (s.die die).ctxs.filter fun c => !(c.launch == launch && c.id == id) }

/-- The checks of R183: the trap that the command raises. -/
def CmdSource.checkRoute (c : CmdSource) (s : State) : Option Raise :=
  match routeFields c.i with
  | none => none
  | some (n, id, slot) =>
    if 15 ≤ n then some (c.raise 0x08)
    else
      let d := dispOf [c.desc n, c.desc (n + 1)]
      let badSlot := match slot with
        | some f => (combFormat c.la f).isNone
        | none => false
      let h := c.it.launch
      if d.k == 0 || 8 < d.k || 65536 < d.tokbase + d.tokcnt || d.reserved != 0 || badSlot
          || (slot.isNone && !bitOf c.la.diemask c.die) || c.la.pkgmask == 0 then some (c.copyRaise 0x55)
      else
        let ctx := findCtx s c.die h id
        let ctxs := (s.die c.die).ctxs
        if isCount c.i && (ctx.isSome || (4 ≤ ctxs.length && ctxs.all fun x => x.launch == h)) then some (c.copyRaise 0x54)
        else if isDisp c.i && (match ctx with
            | some x => x.dispIssued
            | none => true) then some (c.copyRaise 0x54)
        else none

/-- Whether an RTCOUNT waits at issue for a context that another launch holds (R172). -/
def CmdSource.routeWaits (c : CmdSource) (s : State) : Bool := isCount c.i && 4 ≤ (s.die c.die).ctxs.length

/-- A routing command enters its die's queue; RTCOUNT opens a context, RTDISP claims it (R172, R183). -/
def CmdSource.enqueueRoute (c : CmdSource) (id : Nat) (pend : Option Nat) (s : State) : State :=
  match routeFields c.i with
  | none => s
  | some (n, disp, _) =>
    let h := c.it.launch
    let descs := [c.desc n, c.desc (n + 1)]
    let ctxs := (s.die c.die).ctxs
    let ix := if isCount c.i then ((upTo 4).find? fun i => ctxs.all fun x => x.ix != i).getD 0
      else match findCtx s c.die h disp with
        | some x => x.ix
        | none => 0
    let e := { c.command id descs disp with no := ix, pend := pend }
    let ctx : Dispatch := ⟨ix, h, disp, descs, [], [], [], [], false, false, false, false, false, [], [], [], [], 0⟩
    let s := if isCount c.i then s.setDie c.die { s.die c.die with ctxs := ctxs ++ [ctx] }
      else if isDisp c.i then adjCtx c.die h disp (fun x => { x with dispIssued := true }) s
      else s
    (s.setDie c.die { s.die c.die with routes := (s.die c.die).routes ++ [e] }).later (.copyEntryStart (768 + c.die))

/-- RTCOUNT, RTDISP or RTCOMB issued by a strand (R179, R183, R199). -/
def routeCommand (d : Opnd) (k : BitVec 6) (c : Issue) (s : State) : Act :=
  if !c.once then .done s
  else
    let src := c.source
    match src.checkRoute s with
    | some r => .trap r s
    | none =>
      if src.routeWaits s then .wait .engine s
      else
        let n := s.newId
        let s := src.enqueueRoute n.1 (some n.1) n.2
        .done (commandIssued c n.1 k.toNat (owe c n.1 d 1 c.electedMask s))

/-- RTCOUNT (R180). -/
def execRtcount (g : Guard) (d : Opnd) (dn : BitVec 4) (k : BitVec 6) (id : BitVec 8) (s : State) :
    Host.Outcome State Fault Refusal :=
  issue (.rtcount g d dn k id) s (routeCommand d k)

/-- RTDISP (R181). -/
def execRtdisp (g : Guard) (d : Opnd) (dn : BitVec 4) (k : BitVec 6) (id : BitVec 8) (s : State) :
    Host.Outcome State Fault Refusal :=
  issue (.rtdisp g d dn k id) s (routeCommand d k)

/-- RTCOMB (R182). -/
def execRtcomb (g : Guard) (d : Opnd) (dn : BitVec 4) (k : BitVec 6) (slot : BitVec 3) (id : BitVec 8) (s : State) :
    Host.Outcome State Fault Refusal :=
  issue (.rtcomb g d dn k slot id) s (routeCommand d k)

/-! Completion of a routing command. -/

/-- The queue of a die's routing engine as a queue number. -/
def routeQueue (die : Nat) : Nat := 768 + die

/-- The die of a job's tile, of the tile that a pre-empted item left (R185). -/
def Job.die (x : Job) : Nat := dieOf x.it.tile % 32

/-- A routing command replaced in its queue. -/
def putRoute (die : Nat) (e : Command) (s : State) : State := adjCommand (routeQueue die) e.id (fun _ => e) s

/-- A routing command completes with a status count (R147, R179); the counter of a fenced tile is left (R184). -/
def completeRoute (die : Nat) (e : Command) (count : Nat) (s : State) : State :=
  let e := { e with value2 := BitVec.ofNat 64 (e.err % 256 * 2 ^ 24 + count % 2 ^ 20) }
  let s := reportError true e (giveResult e s)
  let s := match Map.find e.item s.items with
    | some it => if tileDown s it.tile then s else countEnd it.tile e.launch e.item e.id (commandCounter e) s
    | none => s
  let s := s.setDie die { s.die die with routes := (s.die die).routes.filter fun x => x.id != e.id }
  afterCommand e 2 (s.later (.copyEntryStart (routeQueue die)))

/-- A routing command that met a translation fault (R167). -/
def stopRoute (die : Nat) (e : Command) (dest : Bool) (a : Nat) (f : PageFault) (s : State) : State :=
  let e := { e with endBit := dest, fault := some (a, f.level, if dest then 1 else 0) }
  (putRoute die e s).later (.engineTranslationFault (routeQueue die) e.id)

/-! RTCOUNT (R175, R176, R180). -/

/-- The reason code of a choice (R175): 0 for a valid one. `before` are the choices of lower rank of its token. -/
def choiceReason (s : State) (table : List Nat) (nexp : Nat) (before : List Nat) (x : Nat) : Nat :=
  if x == 0xFFFF then 4
  else if nexp ≤ x then 3
  else if before.contains x then 2
  else if (s.peer (expPkg (table.getD x 0))).removed && expPkg (table.getD x 0) != s.self then 5
  else 0

/-- The choices of a die in global order: token, rank, expert and reason (R175). -/
def classify (s : State) (d : DispDesc) (choices table : List Nat) : List (Nat × Nat × Nat × Nat) :=
  (upTo d.tokcnt).flatMap fun i =>
    (upTo d.k).map fun c =>
      let x := choices.getD (i * d.k + c) 0xFFFF
      (d.tokbase + i, c, x, choiceReason s table d.nexp ((upTo c).map fun r => choices.getD (i * d.k + r) 0xFFFF) x)

/-- The demand of each expert by some choices. -/
def demandBy (nexp : Nat) (cs : List (Nat × Nat × Nat × Nat)) : List Nat :=
  (upTo nexp).map fun x => (cs.filter fun c => c.2.2.1 == x && c.2.2.2 == 0).length

/-- Two vectors added. -/
def addSums (a b : List Nat) : List Nat := (upTo (max a.length b.length)).map fun i => a.getD i 0 + b.getD i 0

/-- The dies of this package that take part in a dispatch, with their contexts (R172). -/
def dispatchCtxs (s : State) (launch id : Nat) : List (Nat × Dispatch) :=
  match Map.find launch s.launches with
  | none => []
  | some la => (diesIn la.diemask).filterMap fun d => (findCtx s d launch id).map fun c => (d, c)

/-- Those of them whose exchange is still to come. -/
def openCtxs (s : State) (launch id : Nat) : List (Nat × Dispatch) :=
  (dispatchCtxs s launch id).filter fun y => !y.2.complete

/-- Whether every die of the domain has counted (R180). -/
def allCounted (s : State) (launch id : Nat) : Bool :=
  match Map.find launch s.launches with
  | none => false
  | some la => (diesIn la.diemask).all fun d => (openCtxs s launch id).any fun y => y.1 == d && y.2.ready

/-- What the participants of a dispatch compare (R180). (log 67 DEDUCED) -/
def Dispatch.sign (c : Dispatch) : Nat × Nat × Nat × Nat :=
  let d := dispOf c.desc
  (crc32c (tableBytes c.table), d.k, d.nexp, d.rowu)

/-- The other packages of a routing domain, less those declared removed (R180). -/
def otherPackages (s : State) (la : Launch) : List Nat :=
  (upTo 128).filter fun p => bitOf la.pkgmask p && p != s.self && !(s.peer p).removed

/-- The vector of a package: 0 where it has been declared removed. -/
def vectorOf (c : Dispatch) (p : Nat) : List Nat :=
  match c.vectors.find? fun v => v.package == p with
  | some v => v.sums
  | none => []

/-- The vectors that an exchange uses: of each of some packages, the first that has come for the dispatch id. -/
def comeVectors (la : Launch) (id : Nat) (ps : List Nat) : List Vector :=
  ps.filterMap fun p => (la.vectors.find? fun v => v.1 == id && v.2.package == p).map (·.2)

/-- Vectors used up: of each package the first for the dispatch id. -/
def dropVectors (id : Nat) (ps : List Nat) (vs : List (Nat × Vector)) : List (Nat × Vector) :=
  ps.foldl (fun vs p => vs.eraseP fun v => v.1 == id && v.2.package == p) vs

/-- What the exchange fixes for a die (R176, R180): the slots that the packages before its own and the dies of lower TOKBASE
take, the demand of the whole dispatch, and this package's. -/
def Dispatch.settle (self : Nat) (mine : List Dispatch) (vs : List Vector) (c : Dispatch) : Dispatch :=
  let own := mine.foldl (fun v y => addSums v y.sums) []
  let before := (mine.filter fun y => (dispOf y.desc).tokbase < (dispOf c.desc).tokbase).foldl (fun v y => addSums v y.sums)
    ((vs.filter fun v => v.package < self).foldl (fun v y => addSums v y.sums) [])
  { c with complete := true, vectors := vs, own := own, base := before, demand := vs.foldl (fun v y => addSums v y.sums) own }

/-- The RTCOUNT command of a dispatch on a die. -/
def countCommand (s : State) (die launch id : Nat) : Option Command :=
  (s.die die).routes.find? fun e => isCount e.op && e.launch == launch && e.value.toNat == id && e.state == .active

/-- ROUTE_MISMATCH (R180): every RTCOUNT of the dispatch ends in error, its context closes, and an RTDISP already accepted
will complete with detail 12 (R183). (log 64 DEDUCED) -/
def mismatch (launch id : Nat) (s : State) : State :=
  (openCtxs s launch id).foldl (fun s x =>
    let s := closeCtx x.1 launch id s
    let s := s.setDie x.1 { s.die x.1 with
      routes := (s.die x.1).routes.map fun e =>
        if isDisp e.op && e.launch == launch && e.value.toNat == id then { e with err := 12 } else e }
    match countCommand s x.1 launch id with
    | none => s
    | some e =>
      let s := s.adjItem e.item fun it => { it with
        cpstat := BitVec.ofNat 64 (putBits (putBits it.cpstat.toNat 28 28 1) 27 22 0)
        engdetail := BitVec.ofNat 64 (engDetail true e) }
      let s := chargeElected e.item (engineRaise 0x56 true e) s
      completeRoute x.1 e ((classify s (dispOf x.2.desc) x.2.choices x.2.table).filter fun c => c.2.2.2 == 0).length s) s

/-- The count words that a die writes for its experts (R178, R180), from an expert on. -/
def writeCounts (x : Job) (mask self : Nat) (table demand : List Nat) : List Nat → State →
    State × Except (Nat × PageFault) Unit
  | [], s => (s, .ok ())
  | i :: is, s =>
    let e := table.getD i 0
    if expPkg e == self && homeDie mask e == x.die then
      let n := demand.getD i 0
      let w := x.agent.write .global (expCnt e) (leBytes 8 (n % 2 ^ 32 + min n (expCap e) * 2 ^ 32)) s
      match w.2 with
      | .error f => (w.1, .error f)
      | .ok _ => writeCounts x mask self table demand is w.1
    else writeCounts x mask self table demand is s

/-- The end of an RTCOUNT whose vectors have all come: the count words of the die's experts, then completion (R180). -/
def endCount (die launch id : Nat) (s : State) : State :=
  match countCommand s die launch id, findCtx s die launch id with
  | some e, some c =>
    match jobOf e s with
    | none => s
    | some x =>
      let d := dispOf c.desc
      let w := writeCounts x x.la.diemask s.self c.table c.demand (upTo d.nexp) s
      match w.2 with
      | .error f => stopRoute die { e with cursor := d.tokcnt } true f.1 f.2 w.1
      | .ok _ =>
        let s := adjCtx die launch id (fun c => { c with counted := true }) w.1
        completeRoute die e ((classify s d c.choices c.table).filter fun y => y.2.2.2 == 0).length s
  | _, _ => s

/-- The exchange of a dispatch (R180): once every die has counted, this package's sum goes to the other participants, and
once theirs have come the slots are assigned, or a disagreement ends the dispatch. -/
def exchange (launch id : Nat) (s : State) : State :=
  match Map.find launch s.launches, openCtxs s launch id with
  | some la, (d0, c0) :: rest =>
    if !allCounted s launch id then s
    else
      let agree := rest.all fun y => y.2.sign == c0.sign
      let others := otherPackages s la
      let sum := rest.foldl (fun v y => addSums v y.2.sums) c0.sums
      let g := c0.sign
      let s := if c0.sent || la.replay.isSome then s
        else others.foldl (fun s p =>
          sendControl p ctlVector
            { addr := la.lkey, asid := la.asid, arg := ctlVector, ts := g.1, len := g.2.2.1
              lanes := if agree then g.2.1 else 0, seq := g.2.2.2, ord := id, data := sum.flatMap (leBytes 4) } s) s
      let s := adjCtx d0 launch id (fun c => { c with sent := true }) s
      let vs := comeVectors la id others
      let used (s : State) : State := s.adjLaunch launch fun la => { la with vectors := dropVectors id others la.vectors }
      if !agree then mismatch launch id (used s)
      else if vs.length < others.length then s
      else if !vs.all fun v => (v.crc, v.k, v.nexp, v.rowu) == g then mismatch launch id (used s)
      else
        let cs := openCtxs s launch id
        let s := cs.foldl (fun s y => adjCtx y.1 launch id (Dispatch.settle s.self (cs.map (·.2)) vs) s) (used s)
        cs.foldl (fun s y => endCount y.1 launch id s) s
  | _, _ => s

/-- The bytes of a vector as an input from outside (R416, KIND 7). -/
def Vector.bytes (v : Vector) : List Byte :=
  leBytes 4 v.package ++ leBytes 4 v.crc ++ leBytes 4 v.k ++ leBytes 4 v.nexp ++ leBytes 4 v.rowu ++ v.sums.flatMap (leBytes 4)

/-- Words of four bytes. -/
def wordsOf (bytes : List Byte) : List Nat := (upTo (bytes.length / 4)).map fun i => ofLeBytes ((bytes.drop (4 * i)).take 4)

/-- A vector of a package kept until the exchange of its dispatch uses it. -/
def noteVector (launch id : Nat) (v : Vector) (s : State) : State :=
  s.adjLaunch launch fun la => { la with vectors := la.vectors ++ [(id, v)] }

/-- The vectors of the other participants in a replay: the next log entries (R417). -/
def replayVectors (x : Job) (id : Nat) : List Nat → State → Option State
  | [], s => some s
  | _ :: ps, s =>
    let r := replayInput (x.inputAt s) 7 s
    match r.2 with
    | none => none
    | some e =>
      let w := wordsOf e.bytes
      replayVectors x id ps (noteVector x.e.launch id
        ⟨w.getD 0 0, w.drop 5, w.getD 1 0, w.getD 2 0, w.getD 3 0, w.getD 4 0⟩ r.1)

/-- RTCOUNT at work (R180): the choices and the expert table are read and counted, then the exchange. -/
def runCount (x : Job) (s : State) : State :=
  let e := x.e
  let id := e.value.toNat
  match findCtx s x.die e.launch id with
  | none => s
  | some c =>
    if c.complete then endCount x.die e.launch id s
    else
      let d := dispOf e.descs
      let r := (upTo d.tokcnt).foldl (fun (acc : State × Except (Nat × Nat × PageFault) (List Nat × Nat)) i =>
        match acc.2 with
        | .error f => (acc.1, .error f)
        | .ok (cs, bad) =>
          let y := x.read .global ((d.choices + 16 * i : Nat) : Int) 16 acc.1
          (y.1, match y.2 with
            | .error f => .error (i, f.1, f.2)
            | .ok b => .ok (cs ++ (upTo d.k).map (fun k => ofLeBytes ((b.bytes.drop (2 * k)).take 2)), max bad b.detail)))
        (s, .ok ([], 0))
      match r.2 with
      | .error f => stopRoute x.die { e with cursor := f.1 } false f.2.1 f.2.2 r.1
      | .ok (cs, bad) =>
        let t := x.read .global ((d.exptab : Nat) : Int) (32 * d.nexp) r.1
        match t.2 with
        | .error f => stopRoute x.die { e with cursor := d.tokcnt } false f.1 f.2 t.1
        | .ok b =>
          let table := (upTo d.nexp).map fun i => ofLeBytes ((b.bytes.drop (32 * i)).take 32)
          let sums := demandBy d.nexp (classify t.1 d cs table)
          let s := putRoute x.die ((e.note bad d.choices).note b.detail d.exptab) t.1
          let s := adjCtx x.die e.launch id
            (fun c => { c with choices := cs, table := table, sums := sums, ready := true }) s
          if replaying s e.launch && allCounted s e.launch id then
            match replayVectors x id (otherPackages s x.la) s with
            | some s => exchange e.launch id s
            | none => goFatal e.launch 0x71 e.strand s
          else exchange e.launch id s

/-! Placement (R176 to R178). -/

/-- Each choice of a die with the slot it is given, or its reason (R176): token, rank, expert, reason, slot. -/
def placeChoices (table : List Nat) : List Nat → List (Nat × Nat × Nat × Nat) → List (Nat × Nat × Nat × Nat × Nat)
  | _, [] => []
  | next, (t, c, x, r) :: rest =>
    if r == 0 then
      let n := next.getD x 0
      let cap := expCap (table.getD x 0)
      let next := if x < next.length then next.set x (n + 1) else next
      (t, c, x, if n < cap then 0 else 1, n) :: placeChoices table next rest
    else (t, c, x, r, 0) :: placeChoices table next rest

/-- The placement of a die's choices. -/
def placementOf (s : State) (c : Dispatch) : List (Nat × Nat × Nat × Nat × Nat) :=
  let d := dispOf c.desc
  placeChoices c.table ((upTo d.nexp).map fun x => c.base.getD x 0) (classify s d c.choices c.table)

/-- The manifest record of a choice (R177). -/
def manifestWord (self rank reason expert pkg slot : Nat) (ferried : Bool) : Nat :=
  if reason == 0 then
    rank * 2 ^ 46 + (if ferried then 2 ^ 41 else 0) + (if pkg == self then 2 ^ 39 else 2 ^ 40) + slot % 2 ^ 20 * 2 ^ 19 +
      pkg * 2 ^ 12 + expert
  else
    let named := reason != 3 && reason != 4
    rank * 2 ^ 46 + reason * 2 ^ 43 + 2 ^ 42 + 0xFFFFF * 2 ^ 19 + (if named then pkg * 2 ^ 12 + expert else 0)

/-- The drop record of a choice (R178). -/
def dropWord (token rank reason expert : Nat) : Nat :=
  token % 2 ^ 16 + rank * 2 ^ 16 + (if reason == 3 then 0 else expert) * 2 ^ 19 + reason * 2 ^ 31

/-- The inverse-permutation record of a placed row (R178). -/
def inverseWord (pkg token rank : Nat) : Nat := 2 ^ 31 + rank * 2 ^ 23 + token % 2 ^ 16 * 2 ^ 7 + pkg

/-- The address of the manifest record of a choice (R173). -/
def manifestAt (d : DispDesc) (token rank : Nat) : Nat := d.manifest + ((token - d.tokbase) * 8 + rank) * 8

/-! RTDISP (R181, R184). -/

/-- The rows that an expert of this package is to receive. -/
def Dispatch.filled (c : Dispatch) (x : Nat) : Nat := min (c.demand.getD x 0) (expCap (c.table.getD x 0))

/-- A row of an expert noted as written on its home die (R181). -/
def noteRow (launch : Nat) (c : Dispatch) (x slot : Nat) (s : State) : State :=
  match Map.find launch s.launches with
  | some la =>
    adjCtx (homeDie la.diemask (c.table.getD x 0)) launch c.id (fun c =>
      if c.rows.contains (x * 2 ^ 20 + slot) then c else { c with rows := c.rows ++ [x * 2 ^ 20 + slot] }) s
  | none => s

/-- Whether every row of every expert homed on a die has been written (R181). -/
def homedDone (s : State) (die launch id : Nat) : Bool :=
  match Map.find launch s.launches, findCtx s die launch id with
  | some la, some c =>
    (upTo (dispOf c.desc).nexp).all fun x =>
      let e := c.table.getD x 0
      !(expPkg e == s.self && homeDie la.diemask e == die) || (upTo (c.filled x)).all fun n => c.rows.contains (x * 2 ^ 20 + n)
  | _, _ => true

/-- The RTDISP command of a dispatch on a die. -/
def dispCommand (s : State) (die launch id : Nat) : Option Command :=
  (s.die die).routes.find? fun e => isDisp e.op && e.launch == launch && e.value.toNat == id && e.state == .active

/-- RTDISP of a dispatch on every die looked at again: those that may be complete are. -/
def checkDisps (launch id : Nat) (s : State) : State :=
  (dispatchCtxs s launch id).foldl (fun s y =>
    match dispCommand s y.1 launch id with
    | some e => if e.finished && e.wait == [] && homedDone s y.1 launch id then s.later (.rtdispCompletion y.1 launch id) else s
    | none => s) s

/-- Pieces of a row, and its inverse record, for another package sent while the bulk ring for it takes them (R181, R338); the
rest stays in `got`. -/
def sendRow (x : Job) (pkg choice : Nat) : List (Nat × List Byte) → Command → State → State × Command
  | [], e, s => (s, { e with got := [] })
  | (a, bs) :: rest, e, s =>
    if ringRoom s pkg false && unacked s pkg < 1024 then
      let n := s.newId
      let r := { x.entry n.1 pkg 1 a bs.length choice with tile := routeQueue x.die }
      sendRow x pkg choice rest { e with wait := e.wait ++ [n.1] } (postRemote r x.la.det false 0 bs n.2)
    else (s, { e with got := (a, bs) :: rest })

/-- Whether one of some entries travels by a ferry hop. -/
def ferried (s : State) (ids : List Nat) : Bool :=
  s.fabric.peers.any fun p => p.2.queue.any fun e => e.ferry && ids.contains e.id

/-- The bytes of a command written at an address; the detail of a write that was lost is noted. -/
def dispPut (x : Job) (a : Nat) (bs : List Byte) (r : State × Except (Bool × Nat × PageFault) Command) :
    State × Except (Bool × Nat × PageFault) Command :=
  match r.2 with
  | .error f => (r.1, .error f)
  | .ok e =>
    let w := x.agent.write .global a bs r.1
    (w.1, match w.2 with
      | .error f => .error (true, f.1, f.2)
      | .ok gone => .ok (if gone then e.note 4 a true else e))

/-- The manifest record of a choice of RTDISP. -/
def dispWord (s : State) (c : Dispatch) (y : Nat × Nat × Nat × Nat × Nat) (ferry : Bool) : List Byte :=
  leBytes 8 (manifestWord s.self y.2.1 y.2.2.2.1 y.2.2.1 (expPkg (c.table.getD y.2.2.1 0)) y.2.2.2.2 ferry)

/-- What a choice still has to send goes out as far as the ring takes it; a piece that travels by a ferry hop marks the
choice's manifest FERRIED (R177). -/
def dispSend (x : Job) (c : Dispatch) (y : Nat × Nat × Nat × Nat × Nat) (pieces : List (Nat × List Byte)) (e : Command)
    (s : State) : State × Except (Bool × Nat × PageFault) Command :=
  let q := sendRow { x with e := e } (expPkg (c.table.getD y.2.2.1 0)) (y.1 * 8 + y.2.1) pieces e s
  if ferried q.1 (q.2.wait.drop e.wait.length) then
    dispPut x (manifestAt (dispOf x.e.descs) y.1 y.2.1) (dispWord s c y true) (q.1, .ok q.2)
  else (q.1, .ok q.2)

/-- One choice of RTDISP: its manifest record, its drop record, its row and inverse record (R181). A choice that was valid
when it was counted and whose home has been removed since has detail 3 (R184). Where `send` is false nothing goes to
other packages. -/
def dispChoice (x : Job) (c : Dispatch) (y : Nat × Nat × Nat × Nat × Nat) (send : Bool) (s : State) :
    State × Except (Bool × Nat × PageFault) Command :=
  let d := dispOf x.e.descs
  let (t, rank, ex, reason, slot) := y
  let en := c.table.getD ex 0
  let row := d.rows + (t - d.tokbase) * d.rowBytes
  let r0 := dispPut x (manifestAt d t rank) (dispWord s c y false) (s, .ok x.e)
  if reason == 4 then r0
  else
    match r0.2 with
    | .error _ => r0
    | .ok e =>
      if reason != 0 then
        let r := dispPut x (d.drops + 8 * e.count) (leBytes 8 (dropWord t rank reason ex)) r0
        let lost := reason == 5 && c.sums.getD ex 0 != 0
        (r.1, r.2.map fun e => { (e.note (if lost then 3 else 0) row) with count := e.count + 1 })
      else
        let b := x.read .global ((row : Nat) : Int) d.rowBytes r0.1
        match b.2 with
        | .error f => (b.1, .error (false, f.1, f.2))
        | .ok b' =>
          let e := e.note b'.detail row
          let inv := leBytes 4 (inverseWord s.self t rank)
          let buf := expBuf en + slot * d.rowBytes
          if expPkg en == s.self then
            let r := dispPut x (expInv en + 4 * slot) inv (dispPut x buf b'.bytes (b.1, .ok e))
            match r.2 with
            | .error _ => r
            | .ok _ => (noteRow x.e.launch c ex slot r.1, r.2)
          else if !send || replaying b.1 x.e.launch then (b.1, .ok e)
          else
            dispSend x c y (gatherPieces (((upTo (d.rowBytes / 32)).flatMap fun i =>
              splitPages (buf + 32 * i) ((b'.bytes.drop (32 * i)).take 32))) ++ splitPages (expInv en + 4 * slot) inv) e b.1

/-- A choice dropped by a cancelled RTDISP (R184): its manifest says reason 5; the home writes its inverse record as 0. (log 63 DEDUCED) -/
def cancelChoice (x : Job) (c : Dispatch) (y : Nat × Nat × Nat × Nat × Nat) (s : State) : State × Command :=
  let d := dispOf x.e.descs
  let (t, rank, ex, reason, slot) := y
  let en := c.table.getD ex 0
  let named := reason != 3 && reason != 4
  let word := manifestWord s.self rank 5 (if named then ex else 0) (if named then expPkg en else 0) 0 false
  let s := (x.agent.write .global (manifestAt d t rank) (leBytes 8 word) s).1
  if reason != 0 then (s, x.e)
  else if expPkg en == s.self then
    (noteRow x.e.launch c ex slot (x.agent.write .global (expInv en + 4 * slot) (leBytes 4 0) s).1, x.e)
  else sendRow x (expPkg en) (t * 8 + rank) (splitPages (expInv en + 4 * slot) (leBytes 4 0)) x.e s

/-- The inverse records of slots from filled up to CAP zeroed by their home die (R178, R181). -/
def zeroInverses (x : Job) (c : Dispatch) (s : State) : State × Except (Nat × PageFault) Unit :=
  (upTo (dispOf c.desc).nexp).foldl (fun acc i =>
    match acc.2 with
    | .error f => (acc.1, .error f)
    | .ok _ =>
      let e := c.table.getD i 0
      let n := c.filled i
      if expPkg e == acc.1.self && homeDie x.la.diemask e == x.die && n < expCap e then
        let w := x.agent.write .global (expInv e + 4 * n) (List.replicate (4 * (expCap e - n)) 0) acc.1
        (w.1, w.2.map fun _ => ())
      else acc) (s, .ok ())

/-- The slots of an expert that a package's choices were given, by the vectors of a dispatch (R176). -/
def slotsGiven (self : Nat) (c : Dispatch) (p x : Nat) : List Nat :=
  let lower := c.vectors.foldl (fun n v => if v.package < p then n + v.sums.getD x 0 else n) 0
  let base := lower + (if self < p then c.own.getD x 0 else 0)
  (upTo ((vectorOf c p).getD x 0)).map fun i => base + i

/-- Source packages removed during a dispatch (R184): the inverse records of the slots that their rows have not filled are
written as 0 by the experts' home dies, whose RTDISP is in error with detail 3. -/
def zeroMissing (launch id : Nat) (s : State) : State :=
  match Map.find launch s.launches with
  | none => s
  | some la =>
    ((dispatchCtxs s launch id).filter fun y => y.2.complete).foldl (fun s y =>
      let (die, c) := y
      let gone := (c.vectors.map (·.package)).filter fun p => (s.peer p).removed
      gone.foldl (fun s p => (upTo (dispOf c.desc).nexp).foldl (fun s x =>
        let e := c.table.getD x 0
        if expPkg e != s.self || homeDie la.diemask e != die then s
        else
          (slotsGiven s.self c p x).foldl (fun s n =>
            let done := match findCtx s die launch id with
              | some h => h.rows.contains (x * 2 ^ 20 + n)
              | none => true
            if done || expCap e ≤ n then s
            else
              let g := la.agent (match (s.die die).routes.find? fun y => isDisp y.op && y.launch == launch && y.value.toNat == id with
                | some y => (match Map.find y.item s.items with
                  | some it => it.tile
                  | none => la.clbase * 4)
                | none => la.clbase * 4)
              let s := s.setDie die { s.die die with
                routes := (s.die die).routes.map fun y =>
                  if isDisp y.op && y.launch == launch && y.value.toNat == id then y.note 3 (expInv e + 4 * n) true else y }
              noteRow launch c x n (g.write .global (expInv e + 4 * n) (leBytes 4 0) s).1) s) s) s) s

/-- RTDISP goes back to the start of the token at its cursor (R167, R185). -/
def restartToken (c : Dispatch) (e : Command) : Command :=
  { e with drawn := e.cursor * (dispOf e.descs).k, count := c.drops, got := [] }

/-- The fault that some choices would meet, tried on the state as it stands. -/
def tokenFault (x : Job) (c : Dispatch) (ys : List (Nat × Nat × Nat × Nat × Nat)) (s : State) : Option (Bool × Nat × PageFault) :=
  match (ys.foldl (fun (acc : State × Except (Bool × Nat × PageFault) Command) y =>
      match acc.2 with
      | .error _ => acc
      | .ok e => dispChoice { x with e := e } c y false acc.1) (s, .ok x.e)).2 with
  | .error f => some f
  | .ok _ => none

/-- A choice done: the next one, of the next token after the last of K. -/
def Command.nextChoice (e : Command) : Command :=
  { e with drawn := e.drawn + 1, cursor := (e.drawn + 1) / (dispOf e.descs).k }

/-- The end of a die's placing (R181): the inverse records above the filled slots, then the rows that its experts await. -/
def dispEnd (x : Job) (c : Dispatch) (s : State) : State :=
  let z := zeroInverses x c s
  match (if x.e.dropped then .ok () else z.2) with
  | .error f => stopRoute x.die x.e true f.1 f.2 z.1
  | .ok _ => checkDisps x.e.launch c.id (zeroMissing x.e.launch c.id (putRoute x.die { x.e with finished := true } z.1))

/-- RTDISP from a choice on (R181): a token that meets a fault is left as a whole (R167), and one whose rows find no room in
a ring waits (R338). -/
def dispFrom (x : Job) (c : Dispatch) : List (Nat × Nat × Nat × Nat × Nat) → State → State
  | [], s => dispEnd x c s
  | y :: ys, s =>
    let k := (dispOf x.e.descs).k
    let first := x.e.drawn % k == 0 && x.e.got == []
    match (if first then tokenFault x c ((y :: ys).take k) s else none) with
    | some f => stopRoute x.die x.e f.1 f.2.1 f.2.2 s
    | none =>
      let c := if first then { c with drops := x.e.count } else c
      let s := if first then adjCtx x.die x.e.launch c.id (fun c => { c with drops := x.e.count }) s else s
      let r := if x.e.got == [] then dispChoice x c y true s else dispSend x c y x.e.got x.e s
      match r.2 with
      | .error f => stopRoute x.die (restartToken c x.e) f.1 f.2.1 f.2.2 r.1
      | .ok e =>
        if e.got != [] then putRoute x.die e r.1
        else
          let e := e.nextChoice
          dispFrom { x with e := e } c ys (putRoute x.die e r.1)

/-- A cancelled RTDISP drops its choices from one on (R184). -/
def cancelFrom (x : Job) (c : Dispatch) : List (Nat × Nat × Nat × Nat × Nat) → State → State
  | [], s => dispEnd x c s
  | y :: ys, s =>
    let r := if x.e.got == [] then cancelChoice x c y s
      else sendRow x (expPkg (c.table.getD y.2.2.1 0)) (y.1 * 8 + y.2.1) x.e.got x.e s
    if r.2.got != [] then putRoute x.die r.2 r.1
    else cancelFrom { x with e := r.2.nextChoice } c ys (putRoute x.die r.2.nextChoice r.1)

/-- The rows that other packages' choices place at home, in a replay (R417): the bytes of the log are written where the
entry says. -/
def replayRows (x : Job) (c : Dispatch) : Nat → State → State
  | 0, s => s
  | n + 1, s =>
    if homedDone s x.die x.e.launch c.id then s
    else
      let r := replayInput (x.inputAt s) 8 s
      match r.2 with
      | none => goFatal x.e.launch 0x71 x.e.strand s
      | some e =>
        let w := wordsOf (e.bytes.take 16)
        let ex := w.getD 2 0
        let slot := w.getD 3 0
        let en := c.table.getD ex 0
        let s := (x.agent.write .global (expBuf en + slot * (dispOf c.desc).rowBytes) (e.bytes.drop 20) r.1).1
        let s := (x.agent.write .global (expInv en + 4 * slot)
          (leBytes 4 (inverseWord (w.getD 0 0) (w.getD 1 0) ((ofLeBytes ((e.bytes.drop 16).take 4))))) s).1
        replayRows x c n (noteRow x.e.launch c ex slot s)

/-- RTDISP at work. -/
def runDisp (x : Job) (s : State) : State :=
  match (if x.e.err == 12 then none else findCtx s x.die x.e.launch x.e.value.toNat) with
  | none => completeRoute x.die x.e 0 s
  | some c =>
    let todo := (placementOf s c).drop x.e.drawn
    let s := if x.e.dropped then cancelFrom x c todo s else dispFrom x c todo s
    if replaying s x.e.launch then checkDisps x.e.launch c.id (replayRows x c (c.demand.foldl (· + ·) 0 + 1) s) else s

/-! RTCOMB (R182, R184). -/

/-- The exact quotient of two values, with a sticky last bit. -/
def fpDiv (a b : Fp) : Fp × Flags :=
  match a, b with
  | .nan, _ => (.nan, 0)
  | _, .nan => (.nan, 0)
  | .inf _, .inf _ => (.nan, flagNV)
  | .inf n, .fin k _ _ => (.inf (n != k), 0)
  | .fin n _ _, .inf k => (.fin (n != k) 0 0, 0)
  | .fin n m e, .fin k p f =>
    if p == 0 then (.nan, flagNV)
    else if m == 0 then (.fin (n != k) 0 0, 0)
    else
      let l := Nat.log2 p + 80
      (stickyFin (n != k) (m * 2 ^ l / p) (m * 2 ^ l % p == 0) (e - f - l), 0)

/-- Whether a value is a zero. -/
def fpZero : Fp → Bool
  | .fin _ m _ => m == 0
  | _ => false

/-- A term of a combined row: its gate, and its elements; none where it is a NaN (R182, R184). -/
structure CombTerm where
  gate : Fp
  row : Option (List Fp)

/-- The gates of a token's terms (R182): divided by their sum where the slot says RENORM. -/
def combGates (renorm : Bool) (gs : List Fp) : List Fp × Flags :=
  if !renorm then (gs, 0)
  else
    match gs with
    | [] => ([], 0)
    | g :: rest =>
      let sum := rest.foldl (fun (acc : Fp × Flags) y =>
        let r := round32 (Fp.add acc.1 y)
        (read32 r.1, acc.2 ||| r.2)) (g, 0)
      if fpZero sum.1 then (gs.map fun _ => .fin false 0 0, sum.2)
      else gs.foldl (fun (acc : List Fp × Flags) y =>
        let r := round32 (fpDiv y sum.1)
        (acc.1 ++ [read32 r.1], acc.2 ||| r.2)) ([], sum.2)

/-- One element of a combined row before its last rounding (R182). -/
def combElement (ts : List CombTerm) (e : Nat) : Fp × Flags :=
  let r := ts.foldl (fun (acc : Option Fp × Flags) t =>
    let x := match t.row with
      | some xs => xs.getD e .nan
      | none => .nan
    let y := match acc.1 with
      | none => round32 (Fp.mul t.gate x)
      | some a => round32 (Fp.fma t.gate x a)
    (some (read32 y.1), acc.2 ||| y.2)) (none, 0)
  (r.1.getD (.fin false 0 0), r.2)

/-- The manifest and gate of each choice of a token. -/
def combRead (x : Job) (d : DispDesc) (i : Nat) (s : State) :
    State × Except (Nat × PageFault) (List (Nat × Nat) × Nat) :=
  (upTo d.k).foldl (fun acc c =>
    match acc.2 with
    | .error f => (acc.1, .error f)
    | .ok (ms, bad) =>
      let m := x.read .global ((d.manifest + (8 * i + c) * 8 : Nat) : Int) 8 acc.1
      match m.2 with
      | .error f => (m.1, .error f)
      | .ok mb =>
        let g := x.read .global ((d.gates + 32 * i + 4 * c : Nat) : Int) 4 m.1
        (g.1, g.2.map fun gb => (ms ++ [(ofLeBytes mb.bytes, ofLeBytes gb.bytes)], max bad (max mb.detail gb.detail))))
    (s, .ok ([], 0))

/-- Whether a manifest record names a row (R182): not malformed. -/
def combValid (table : List Nat) (nexp m : Nat) : Bool :=
  m / 2 ^ 49 == 0 && bitsOf m 11 0 < nexp && bitsOf m 38 19 < expCap (table.getD (bitsOf m 11 0) 0)

/-- The rows of a token that lie at other packages: the choice's rank, package and address. -/
def combAway (s : State) (d : DispDesc) (table : List Nat) (ms : List (Nat × Nat)) : List (Nat × Nat × Nat) :=
  ms.zipIdx.filterMap fun y =>
    let m := y.1.1
    if bitOf m 42 || !combValid table d.nexp m || bitsOf m 18 12 == s.self then none
    else some (y.2, bitsOf m 18 12, expBuf (table.getD (bitsOf m 11 0) 0) + bitsOf m 38 19 * d.rowBytes)

/-- The elements of a row, exactly: RTCOMB reads rows by the element format alone (R40, R182). -/
def rowElements (f : Slot) (bytes : List Byte) : List Fp :=
  let w := f.efmt.bits / 8
  (upTo (bytes.length / w)).map fun i => f.efmt.value (ofLeBytes ((bytes.drop (w * i)).take w))

/-- The bytes of a combined row, with flags; under SR each element draws (R182). -/
def combRow (f : Slot) (n : Nat) (draw : Nat → Nat) (ts : List CombTerm) : List Byte × Flags :=
  (upTo n).foldl (fun (acc : List Byte × Flags) e =>
    let r := combElement ts e
    let w := f.store (if f.rnd == .sr then draw e else 0) r.1
    (acc.1 ++ leBytes (f.efmt.bits / 8) w.1, acc.2 ||| r.2 ||| w.2)) ([], 0)

/-- The terms of a token, in rank order, and the detail they meet (R182, R184): rows of this package are read, rows of
others have come in `got` (an empty one was lost). (log 66 DEDUCED) -/
def combTerms (x : Job) (f : Slot) (d : DispDesc) (table : List Nat) (gates : List Fp) (ms : List (Nat × Nat)) (s : State) :
    State × Except (Nat × PageFault) (List CombTerm × Nat) :=
  let live := ms.zipIdx.filter fun y => !bitOf y.1.1 42
  (live.zip gates).foldl (fun acc y =>
    match acc.2 with
    | .error e => (acc.1, .error e)
    | .ok (ts, det) =>
      let m := y.1.1.1
      if !combValid table d.nexp m then (acc.1, .ok (ts ++ [⟨y.2, none⟩], max det 9))
      else if bitsOf m 18 12 == acc.1.self then
        let a := expBuf (table.getD (bitsOf m 11 0) 0) + bitsOf m 38 19 * d.rowBytes
        let r := x.read .global ((a : Nat) : Int) d.rowBytes acc.1
        (r.1, r.2.map fun b => (ts ++ [⟨y.2, some (rowElements f b.bytes)⟩], max det b.detail))
      else
        match Map.find y.1.2 x.e.got with
        | some bs => if bs == [] then (acc.1, .ok (ts ++ [⟨y.2, none⟩], max det 8))
          else (acc.1, .ok (ts ++ [⟨y.2, some (rowElements f bs)⟩], det))
        | none => (acc.1, .ok (ts ++ [⟨y.2, none⟩], max det 8))) (s, .ok ([], 0))

/-- The gets for a token's rows at other packages: rank, package, address, offset in the row, length (R182, R338). -/
def combPieces (d : DispDesc) (away : List (Nat × Nat × Nat)) : List (Nat × Nat × Nat × Nat × Nat) :=
  away.flatMap fun y =>
    let ps := gatherPieces ((upTo (d.rowBytes / 32)).flatMap fun k => splitPages (y.2.2 + 32 * k) (List.replicate 32 0))
    (ps.foldl (fun (acc : List (Nat × Nat × Nat × Nat × Nat) × Nat) p =>
      (acc.1 ++ [(y.1, y.2.1, p.1, acc.2, p.2.length)], acc.2 + p.2.length)) ([], 0)).1

/-- Gets of a token sent while the bulk rings take them; `drawn` counts those that have been sent. -/
def combGets (x : Job) : List (Nat × Nat × Nat × Nat × Nat) → Command → State → State × Command
  | [], e, s => (s, e)
  | (rank, q, a, off, n) :: rest, e, s =>
    if ringRoom s q false then
      let i := s.newId
      let r := { x.entry i.1 q 0 a n (rank * 2 ^ 20 + off) with tile := routeQueue x.die }
      combGets x rest { e with wait := e.wait ++ [i.1], drawn := e.drawn + 1 } (postRemote r x.la.det false 0 [] i.2)
    else (s, e)

/-- RTCOMB from its cursor on, `n` tokens (R182). A token that needs rows of other packages asks for them and waits. -/
def combFrom (f : Slot) (table : List Nat) : Nat → Job → State → State
  | 0, x, s =>
    let s := putRoute x.die { x.e with finished := true } s
    s.later (.rtcombCompletion x.die x.e.launch x.e.value.toNat)
  | n + 1, x, s =>
    let e := x.e
    let d := dispOf e.descs
    let i := e.cursor
    let r := combRead x d i s
    match r.2 with
    | .error q => stopRoute x.die e false q.1 q.2 r.1
    | .ok (ms, bad) =>
      let away := combAway r.1 d table ms
      let pieces := if replaying r.1 e.launch then [] else combPieces d away
      let e := if e.drawn == 0 then { e with got := away.map fun y => (y.1, poisonBytes d.rowBytes) } else e
      let g := combGets x (pieces.drop e.drawn) e r.1
      let r := (g.1, r.2)
      let e := g.2
      if e.drawn < pieces.length then putRoute x.die e r.1
      else if e.wait != [] then putRoute x.die e r.1
      else
        let rp := if replaying r.1 e.launch then
            away.foldl (fun (acc : State × Option Command) y =>
              match acc.2 with
              | none => acc
              | some e =>
                let l := replayInput (x.inputAt acc.1) 8 acc.1
                (l.1, l.2.map fun q => { e with got := Map.insert y.1 q.bytes e.got })) (r.1, some { e with got := [] })
          else (r.1, some e)
        match rp.2 with
        | none => goFatal e.launch 0x71 e.strand rp.1
        | some e =>
          let x := { x with e := e }
          let live := (ms.filter fun m => !bitOf m.1 42).map fun m => read32 (BitVec.ofNat 32 m.2)
          let gs := combGates f.renorm live
          let ts := combTerms x f d table gs.1 ms rp.1
          match ts.2 with
          | .error q => stopRoute x.die e false q.1 q.2 ts.1
          | .ok (terms, det) =>
            let k := d.rowBytes * 8 / f.efmt.bits
            let seed := x.la.seed.toNat
            let lane := match ts.1.strand e.strand with
              | some st => (threadId x.it st.inItem e.lane, (st.lanes.get e.lane).draw.toNat)
              | none => (0, 0)
            let row := combRow f k (fun j => (rngValue seed lane.1 ((lane.2 + j) % 2 ^ 64)).toNat) terms
            let w := x.agent.write .global (d.out + i * d.rowBytes) row.1 ts.1
            match w.2 with
            | .error q => stopRoute x.die e true q.1 q.2 w.1
            | .ok gone =>
              let s := if f.rnd == .sr then
                  w.1.adjStrand e.strand fun st => st.adjLane e.lane fun l => { l with draw := l.draw + BitVec.ofNat 64 k }
                else w.1
              let lost := det == 8 || det == 9
              let e := ((e.note (max bad det) d.manifest).note (if gone then 4 else 0) d.out true)
              let e := { e with
                cursor := i + 1, drawn := 0, got := [], flags := e.flags ||| gs.2 ||| row.2
                count := if lost then e.count + 1 else e.count }
              combFrom f table n { x with e := e } (putRoute x.die e s)

/-- RTCOMB at work (R182). -/
def runComb (x : Job) (s : State) : State :=
  let d := dispOf x.e.descs
  match x.e.op with
  | .rtcomb _ _ _ _ slot _ =>
    match combFormat x.la slot.toNat with
    | none => s
    | some f =>
      let t := x.read .global ((d.exptab : Nat) : Int) (32 * d.nexp) s
      match t.2 with
      | .error q => stopRoute x.die x.e false q.1 q.2 t.1
      | .ok b =>
        let table := (upTo d.nexp).map fun i => ofLeBytes ((b.bytes.drop (32 * i)).take 32)
        combFrom f table (d.tokcnt - x.e.cursor) { x with e := x.e.note b.detail d.exptab } t.1
  | _ => s

/-! The engine of a die (R172). -/

/-- A routing command goes on. -/
def runRoute (x : Job) (s : State) : State :=
  if isCount x.e.op then runCount x s else if isDisp x.e.op then runDisp x s else runComb x s

/-- Whether a routing command may start: the commands of one dispatch run in their issue order, and RTDISP waits for its
RTCOUNT (R172, R183). -/
def routeMayStart (s : State) (die : Nat) (e : Command) : Bool :=
  let q := (s.die die).routes
  mayStart q e && !((q.takeWhile fun x => x.id != e.id).any fun x => x.launch == e.launch && x.value == e.value) &&
    (!isDisp e.op || e.err == 12 || match findCtx s die e.launch e.value.toNat with
      | some c => c.counted
      | none => true)

/-- The routing engine of a die: commands that wait go on, and the first that may start starts. -/
def startRoute (die : Nat) (s : State) : State :=
  let goes (e : Command) : Bool :=
    e.state == .active && !e.finished && e.fault.isNone && !isCount e.op && (!e.dropped || isDisp e.op)
  let s := ((s.die die).routes.filter goes).foldl
    (fun s e =>
      match (s.die die).routes.find? fun y => y.id == e.id with
      | some e => match jobOf e s with
        | some x => runRoute x s
        | none => s
      | none => s) s
  let s := wakeGuards (s.die die).routes s
  match (s.die die).routes.find? (routeMayStart s die) with
  | none => s
  | some e =>
    let e := { e with state := .active, started := true, finished := false }
    match jobOf e s with
    | some x => (runRoute x (putRoute die e s)).later (.copyEntryStart (routeQueue die))
    | none => s

/-- The answer of an entry of a routing command (R181, R182, R184). -/
def answerRoute (r : Remote) (f : Option Flit) (s : State) : State :=
  let s := endRemote r.id s
  let die := r.tile - 768
  match (s.die die).routes.find? fun e => some e.id == r.command with
  | none => s
  | some e =>
    let addr := (r.lanes.map (·.addr)).headD 0
    let fault := r.homes.any fun h => h.2.isNone
    let detail := if fault then 10 else
      match f with
      | none => 3
      | some f => f.arg
    let e := { e with wait := e.wait.filter (· != r.id) }
    if r.op == 0 then
      let rank := r.pend / 2 ^ 20
      let off := r.pend % 2 ^ 20
      let lost := detail == 3
      let bytes := match f with
        | some f => if fault || f.arg == 6 then poisonBytes r.n else f.data.take r.n
        | none => []
      let old := (Map.find rank e.got).getD []
      let got := if lost || old == [] then [] else old.take off ++ bytes ++ old.drop (off + bytes.length)
      let e := { (e.note (if lost then 8 else detail) addr) with got := Map.insert rank got e.got }
      let s := match jobOf e s with
        | some x => captureInput (x.inputAt s) 8 0 bytes s
        | none => s
      let s := (putRoute die e s).later (.copyEntryStart (routeQueue die))
      if e.dropped && e.wait == [] then s.later (.copyCompletion (routeQueue die) e.id) else s
    else
      let d := dispOf e.descs
      let e := e.note detail addr true
      let s := putRoute die e s
      let s := if detail == 3 then
          match jobOf e s, findCtx s die e.launch e.value.toNat with
          | some x, some c =>
            match (placementOf s c).find? fun y => y.1 * 8 + y.2.1 == r.pend with
            | some y =>
              (x.agent.write .global (manifestAt d y.1 y.2.1)
                (leBytes 8 (manifestWord s.self y.2.1 5 y.2.2.1 (expPkg (c.table.getD y.2.2.1 0)) 0 false)) s).1
            | none => s
          | _, _ => s
        else s
      checkDisps e.launch e.value.toNat s

/-- COUNT_VECTOR_ARRIVAL (R180): the vector of a participant; launches match by LKEY (R366). (log 65 DEDUCED) -/
def execCountVectorArrival (launch id package : Nat) (sums : List Nat) (crc k nexp rowu : Nat) (s : State) :
    Host.Outcome State Fault Refusal :=
  match s.launches.find? fun x => x.2.lkey == launch && bitOf x.2.pkgmask package with
  | none => .next s
  | some (h, _) =>
    let v : Vector := ⟨package, sums, crc, k, nexp, rowu⟩
    let s := noteVector h id v s
    let s := (openCtxs s h id).foldl (fun s y =>
      match countCommand s y.1 h id with
      | none => s
      | some e => match jobOf e s with
        | some x => captureInput (x.inputAt s) 7 0 v.bytes s
        | none => s) s
    .next (exchange h id s)

/-- ROUTING_ROW_ARRIVAL (R181): a row and its inverse record are written at the home, in the ASID of the launch; a
row that its source cancelled comes empty, and its inverse record is 0 (R184). -/
def execRoutingRowArrival (launch id package rank token expert slot : Nat) (row : List Byte) (s : State) :
    Host.Outcome State Fault Refusal :=
  match s.launches.find? fun x => x.2.lkey == launch && bitOf x.2.pkgmask package with
  | none => .next s
  | some (h, la) =>
    match (dispatchCtxs s h id).find? fun y => y.2.ready && homeDie la.diemask (y.2.table.getD expert 0) == y.1 with
    | none => .next s
    | some (die, c) =>
      let en := c.table.getD expert 0
      let job := (dispCommand s die h id).bind fun e => jobOf e s
      let g := la.agent (match job with
        | some x => x.it.tile
        | none => la.clbase * 4)
      let s := (g.write .global (expBuf en + slot * row.length) row s).1
      let s := (g.write .global (expInv en + 4 * slot) (leBytes 4 (if row == [] then 0 else inverseWord package token rank)) s).1
      let s := match job with
        | some x => captureInput (x.inputAt s) 8 0
            (leBytes 4 package ++ leBytes 4 token ++ leBytes 4 expert ++ leBytes 4 slot ++ leBytes 4 rank ++ row) s
        | none => s
      .next (checkDisps h id (noteRow h c expert slot s))

/-- RTDISP_COMPLETION (R181): every row sent is acknowledged and every homed row written; the context closes (R172). -/
def execRtdispCompletion (die launch id : Nat) (s : State) : Host.Outcome State Fault Refusal :=
  match dispCommand s die launch id with
  | none => .next s
  | some e =>
    if e.finished && e.wait == [] && homedDone s die launch id then
      .next (closeCtx die launch id (completeRoute die e e.count s))
    else .next s

/-- RTCOMB_COMPLETION (R182): the flags reach the elected strand's FSTAT. -/
def execRtcombCompletion (die launch id : Nat) (s : State) : Host.Outcome State Fault Refusal :=
  match (s.die die).routes.find? fun e =>
      !isCount e.op && !isDisp e.op && e.launch == launch && e.value.toNat == id && e.finished && e.state == .active with
  | none => .next s
  | some e =>
    let s := match Map.find e.item s.items with
      | some it => match electedKey s it with
        | some k => s.adjStrand k fun st => { st with fstat := st.fstat ||| e.flags }
        | none => s
      | none => s
    .next (completeRoute die e e.count s)

end Sys2Proof.Machine
end

