-- ==== Sys2Proof/Machine/EngineEvents.lean ====
section
/-! DEFINITION. The events that the copy engines and the routing engines share (07_copy_and_routing.md R144, R147, R167):
an engine takes up work, a command completes, a command stops at a translation fault. A queue number below 768 is a
tile's copy queue, 768 + die a routing engine's. -/

namespace Sys2Proof.Machine

/-- COPY_ENTRY_START (R144, R172): the engine of a queue takes up the commands that may go on or start. -/
def execCopyEntryStart (n : Nat) (s : State) : Host.Outcome State Fault Refusal :=
  .next (if n < 768 then startCopy n s else if n < 776 then startRoute (n - 768) s else s)

/-- A routing command that was cancelled at its fault (R167, R184): RTDISP drops its remaining choices, the others end once
their gets have been answered. A routing engine's command goes by its own number. -/
def cancelRoute (die id : Nat) (s : State) : State :=
  match (s.die die).routes.find? fun e => e.id == id && e.dropped && !e.finished && e.state == .active with
  | none => s
  | some e =>
    if isDisp e.op then
      match jobOf e s with
      | some x => runRoute x s
      | none => s
    else if e.wait == [] then completeRoute die e e.count s
    else s

/-- COPY_COMPLETION (R147). (log 128 DESIGN CHOICE) -/
def execCopyCompletion (n no : Nat) (s : State) : Host.Outcome State Fault Refusal :=
  .next (if n < 768 then completeCopy n no s else cancelRoute (n - 768) no s)

/-- ENGINE_TRANSLATION_FAULT (R167): the command is HELD, and ENGINE_PAGE is raised for the oldest HELD of its item. -/
def execEngineTranslationFault (n no : Nat) (s : State) : Host.Outcome State Fault Refusal := .next (holdCommand n no s)

end Sys2Proof.Machine
end

