-- ==== Sys2Proof/Machine/FabricEvents.lean ====
section
/-! DEFINITION. The events of the fabric unit (12_fabric.md R326 to R355): slots and tides, what a port engine sends, what
a flit does at its receiver, retraining, removal, formation and joining. -/

namespace Sys2Proof.Machine

/-! Rails that go down (R347, R349, R350). -/

/-- A rail's entries and unacknowledged flits after it went down (R350). On the gang calendar other rails take them; on the
spread calendar every entry for a peer that is met no more is ferried, with what the retry buffer holds of it, but for those
of deterministic launches and those ferried here before, which wait. -/
def rerouteRail (rail : Nat) (s : State) : State :=
  let x := s.rail rail
  let free (e : VqEntry) : VqEntry := if e.claimed == some rail then { e with claimed := none } else e
  let s := { s with fabric := { s.fabric with
    peers := s.fabric.peers.map fun y => (y.1, { y.2 with queue := y.2.queue.map free }) } }
  if calendarOf s == 1 then
    x.retry.foldl (fun s f =>
      match (upTo 16).find? fun r => r != rail && railUp s r with
      | some r => (s.setRail r { s.rail r with retry := (s.rail r).retry ++ [{ f with age := 3 }] }).setRail rail
          { s.rail rail with retry := (s.rail rail).retry.erase f }
      | none => s) s
  else if calendarOf s == 0 then
    ((upTo (podSize s)).filter fun q => pairDown s q).foldl (fun s q =>
      ((s.peer q).queue.filter (!·.det)).foldl (fun s e => rerouteEntry false e s) s) s
  else s

/-- A rail goes down and trains (R347, R350): it returns within 3 tides or stays down. -/
def railDown (rail : Nat) (s : State) : State :=
  let x := (s.rail rail).count 16
  rerouteRail rail (s.setRail rail
    { x.setState 1 with fails := [], stall := false, retrainUntil := some (s.fabric.tidecnt.toNat + 3) })

/-! Slots (R329 to R331, R348, R349, R351). -/

/-- What an ELM-9640 advertises (R228, R355): every member with both widths, but for the FP members of width 64. -/
def ownCapability : Capability :=
  ⟨1, BitVec.ofNat 64 ((upTo 15).foldl (fun m k => m + 2 ^ (2 * k) + (if 10 ≤ k && k ≤ 12 then 0 else 2 ^ (2 * k + 1))) 0)⟩

/-- This package's advertisement to a member (R338, R355). -/
def advertise (q : Nat) (s : State) : State :=
  sendControl q ctlCapability { seq := ownCapability.revision, ts := ownCapability.mask.toNat } s

/-- A peer that was declared removed or never was a member becomes one (R352): nothing of it is known but its capability, and
it is told this package's. -/
def newMember (q : Nat) (cap : Capability) (s : State) : State :=
  advertise q (s.setPeer q { Peer.empty with member := true, revision := cap.revision, mask := cap.mask })

/-- What a tide boundary does for one peer: the missed tides are counted (R351), an agreed key is switched to (R348), an
old key is retired, and the ferried entries of the tide are forgotten (R341). -/
def Peer.turnTide (tide : Nat) (p : Peer) : Peer :=
  let p := { p with
    missed := if p.heard then 0 else if p.met then p.missed + 1 else p.missed
    met := false, heard := false, ferried := []
    retire := match p.retire with
      | some t => if t ≤ tide then none else some t
      | none => none }
  if p.keyNext then
    { p with keySlot := 1 - p.keySlot, keyNext := false, rekeying := false, counters := [], marked := upTo 16 }
  else p

/-- The start of a tide: TIDECNT, a new master, packages that join, lock, keys, removals and timeouts. -/
def tideBoundary (s : State) : State :=
  let f := s.fabric
  let tide := f.tidecnt + 1
  let s := { s with fabric := { f with
    tidecnt := tide, master := f.nextMaster.getD f.master, nextMaster := none, joining := []
    locked := f.locked || f.relock, relock := false
    lockErrs := if f.relock then 0 else f.lockErrs
    peers := f.peers.map fun x => (x.1, x.2.turnTide tide.toNat)
    rails := f.rails.map fun x =>
      (x.1,
        if f.relock && x.2.state == 4 then x.2.setState (if bitsOf x.2.stat.toNat 12 8 == 0x1F then 2 else 3)
        else match x.2.retrainUntil with
          | some t => if x.2.state == 1 && t ≤ tide.toNat then { x.2.setState 0 with retrainUntil := none } else x.2
          | none => x.2) } }
  let s := f.joining.foldl (fun s j => newMember j.1 j.2 s) s
  let s := (s.fabric.peers.filter fun x => x.2.member && !x.2.removed && remTo s ≤ x.2.missed).foldl
    (fun s x => s.later (.peerRemoved x.1)) s
  (s.fabric.remotes.filter fun r =>
      match r.since with
      | some t => t + remTo s ≤ tide.toNat
      | none => false).foldl (fun s r => s.later (.remoteTimeout r.id)) s

/-- The meetings of a slot begin: each peer that the calendar joins is met, and a failing data lane is replaced by the
spare, which costs the rail this meeting; a second one takes the rail down (R349). -/
def startMeetings (s : State) : State :=
  (upTo 16).foldl (fun s r =>
    match peerAt s s.fabric.slotno r with
    | none => s
    | some q =>
      let tide := s.fabric.tidecnt.toNat
      let live := (livePeer s s.fabric.slotno r).isSome
      let s := s.adjPeer q fun p => { p with met := true, lastMet := if live then tide else p.lastMet }
      let x := s.rail r
      match (if railUp s r then x.weak else []) with
      | [] => s
      | lane :: rest =>
        if x.state == 2 then
          s.setRail r { ({ x with stat := BitVec.ofNat 64 (putBits x.stat.toNat 12 8 lane) }.setState 3) with
            weak := rest, stall := true }
        else railDown r (s.setRail r { x with weak := rest })) s

/-- SLOT_BOUNDARY (R329): the next slot begins and the rails are retuned; slot 0 begins a tide. -/
def execSlotBoundary (s : State) : Host.Outcome State Fault Refusal :=
  if !s.fabric.inPod then .next s
  else
    let t := (s.fabric.slotno + 1) % slotsOf s
    let s := { s with fabric := { s.fabric with
      slotno := t, guard := false, rails := s.fabric.rails.map fun x => (x.1, { x.2 with used := 0, stall := false }) } }
    .next (startMeetings (if t == 0 then tideBoundary s else s))

/-- The measurement of the master's phase in a meeting counts towards the loss of lock (R330): a fourth meeting in error
silences every rail. -/
def judgeLock (s : State) : State :=
  let f := s.fabric
  match f.phaseBad with
  | none => s
  | some bad =>
    let n := if bad then f.lockErrs + 1 else 0
    let lost := 4 ≤ n && f.locked
    { s with fabric := { f with
      phaseBad := none, lockErrs := n, locked := f.locked && !lost
      rails := if lost then f.rails.map fun x => (x.1, if railUp s x.1 then x.2.setState 4 else x.2) else f.rails } }

/-- SLOT_GUARD (R329, R347): no flit is sent until the next slot; a flit that the end of a second meeting finds without an
ACK is to be sent again. -/
def execSlotGuard (s : State) : Host.Outcome State Fault Refusal :=
  if !s.fabric.inPod || s.fabric.guard then .next s
  else
    let t := s.fabric.slotno
    let s' := { s with fabric := { s.fabric with
      guard := true
      rails := s.fabric.rails.map fun x =>
        match livePeer s t x.1 with
        | some q => (x.1, { x.2 with retry := x.2.retry.map fun f => if f.peer == q && f.age < 2 then { f with age := f.age + 1 } else f })
        | none => x } }
    .next (judgeLock s')

/-! Sending (R339, R340, R344, R346 to R348). -/

/-- A flit with its header for a peer on a rail (R344): CTR, key slot, FINAL, the time in the slot at which it starts as
TPHASE, ACK, and NAK with the first CTR that is still to be named. (log 139 DEDUCED) -/
def headed (rail q : Nat) (f : Flit) (s : State) : Flit :=
  let p := s.peer q
  let naks := (Map.find rail p.nak).getD []
  { f with
    ctr := Table.get 0 rail p.counters, src := s.self, dst := q, final := if f.ferry then f.final else q, ks := p.keySlot
    ack := (match naks with
      | c :: _ => c
      | [] => Table.get 0 rail p.nextIn + 2 ^ 16 - 1) % 2 ^ 16
    nak := naks != []
    tphase := (s.rail rail).used * 4 / 25 % 2 ^ 19 }

/-- A flit of an entry sent (R346 to R348): its counter is used up, its time taken, it is kept until acknowledged unless it is
idle, and the flit that reaches REKEYAT asks for a new key. -/
def emit (rail q entry : Nat) (f : Flit) (s : State) : State :=
  let p := s.peer q
  let ctr := Table.get 0 rail p.counters
  let x := s.rail rail
  let h := headed rail q f s
  let s := s.setRail rail { x with
    used := x.used + flitTime s, retry := if h.type == 0 then x.retry else x.retry ++ [⟨q, 0, entry, h⟩] }
  let naks := ((Map.find rail p.nak).getD []).drop 1
  let s := s.adjPeer q fun p => { p with
    counters := Table.put 0 rail (ctr + 1) p.counters
    nak := if naks == [] then Map.erase rail p.nak else Map.insert rail naks p.nak }
  if bitsOf s.fabric.rekeyat.toNat 39 0 ≤ ctr && !p.rekeying && !p.keyNext then
    sendControl q ctlKeyAsk {} (s.adjPeer q fun p => { p with rekeying := true })
  else s

/-- Engines that wait for room in a ring go on (R338). -/
def wakeEngines (s : State) : State :=
  let waits (q : List Command) : Bool := q.any fun e => e.state == .active && !e.finished && e.fault.isNone
  let s := (s.tiles.filter fun x => waits x.2.copies).foldl (fun s x => s.later (.copyEntryStart x.1)) s
  (s.dies.filter fun x => waits x.2.routes).foldl (fun s x => s.later (.copyEntryStart (768 + x.1))) s

/-- The next flit of an entry sent on a rail, which claims it; the first transmission of an access starts its time (R339,
R340, R351). -/
def sendEntry (rail q : Nat) (e : VqEntry) (s : State) : State :=
  let f := { e.nth e.sent with ferry := e.ferry, final := e.final }
  let s := emit rail q e.id f (adjEntry e.id (fun e => { e with sent := e.sent + 1, claimed := some rail }) s)
  adjRemote e.id (fun r => if r.since.isNone then { r with since := some s.fabric.tidecnt.toNat } else r) s

/-- What the port engine of a rail sends next to its peer, in the order of R339. -/
def sendNext (rail q : Nat) (s : State) : State :=
  let p := s.peer q
  let x := s.rail rail
  let ring := ringEntries s q true ++ ringEntries s q false
  let open_ (e : VqEntry) : Bool := e.ready && e.sent < e.flits
  if p.marked.contains rail then
    emit rail q 0 { type := 6 } (s.adjPeer q fun p => { p with marked := p.marked.filter (· != rail) })
  else
    match x.retry.find? fun f => f.peer == q && 2 ≤ f.age with
    | some f =>
      emit rail q f.entry f.flit (s.setRail rail ({ x with retry := x.retry.erase f }.count 32))
    | none =>
      if 512 ≤ x.retry.length then emit rail q 0 {} s
      else
        match ring.find? fun e => open_ e && e.claimed == some rail with
        | some e => sendEntry rail q e s
        | none =>
          match (if railClosing s rail then none else ring.find? fun e => open_ e && e.claimed.isNone) with
          | some e => sendEntry rail q e s
          | none => emit rail q 0 {} s

/-- PORT_ENGINE_SEND (R339): one flit to the joined peer, where it completes before the guard; no counter value is used
beyond 2^40 (R348). -/
def execPortEngineSend (rail : Nat) (s : State) : Host.Outcome State Fault Refusal :=
  match joined s rail with
  | none => .next s
  | some q =>
    if !flitFits s rail || (s.rail rail).stall || 2 ^ 40 ≤ Table.get 0 rail (s.peer q).counters then .next s
    else .next (sendNext rail q s)

/-! Receiving (R330, R344, R347, R348). -/

/-- Whether a receiver takes flits under a key slot of a peer (R348). -/
def Peer.takesKey (p : Peer) (ks : Nat) : Bool := ks == p.rxSlot || p.rxNext || p.retire.isSome

/-- What a flit of the current key says of the flits before it on its rail (R344, R347): those that are missing are named in
NAKs, as those that fail are. (log 140 DESIGN CHOICE) -/
def Peer.inOrder (p : Peer) (rail ctr : Nat) : Peer :=
  let next := Table.get 0 rail p.nextIn
  let naks := (Map.find rail p.nak).getD []
  let lost := ((upTo (min 512 (ctr - next))).map fun i => ctr - min 512 (ctr - next) + i).filter fun c => !naks.contains c
  let p := { p with nextIn := Table.put 0 rail (max next (ctr + 1)) p.nextIn }
  if lost == [] then p else { p with nak := Map.insert rail (naks ++ lost) p.nak }

/-- A flit that authenticates (R347, R348, R351): the peer is heard, and the first under a new key starts the retiring of
the old one. -/
def Peer.hear (p : Peer) (rail tide : Nat) (f : Flit) : Peer :=
  let p := { p with heard := true, missed := 0 }
  if f.ks == p.rxSlot then p.inOrder rail f.ctr
  else if p.rxNext && p.retire.isNone then
    { p with rxSlot := f.ks, rxNext := false, retire := some (tide + 2), nextIn := [(rail, f.ctr + 1)], nak := [] }
  else p

/-- A flit that fails authentication (R347): it is named in a NAK. -/
def Peer.reject (p : Peer) (rail : Nat) (f : Flit) : Peer :=
  { p with
    nak := Map.insert rail ((Map.find rail p.nak).getD [] ++ [f.ctr]) p.nak
    nextIn := if f.ctr == Table.get 0 rail p.nextIn then Table.put 0 rail (f.ctr + 1) p.nextIn else p.nextIn }

/-- A retry buffer after the ACK and NAK of a flit (R344, R347): what ACK covers is let go, but for what a NAK has named, and
the flit that this one's NAK names is to be sent again. (log 72 DEDUCED) -/
def takeAck (q : Nat) (f : Flit) (r : List RetryFlit) : List RetryFlit :=
  let late (c : Nat) : Nat := (f.ack + 2 ^ 16 - c % 2 ^ 16) % 2 ^ 16
  (r.filter fun x => x.peer != q || x.age == 3 || 2 ^ 15 ≤ late x.flit.ctr || (f.nak && late x.flit.ctr == 0)).map fun x =>
    if x.peer == q && f.nak && late x.flit.ctr == 0 then { x with age := 3 } else x

/-- Entries that leave their ring with the acknowledgement of their last flit (R338). (log 141 DESIGN CHOICE) -/
def releaseBrief (ids : List Nat) (s : State) : State :=
  let held (id : Nat) : Bool := s.fabric.rails.any fun x => x.2.retry.any fun f => f.entry == id
  let gone := s.fabric.peers.flatMap fun p => (p.2.queue.filter fun e =>
    ids.contains e.id && e.brief && e.flits ≤ e.sent && !held e.id).map (·.id)
  if gone == [] then s else wakeEngines (gone.foldl (fun s id => dropEntry id s) s)

/-- A flit's first treatment: those that are discarded change only counters; the third in a row from one sender takes the
rail down. -/
def receive (rail type : Nat) (f : Flit) (act : State → State) (s : State) : State :=
  if !s.fabric.inPod || !railUp s rail then s
  else
    let x := s.rail rail
    let x := { x with weak := x.weak ++ f.weak.filter fun l => !x.weak.contains l && l != bitsOf x.stat.toNat 12 8 }
    let p := s.peer f.src
    if 8 ≤ f.type || f.dst != s.self then s.setRail rail (x.count 48)
    else if f.type != type || !isMember s f.src || f.src == s.self then s
    else if !f.authentic || !p.takesKey f.ks then
      let fails := Table.get 0 f.src x.fails + 1
      let s := s.setRail rail { x.count 48 with fails := Table.put 0 f.src fails x.fails }
      let s := s.adjPeer f.src fun p => p.reject rail f
      if 3 ≤ fails then railDown rail s else s
    else
      let retry := takeAck f.src f x.retry
      let s := s.setRail rail { x with fails := Table.put 0 f.src 0 x.fails, retry := retry }
      let s := releaseBrief ((x.retry.map (·.entry)).filter fun id => id != 0 && !retry.any fun y => y.entry == id) s
      let s := s.adjPeer f.src fun p => p.hear rail s.fabric.tidecnt.toNat f
      let err := if f.tphase ≤ f.rxphase then f.rxphase - f.tphase else f.tphase - f.rxphase
      let s := if f.src == s.fabric.master then
          { s with fabric := { s.fabric with phaseBad := some (32 < err || s.fabric.phaseBad == some true) } }
        else s
      act s

/-- A complete entry that this package is to pass on (R341): it enters the queue for its final target and is not ferried
again. -/
def passOn (f : Flit) (s : State) : State :=
  let n := s.newId
  pushEntry f.final
    { id := n.1, small := f.small, final := f.final, ferry := false, direct := true, det := true, brief := true, ready := true
      flit := { f with ferry := false }, sent := 0, claimed := none } n.2

/-- An answer ends its remote access (R338): for a strand, a copy engine or a routing engine. -/
def answerRemote (r : Remote) (f : Option Flit) (s : State) : State :=
  if r.command.isNone then answerStrand r f s else if r.tile < 768 || 3072 ≤ r.tile then answerCopy r f s else answerRoute r f s

/-- An answer that has arrived whole; one to an access that has ended is passed over. -/
def takeAnswer (f : Flit) (s : State) : State :=
  match (if flitOrigin f == s.self then findRemote s (f.cookie % 2 ^ 32) else none) with
  | some r => wakeEngines (answerRemote r (some f) s)
  | none => s

/-- What a whole entry does at its receiver. -/
def takeEntry (f : Flit) (s : State) : State :=
  if f.ferry && f.final != s.self then passOn f s
  else if f.op == 4 then takeAnswer f s
  else arriveRequest f s

/-- A flit of a bulk entry (R340): nothing of the entry is performed until all its flits are there. -/
def takePart (f : Flit) (s : State) : State :=
  let p := s.peer f.src
  let same (x : Flit) : Bool := x.cookie == f.cookie
  let parts := p.partials.filter fun x => !(same x && (x.type == 2) == (f.type == 2) && (f.type != 2 || x.addr == f.addr))
  let parts := parts ++ [f]
  match parts.find? fun x => same x && x.type != 2 with
  | none => s.setPeer f.src { p with partials := parts }
  | some h =>
    let data := (parts.filter fun x => same x && x.type == 2).sortedBy fun a b => a.addr ≤ b.addr
    let need := if h.op == 0 then 0 else (h.len + 223) / 224
    if data.length < need then s.setPeer f.src { p with partials := parts }
    else
      takeEntry { h with data := (data.flatMap (·.data)).take h.len }
        (s.setPeer f.src { p with partials := parts.filter fun x => !same x })

/-- IDLE_FLIT (R344). -/
def execIdleFlit (rail : Nat) (f : Flit) (s : State) : Host.Outcome State Fault Refusal := .next (receive rail 0 f id s)

/-- BULK_HEADER_FLIT (R345). -/
def execBulkHeaderFlit (rail : Nat) (f : Flit) (s : State) : Host.Outcome State Fault Refusal :=
  .next (receive rail 1 f (takePart f) s)

/-- BULK_DATA_FLIT (R340). -/
def execBulkDataFlit (rail : Nat) (f : Flit) (s : State) : Host.Outcome State Fault Refusal :=
  .next (receive rail 2 f (takePart f) s)

/-- SMALL_FLIT (R338). -/
def execSmallFlit (rail : Nat) (f : Flit) (s : State) : Host.Outcome State Fault Refusal :=
  .next (receive rail 3 f (takeEntry f) s)

/-- RESPONSE_FLIT (R358): the answer of a small entry, or the header of a get's answer. -/
def execResponseFlit (rail : Nat) (f : Flit) (s : State) : Host.Outcome State Fault Refusal :=
  .next (receive rail 4 f (if f.small then takeEntry f else takePart f) s)

/-- END_TO_END_ACK (R338). -/
def execEndToEndAck (rail : Nat) (f : Flit) (s : State) : Host.Outcome State Fault Refusal :=
  .next (receive rail 5 f (takeEntry { f with op := 4 }) s)

/-- MARKER_FLIT (R348): the first flit under a new key. -/
def execMarkerFlit (rail : Nat) (f : Flit) (s : State) : Host.Outcome State Fault Refusal := .next (receive rail 6 f id s)

/-! Control messages (R338, R348, R353 to R355). -/

/-- The answer of a target to a translation request (R353): a leaf enters the fabric translation cache, a fault, whose cause
stands in LEN, does not, and every access that waited for the page is released. -/
def takeTranslation (f : Flit) (s : State) : State :=
  let peer := flitOrigin f
  let leaf := (f.recs.head?).map (·.data)
  let s := match leaf with
    | none => s
    | some e =>
      let base := f.addr / 2 ^ szLog (leafSZ e) * 2 ^ szLog (leafSZ e)
      { s with fabric := { s.fabric with tcache := fabricTouch s.fabric.tcache ⟨peerAsid peer f.asid, base, leafSZ e, e⟩ } }
  let mine (r : Remote) : Bool := r.peer == peer && r.asid == f.asid && kindNumber r.kind r.priv == f.lanes
  let known (r : Remote) : List (Nat × Option Nat) :=
    (r.lanes.filter fun l => va57 l.addr / 4096 == f.addr / 4096 && (Map.find l.lane r.homes).isNone).map fun l => (l.lane, leaf)
  let ids := (s.fabric.remotes.filter fun r => mine r && known r != []).map (·.id)
  ids.foldl (fun s i =>
    releaseEntry i (adjRemote i (fun r => { r with homes := (known r).foldl (fun m x => Map.insert x.1 x.2 m) r.homes }) s)) s

/-- What a control message does at its receiver, by its kind. -/
def takeControl (f : Flit) (s : State) : State :=
  let from_ := flitOrigin f
  if f.ferry && f.final != s.self then passOn f s
  else if f.arg == ctlAnswer then takeTranslation f s
  else if f.arg == ctlCapability then
    s.adjPeer from_ fun p => { p with revision := f.seq, mask := BitVec.ofNat 64 f.ts }
  else if f.arg == ctlKeyReady then s.adjPeer from_ fun p => { p with keyNext := true }
  else if f.arg == ctlKeyAsk then sendControl from_ ctlKeyReady {} (s.adjPeer from_ fun p => { p with rxNext := true })
  else if f.arg == ctlInvalDone then
    let left := s.tlbi.waiting.erase from_
    let s := { s with tlbi := { s.tlbi with waiting := left } }
    if left == [] then s.later .tlbiDone else s
  else if f.arg == ctlTranslate then s.later (.translationRequest from_ f.asid f.addr f.lanes)
  else if f.arg == ctlInval then s.later (.fabricInvalidation from_ f.asid f.addr f.len)
  else if f.arg == ctlVector then
    s.later (.countVectorArrival f.addr f.ord from_ (wordsOf f.data) f.ts f.lanes f.len f.seq)
  else s

/-- CONTROL_FLIT. -/
def execControlFlit (rail : Nat) (f : Flit) (s : State) : Host.Outcome State Fault Refusal :=
  .next (receive rail 7 f (takeControl f) s)

/-- DSEQ_GATE_RELEASE (R342): a direct access that waited for its predecessor is performed. -/
def execDseqGateRelease (peer : Nat) (small : Bool) (s : State) : Host.Outcome State Fault Refusal :=
  let p := s.peer peer
  match p.held.find? fun h => h.small == small && h.dseq == some (p.dseqNext small) with
  | none => .next s
  | some f => .next (arriveRequest f (s.setPeer peer { p with held := p.held.erase f }))

/-- The kind of a translation request by its number. -/
def kindOf (n : Nat) : AccKind :=
  match n % 4 with
  | 0 => .load
  | 1 => .store
  | 2 => .atomic true
  | _ => .atomic false

/-- TRANSLATION_REQUEST (R353): the target walks its own tables as a global access of the kind, and answers with the leaf or
with the cause of a fault, in LEN; it remembers to whom it has sent translations (R354). -/
def execTranslationRequest (peer asid va kind : Nat) (s : State) : Host.Outcome State Fault Refusal :=
  let k := kindOf kind
  let answer (cause : Nat) (recs : List LaneRec) (s : State) : State :=
    sendControl peer ctlAnswer { addr := va, asid := asid, lanes := kind, len := cause, recs := recs } s
  let ctx := (Table.get 0 asid s.asidctx).toNat
  if !bitOf ctx 0 then .next (answer 0x20 [] s)
  else
    match (walkFrom s va 4 (bitsOf ctx 51 12 * 4096) []).2 with
    | .error f => .next (answer f.cause [] s)
    | .ok (leaf, a, _) =>
      match checkAccess leaf (bitOf kind 2) k .global (xlatOf asid va leaf).pa with
      | some cause => .next (answer cause [] s)
      | none =>
        let bits := 0x20 + (if k.writes then 0x40 else 0)
        let s := if leaf &&& bits == bits then s else tableOr s a bits
        let s := { s with fabric := { s.fabric with
          sentMask := Table.put 0 asid (Table.get 0 asid s.fabric.sentMask ||| 2 ^ peer) s.fabric.sentMask } }
        .next (answer 0 [{ lane := 0, offset := 0, data := leaf ||| bits }] s)

/-- FABRIC_INVALIDATION (R354) at a package that holds translations of a target: the accesses that used a matching entry
drain, the entries go, and the target is answered. A LOG2 of 64 names the whole ASID. -/
def execFabricInvalidation (peer asid va log2 : Nat) (s : State) : Host.Outcome State Fault Refusal :=
  let hit (a leaf : Nat) : Bool :=
    log2 == 64 || va57 a / 2 ^ log2 == va / 2 ^ log2 ||
      (log2 < szLog (leafSZ leaf) && va57 a / 2 ^ szLog (leafSZ leaf) == va / 2 ^ szLog (leafSZ leaf))
  let waits := (s.fabric.remotes.filter fun r => r.peer == peer && r.asid == asid && r.lanes.any fun l =>
    match Map.find l.lane r.homes with
    | some (some leaf) => hit l.addr leaf
    | _ => false).map (·.id)
  .next (settleInvals { s with fabric := { s.fabric with invals := s.fabric.invals ++ [⟨peer, asid, va, log2, waits⟩] } })

/-! Lock, retraining and members (R330, R350 to R352). -/

/-- RAIL_RETRAIN_DONE (R350): a rail that trains is up again, or stays down. -/
def execRailRetrainDone (rail : Nat) (up : Bool) (s : State) : Host.Outcome State Fault Refusal :=
  let x := s.rail rail
  if x.state != 1 then .next s
  else
    let n := if !up then 0 else if bitsOf x.stat.toNat 12 8 == 0x1F then 2 else 3
    .next (s.setRail rail { x.setState n with weak := [], retrainUntil := none })

/-- LOCK_REACQUIRED (R330): transmission resumes at the next tide boundary. -/
def execLockReacquired (s : State) : Host.Outcome State Fault Refusal :=
  if s.fabric.locked then .next s else .next { s with fabric := { s.fabric with relock := true } }

/-- What follows the removal of a peer for the invalidations that wait for it (R354). -/
def tlbiWithout (peer : Nat) (s : State) : State :=
  if s.tlbi.waiting.contains peer then
    let left := s.tlbi.waiting.filter (· != peer)
    let s := { s with tlbi := { s.tlbi with waiting := left } }
    if left == [] then s.later .tlbiDone else s
  else s

/-- Every dispatch of this package looked at again, as (launch, id). -/
def dispatches (s : State) : List (Nat × Nat) :=
  (s.dies.flatMap fun d => d.2.ctxs.map fun c => (c.launch, c.id)).eraseDups

/-- PEER_REMOVED (R351): a peer that was not heard for REMTO tides is declared removed. Its slots go dark, entries for it are
discarded, entries that it was to ferry go another way, every access to it is lost, and dispatches go on without it (R180, R184). -/
def execPeerRemoved (peer : Nat) (s : State) : Host.Outcome State Fault Refusal :=
  let p := s.peer peer
  if !p.member || p.removed || p.missed < remTo s then .next s
  else
    let s := ((s.peer peer).queue.filter fun e => e.final != peer).foldl (fun s e => rerouteEntry true e s) (s.adjPeer peer fun p =>
      { p with removed := true })
    let f := s.fabric
    let s := { s with fabric := { f with
      peers := f.peers.map fun (x : Nat × Peer) =>
        (x.1, { x.2 with queue := x.2.queue.filter fun e => e.final != peer && x.1 != peer })
      rails := f.rails.map fun (x : Nat × Rail) => (x.1, { x.2 with retry := x.2.retry.filter fun y => y.peer != peer })
      tcache := f.tcache.filter fun e => e.asid / 512 != peer
      invals := f.invals.filter fun v => v.peer != peer } }
    let s := s.adjPeer peer fun p => { p with removed := true, partials := [], held := [] }
    let s := if f.master == peer then
        { s with fabric := { s.fabric with nextMaster := (upTo (podSize s)).find? fun q => isMember s q } }
      else s
    let s := (s.fabric.remotes.filter fun (r : Remote) => r.peer == peer).foldl (fun s r => answerRemote r none s) s
    let s := (dispatches s).foldl (fun s d => checkDisps d.1 d.2 (zeroMissing d.1 d.2 (exchange d.1 d.2 s))) s
    .next (wakeEngines (tlbiWithout peer s))

/-- REMOTE_TIMEOUT (R351): an access without an answer REMTO tides after its first transmission is lost, and so is one to a
package that has been declared removed. -/
def execRemoteTimeout (id : Nat) (s : State) : Host.Outcome State Fault Refusal :=
  match findRemote s id with
  | none => .next s
  | some r =>
    if (s.peer r.peer).removed then .next (wakeEngines (answerRemote r none s))
    else match r.since with
    | none => .next s
    | some t => if t + remTo s ≤ s.fabric.tidecnt.toNat then .next (wakeEngines (answerRemote r none s)) else .next s

/-- Whether the fabric registers describe a pod that this package can form (R328, R332): a table calendar names only other
members, and each of them. -/
def formable (s : State) : Bool :=
  let c := s.fabric.fabcfg.toNat
  let n := podSize s
  let len := bitsOf c 8 0
  let row (t r : Nat) : Nat := (Table.get 0x80 (16 * t + r) s.fabric.tidetab).toNat
  let slots := bitsOf c 46 39
  calendarOf s != 3 && 4 ≤ len && len ≤ 500 && s.self < n &&
    (calendarOf s != 2 ||
      (slots != 0 &&
        (upTo slots).all (fun t => (upTo 16).all fun r => bitOf (row t r) 7 || (row t r < n && row t r != s.self)) &&
        (upTo n).all fun q => q == s.self || (upTo slots).any fun t => (upTo 16).any fun r => row t r == q))

/-- The package becomes a member of its pod at a tide: the other members, and its live rails, are up. It advertises its
capabilities to each of them, and knows theirs when they have advertised (R355). A package whose keys were not agreed is no
member here (R469). -/
def enterPod (tide : BitVec 64) (s : State) : State :=
  let c := s.fabric.fabcfg.toNat
  let n := podSize s
  let f := s.fabric
  let s := { s with fabric := { f with
    inPod := true, locked := true, relock := false, lockErrs := 0, phaseBad := none, master := bitsOf c 38 32
    nextMaster := none, slotno := 0, tidecnt := tide, guard := false, joining := [], tcache := [], sentMask := []
    rails := (upTo 16).map fun r => (r, if bitOf c (48 + r) && n != 1 then Rail.reset.setState 2 else Rail.reset)
    peers := ((upTo n).filter (· != s.self)).map fun q =>
      (q, { Peer.empty with member := !f.distrusted.contains q }) } }
  startMeetings (((upTo n).filter fun q => isMember s q && q != s.self).foldl (fun s q => advertise q s) s)

/-- POD_FORMATION (R326, R328): every package of the pod is a member, in slot 0 of tide 0; where the registers describe no
pod, the rails stay dark. (log 74 DEDUCED) -/
def execPodFormation (s : State) : Host.Outcome State Fault Refusal :=
  if s.fabric.inPod || !formable s then .next s else .next (enterPod 0 s)

/-- POD_JOIN (R352, R469): a package that firmware has admitted, with agreed keys, joins at the next tide boundary. Where it is this package, it
enters the pod with the master's TIDECNT, which the second field of the capability then carries. -/
def execPodJoin (peer : Nat) (cap : Capability) (s : State) : Host.Outcome State Fault Refusal :=
  if peer == s.self then
    if s.fabric.inPod || !formable s then .next s else .next (enterPod cap.mask s)
  else if !s.fabric.inPod || podSize s ≤ peer || isMember s peer || s.fabric.distrusted.contains peer then .next s
  else .next { s with fabric := { s.fabric with joining := s.fabric.joining.filter (fun j => j.1 != peer) ++ [(peer, cap)] } }

end Sys2Proof.Machine
end

