-- ==== Sys2Proof/Machine/BaseDie.lean ====
section
/-! DEFINITION. The events of the base dies and of the banks on chip (03_main_memory.md R44 to R67, 05_onchip_levels.md
R98, R99, R104, 08_consistency.md R212): requests that reach main memory, and what they are answered. -/

namespace Sys2Proof.Machine

/-- The state with an answer (R49). -/
def State.answered (status : Nat) (data : List Byte) (mask : Nat) (s : State) : State := { s with answer := ⟨status, data, mask⟩ }

/-- A request answered MALFORMED, with no effect (R44, R49). -/
def malformed (s : State) : Host.Outcome State Fault Refusal := .next (s.answered 3 [] 0)

/-- A range of physical addresses that lies in HBM and holds a byte (R44). (log 135 DESIGN CHOICE) -/
def hbmRange (a n : Nat) : Bool := n != 0 && a + n ≤ hbmEnd

/-- The status of a read of the bursts of a granule (R48, R49): UNCORR, else CORRECTED, else OK. -/
def burstStatus (bad weak : Nat) (sectors : List Nat) : Nat :=
  if sectors.any (bitOf bad) then 2 else if sectors.any (bitOf weak) then 1 else 0

/-- The status of a read that meets unreadable bytes, or none (R49). -/
def readStatus (bad : Bool) : Nat := if bad then 2 else 0

/-- Bytes read through the memory-side cache: each granule is ordered on its own (R47, R48), and the highest status of
their bursts. -/
def dieReadBytes (key a n : Nat) (m : MainMem) : MainMem × List Byte × Nat :=
  (lineParts a n).foldl (fun (acc : MainMem × List Byte × Nat) p =>
    let g := granuleRead acc.1 key (p.1 / 256)
    let bad := badOf g.1 (p.1 / 256)
    (g.1, acc.2.1 ++ leBytes p.2.2 (sliceLine (poisonSectors g.2 bad) (p.1 % 256) p.2.2),
      max acc.2.2 (burstStatus bad (weakOf g.1 (p.1 / 256)) (sectorsOf (p.1 % 256) p.2.2)))) (m, [], 0)

/-- Bytes written through the memory-side cache (R47, R48). -/
def dieWriteBytes (key a : Nat) (bytes : List Byte) (m : MainMem) : MainMem :=
  (lineParts a bytes.length).foldl (fun m p =>
    granuleWrite m key (p.1 / 256) (ofLeBytes ((bytes.drop p.2.1).take p.2.2) * 256 ^ (p.1 % 256))
      (spanMask (p.1 % 256) p.2.2)) m

/-- MEMORY_REQUEST (R47): a plain access at its base die, or the write-back of a line that its L2 home gives up (R107). -/
def execMemoryRequest (addr key : Nat) (src : SrcClass) (op : BaseOp) (s : State) : Host.Outcome State Fault Refusal :=
  match op with
  | .read len =>
    if !hbmRange addr len then malformed s
    else
      let r := dieReadBytes key addr len (countAccess src key addr s.mem)
      .next (({ s with mem := r.1 }).answered r.2.2 r.2.1 0)
  | .write data =>
    if !hbmRange addr data.length then malformed s
    else .next (({ s with mem := dieWriteBytes key addr data (countAccess src key addr s.mem) }).answered 0 [] 0)
  | .evictL2 => if inHbm addr then .next (l2Evict (addr / 256) s) else malformed s

/-- BLOCK_READ (R50 to R53): bytes as stored, or a block of 32 rows of 32 elements converted. (log 14 DEDUCED) -/
def execBlockRead (addr lay efmt pln pitch len key : Nat) (s : State) : Host.Outcome State Fault Refusal :=
  if lay == 0 then
    if !hbmRange addr len then malformed s
    else
      let r := dieReadBytes key addr len (countAccess .local key addr s.mem)
      .next (({ s with mem := r.1 }).answered r.2.2 r.2.1 0)
  else
    match EFmt.ofCode efmt with
    | none => malformed s
    | some f =>
      let b := 4 * f.bits
      if !blockOk lay (some f) pln pitch || addr % b != 0 || !hbmRange addr (31 * pitch + b) then malformed s
      else
        let r := (upTo 32).foldl (fun (acc : MainMem × List Nat × Nat) (i : Nat) =>
          let y := dieReadBytes key (addr + i * pitch) b acc.1
          (y.1, acc.2.1 ++ [ofLeBytes y.2.1], max acc.2.2 y.2.2)) (countAccess .local key addr s.mem, [], 0)
        .next (({ s with mem := r.1 }).answered r.2.2 (blockConvert lay f pln r.2.1) 0)

/-- Whether an entry of a packet is served (R54): aligned to its width, inside HBM. -/
def entryOk (base width offset : Nat) : Bool := (base + offset) % width == 0 && hbmRange (base + offset) width

/-- Zero bytes that fill an answer up to a multiple of 32 B (R54). -/
def padTo32 (bytes : List Byte) : List Byte := bytes ++ List.replicate ((32 - bytes.length % 32) % 32) 0

/-- GATHER_PACKET (R54): the values of the entries in entry order; counted once for the region of its base (R65). A width
that no packet has is MALFORMED. (log 135 DESIGN CHOICE) -/
def execGatherPacket (base width key : Nat) (entries : List (Nat × Nat)) (s : State) : Host.Outcome State Fault Refusal :=
  if width != 1 && width != 2 && width != 4 && width != 8 then malformed s
  else
    let r := entries.zipIdx.foldl (fun (acc : MainMem × List Byte × Nat × Nat) e =>
      let a := base + e.1.2
      if !entryOk base width e.1.2 then (acc.1, acc.2.1 ++ List.replicate width 0xFF, acc.2.2.1 + 2 ^ e.2, 3)
      else
        let y := dieReadBytes key a width acc.1
        (y.1, acc.2.1 ++ y.2.1, acc.2.2.1 + (if y.2.2 == 2 then 2 ^ e.2 else 0), max acc.2.2.2 y.2.2))
      (countAccess .local key base s.mem, [], 0, 0)
    .next (({ s with mem := r.1 }).answered r.2.2.2 (padTo32 r.2.1) r.2.2.1)

/-- SCATTER_PACKET (R55): the entries applied in entry order. (log 135 DESIGN CHOICE) -/
def execScatterPacket (base width key : Nat) (entries : List (Nat × Nat)) (values : List Nat) (s : State) :
    Host.Outcome State Fault Refusal :=
  if width != 1 && width != 2 && width != 4 && width != 8 then malformed s
  else
    let r := (entries.zip values).foldl (fun (acc : MainMem × Nat) e =>
      if !entryOk base width e.1.2 then (acc.1, 3)
      else (dieWriteBytes key (base + e.1.2) (leBytes width e.2) acc.1, acc.2)) (countAccess .local key base s.mem, 0)
    .next (({ s with mem := r.1 }).answered r.2 [] 0)

/-- MEMORY_SIDE_ATOMIC (R60, R61): the steps of a lane-combined request in order, each lane given the value before its own. -/
def execMemorySideAtomic (addr key : Nat) (op : AtomOp) (w : Bool) (steps : List (Nat × Nat)) (s : State) :
    Host.Outcome State Fault Refusal :=
  let n := if w then 8 else 4
  if (w && (op == .fadd || op == .fmin || op == .fmax)) || addr % n != 0 || !hbmRange addr n then malformed s
  else
    let y := dieReadBytes key addr n (countAccess .local key addr s.mem)
    if y.2.2 == 2 then
      .next (({ s with mem := y.1 }).answered 2 (steps.flatMap fun _ => List.replicate n 0xFF) 0)
    else
      let r := steps.foldl (fun (acc : Nat × List Byte) x =>
        ((atomStep op (8 * n) acc.1 x.1 x.2).1, acc.2 ++ leBytes n acc.1)) (ofLeBytes y.2.1, [])
      .next (({ s with mem := dieWriteBytes key addr (leBytes n r.1) y.1 }).answered y.2.2 r.2 0)

/-! Held banks (R56 to R59). -/

/-- BANK_RESERVE_REQUEST (R56): the handle, or a refusal; a place that no stack has is MALFORMED. (log 135 DESIGN CHOICE) -/
def execBankReserveRequest (stack pc bank tile entry : Nat) (s : State) : Host.Outcome State Fault Refusal :=
  if 12 ≤ stack || 64 ≤ pc || 64 ≤ bank then malformed s
  else
    let h := stack * 4096 + pc * 64 + bank
    let code := bankAnswer s h
    if code != 0 then .next (s.answered code [] 0)
    else .next ((reserveBank tile entry h s).answered 0 (leBytes 2 h) 0)

/-- A granule that a stream row writes: no cached copy of it stays, and its bursts are readable (R48, R57). -/
def streamGranule (key g data : Nat) (m : MainMem) : MainMem :=
  dramStore { m with cache := Map.erase g m.cache } key g data

/-- The next row of a stream request moved, its granules in column order (R57). -/
def streamRow (h : Nat) (j : Stream) (m : MainMem) : Stream × MainMem :=
  let gs := (upTo 4).map fun c => bankGranule h j.row c
  let next := { j with row := j.row + 1, left := j.left - 1 }
  if j.write then
    ({ next with data := j.data.drop 1024 },
      gs.zipIdx.foldl (fun m g => streamGranule j.key g.1 (ofLeBytes ((j.data.drop (256 * g.2)).take 256)) m) m)
  else
    let r := gs.foldl (fun (acc : MainMem × List Byte × Nat) g =>
      let y := dieReadBytes j.key (256 * g) 256 acc.1
      (y.1, acc.2.1 ++ y.2.1, max acc.2.2 y.2.2)) (m, [], 0)
    ({ next with data := j.data ++ r.2.1, status := max j.status r.2.2 }, r.1)

/-- Rows streamed until 8 have gone since the last foreign window, or none is left (R57, R58). A request that is complete is
answered. -/
def streamRows (h : Nat) : Nat → Bank → State → Bank × State
  | 0, b, s => (b, s)
  | n + 1, b, s =>
    match b.jobs with
    | [] => (b, s)
    | j :: rest =>
      let r := streamRow h j s.mem
      let b := { b with streamed := b.streamed + 1 }
      let s := { s with mem := r.2 }
      if r.1.left == 0 then
        streamRows h n { b with jobs := rest } (s.answered r.1.status (if j.write then [] else r.1.data) 0)
      else streamRows h n { b with jobs := r.1 :: rest } s

/-- A held bank at work (R57 to R59): rows move up to the next foreign window, which is planned behind every request that
waits; a bank that is to close does so once its requests are complete. -/
def runBank (h : Nat) (s : State) : State :=
  match Map.find h s.mem.banks with
  | none => s
  | some b =>
    let r := streamRows h (8 - b.streamed) b s
    if r.1.closing && r.1.jobs == [] then releaseBank r.1.tile h r.2
    else
      let s := { r.2 with mem := { r.2.mem with banks := Map.insert h r.1 r.2.mem.banks } }
      if b.streamed < 8 && r.1.streamed == 8 then s.later (.foreignWindow h) else s

/-- STREAM_REQUEST (R57): rows of a held bank, ascending; a request waits behind those that the base die has in hand. A
handle that is no longer open is answered CLOSED, a request of no rows MALFORMED. (log 135 DESIGN CHOICE) -/
def execStreamRequest (handle : Nat) (write : Bool) (row count key : Nat) (data : List Byte) (s : State) :
    Host.Outcome State Fault Refusal :=
  match Map.find handle s.mem.banks with
  | none => .next (s.answered 6 [] 0)
  | some b =>
    if count == 0 || 16384 < row + count then malformed s
    else
      let b := { b with jobs := b.jobs ++ [⟨write, row, count, key, if write then data else [], 0⟩] }
      .next (runBank handle { s with mem := { s.mem with banks := Map.insert handle b s.mem.banks } })

/-- FOREIGN_WINDOW (R58): after 8 streamed rows, the requests that waited having been served, the stream resumes. -/
def execForeignWindow (handle : Nat) (s : State) : Host.Outcome State Fault Refusal :=
  match Map.find handle s.mem.banks with
  | none => .next s
  | some b =>
    if b.streamed < 8 then .next s
    else .next (runBank handle { s with mem := { s.mem with banks := Map.insert handle { b with streamed := 0 } s.mem.banks } })

/-- BANK_CLOSE_REQUEST (R59): the bank is released once the stream requests that came before are complete. -/
def execBankCloseRequest (handle : Nat) (s : State) : Host.Outcome State Fault Refusal :=
  .next (runBank handle { s with mem := { s.mem with banks := Map.adjust handle (fun b => { b with closing := true }) s.mem.banks } })

/-- A bank that its base die closes by itself, and the close event that it sends to the tile (R59); the rows streamed stay,
and a request in hand is answered CLOSED. (log 61 DEDUCED) -/
def dropBank (handle reason : Nat) (s : State) : State :=
  match Map.find handle s.mem.banks with
  | none => s
  | some b =>
    let s := if b.jobs == [] then s else s.answered 6 [] 0
    { s with mem := { s.mem with banks := Map.erase handle s.mem.banks } }.later (.closeEvent b.tile handle reason)

/-- The banks that meet a test, closed for a reason: 1 idle, 2 fenced, 3 the launch ended or is pre-empted (R59). -/
def dropBanks (reason : Nat) (f : Bank → Bool) (s : State) : State :=
  (s.mem.banks.filter fun x => f x.2).foldl (fun s x => dropBank x.1 reason s) s

/-- BANK_IDLE_CLOSE (R59): no stream request came for 2 µs. -/
def execBankIdleClose (handle : Nat) (s : State) : Host.Outcome State Fault Refusal := .next (dropBank handle 1 s)

/-! Keys, zeroing, counters (R63 to R67). -/

/-- BASE_DIE_KEY_DESTROY (R63): the lines of a key id leave the cache without a write-back, and the key is a new one. -/
def execBaseDieKeyDestroy (die key : Nat) (s : State) : Host.Outcome State Fault Refusal :=
  .next { s with mem := { s.mem with
    cache := s.mem.cache.filter fun x => !(x.2.key == key && x.1 % 12 == die)
    keyGen := Table.put 0 (key + 512 * die) (Table.get 0 (key + 512 * die) s.mem.keyGen + 1) s.mem.keyGen } }

/-- Granules zeroed under a key id, in ascending order (R64). -/
def zeroGranules (key : Nat) (g : Nat) : Nat → MainMem → MainMem
  | 0, m => m
  | n + 1, m => zeroGranules key (g + 1) n (streamGranule key g 0 m)

/-- A range of die scratchpad zeroed by its slices (R114). -/
def dieZero (base size : Nat) (s : State) : State :=
  let lo := base - hbmEnd
  { s with
    dieScr := s.dieScr.zero lo (lo + size)
    dieScrBad := s.dieScrBad.filter fun w => 8 * w < lo || lo + size ≤ 8 * w }

/-- The arguments of a bulk zero that are served: whole 4 KiB units, in HBM or in die scratchpad (R64, R114). -/
def zeroOk (base size : Nat) : Bool :=
  base % 4096 == 0 && size % 4096 == 0 && size ≤ 2 ^ 34 &&
    (base + size ≤ hbmEnd || hbmEnd ≤ base && base + size ≤ dieEnd)

/-- BULK_ZERO_COMMAND (R64): the base dies zero a range of HBM, the slices one of the die scratchpad (R114). -/
def execBulkZeroCommand (base size key : Nat) (s : State) : Host.Outcome State Fault Refusal :=
  if !zeroOk base size then malformed s
  else if base + size ≤ hbmEnd then
    .next (({ s with mem := zeroGranules key (base / 256) (size / 256) s.mem }).answered 0 [] 0)
  else .next ((dieZero base size s).answered 0 [] 0)

/-- The region that MIGIDX selects (R67). -/
def migRegion (s : State) : Option Nat :=
  let q := bitsOf s.mem.migidx.toNat 23 0
  if q < 12582912 then some q else none

/-- MIGDATA_WRITE (R65, R67): COUNT and QUEUED of the region that MIGIDX names. -/
def execMigdataWrite (value : BitVec 64) (s : State) : Host.Outcome State Fault Refusal :=
  match migRegion s with
  | none => .next s
  | some q =>
    .next { s with mem := { s.mem with
      counts := Table.put 0 q (value.extractLsb' 0 16) s.mem.counts
      queued := Table.put false q (value.getLsbD 16) s.mem.queued } }

/-! On the chip. -/

/-- REMOTE_SCRATCHPAD_ACCESS (R104): a word of a tile's scratchpad read or written for another tile, at its bank. -/
def execRemoteScratchpadAccess (tile offset width : Nat) (data : Option (List Byte)) (s : State) :
    Host.Outcome State Fault Refusal :=
  let owner := s.held.find? fun (x : Nat × TileLaunch) =>
    x.1 / 65536 == tile && x.2.region ≤ offset &&
      match Map.find (x.1 % 65536) s.launches with
      | some la => offset + width ≤ x.2.region + la.scrtile
      | none => false
  match owner with
  | none => .next (s.answered 3 [] 0)
  | some (k, h) =>
    let launch := k % 65536
    if tileDown s tile then .next (s.answered 2 (if data.isNone then poisonBytes width else []) 0)
    else
      match data with
      | some bs => .next ((setScr tile launch ((scrLevel s tile launch).store (offset - h.region) bs) s).answered 0 [] 0)
      | none =>
        let r := (scrLevel s tile launch).element (offset - h.region) width
        .next (s.answered (readStatus (r.detail != 0)) r.bytes 0)

/-- BANK_STARVE_PROMOTE (R99): a requester that was refused for 16 clocks is served first in the next. Which requester a bank
serves in a clock changes no value here: the accesses of an instruction are performed whole, one instruction after the
other, and no access waits between steps. (log 16 DEDUCED) -/
def execBankStarvePromote (tile bank requester : Nat) (s : State) : Host.Outcome State Fault Refusal :=
  let _ := (tile, bank, requester)
  .next s

/-- WC_DRAIN_TIMEOUT (R212): the oldest entry of a tile's write-combining buffer drains. -/
def execWcDrainTimeout (tile : Nat) (s : State) : Host.Outcome State Fault Refusal := .next (wcDrainOldest tile s)

end Sys2Proof.Machine
end

