-- ==== Sys2Proof/Machine/Shootdown.lean ====
section
/-! DEFINITION. Page walks as steps of their own, and invalidations (04_translation.md R75 to R86, 12_fabric.md R354). -/

namespace Sys2Proof.Machine

/-- PAGE_WALK (R75, R79): a cluster's walker resolves an address for an access of the space that its page lies in, and
fills the walk cache and the TLB; a walk that faults installs nothing. (log 19 DEDUCED) -/
def execPageWalk (cluster asid va : Nat) (store : Bool) (s : State) : Host.Outcome State Fault Refusal :=
  if !canonical va then .next s
  else
    let go (sp : Space) := walk cluster asid true (if store then .store else .load) sp (va57 va) s
    .next (match (go .global).2, (go .host).2 with
      | .ok _, _ => (go .global).1
      | .error _, .ok _ => (go .host).1
      | .error _, .error _ => (go .dieScratch).1)

/-- What an invalidation names (R82): the ASID where it names one, and the virtual or physical range where it names one. -/
structure Shoot where
  asid : Option Nat
  va : Option (Nat × Nat)
  pa : Option (Nat × Nat)
deriving DecidableEq, Repr, Inhabited

/-- Whether a range of 2^`n` bytes at `a` meets a range (base, LOG2) of the same kind, both aligned. -/
def meetsRange (a n : Nat) (r : Nat × Nat) : Bool :=
  if n ≤ r.2 then a / 2 ^ r.2 == r.1 / 2 ^ r.2 else a / 2 ^ n == r.1 / 2 ^ n

/-- Whether an optional range holds, or meets, an address range. -/
def meetsOpt (a n : Nat) (r : Option (Nat × Nat)) : Bool :=
  match r with
  | some r => meetsRange a n r
  | none => true

/-- Whether an ASID is named. -/
def Shoot.names (x : Shoot) (asid : Nat) : Bool := x.asid.isNone || x.asid == some asid

/-- A TLB entry that an invalidation removes. -/
def Shoot.hitsTlb (x : Shoot) (e : TlbEntry) : Bool :=
  x.names e.asid && meetsOpt e.vbase (szLog e.sz) x.va && meetsOpt (leafPA e.leaf) (szLog e.sz) x.pa

/-- A walk-cache entry that an invalidation removes: the table it names covers a virtual range, and lies in a physical
one. (log 20 DEDUCED) -/
def Shoot.hitsWalk (x : Shoot) (e : WalkEntry) : Bool :=
  x.names e.asid && meetsOpt (e.prefixVa * 2 ^ (12 + 9 * e.level)) (12 + 9 * e.level) x.va && meetsOpt e.table 12 x.pa

/-- An L1 line that an invalidation removes. -/
def Shoot.hitsLine (x : Shoot) (l : L1Line) : Bool :=
  x.names l.asid && meetsOpt (va57 (l.vline * 256)) 8 x.va && meetsOpt (l.pline * 256) 8 x.pa

/-- A write-combining entry whose stores were translated by what an invalidation removes: it is drained (R83, R85). -/
def Shoot.hitsStores (x : Shoot) (e : WcEntry) : Bool :=
  x.names e.asid && meetsOpt (va57 (e.vline * 256)) 8 x.va && meetsOpt (e.pline * 256) 8 x.pa

/-- The entries and lines of every cluster and tile removed; a dirty line is written to its home first, and so are the
write-combining stores that a removed entry has translated (R83). -/
def Shoot.sweep (x : Shoot) (s : State) : State :=
  let s := { s with clusters := s.clusters.map fun (c : Nat × Cluster) =>
    (c.1, { tlb := c.2.tlb.filter (!x.hitsTlb ·), walk := c.2.walk.filter (!x.hitsWalk ·) }) }
  s.tiles.foldl (fun (s : State) (t : Nat × Tile) =>
    let s := (t.2.l1.filter x.hitsLine).foldl (fun s l => writeBack t.1 l s) s
    let s := (t.2.wc.filter x.hitsStores).foldl (fun s e => wcWrite e s) s
    s.setTile t.1 { s.tile t.1 with
      l1 := (s.tile t.1).l1.filter (!x.hitsLine ·), wc := (s.tile t.1).wc.filter (!x.hitsStores ·) }) s

/-- The ASIDs whose translations other packages hold and that an invalidation names, with those packages (R354). -/
def Shoot.sentTo (x : Shoot) (s : State) : List (Nat × Nat) :=
  (s.fabric.sentMask.filter fun m => x.names m.1).flatMap fun m =>
    ((upTo 128).filter fun p => bitOf m.2 p && isMember s p && p != s.self).map fun p => (m.1, p)

/-- An invalidation in progress (R83): the sweep, then a message to every package that may hold a matching entry, for each
ASID that is named; every message is waited for. A physical range is sent as the whole ASID, for the others keep no physical index. -/
def Shoot.run (x : Shoot) (s : State) : State :=
  let s := x.sweep s
  let others := x.sentTo s
  let s := others.foldl (fun s t =>
    sendControl t.2 ctlInval
      (match x.va with
        | some r => { asid := t.1, addr := r.1 / 2 ^ r.2 * 2 ^ r.2, len := r.2 }
        | none => { asid := t.1, addr := 0, len := 64 }) s) s
  let s := { s with tlbi := { s.tlbi with waiting := others.map (·.2) } }
  if others == [] then s.later .tlbiDone else s

/-- An invalidation step takes place while TLBISTAT says that one is in progress (R82). -/
def shoot (x : Shoot) (s : State) : Host.Outcome State Fault Refusal :=
  .next (if bitOf s.tlbi.stat.toNat 63 then x.run s else s)

/-- The LOG2SZ that acts (R82). -/
def clampLog (n : Nat) : Nat := min 57 (max 12 n)

/-- TLBI_ALL (R82). -/
def execTlbiAll (s : State) : Host.Outcome State Fault Refusal := shoot ⟨none, none, none⟩ s

/-- TLBI_ASID. -/
def execTlbiAsid (asid : Nat) (s : State) : Host.Outcome State Fault Refusal := shoot ⟨some asid, none, none⟩ s

/-- TLBI_VA. -/
def execTlbiVa (asid va log2 : Nat) (s : State) : Host.Outcome State Fault Refusal :=
  shoot ⟨some asid, some (va57 va, clampLog log2), none⟩ s

/-- TLBI_PA. -/
def execTlbiPa (pa log2 : Nat) (s : State) : Host.Outcome State Fault Refusal := shoot ⟨none, none, some (pa, clampLog log2)⟩ s

/-- TLBI_DONE (R83): once every package asked has answered, BUSY clears and DONE counts. Every access of this package that
was translated before has been performed. (log 21 DEDUCED) -/
def execTlbiDone (s : State) : Host.Outcome State Fault Refusal :=
  if !bitOf s.tlbi.stat.toNat 63 || s.tlbi.waiting != [] then .next s
  else
    let x := s.tlbi.stat.toNat
    .next { s with tlbi := { s.tlbi with
      stat := BitVec.ofNat 64 (putBits (putBits x 63 63 0) 31 0 ((bitsOf x 31 0 + 1) % 2 ^ 32)) } }

/-- A write of TLBICMD (R82): with GO the invalidation starts; while one is in progress, or with a reserved TYPE, it is
discarded and ERR is set. -/
def writeTlbicmd (v : BitVec 64) (s : State) : State :=
  let x := v.toNat
  let kept := BitVec.ofNat 64 (bitsOf x 29 24 * 2 ^ 24 + bitsOf x 20 12 * 2 ^ 12 + bitsOf x 2 0)
  let fail (s : State) : State := { s with tlbi := { s.tlbi with stat := s.tlbi.stat ||| 0x4000000000000000 } }
  if !bitOf x 63 then { s with tlbi := { s.tlbi with cmd := kept } }
  else if bitOf s.tlbi.stat.toNat 63 then fail s
  else
    let s := { s with tlbi := { s.tlbi with cmd := kept } }
    if 4 ≤ bitsOf x 2 0 then fail s
    else
      let asid := bitsOf x 20 12
      let va := s.tlbi.va.toNat
      let s := { s with tlbi := { s.tlbi with stat := s.tlbi.stat ||| 0x8000000000000000 } }
      match bitsOf x 2 0 with
      | 0 => s.later .tlbiAll
      | 1 => s.later (.tlbiAsid asid)
      | 2 => s.later (.tlbiVa asid va (bitsOf x 29 24))
      | _ => s.later (.tlbiPa (bitsOf va 51 12 * 4096) (bitsOf x 29 24))

end Sys2Proof.Machine
end

