-- ==== Sys2Proof/Machine/Windows.lean ====
section
/-! DEFINITION. What a lane-private window and a cluster-shared region hold when they are taken, and what they leave behind
(05_onchip_levels.md R112): a part that the same launch held last keeps its contents, unless the launch is deterministic;
any other part is zeroed. -/

namespace Sys2Proof.Machine

/-- The entries of a table inside [base, base + size), from 0 on. -/
def cut {α : Type} (base size : Nat) (t : Table α) : Table α :=
  (t.filter fun x => base ≤ x.1 && x.1 < base + size).map fun x => (x.1 - base, x.2)

/-- The numbers of a list inside [base, base + size), from 0 on. -/
def cutNums (base size : Nat) (l : List Nat) : List Nat :=
  (l.filter fun x => base ≤ x && x < base + size).map (· - base)

/-- Bytes put into a memory from `base` on. -/
def paste (base : Nat) (part m : Memory) : Memory := part.foldl (fun m x => m.write (base + x.1) x.2) m

/-! Lane-private windows (R96). -/

/-- The lane of a tile that is lane `l` of a slice. -/
def sliceLane (slice l : Nat) : Nat := slice * 4 + l

/-- What a lane finds in the window at `base`, and what of it cannot be read: the parts that its launch held last, where
they are kept. -/
def Leftovers.lane (x : Leftovers) (h slice l base size : Nat) (keep : Bool) : Memory × List Nat :=
  let at_ := sliceLane slice l * 1024 + base
  let mine (off : Nat) : Bool := keep && Table.get 0 (slice * 64 + (base + off) / 16) x.lpOwner == h
  ((cut at_ size x.lp).filter fun b => mine b.1, (cutNums (at_ / 4) (size / 4) x.lpBad).filter fun w => mine (4 * w))

/-- A window taken on the four lanes of a slice by a launch. -/
def Leftovers.claim (x : Leftovers) (h slice base size : Nat) : Leftovers :=
  let inside (a : Nat) : Bool := a / 4096 == slice && base ≤ a % 1024 && a % 1024 < base + size
  { x with
    lp := x.lp.filter fun b => !inside b.1
    lpBad := x.lpBad.filter fun w => !inside (4 * w)
    lpOwner := (upTo (size / 16)).foldl (fun o i => Table.put 0 (slice * 64 + base / 16 + i) h o) x.lpOwner }

/-- What a lane leaves in its window. -/
def Leftovers.leaveLane (x : Leftovers) (slice l base : Nat) (mem : Memory) (bad : List Nat) : Leftovers :=
  let at_ := sliceLane slice l * 1024 + base
  { x with lp := paste at_ mem x.lp, lpBad := x.lpBad ++ bad.map (· + at_ / 4) }

/-- The leftovers of a tile changed. -/
def State.adjLeft (s : State) (tile : Nat) (f : Leftovers → Leftovers) : State :=
  s.setTile tile { s.tile tile with left := f (s.tile tile).left }

/-- The lanes of a strand with the contents of the windows they are given. -/
def takeLanes (x : Leftovers) (h slice base size : Nat) (keep : Bool) (lanes : Quad Lane) : Quad Lane :=
  (upTo 4).foldl (fun q l =>
    let r := x.lane h slice l base size keep
    q.set l { q.get l with lp := r.1, bad := r.2 }) lanes

/-- What the lanes of a strand leave in their windows. -/
def leaveLanes (slice base : Nat) (lanes : Quad Lane) (x : Leftovers) : Leftovers :=
  (upTo 4).foldl (fun x l => x.leaveLane slice l base (lanes.get l).lp (lanes.get l).bad) x

/-- What the strands of an item leave in their lanes' windows as the item is freed. -/
def leaveWindows (it : Item) (s : State) : State :=
  it.strands.foldl (fun s k =>
    match s.strand k with
    | some st => s.adjLeft it.tile (leaveLanes (k % 128 / 8) st.lpBase st.lanes)
    | none => s) s

/-! Cluster-shared regions (R103): of the bytes of a region, those of block b of 256 B lie on member b mod 4. -/

/-- Where a byte of a region lies in its member's share. -/
def shareAt (a : Nat) : Nat := a / 1024 * 256 + a % 256

/-- The byte of a region at a place of a member's share. -/
def shareByte (m off : Nat) : Nat := off / 256 * 1024 + m * 256 + off % 256

/-- What a launch finds in a member's share of a region, and what of it cannot be read. -/
def Leftovers.member (x : Leftovers) (h base size : Nat) (keep : Bool) : Memory × List Nat :=
  let mine (off : Nat) : Bool := keep && Table.get 0 ((base + off) / 256) x.shareOwner == h
  ((cut base size x.share).filter fun b => mine b.1, (cutNums (base / 16) (size / 16) x.shareBad).filter fun w => mine (16 * w))

/-- A member's share of a region taken by a launch. -/
def Leftovers.claimMember (x : Leftovers) (h base size : Nat) : Leftovers :=
  let inside (a : Nat) : Bool := base ≤ a && a < base + size
  { x with
    share := x.share.filter fun b => !inside b.1
    shareBad := x.shareBad.filter fun w => !inside (16 * w)
    shareOwner := (upTo (size / 256)).foldl (fun o i => Table.put 0 (base / 256 + i) h o) x.shareOwner }

/-- A region taken by a launch on the members of a cluster: what it holds, and what of it cannot be read. -/
def takeShare (h cluster base size : Nat) (keep : Bool) (s : State) : (Memory × List Nat) × State :=
  (upTo 4).foldl (fun (r : (Memory × List Nat) × State) m =>
    let tile := tileAt cluster m
    let x := (r.2.tile tile).left.member h base size keep
    ((x.1.foldl (fun mem b => mem.write (shareByte m b.1) b.2) r.1.1, r.1.2 ++ x.2.map fun w => shareByte m (16 * w) / 16),
      if size == 0 then r.2 else r.2.adjLeft tile fun y => y.claimMember h base size)) (([], []), s)

/-- What a convoy leaves in its region as it ends; a member that is fenced keeps nothing. -/
def leaveShare (cv : Convoy) (s : State) : State :=
  (upTo 4).foldl (fun s m =>
    let tile := tileAt cv.cluster m
    let mem := cv.shared.filter fun b => b.1 / 256 % 4 == m
    let bad := cv.bad.filter fun w => w / 16 % 4 == m
    if (mem == [] && bad == []) || tileDown s tile then s
    else
      s.adjLeft tile fun x =>
        { x with
          share := mem.foldl (fun t b => t.write (cv.base + shareAt b.1) b.2) x.share
          shareBad := x.shareBad ++ bad.map fun w => (cv.base + shareAt (16 * w)) / 16 }) s

/-! Ends of allotments. -/

/-- Nothing on the package's tiles belongs to a launch any more: what is given out again is zeroed. -/
def disown (h : Nat) (s : State) : State :=
  { s with tiles := s.tiles.map fun x =>
      if x.1 < 768 then
        (x.1, { x.2 with
          accOwner := x.2.accOwner.filter fun o => o.2 != h
          left := { x.2.left with
            lpOwner := x.2.left.lpOwner.filter fun o => o.2 != h
            shareOwner := x.2.left.shareOwner.filter fun o => o.2 != h } })
      else x }

end Sys2Proof.Machine
end

