-- ==== Sys2Proof/Machine/Matrix.lean ====
section
/-! DEFINITION. The plane array and the accumulator memory (11_matrix.md R297 to R324): MLOOP, MZERO, MREAD, MWRITE and
MSTAT, their checks, the exact arithmetic of K-groups, and the checksum injection. -/

namespace Sys2Proof.Machine

/-! Operands (R298, R300). -/

/-- An element as the array receives it: a NaN, an infinity, or a finite value mag × 2^unit with its unbiased exponent. -/
inductive Cell where
  | nan
  | inf (neg : Bool)
  | fin (neg : Bool) (mag : Nat) (unit e : Int)
deriving DecidableEq, Repr, Inhabited

/-- The formats that A accepts (R298). -/
def formatA : EFmt → Bool
  | .fp .e2m1 | .fp .e4m3 | .fp .e5m2 | .fp .bf16 => true
  | .int _ w => w == 8
  | .ni _ => true
  | .fp _ | .accInt => false

/-- The formats that B accepts (R298). -/
def formatB (f : EFmt) : Bool := formatA f || f == .fp .fp16

/-- Whether a format is floating. -/
def isFloat : EFmt → Bool
  | .fp _ => true
  | .int _ _ | .ni _ | .accInt => false

/-- The unbiased exponent of a floating pattern (R300). -/
def unbiased (g : FKind) (x : Nat) : Int := (if x == 0 then 1 else (x : Int)) - g.bias

/-- An A element of a floating format (R300). -/
def cellA (f : Slot) (g : FKind) (bits : Nat) : Cell :=
  let bits := g.flushed f.flush bits
  match g.read bits with
  | .nan => .nan
  | .inf n => .inf n
  | .fin n m u => .fin n m u (unbiased g (bitsOf bits (g.ew + g.fw - 1) g.fw))

/-- A B element of a floating format from the bits of its planes in stack order (R100, R300): the significand is the planes
read, and where some are not read the midpoint may stand for the rest (R36). -/
def cellB (f : Slot) (g : FKind) (plane : Nat → Bool) : Cell :=
  let num (first n : Nat) : Nat := (upTo n).foldl (fun x i => 2 * x + (if plane (first + i) then 1 else 0)) 0
  let neg := plane 0
  let x := num 1 g.ew
  let k := if f.planes == 0 then g.fw + 1 else f.planes
  let fr := num (g.ew + 2) (k - 1)
  let e := unbiased g x
  let special := x == 2 ^ g.ew - 1
  if g.hasInf && special then (if fr == 0 then .inf neg else .nan)
  else if g == .e4m3 && special && k == 4 && fr == 7 then .nan
  else if f.flush && x == 0 then .fin neg 0 0 e
  else
    let sig := num (g.ew + 1) k
    let unit := e - ((k - 1 : Nat) : Int)
    if sig == 0 || !f.mid || k == g.fw + 1 then .fin neg sig unit e else .fin neg (2 * sig + 1) (unit - 1) e

/-- A B element of an integer format from the bits of its planes (R19, R300). -/
def intB (f : Slot) (plane : Nat → Bool) : Int :=
  let num (n : Nat) : Nat := (upTo n).foldl (fun x i => 2 * x + (if plane i then 1 else 0)) 0
  match f.efmt with
  | .ni n =>
    let k := if f.planes == 0 then n else f.planes
    niRead n f.planes f.mid (signedOf k (num k) * (2 ^ (n - k) : Nat))
  | .int true w => signedOf w (num w)
  | .int false w => (num w : Nat)
  | .fp _ | .accInt => 0

/-- An A element of an integer format. -/
def intA (f : EFmt) (bits : Nat) : Int :=
  match f with
  | .ni n => signedOf n bits
  | .int true w => signedOf w bits
  | .int false w => ((bits % 2 ^ w : Nat) : Int)
  | .fp _ | .accInt => 0

/-! K-groups (R301 to R303). -/

/-- A product of a group before alignment: NaN of a NaN operand, a NaN that the product forms, an infinity, or a finite
value with its product exponent. -/
inductive Product where
  | nan (formed : Bool)
  | inf (neg : Bool)
  | fin (neg : Bool) (mag : Nat) (unit e : Int)
deriving DecidableEq, Repr, Inhabited

/-- The product of two elements under the sum of their scale exponents. -/
def productOf (a b : Cell) (scale : Int) : Product :=
  match a, b with
  | .nan, _ => .nan false
  | _, .nan => .nan false
  | .inf x, .inf y => .inf (x != y)
  | .inf x, .fin y m _ _ => if m == 0 then .nan true else .inf (x != y)
  | .fin x m _ _, .inf y => if m == 0 then .nan true else .inf (x != y)
  | .fin x m u e, .fin y n v f => .fin (x != y) (m * n) (u + v + scale) (e + f + scale)

/-- trunc_grid of R301: a magnitude cut to a multiple of 2^grid, and whether bits were lost. -/
def truncTo (mag : Nat) (unit grid : Int) : Nat × Bool :=
  if grid ≤ unit then (mag * 2 ^ (unit - grid).toNat, false)
  else
    let d := (grid - unit).toNat
    (mag / 2 ^ d, mag % 2 ^ d != 0)

/-- The sum of a group (R301): exact over terms cut to one grid, with its flags (R302). (log 78 DEDUCED) -/
def groupSum (ps : List Product) : Fp × Flags :=
  let anyNan := ps.any fun p => match p with | .nan _ => true | _ => false
  let formed := ps.any fun p => p == .nan true
  let pos := ps.contains (.inf false)
  let neg := ps.contains (.inf true)
  if anyNan || (pos && neg) then (.nan, if formed || (pos && neg) then flagNV else 0)
  else if pos then (.inf false, 0)
  else if neg then (.inf true, 0)
  else
    let es := ps.filterMap fun p => match p with
      | .fin _ m _ e => if m == 0 then none else some e
      | _ => none
    let emax := es.foldl max (es.headD 0)
    let grid := emax - 30
    let terms := ps.map fun p => match p with
      | .fin n m u _ => let t := truncTo m u grid; (Fp.fin n t.1 grid, t.2)
      | .nan _ | .inf _ => (Fp.nan, false)
    let sum := match terms with
      | [] => Fp.fin false 0 0
      | t :: ts => ts.foldl (fun acc x => (Fp.add acc x.1).1) t.1
    (sum, if terms.any (·.2) then flagNX else 0)

/-- An accumulator word after a floating group (R301). -/
def accAddFloat (w : BitVec 36) (s : Fp × Flags) : BitVec 36 × Flags :=
  let sum := Fp.add (FKind.acc36.read w.toNat) s.1
  let r := FKind.acc36.round .rne 0 false false sum.1
  (BitVec.ofNat 36 r.1, s.2 ||| sum.2 ||| r.2)

/-- An accumulator word after an integer group (R303). -/
def accAddInt (w : BitVec 36) (s : Int) : BitVec 36 × Flags :=
  let x := signedOf 36 w.toNat + s
  if x < -(2 ^ 35) then (BitVec.ofInt 36 (-(2 ^ 35)), flagIS)
  else if 2 ^ 35 - 1 < x then (BitVec.ofInt 36 (2 ^ 35 - 1), flagIS)
  else (BitVec.ofInt 36 x, 0)

/-- The word that a poisoned result is (R28, R320). (log 82 DEDUCED) -/
def accPoison : BitVec 36 := 0xFFFFFFFFF

/-! The MLOOP descriptor (R307). -/

/-- The fields of an MLOOP descriptor. -/
structure LoopDesc where
  accrow : Nat
  m : Nat
  steps : Nat
  sstep : Int
  bstep : Int
  astep : Int
  reserved : Nat
  boff : Nat
  asoff : Nat
  aoff : Nat
deriving DecidableEq, Repr, Inhabited

/-- The loop that dN describes. -/
def loopOf (d : BitVec 256) : LoopDesc :=
  let x := d.toNat
  { accrow := bitsOf x 255 247, m := bitsOf x 246 238 + 1, steps := bitsOf x 237 224 + 1
    sstep := signedOf 32 (bitsOf x 223 192), bstep := signedOf 32 (bitsOf x 191 160), astep := signedOf 32 (bitsOf x 159 128)
    reserved := bitsOf x 127 96, boff := bitsOf x 95 64, asoff := bitsOf x 63 32, aoff := bitsOf x 31 0 }

/-- The row pitch of R102. -/
def rowPitch (f : EFmt) : Nat := (rowBytes f 256 + 15) / 16 * 16

/-- Bytes of one row's scales: one per block of 256 columns. -/
def scaleBytes (f : Slot) : Nat := if f.scaled then 256 / f.block else 0

/-- Bytes of a plane stack with its scale array (R100, R101). -/
def stackBytes (f : Slot) : Nat := 8192 * planeCount f.efmt f.planes + 256 * scaleBytes f

/-- The byte ranges of a step: A rows, A scale rows, B's stack (R308). -/
def LoopDesc.ranges (d : LoopDesc) (fa fb : Slot) (s : Nat) : List (Int × Int) :=
  let k : Int := (s : Nat)
  let a : Int := d.aoff + k * d.astep
  let x : Int := d.asoff + k * d.sstep
  let b : Int := d.boff + k * d.bstep
  [(a, a + (((d.m - 1) * rowPitch fa.efmt + rowBytes fa.efmt 256 : Nat) : Int))] ++
    (if fa.scaled then [(x, x + ((d.m * scaleBytes fa : Nat) : Int))] else []) ++ [(b, b + (stackBytes fb : Int))]

/-- The slots of an MLOOP, or the cause of R298. -/
def loopSlots (la : Launch) (fa fb : Nat) : Except Nat (Slot × Slot) :=
  match slotOf (la.slots.getD fa 0), slotOf (la.slots.getD fb 0) with
  | some a, some b =>
    if !formatA a.efmt || !formatB b.efmt || a.planes != 0 then .error 0x40
    else if isFloat a.efmt != isFloat b.efmt then .error 0x43
    else .ok (a, b)
  | _, _ => .error 0x40

/-- The checks of MLOOP (R308). (log 83 DEDUCED) -/
def CmdSource.checkLoop (c : CmdSource) (dn fa fb : Nat) : Option Raise :=
  let d := loopOf (c.desc dn)
  if d.reserved != 0 then some (c.raise 0x43)
  else
    match loopSlots c.la fa fb with
    | .error code => some (c.raise code)
    | .ok (a, b) =>
      if d.aoff % 16 != 0 || d.astep % 16 != 0 then some (c.spaceRaise 0x27 .scratch d.aoff)
      else if d.boff % 256 != 0 || d.bstep % 256 != 0 then some (c.spaceRaise 0x27 .scratch d.boff)
      else
        match (d.ranges a b 0 ++ d.ranges a b (d.steps - 1)).findSome? fun r => c.range .scratch r.1 r.2 (r.2 - r.1).toNat with
        | some r => some r
        | none => if (stageOf c.la c.it).accrows < d.accrow + d.m then some (c.raise 0x42) else none

/-- First row and count of a row register (R305). -/
def rowRange (x : Nat) : Nat × Nat := (bitsOf x 8 0, bitsOf x 24 16 + 1)

/-- The slot of MREAD and MWRITE (R312, R313). -/
def moveSlot (la : Launch) (n : Nat) : Option Slot :=
  match slotOf (la.slots.getD n 0) with
  | some f =>
    let ok := match f.efmt with
      | .fp .acc36 => false
      | .fp _ => true
      | .int _ w => w != 64
      | .ni _ | .accInt => false
    let small := f.efmt == .fp .e4m3 || f.efmt == .fp .e5m2 || f.efmt == .fp .e2m1
    if ok && (!f.scaled || small) then some f else none
  | none => none

/-- The pitch of MREAD and MWRITE: IMM16 in units of 16 B, or packed. -/
def movePitch (f : Slot) (imm : Nat) : Nat := if imm == 0 then rowPitch f.efmt else imm * 16

/-- The checks of MREAD and MWRITE (R315). -/
def CmdSource.checkMove (c : CmdSource) (sp : Space) (slot imm rows addr : Nat) : Option Raise :=
  if sp != .scratch && sp != .shared then some (c.raise 0x43)
  else
    match moveSlot c.la slot with
    | none => some (c.raise 0x40)
    | some f =>
      let (first, n) := rowRange rows
      let pitch := movePitch f imm
      if imm != 0 && pitch < rowBytes f.efmt 256 then some (c.raise 0x43)
      else if (stageOf c.la c.it).accrows < first + n then some (c.raise 0x42)
      else if addr % 16 != 0 then some (c.spaceRaise 0x27 sp addr)
      else
        let hi := addr + (n - 1) * pitch + rowBytes f.efmt 256
        match c.range sp addr hi (hi - addr) with
        | some r => some r
        | none => if f.scaled then c.range sp (addr + n * pitch) (addr + n * pitch + n * scaleBytes f) (n * scaleBytes f) else none

/-- The checks of MZERO (R315). -/
def CmdSource.checkZero (c : CmdSource) (rows : Nat) : Option Raise :=
  let r := rowRange rows
  if (stageOf c.la c.it).accrows < r.1 + r.2 then some (c.raise 0x42) else none

/-- The checks of a matrix command. -/
def CmdSource.checkMatrix (c : CmdSource) : Option Raise :=
  match c.i with
  | .mloop _ dn _ fa fb => c.checkLoop dn.toNat fa.toNat fb.toNat
  | .mzero _ _ a => c.checkZero (c.word a)
  | .mread _ _ a b slot sp _ _ pitch => c.checkMove sp slot.toNat pitch.toNat (c.word a) (c.word b)
  | .mwrite _ _ a b slot sp _ pitch => c.checkMove sp slot.toNat pitch.toNat (c.word a) (c.word b)
  | _ => none

/-- The operands of a matrix command as read at issue: the descriptor, and the row and address registers. -/
def CmdSource.matrixArgs (c : CmdSource) : List (BitVec 256) × Nat :=
  match c.i with
  | .mloop _ dn _ _ _ => ([c.desc dn.toNat], 0)
  | .mzero _ _ a => ([], c.word a)
  | .mread _ _ a b _ _ _ _ _ | .mwrite _ _ a b _ _ _ _ => ([], c.word a + c.word b * 2 ^ 32)
  | _ => ([], 0)

/-! The array queue (R304). -/

/-- Whether a command is an MLOOP. -/
def isLoop : Instr → Bool
  | .mloop _ _ _ _ _ => true
  | _ => false

/-- The first command of an item in an array queue. -/
def arrayHead (q : List Command) (item : Nat) : Option Command := q.find? fun e => e.item == item

/-- The array is to serve the first command of an item, if it is resolved (R304, R321). -/
def arrayNext (tile item : Nat) (s : State) : State :=
  match arrayHead (s.tile tile).array item with
  | some e =>
    if e.guardSlot.isSome then wakeGuard e s
    else if isLoop e.op && !e.finished then s.later (.mloopStep tile) else s.later (.matrixCompletion tile)
  | none => s

/-- A command put into its tile's array queue; none where it must wait. -/
def enqueueMatrix (tile : Nat) (e : Command) (s : State) : Option State :=
  let t := s.tile tile
  match queueTakes t.array 16 (floorStages s tile true) e.launch e.stage with
  | none => none
  | some floor =>
    let head := (arrayHead t.array e.item).isNone
    let s := s.setTile tile { t with array := t.array ++ [{ e with no := freeEntry t.array 16, floor := floor }] }
    some (if head then arrayNext tile e.item s else s)

/-- A matrix command replaced in its queue. -/
def putMatrix (tile : Nat) (e : Command) (s : State) : State :=
  s.setTile tile { s.tile tile with array := (s.tile tile).array.map fun x => if x.id == e.id then e else x }

/-- A matrix command issued by a strand (R199, R304); `d` is the pair that MSTAT writes. -/
def matrixCommand (d : Option Opnd) (k : BitVec 6) (c : Issue) (s : State) : Act :=
  if !c.once then .done s
  else
    let src := c.source
    match src.checkMatrix with
    | some r => .trap r s
    | none =>
      let n := s.newId
      let args := src.matrixArgs
      let e := { src.command n.1 args.1 args.2 with pend := d.map fun _ => n.1 }
      match enqueueMatrix c.it.tile e n.2 with
      | none => .wait .engine s
      | some s =>
        let s := match d with
          | some d => owe c n.1 d 2 c.electedMask s
          | none => s
        .done (commandIssued c n.1 k.toNat s)

/-- MLOOP (R309). -/
def execMloop (g : Guard) (dn : BitVec 4) (k : BitVec 6) (fa fb : BitVec 3) (s : State) : Host.Outcome State Fault Refusal :=
  issue (.mloop g dn k fa fb) s (matrixCommand none k)

/-- MZERO (R311). -/
def execMzero (g : Guard) (k : BitVec 6) (a : Opnd) (s : State) : Host.Outcome State Fault Refusal :=
  issue (.mzero g k a) s (matrixCommand none k)

/-- MREAD (R312). -/
def execMread (g : Guard) (k : BitVec 6) (a b : Opnd) (slot : BitVec 3) (sp : Space) (int clr : Bool) (pitch : BitVec 16)
    (s : State) : Host.Outcome State Fault Refusal :=
  issue (.mread g k a b slot sp int clr pitch) s (matrixCommand none k)

/-- MWRITE (R314). -/
def execMwrite (g : Guard) (k : BitVec 6) (a b : Opnd) (slot : BitVec 3) (sp : Space) (int : Bool) (pitch : BitVec 16)
    (s : State) : Host.Outcome State Fault Refusal :=
  issue (.mwrite g k a b slot sp int pitch) s (matrixCommand none k)

/-- MSTAT (R316). -/
def execMstat (g : Guard) (d : Opnd) (k : BitVec 6) (s : State) : Host.Outcome State Fault Refusal :=
  issue (.mstat g d k) s (matrixCommand (some d) k)

/-! Accumulator words. -/

/-- The place of a word of an item's window. -/
def accIndex (it : Item) (row n : Nat) : Nat := (it.accBase + row) * 256 + n

/-- A word of an item's window; none where it cannot be read. -/
def accRead (s : State) (it : Item) (row n : Nat) : Option (BitVec 36) :=
  let k := accIndex it row n
  if (s.tile it.tile).accBad.contains k then none else some (Table.get 0 k (s.tile it.tile).acc)

/-- A word of an item's window written. -/
def accWrite (it : Item) (row n : Nat) (w : BitVec 36) (s : State) : State := accStore it.tile (accIndex it row n) w s

/-- A field of an item's MSTAT put (R316). -/
def putMstat (item hi lo x : Nat) (s : State) : State :=
  s.adjItem item fun it => { it with mstat := BitVec.ofNat 64 (putBits it.mstat.toNat hi lo x) }

/-- A count of MSTAT advanced, saturating. -/
def countMstat (item hi lo : Nat) (s : State) : State :=
  s.adjItem item fun it =>
    let x := bitsOf it.mstat.toNat hi lo
    { it with mstat := BitVec.ofNat 64 (putBits it.mstat.toNat hi lo (min (x + 1) (2 ^ (hi + 1 - lo) - 1))) }

/-- MSTAT as it is read: REVIEW is the tile's (R316). -/
def mstatOf (s : State) (it : Item) : Nat :=
  putBits it.mstat.toNat 39 39 (bitsOf (Table.get 0 it.tile s.health.tilehealth).toNat 31 31)

/-- A matrix cause charged to the strand that was elected at issue (R318, R320, R431). -/
def matrixCause (code : Nat) (e : Command) (s : State) : State :=
  match Map.find e.item s.items with
  | none => s
  | some it =>
    charge e.strand { code := code, info0 := e.w1.toNat, info1 := mstatOf s it, origin := 2, pc := e.pc, gen := e.gen
                      precise := false, retcnt := e.retcnt } s

/-- What the health unit does at a MATRIX_CHECK (R456): MCHK, REVIEW, a notice, and quarantine at the second. -/
def noteCheck (tile launch strand : Nat) (s : State) : State :=
  let h := (Table.get 0 tile s.health.tilehealth).toNat
  let n := min 255 (bitsOf h 39 32 + 1)
  let h := putBits (putBits h 39 32 n) 31 31 1
  let h := if bitOf s.health.beaconcfg.toNat 16 && 2 ≤ n && bitsOf h 2 0 == 0 then putBits h 2 0 4 else h
  postNotice (noticeOf 3 0x41 launch tile 1 strand FaultRec.none)
    { s with health := { s.health with tilehealth := Table.put 0 tile (BitVec.ofNat 64 h) s.health.tilehealth } }

/-! MLOOP at work (R306, R309, R317 to R319). -/

/-- What a step reads of B: the planes of each row k, its scale bytes, and which of them are unreadable. -/
structure StackView where
  plane : Nat → Nat → Nat → Bool
  badRow : Nat → Nat → Bool
  scale : Nat → Nat → Nat
  badScale : Nat → Nat → Bool

/-- A plane stack as it stands in scratchpad (R100, R101): bit (plane, k, n), words of 32 bits that cannot be read by row
and column, and the scale of block j and column n. -/
def stackOf (l : Level) (base : Nat) (f : Slot) : StackView :=
  let planes := planeCount f.efmt f.planes
  let scaleAt (j n : Nat) : Nat := base + 8192 * planes + 256 * j + n
  { plane := fun q k n => bitOf (l.mem.read (planeRow base q k + n / 8)).toNat (n % 8)
    badRow := fun k n => (upTo planes).any fun q => l.hits (planeRow base q k + n / 8) 1
    scale := fun j n => (l.mem.read (scaleAt j n)).toNat
    badScale := fun j n => f.scaled && l.hits (scaleAt j n) 1 }

/-- What a step reads of one A row: its element patterns, its scale bytes, and which bytes are unreadable. -/
structure RowView where
  elem : Nat → Nat
  badElem : Nat → Bool
  scale : Nat → Nat
  badScale : Nat → Bool

/-- An A row and its scale row as they stand in scratchpad. -/
def rowOf (l : Level) (base scales : Nat) (f : Slot) : RowView :=
  let bits := ofLeBytes (l.mem.readBytes base (rowBytes f.efmt 256))
  let place (k : Nat) : Nat := match f.efmt with
    | .ni n => 4 * n * (k / 32)
    | g => k * g.bits / 8
  let span : Nat := match f.efmt with
    | .ni n => 4 * n
    | g => (g.bits + 7) / 8
  { elem := rowGet f.efmt bits
    badElem := fun k => l.hits (base + place k) span
    scale := fun j => (l.mem.read (scales + j)).toNat
    badScale := fun j => f.scaled && l.hits (scales + j) 1 }

/-- The exponent of an element's scale; none where it is NaN, 0 without scales. -/
def scaleOr (f : Slot) (byte : Nat) : Option Int := if f.scaled then scaleExp byte else some 0

/-- Whether a group of an output depends on a byte that cannot be read (R320). -/
def groupBad (fa fb : Slot) (a : RowView) (b : StackView) (n g : Nat) : Bool :=
  a.badScale (32 * g / fa.block) || b.badScale (32 * g / fb.block) n ||
    (upTo 32).any fun i => a.badElem (32 * g + i) || b.badRow (32 * g + i) n

/-- The sum of a floating group for one output (R301). -/
def floatGroup (fa fb : Slot) (ka kb : FKind) (a : RowView) (b : StackView) (n g : Nat) : Fp × Flags :=
  match scaleOr fa (a.scale (32 * g / fa.block)), scaleOr fb (b.scale (32 * g / fb.block) n) with
  | some sa, some sb =>
    groupSum ((upTo 32).map fun i =>
      let k := 32 * g + i
      productOf (cellA fa ka (a.elem k)) (cellB fb kb fun q => b.plane q k n) (sa + sb))
  | _, _ => (.nan, 0)

/-- The sum of an integer group for one output (R303). -/
def intGroup (fa fb : Slot) (a : RowView) (b : StackView) (n g : Nat) : Int :=
  (upTo 32).foldl (fun acc i =>
    let k := 32 * g + i
    acc + intA fa.efmt (a.elem k) * intB fb fun q => b.plane q k n) 0

/-- One output word after the eight groups of a step (R301, R303): the word, the flags, and whether it was poisoned. A
word whose result depends on a byte that cannot be read is written as poison in its place, with no flag (R320). -/
def outputWord (fa fb : Slot) (a : RowView) (b : StackView) (n : Nat) (w : Option (BitVec 36)) : BitVec 36 × Flags × Bool :=
  match w with
  | none => (accPoison, 0, true)
  | some w =>
    if (upTo 8).any (groupBad fa fb a b n) then (accPoison, 0, true)
    else
      let r := (upTo 8).foldl (fun (acc : BitVec 36 × Flags) g =>
        let r := match fa.efmt, fb.efmt with
          | .fp ka, .fp kb => accAddFloat acc.1 (floatGroup fa fb ka kb a b n g)
          | _, _ => accAddInt acc.1 (intGroup fa fb a b n g)
        (r.1, acc.2 ||| r.2)) (w, 0)
      (r.1, r.2, false)

/-- A loop at work: its command with item and launch, its descriptor, and its slots. -/
structure LoopJob where
  x : Job
  d : LoopDesc
  fa : Slot
  fb : Slot

/-- A row of A with its scale row as scratchpad holds them when it streams (R306). -/
def LoopJob.row (j : LoopJob) (step m : Nat) (s : State) : RowView :=
  let k : Int := (step : Nat)
  rowOf (scrLevel s j.x.it.tile j.x.it.launch) ((j.d.aoff : Int) + k * j.d.astep + ((m * rowPitch j.fa.efmt : Nat) : Int)).toNat
    ((j.d.asoff : Int) + k * j.d.sstep + ((m * scaleBytes j.fa : Nat) : Int)).toNat j.fa

/-- A row of a step (R309): every word of it read, added to and written. -/
def loopRow (j : LoopJob) (b : StackView) (step m : Nat) (r : State × Flags × Bool) : State × Flags × Bool :=
  let it := j.x.it
  let a := j.row step m r.1
  (upTo 256).foldl (fun (acc : State × Flags × Bool) n =>
    let w := outputWord j.fa j.fb a b n (accRead acc.1 it (j.d.accrow + m) n)
    (accWrite it (j.d.accrow + m) n w.1 acc.1, acc.2.1 ||| w.2.1, acc.2.2 || w.2.2)) r

/-! The shadow plane sets and the checks (R297, R306, R317). -/

/-- The bits of a run of planes as a number, most significant first. -/
def planeNum (plane : Nat → Bool) (first n : Nat) : Nat :=
  (upTo n).foldl (fun x i => 2 * x + (if plane (first + i) then 1 else 0)) 0

/-- α of an A element (R300): its significand as an integer with the sign applied, or its value. -/
def alphaOf (f : Slot) (bits : Nat) : Int :=
  match f.efmt with
  | .fp g =>
    let x := g.flushed f.flush bits
    let sig : Int := (if bitsOf x (g.ew + g.fw - 1) g.fw == 0 then 0 else 2 ^ g.fw : Nat) + (bitsOf x (g.fw - 1) 0 : Nat)
    if bitOf x (g.ew + g.fw) then -sig else sig
  | e => intA e bits

/-- β of a B element (R300): the planes read as an integer, with the sign applied, and 2β + 1 where the midpoint stands for
the rest. -/
def betaOf (f : Slot) (plane : Nat → Bool) : Int :=
  match f.efmt with
  | .fp g =>
    let k := if f.planes == 0 then g.fw + 1 else f.planes
    let sig : Int := (if f.flush && planeNum plane 1 g.ew == 0 then 0 else planeNum plane (g.ew + 1) k : Nat)
    let m := if sig == 0 || !f.mid || k == g.fw + 1 then sig else 2 * sig + 1
    if plane 0 then -m else m
  | .ni n =>
    let k := if f.planes == 0 then n else f.planes
    let x := signedOf k (planeNum plane 0 k)
    if f.mid && k != n then 2 * x + 1 else x
  | _ => intB f plane

/-- Σ over the 32 rows of K-group g of β(k, n). -/
def columnSum (f : Slot) (b : StackView) (n g : Nat) : Int := ((upTo 32).map fun i => betaOf f fun q => b.plane q (32 * g + i) n).sum

/-- Cβ(k), the sum over n of β(k, n). -/
def checkTerm (f : Slot) (b : StackView) (k : Nat) : Int := ((upTo 256).map fun n => betaOf f fun q => b.plane q k n).sum

/-- The shadow set that a load for a step forms of the stack at `base` (R306), with the loader's sums (R317). -/
def loadSet (l : Level) (base : Nat) (f : Slot) (cmd step : Nat) : PlaneSet :=
  let mem := cut base (stackBytes f) l.mem
  let bad := cutNums (base / 16) (stackBytes f / 16) l.bad
  let b := stackOf ⟨mem, bad, 16⟩ 0 f
  { cmd := cmd, step := step, mem := mem, bad := bad, sums := (upTo 2048).map fun i => columnSum f b (i / 8) (i % 8)
    terms := (upTo 256).map (checkTerm f b) }

/-- What a set shows of the stack that it holds. -/
def PlaneSet.view (p : PlaneSet) (f : Slot) : StackView := stackOf ⟨p.mem, p.bad, 16⟩ 0 f

/-- Whether a column of B has something that cannot be read. -/
def columnBad (b : StackView) (n : Nat) : Bool :=
  (upTo 256).any (fun k => b.badRow k n) || (upTo 8).any fun j => b.badScale j n

/-- Whether the checksum row disagrees (R317): for some column that can be read and some group, the cells' sum with the one
that the loader formed. -/
def PlaneSet.rowFails (p : PlaneSet) (f : Slot) : Bool :=
  let b := p.view f
  (upTo 256).any fun n => !columnBad b n && (upTo 8).any fun g => columnSum f b n g != p.sums.getD (8 * n + g) 0

/-- Σ over n of X(m, n, g), as the cells form it (R317). -/
def cellsSum (fa fb : Slot) (a : RowView) (b : StackView) (g : Nat) : Int :=
  ((upTo 256).map fun n =>
    ((upTo 32).map fun i => alphaOf fa (a.elem (32 * g + i)) * betaOf fb fun q => b.plane q (32 * g + i) n).sum).sum

/-- Σ over k of α(m, k) × Cβ(k), the reference of the checksum column (R317). -/
def referenceSum (fa : Slot) (a : RowView) (p : PlaneSet) (g : Nat) : Int :=
  ((upTo 32).map fun i => alphaOf fa (a.elem (32 * g + i)) * p.terms.getD (32 * g + i) 0).sum

/-- A reference with its bit 0 inverted (R319). -/
def flipBit (x : Int) : Int := if x % 2 == 0 then x + 1 else x - 1

/-- Whether a row is not compared, because an operand of it cannot be read (R317, R320). (log 81 DEDUCED) -/
def rowPoisoned (fa fb : Slot) (a : RowView) (b : StackView) : Bool :=
  (upTo 256).any fun n => (upTo 8).any fun g => groupBad fa fb a b n g

/-- Whether the checksum column of a row disagrees in some group, the reference of group `inject` corrupted (R317, R319). -/
def columnFails (fa fb : Slot) (a : RowView) (p : PlaneSet) (inject : Option Nat) : Bool :=
  let b := p.view fb
  !rowPoisoned fa fb a b && (upTo 8).any fun g =>
    let ref := referenceSum fa a p g
    cellsSum fa fb a b g != if inject == some g then flipBit ref else ref

/-- The group whose reference an armed MTESTINJ of a tile corrupts in a row, and whether the rerun is struck too (R319). -/
def injection (tile m : Nat) (s : State) : Option (Nat × Bool) :=
  let v := (s.tile tile).mtestinj.toNat
  if bitOf v 63 && bitsOf v 40 32 == m then some (v % 8, bitOf v 48) else none

/-- The injection of a tile is spent. -/
def disarm (tile : Nat) (s : State) : State :=
  let t := s.tile tile
  s.setTile tile { t with mtestinj := BitVec.ofNat 64 (putBits t.mtestinj.toNat 63 63 0) }

/-- A rerun noted in MSTAT (R316, R318): of a row, or after a mismatch of the checksum row. -/
def noteRerun (item : Nat) (row : Option Nat) (s : State) : State :=
  putMstat item 9 9 (if row.isNone then 1 else 0) (putMstat item 8 0 (row.getD 0) (countMstat item 63 48 s))

/-- A step on its way: the state, flags, whether an operand was unreadable, whether the step has been rerun, and whether it
has stopped. -/
structure StepRun where
  s : State
  flags : Flags
  bad : Bool
  reran : Bool
  stopped : Bool

/-- A row of a step, compared and written (R309, R317 to R319). The first mismatch of a step streams the row again; a second
one, in any row, stops the step before the row is written. -/
def checkedRow (j : LoopJob) (p : PlaneSet) (step m : Nat) (r : StepRun) : StepRun :=
  if r.stopped then r
  else
    let tile := j.x.it.tile
    let a := j.row step m r.s
    let b := p.view j.fb
    let hit := if rowPoisoned j.fa j.fb a b then none else injection tile m r.s
    let write (r : StepRun) : StepRun :=
      let w := loopRow j b step m (r.s, r.flags, r.bad)
      { r with s := w.1, flags := w.2.1, bad := w.2.2 }
    let spent (s : State) : State := if hit.isSome then disarm tile s else s
    if !columnFails j.fa j.fb a p (hit.map (·.1)) then write { r with s := spent r.s }
    else if r.reran then { r with s := spent r.s, stopped := true }
    else
      let again := columnFails j.fa j.fb a p ((hit.filter (·.2)).map (·.1))
      let r := { r with s := noteRerun j.x.e.item (some m) (spent r.s), reran := true }
      if again then { r with stopped := true } else write r

/-- The shadow sets of a tile without those of a command. -/
def otherSets (tile cmd : Nat) (s : State) : List PlaneSet := (s.tile tile).shadow.filter fun p => p.cmd != cmd

/-- A command's shadow set replaced, or given up. -/
def setShadow (tile cmd : Nat) (p : Option PlaneSet) (s : State) : State :=
  s.setTile tile { s.tile tile with shadow := otherSets tile cmd s ++ p.toList }

/-- The shadow set of a loop's step as its load forms it now. -/
def LoopJob.load (j : LoopJob) (step : Nat) (s : State) : PlaneSet :=
  loadSet (scrLevel s j.x.it.tile j.x.it.launch) ((j.d.boff : Int) + (step : Nat) * j.d.bstep).toNat j.fb j.x.e.id step

/-- The shadow set of the step at hand (R306): the one loaded during the step before, or loaded now for the first step, or
for the first after a restore (R322). -/
def LoopJob.set (j : LoopJob) (s : State) : PlaneSet :=
  match (s.tile j.x.it.tile).shadow.find? fun p => p.cmd == j.x.e.id && p.step == j.x.e.cursor with
  | some p => p
  | none => j.load j.x.e.cursor s

/-- One step of an MLOOP (R309, R317, R318): the checksum row, after whose first mismatch the set is loaded again; then all
rows, while the set of the next step is loaded; or the rows before one whose check fails a second time in the step, which
ends the loop. -/
def loopStep (j : LoopJob) (s : State) : State :=
  let x := j.x
  let tile := x.it.tile
  let step := x.e.cursor
  let first := j.set s
  let reload := first.rowFails j.fb
  let p := if reload then j.load step s else first
  let next := if step + 1 < j.d.steps then some (j.load (step + 1) s) else none
  let start : StepRun := ⟨if reload then noteRerun x.e.item none s else s, x.e.flags, false, reload, reload && p.rowFails j.fb⟩
  let r := (upTo j.d.m).foldl (fun r m => checkedRow j p step m r) start
  let e := { x.e with flags := r.flags, err := if r.bad then 1 else x.e.err }
  if r.stopped then
    let s := putMstat e.item 31 16 step (countMstat e.item 47 40 (setShadow tile e.id none r.s))
    let logical := match s.strand e.strand with
      | some st => logicalId x.la x.it st.inItem
      | none => 0
    let s := noteCheck tile e.launch logical s
    matrixCause 0x41 e (putMatrix tile { e with finished := true } s)
  else
    putMatrix tile { e with cursor := step + 1, finished := j.d.steps ≤ step + 1 }
      (putMstat e.item 31 16 (step + 1) (setShadow tile e.id next r.s))

/-- The command an array serves next of those that satisfy a test: the items' first commands in round robin (R304). (log 80 DEDUCED) -/
def arrayPick (tile : Nat) (f : Command → Bool) (s : State) : Option Command :=
  let q := (s.tile tile).array
  let heads := ((q.map (·.item)).eraseDups.filterMap fun i => arrayHead q i).filter fun e => e.guardSlot.isNone && f e
  let sorted := heads.sortedBy fun a b => a.item ≤ b.item
  match sorted.find? fun e => (s.tile tile).turn < e.item with
  | some e => some e
  | none => sorted.head?

/-- MLOOP_STEP (R309): the array streams one step of the loop whose turn it is. -/
def execMloopStep (tile : Nat) (s : State) : Host.Outcome State Fault Refusal :=
  match (if tile < 768 then arrayPick tile (fun e => isLoop e.op && !e.finished) s else none) with
  | none => .next s
  | some e =>
    let s := s.setTile tile { s.tile tile with turn := e.item }
    match jobOf e s, e.op with
    | some x, .mloop _ _ _ fa fb =>
      match loopSlots x.la fa.toNat fb.toNat with
      | .ok (a, b) =>
        let s := if e.cursor == 0 then putMstat e.item 31 16 0 s else s
        .next (arrayNext tile e.item (loopStep ⟨{ x with e := { e with state := .active, started := true } },
          loopOf (e.descs.getD 0 0), a, b⟩ s))
      | .error _ => .next (arrayNext tile e.item (putMatrix tile { e with finished := true } s))
    | _, _ => .next s

/-! MZERO, MREAD and MWRITE (R311 to R314). -/

/-- The value of an accumulator word (R312). -/
def accValue (int : Bool) (w : BitVec 36) : Fp :=
  if int then Fp.ofInt (signedOf 36 w.toNat) else FKind.acc36.read w.toNat

/-- floor(log2) of a finite magnitude that is not 0. -/
def floorLog2 (m : Nat) (e : Int) : Int := Nat.log2 m + e

/-- emaxE of R313. -/
def emaxOf (f : EFmt) : Int :=
  if f == .fp .e4m3 then 8 else if f == .fp .e5m2 then 15 else 2

/-- The scale byte of a block of words (R313), and NV where an infinity made it NaN. -/
def blockScale (f : EFmt) (ws : List Fp) : Nat × Flags :=
  let inf := ws.any fun w => match w with | .inf _ => true | _ => false
  let nan := ws.any Fp.isNan
  if inf || nan then (0xFF, if inf then flagNV else 0)
  else
    let logs := ws.filterMap fun w => match w with
      | .fin _ m e => if m == 0 then none else some (floorLog2 m e)
      | _ => none
    match logs with
    | [] => (0, 0)
    | l :: ls => ((max 0 (min 254 (ls.foldl max l - emaxOf f + 127))).toNat, 0)

/-- An element that MREAD forms (R30, R33 to R35): an integer word goes to an integer format by R34's rule for integers. -/
def readElement (f : Slot) (int : Bool) (u : Nat) (w : BitVec 36) (scale : Int) : Nat × Flags :=
  match f.efmt with
  | .int sg n =>
    if int then
      let r := intToInt f.sat sg n (signedOf 36 w.toNat)
      (lowBits n r.1, r.2)
    else f.store u (accValue false w)
  | _ => f.store u ((accValue int w).scale (-scale))

/-- The level that MREAD and MWRITE reach. -/
def moveLevel (s : State) (it : Item) (sp : Space) : Level :=
  match sp with
  | .shared => match Map.find it.convoy s.convoys with
    | some cv => cv.level
    | none => ⟨[], [], 16⟩
  | _ => scrLevel s it.tile it.launch

/-- The level replaced. -/
def setMoveLevel (it : Item) (sp : Space) (l : Level) (s : State) : State :=
  match sp with
  | .shared => setShared it.convoy l s
  | _ => setScr it.tile it.launch l s

/-- The elected thread of a command: its id and its draw counter (R31). -/
def commandThread (x : Job) (s : State) : Nat × Nat :=
  match s.strand x.e.strand with
  | some st => (threadId x.it st.inItem x.e.lane, (st.lanes.get x.e.lane).draw.toNat)
  | none => (0, 0)

/-- Draws that a command has made leave the thread's counter (R31). -/
def drawMany (x : Job) (n : Nat) (s : State) : State :=
  s.adjStrand x.e.strand fun st => st.adjLane x.e.lane fun l => { l with draw := l.draw + BitVec.ofNat 64 n }

/-- What a command that moves rows has done so far: the state, flags, draws, and whether it met poison. -/
structure MoveRun where
  s : State
  flags : Flags
  draws : Nat
  bad : Bool

/-- One row of MREAD (R312, R313, R320). -/
def readRow (x : Job) (f : Slot) (sp : Space) (int clr : Bool) (row dst scaleDst : Nat) (r : MoveRun) : MoveRun :=
  let words := (upTo 256).map fun n => accRead r.s x.it row n
  let block (n : Nat) : List (Option (BitVec 36)) := (words.drop (n / f.block * f.block)).take f.block
  let lost (n : Nat) : Bool := if f.scaled then (block n).contains none else (words.getD n none).isNone
  let scales := if !f.scaled then [] else (upTo (256 / f.block)).map fun j =>
    let ws := (words.drop (j * f.block)).take f.block
    if ws.contains none then (0xFF, 0) else blockScale f.efmt (ws.map fun w => accValue int (w.getD 0))
  let t := commandThread x r.s
  let sr := f.rnd == .sr
  let els := (upTo 256).map fun n =>
    let sc := (scales.getD (n / f.block) (127, 0)).1
    let u := if sr then (rngValue x.la.seed.toNat t.1 (t.2 + r.draws + n)).toNat else 0
    if lost n then (poison f.efmt.bits, (0 : Flags))
    else if f.scaled && sc == 0xFF then (0, 0)
    else readElement f int u ((words.getD n none).getD 0) (if f.scaled then (sc : Int) - 127 else 0)
  let bytes := leBytes (rowBytes f.efmt 256) (rowPut f.efmt (els.map (·.1)))
  let l := (moveLevel r.s x.it sp).store dst bytes
  let l := if f.scaled then l.store scaleDst (scales.map fun y => BitVec.ofNat 8 y.1) else l
  let s := setMoveLevel x.it sp l r.s
  let s := if clr then (upTo 256).foldl (fun s n => accWrite x.it row n 0 s) s else s
  { s := s, flags := scales.foldl (fun a y => a ||| y.2) (els.foldl (fun a y => a ||| y.2) r.flags)
    draws := r.draws + (if sr then 256 else 0), bad := r.bad || (upTo 256).any lost }

/-- A value converted to an accumulator word (R314); a NaN source gives 0x7_FC00_0000. (log 79 DEDUCED) -/
def writeElement (f : Slot) (int : Bool) (u bits : Nat) (scale : Option Int) : BitVec 36 × Flags :=
  match scale with
  | none => (0x7FC000000, if int then flagNV else 0)
  | some sc =>
    match f.efmt with
    | .fp g =>
      let v := (g.read (g.flushed f.flush bits)).scale sc
      if v.isNan then (0x7FC000000, if int then flagNV else 0)
      else if int then
        let r := fpToInt f.rnd u (intRange true 36) v
        (BitVec.ofInt 36 r.1, r.2)
      else let r := FKind.acc36.round f.rnd u false false v; (BitVec.ofNat 36 r.1, r.2)
    | fmt =>
      match fmt.value bits with
      | .fin n m e =>
        if int then (BitVec.ofInt 36 (if n then -(m : Int) else m), 0)
        else let r := FKind.acc36.round f.rnd u false false (.fin n m e); (BitVec.ofNat 36 r.1, r.2)
      | _ => (0, 0)

/-- One row of MWRITE (R314, R320). -/
def writeRow (x : Job) (f : Slot) (sp : Space) (int : Bool) (row src scaleSrc : Nat) (r : MoveRun) : MoveRun :=
  let l := moveLevel r.s x.it sp
  let bits := ofLeBytes (l.mem.readBytes src (rowBytes f.efmt 256))
  let w := f.efmt.bits
  let t := commandThread x r.s
  let draws := f.rnd == .sr && (!int || isFloat f.efmt)
  (upTo 256).foldl (fun r n =>
    let lost := l.hits (src + n * w / 8) ((w + 7) / 8) || (f.scaled && l.hits (scaleSrc + n / f.block) 1)
    let sc := if f.scaled then scaleExp (l.mem.read (scaleSrc + n / f.block)).toNat else some 0
    let u := if draws then (rngValue x.la.seed.toNat t.1 (t.2 + r.draws)).toNat else 0
    let y := if lost then (accPoison, (0 : Flags)) else writeElement f int u (rowGet f.efmt bits n) sc
    { s := accWrite x.it row n y.1 r.s, flags := r.flags ||| y.2, draws := r.draws + (if draws then 1 else 0)
      bad := r.bad || lost }) r

/-- A matrix command other than MLOOP run whole. -/
def runMatrix (x : Job) (s : State) : MoveRun :=
  let rows := rowRange (bitsOf x.e.value.toNat 31 0)
  let addr := bitsOf x.e.value.toNat 63 32
  let r0 : MoveRun := { s := s, flags := x.e.flags, draws := 0, bad := false }
  match x.e.op with
  | .mzero _ _ _ =>
    { r0 with s := (upTo rows.2).foldl (fun s i => (upTo 256).foldl (fun s n => accWrite x.it (rows.1 + i) n 0 s) s) s }
  | .mread _ _ _ _ slot sp int clr pitch =>
    match moveSlot x.la slot.toNat with
    | none => r0
    | some f =>
      let p := movePitch f pitch.toNat
      (upTo rows.2).foldl (fun r i =>
        readRow x f sp int clr (rows.1 + i) (addr + i * p) (addr + rows.2 * p + i * scaleBytes f) r) r0
  | .mwrite _ _ _ _ slot sp int pitch =>
    match moveSlot x.la slot.toNat with
    | none => r0
    | some f =>
      let p := movePitch f pitch.toNat
      (upTo rows.2).foldl (fun r i =>
        writeRow x f sp int (rows.1 + i) (addr + i * p) (addr + rows.2 * p + i * scaleBytes f) r) r0
  | _ => r0

/-- A matrix command completes, in the order of R147: MATRIX_POISON once, flags, result, counter, entry. -/
def completeMatrix (tile : Nat) (e : Command) (s : State) : State :=
  let s := if e.err == 0 then s else matrixCause 0x44 e (putMstat e.item 38 38 1 s)
  let s := s.adjStrand e.strand fun st => { st with fstat := st.fstat ||| e.flags }
  let s := match Map.find e.item s.items with
    | some it => giveResult { e with value2 := BitVec.ofNat 64 (mstatOf s it) } s
    | none => s
  let s := countEnd tile e.launch e.item e.id (commandCounter e) s
  let s := s.setTile tile { s.tile tile with array := (s.tile tile).array.filter fun x => x.id != e.id }
  afterCommand { e with err := 0 } 1 (arrayNext tile e.item s)

/-- MATRIX_COMPLETION (R304): the command whose turn it is runs whole and completes; an MLOOP completes after its last
step. -/
def execMatrixCompletion (tile : Nat) (s : State) : Host.Outcome State Fault Refusal :=
  match (if tile < 768 then arrayPick tile (fun e => !isLoop e.op || e.finished) s else none) with
  | none => .next s
  | some e =>
    let s := s.setTile tile { s.tile tile with turn := e.item }
    match jobOf e s with
    | none => .next s
    | some x =>
      if e.finished then .next (completeMatrix tile e s)
      else
        let r := runMatrix x s
        .next (completeMatrix tile { e with flags := r.flags, err := if r.bad then 1 else e.err } (drawMany x r.draws r.s))

end Sys2Proof.Machine
end

