-- ==== Sys2Proof/Machine/Queue.lean ====
section
/-! DEFINITION. Stage queues: QPUSH, QPOP and QPEEK (09_isa_memory_sync.md R240 to R243, 13_execution.md R378,
14_scheduling.md R400, R411). -/

namespace Sys2Proof.Machine

/-- The address of a record in its ring (R378). -/
def Queue.place (q : Queue) (n : Nat) : Nat := q.qbase + 64 * (n % q.depth)

/-- What lane `l` of a strand supplies to a record: four registers, or zeros where it is not active (R241). -/
def Issue.recordPart (c : Issue) (b : Opnd) (l : Nat) : List Byte :=
  if c.active.getLsbD l then (upTo 4).flatMap fun k => leBytes 4 (c.regAt l b k).toNat else List.replicate 16 0

/-- A queue instruction put in flight: the registers and the predicate of its active lanes are locked until its answer
comes (R130). -/
def Issue.queueFlight (c : Issue) (kind : PendKind) (la : BitVec 4) (writes : List RegWrite) (ps : BitVec 3) (ok : Bool)
    (poisoned : BitVec 4) (s : State) : State :=
  let n := s.newId
  let p : Pending :=
    { id := n.1, kind := kind, pc := c.pc, w1 := c.w1, w2 := c.w2, left := la.toNat
      locks := writes.map (fun w => (w.lane, w.reg)) ++
        (if ps == 7 then [] else (lanesIn c.active).map fun l => (l, predLock ps))
      writes := writes, preds := (lanesIn c.active).map fun l => (l, ps, ok), poisoned := poisoned, killed := 0, flags := 0
      causes := [], ready := false, logged := false }
  (n.2.adjStrand c.key fun st => { st with pend := st.pend ++ [p] }).later (.loadWriteback c.key n.1)

/-- The queue that a queue number names, where the issuing stage stands at the end `role` of it (R243). -/
def Issue.queueOf (c : Issue) (role : Queue → Nat) (q : BitVec 4) : Option Queue :=
  match c.la.queues[q.toNat]? with
  | some x => if role x == c.it.stage then some x else none
  | none => none

/-- The stamp of a .sc push or pop at the L2 home slice that performs it (R203, R204). (log 132 DEDUCED) -/
def Issue.stampRecord (c : Issue) (x : Queue) (n : Nat) (ord : Order) (s : State) : State :=
  if ord != .sc then s
  else
    match (translate c.it.tile c.la.asid c.la.priv .load .global (x.place n) s).2 with
    | .ok y => stampSc c.it.tile (none, homeSlice y.pa) s
    | .error _ => s

/-- The publish and the refresh of a queue instruction that moves no record (R126, R194). -/
def Issue.ordersOnly (c : Issue) (ord : Order) (scope : Scope) (s : State) : State :=
  orderAfter c.it.tile ord scope (orderBefore c.it.tile c.key ord scope s)

/-- The trap of a translation fault at a queue's ring, which ends the launch (R378, R432). -/
def Issue.ringRaise (c : Issue) (kind : AccKind) (f : Nat × PageFault) : Raise :=
  let t := trDetail f.1 f.2.level kind.code
  { c.raise f.2.cause with info1 := t, trdetail := t }

/-- A record appended: published before and refreshed after (R194), written to the ring in the launch's ASID, and counted;
a translation fault at the ring ends the launch (R378). -/
def appendRecord (c : Issue) (q : Nat) (x : Queue) (ord : Order) (scope : Scope) (bytes : List Byte) (s : State) :
    State × Bool :=
  let s := orderBefore c.it.tile c.key ord scope s
  let w := (c.la.agent c.it.tile).write .global (x.place x.appended) bytes s
  match w.2 with
  | .error f => (fatalTrap c.it.launch c.key (c.ringRaise .store f) w.1, false)
  | .ok _ =>
    let s := orderAfter c.it.tile ord scope (c.stampRecord x x.appended ord w.1)
    (wakeLaunch c.it.launch (adjQueue c.it.launch q (fun x => { x with
      appended := x.appended + 1, live := x.live ++ [x.appended] }) s), true)

/-- QPUSH (R241): a strand with an active lane appends one record, and waits while the queue is full unless NB is set. In a
deterministic launch it is held for the token (R411). Its order takes effect whether or not it pushes (R126, R194). (log 40 DEDUCED) -/
def execQpush (g : Guard) (la : BitVec 4) (scope : Scope) (ord : Order) (nb : Bool) (b : Opnd) (ps : BitVec 3) (q : BitVec 4)
    (s : State) : Host.Outcome State Fault Refusal :=
  issue (.qpush g la scope ord nb b ps q) s fun c s =>
    match c.queueOf (·.fromStage) q with
    | none => c.traps 0x29 s
    | some x =>
      if c.active == 0 then .done (c.ordersOnly ord scope s)
      else if c.awaitsToken then .wait .token s
      else if x.depth ≤ x.live.length then
        if nb then .done (c.queueFlight .store la [] ps false 0 (c.ordersOnly ord scope s))
        else .wait (.queueFull q.toNat) s
      else
        let r := appendRecord c q.toNat x ord scope ((upTo 4).flatMap (c.recordPart b)) s
        if r.2 then .done (c.queueFlight .store la [] ps true 0 r.1) else .over r.1

/-- The parts of a record as its ring holds them, each with whether it can be read; the first fault. -/
def readRecord (c : Issue) (x : Queue) (n : Nat) : List Nat → State → State × Except (Nat × PageFault) (List (Nat × Bulk))
  | [], s => (s, .ok [])
  | l :: ls, s =>
    let r := (c.la.agent c.it.tile).read .global (x.place n + 16 * l) 16 s
    match r.2 with
    | .error f => (r.1, .error f)
    | .ok v =>
      let rest := readRecord c x n ls r.1
      (rest.1, rest.2.map fun vs => (l, { v with bad := v.bad || v.gone || x.bad.contains (n, l) }) :: vs)

/-- The registers of a lane that a part of a record fills; a part that cannot be read is poison (R433). -/
def Issue.recordWrites (c : Issue) (d : Opnd) (l : Nat) (v : Bulk) : List RegWrite :=
  (upTo 4).map fun k =>
    ⟨l, c.index d + k, if v.bad then BitVec.ofNat 32 (poison 32) else BitVec.ofNat 32 (ofLeBytes ((v.bytes.drop (4 * k)).take 4))⟩

/-- QPOP and QPEEK (R242): the bound record written into the active lanes, or zeros once the strand has popped. A strand
without an active lane takes nothing and is not marked as having popped. (log 142 DESIGN CHOICE) -/
def takeRecord (pops : Bool) (la : BitVec 4) (scope : Scope) (ord : Order) (d : Opnd) (ps : BitVec 3) (q : BitVec 4)
    (c : Issue) (s : State) : Act :=
  match c.queueOf (·.toStage) q with
  | none => c.traps 0x29 s
  | some x =>
    if c.active == 0 then .done (c.ordersOnly ord scope s)
    else
      let zeros := (lanesIn c.active).flatMap fun l => (upTo 4).map fun k => (⟨l, c.index d + k, 0⟩ : RegWrite)
      match (if c.it.popped.contains c.key then none else c.it.record) with
      | none => .done (c.queueFlight .load la zeros ps false 0 (c.ordersOnly ord scope s))
      | some (_, n) =>
        let r := readRecord c x n (lanesIn c.active) (orderBefore c.it.tile c.key ord scope s)
        match r.2 with
        | .error f => .over (fatalTrap c.it.launch c.key (c.ringRaise .load f) r.1)
        | .ok vs =>
          let s := orderAfter c.it.tile ord scope (c.stampRecord x n ord r.1)
          let s := c.queueFlight .load la (vs.flatMap fun v => c.recordWrites d v.1 v.2) ps true
            (maskOf fun l => vs.any fun v => v.1 == l && v.2.bad) s
          if pops then
            .done (releaseIfPopped c.st.item (s.adjItem c.st.item fun it => { it with popped := it.popped ++ [c.key] }))
          else .done s

/-- QPOP (R242). -/
def execQpop (g : Guard) (la : BitVec 4) (scope : Scope) (ord : Order) (d : Opnd) (ps : BitVec 3) (q : BitVec 4) (s : State) :
    Host.Outcome State Fault Refusal :=
  issue (.qpop g la scope ord d ps q) s (takeRecord true la scope ord d ps q)

/-- QPEEK (R242): it has no order (R243). -/
def execQpeek (g : Guard) (la : BitVec 4) (d : Opnd) (ps : BitVec 3) (q : BitVec 4) (s : State) :
    Host.Outcome State Fault Refusal :=
  issue (.qpeek g la d ps q) s (takeRecord false la .strand .none d ps q)

end Sys2Proof.Machine
end

