-- ==== Sys2Proof/Machine/Sync.lean ====
section
/-! DEFINITION. Barriers, dependence counters, PHASE and FENCE (09_isa_memory_sync.md R244 to R249, 08_consistency.md
R192 to R198, 13_execution.md R376). -/

namespace Sys2Proof.Machine

/-! Barriers (R244, R245, R376). -/

/-- Whose instance of a barrier a number names: the item's own, a group's, or none that the item is a party of. -/
inductive BarPlace where
  | own | group | none
deriving DecidableEq, Repr, Inhabited

/-- The instance a barrier number names for an item (R376). -/
def barPlace (la : Launch) (it : Item) (n : Nat) : BarPlace :=
  if n < (stageOf la it).nbar then .own
  else if la.groups.any fun g => g.gbar == n && g.stage == it.stage && g.list.contains it.num then .group
  else .none

/-- A barrier's instance, at phase 0 with nobody arrived where it has not been used. -/
def barAt (s : State) (it : Item) (p : BarPlace) (n : Nat) : Barrier :=
  let find (m : Map Barrier) : Barrier := (Map.find n m).getD ⟨0, []⟩
  match p with
  | .own => find it.bars
  | .group =>
    match Map.find it.convoy s.convoys with
    | some cv => find cv.bars
    | none => ⟨0, []⟩
  | .none => ⟨0, []⟩

/-- The party of a barrier's instance (R244). -/
def barParty (s : State) (la : Launch) (it : Item) (p : BarPlace) (n : Nat) : List Nat :=
  match p with
  | .own => liveStrands s it
  | .group =>
    match Map.find it.convoy s.convoys with
    | some cv => groupParty s la cv n
    | none => []
  | .none => []

/-- A barrier's instance replaced. -/
def setBar (item : Nat) (it : Item) (p : BarPlace) (n : Nat) (b : Barrier) (s : State) : State :=
  match p with
  | .own => s.adjItem item fun it => { it with bars := Map.insert n b it.bars }
  | .group => { s with convoys := Map.adjust it.convoy (fun cv => { cv with bars := Map.insert n b cv.bars }) s.convoys }
  | .none => s

/-- A strand's arrival (R245): the phase completes when every strand of the party has arrived or exited. (log 39 DEDUCED) -/
def arriveBar (c : Issue) (p : BarPlace) (n : Nat) (s : State) : State :=
  let b := barAt s c.it p n
  let b := { b with arrived := b.arrived ++ [c.key] }
  setBar c.st.item c.it p n (b.settle (barParty s c.la c.it p n)) s

/-- BAR (R244, R245): arrive, then wait for the phase to complete. A strand that has arrived before in this phase waits
to arrive in the next. -/
def execBar (g : Guard) (n : BitVec 7) (s : State) : Host.Outcome State Fault Refusal :=
  issue (.bar g n) s fun c s =>
    let p := barPlace c.la c.it n.toNat
    let b := barAt s c.it p n.toNat
    if p == .none then c.traps 0x2C s
    else
      match c.st.wait with
      | .barrier k phase =>
        if k == n.toNat then (if b.phase.toNat == phase then .wait (.barrier k phase) s else .done s)
        else .wait .issue s
      | _ =>
        if b.arrived.contains c.key then .wait (.barrierAgain n.toNat b.phase.toNat) s
        else if c.awaitsToken then .wait .token s
        else
          let s := arriveBar c p n.toNat s
          if (barAt s ((Map.find c.st.item s.items).getD c.it) p n.toNat).phase == b.phase then
            .wait (.barrier n.toNat b.phase.toNat) s
          else .done s

/-- BARARV (R244, R245): arrive, and write the phase arrived in. -/
def execBararv (g : Guard) (d : Opnd) (n : BitVec 7) (s : State) : Host.Outcome State Fault Refusal :=
  issue (.bararv g d n) s fun c s =>
    let p := barPlace c.la c.it n.toNat
    let b := barAt s c.it p n.toNat
    if p == .none then c.traps 0x2C s
    else if b.arrived.contains c.key then .wait (.barrierAgain n.toNat b.phase.toNat) s
    else if c.awaitsToken then .wait .token s
    else c.put d (fun _ => b.phase.setWidth 32) (arriveBar c p n.toNat s)

/-- BARWT (R244, R245): wait while the phase equals the value of the strand's lowest live lane. -/
def execBarwt (g : Guard) (a : Opnd) (n : BitVec 7) (s : State) : Host.Outcome State Fault Refusal :=
  issue (.barwt g a n) s fun c s =>
    let p := barPlace c.la c.it n.toNat
    let b := barAt s c.it p n.toNat
    if p == .none then c.traps 0x2C s
    else
      match lowest c.st.live with
      | none => .done s
      | some l =>
        if b.phase == (c.reg l a).extractLsb' 0 16 then .wait (.barrier n.toNat b.phase.toNat) s else .done s

/-! Counters (R246, R247). -/

/-- A counter given a value, clamped; a clamped result traps after the instruction (R247). -/
def Issue.countTo (c : Issue) (k : Nat) (x : Int) (s : State) : Act :=
  let r := clampCounter x
  let s := setCounter c.it.tile c.it.launch k r.1 s
  if r.2 then .doneTrap (c.raise 0x2B c.electedMask) s else .done s

/-- KINIT with a value, once per item (R246). (log 37 DEDUCED) -/
def Issue.kinit (c : Issue) (k : Nat) (x : Int) (s : State) : Act :=
  if !c.once then .done s else if c.awaitsToken then .wait .token s else c.countTo k x s

/-- KADD with a value, once per item (R246). -/
def Issue.kadd (c : Issue) (k : Nat) (x : Int) (s : State) : Act :=
  if !c.once then .done s
  else if c.awaitsToken then .wait .token s
  else c.countTo k ((counterAt s c.it.tile c.it.launch k).toInt + x) s

/-- KINIT kD, vA (R246): the operand is signed. -/
def execKinitReg (g : Guard) (k : BitVec 6) (a : Opnd) (s : State) : Host.Outcome State Fault Refusal :=
  issue (.kinitReg g k a) s fun c s => c.kinit k.toNat (c.reg c.elect a).toInt s

/-- KINIT kD, imm (R246). -/
def execKinitImm (g : Guard) (k : BitVec 6) (imm : BitVec 6) (s : State) : Host.Outcome State Fault Refusal :=
  issue (.kinitImm g k imm) s fun c s => c.kinit k.toNat imm.toInt s

/-- KADD kD, vA (R246). -/
def execKaddReg (g : Guard) (k : BitVec 6) (a : Opnd) (s : State) : Host.Outcome State Fault Refusal :=
  issue (.kaddReg g k a) s fun c s => c.kadd k.toNat (c.reg c.elect a).toInt s

/-- KADD kD, imm (R246). -/
def execKaddImm (g : Guard) (k : BitVec 6) (imm : BitVec 6) (s : State) : Host.Outcome State Fault Refusal :=
  issue (.kaddImm g k imm) s fun c s => c.kadd k.toNat imm.toInt s

/-- KWAIT (R246): wait until the counter reads 0, whatever the guard. -/
def execKwait (g : Guard) (k : BitVec 6) (s : State) : Host.Outcome State Fault Refusal :=
  issue (.kwait g k) s fun c s =>
    if counterAt s c.it.tile c.it.launch k.toNat == 0 then .done s else .wait (.counter k.toNat) s

/-! PHASE and FENCE (R248, R249). -/

/-- PHASE (R249): publish, then refresh, at the scope. -/
def execPhase (g : Guard) (f p : Bool) (scope : Scope) (s : State) : Host.Outcome State Fault Refusal :=
  issue (.phase g f p scope) s fun c s =>
    let s := if p then publish c.it.tile c.key scope s else s
    .done (if f then refresh c.it.tile scope s else s)

/-- FENCE (R196, R249): once every earlier access has completed; at system scope the strand's write-combining entries
drain. -/
def execFence (g : Guard) (scope : Scope) (s : State) : Host.Outcome State Fault Refusal :=
  issue (.fence g scope) s fun c s => .done (if scope == .system then wcDrainStrand c.it.tile c.key s else s)

end Sys2Proof.Machine
end

