-- ==== Sys2Proof/Machine/Program.lean ====
section
/-! DEFINITION. Engine programs and guard slots: FORK, RDV, GRES, and the release of guarded commands
(09_isa_memory_sync.md R252 to R255, 13_execution.md R380 to R382). -/

namespace Sys2Proof.Machine

/-- An item's program on an engine changed. -/
def adjProg (item engine : Nat) (f : EngineProg → EngineProg) (s : State) : State :=
  s.adjItem item fun it => { it with progs := Map.adjust engine f it.progs }

/-- The commands of an item in the queue of an engine. -/
def engineCommands (s : State) (it : Item) (item engine : Nat) : List Command :=
  let q := if engine == 0 then (s.tile it.tile).copies else if engine == 1 then (s.tile it.tile).array
    else (s.die (dieOf it.tile)).routes
  q.filter fun e => e.item == item

/-! The instructions of a program. -/

/-- The operand fields of a program's instruction that have I = 1 (R381). -/
def indirect (i : Instr) : Bool := (uses i).any fun u => u.o.isInd

/-- Whether an engine takes an instruction as a command (R380). -/
def engineTakes (engine : Nat) (i : Instr) : Bool :=
  let m := (majorOf ((encode i).getD 0 0)).toNat
  if engine == 0 then m == 0x6C else if engine == 1 then 0x70 ≤ m && m ≤ 0x74 else 0x6D ≤ m && m ≤ 0x6F

/-- The class of an engine's clauses (R380). -/
def engineClass (engine : Nat) : Nat := if engine == 1 then 5 else 4

/-- Whether the header of a program's clause may stand: its own form, the engine's class, no wait and no uniform bit. -/
def programHeader (engine : Nat) (w : Word) : Bool :=
  let h := headerOf w
  !headerFails w && h.cls == engineClass engine && !h.u && !h.wld && !h.wst && !h.wcp && !h.wmx && !h.wfb && !h.wcr && !h.wct

/-- The guard field [24:21] of an instruction. -/
def guardField (w : Word) : Nat := (w.extractLsb' 21 4).toNat

/-- The trap of an instruction of a program (R382, R430, R431): imprecise, of an engine program. -/
def progRaise (it : Item) (held : TileLaunch) (p : EngineProg) (code : Nat) : Raise :=
  let w := codeWord held p.pc
  { code := code, info0 := w.toNat, info1 := it.engdetail.toNat, origin := 2, pc := p.pc, precise := false, retcnt := p.retcnt
    gen := match Map.find (p.pc / 4096) held.segs with
      | some g => g.gen
      | none => 0 }

/-- The source that an instruction of a program is: the program's frame (R381). -/
def progSource (item : Nat) (it : Item) (la : Launch) (held : TileLaunch) (p : EngineProg) (i : Instr) (w1 w2 : Word)
    (slot : Option Nat) : CmdSource :=
  let index (o : Opnd) : Nat := match o with
    | .dir n | .ind n => n.toNat
  { item := item, it := it, la := la, strand := p.strand, lane := p.lane, i := i, w1 := w1, w2 := w2, pc := p.pc
    reg := fun o k => Table.get 0 (index o + k) p.v, index := index, desc := fun n => Table.get 0 n p.d, vregs := 64
    raise := progRaise it held p, program := true, slot := slot, retcnt := p.retcnt }

/-- The cause of a program's command that fails its own check, or its counter's bound (R382). -/
def CmdSource.progFails (c : CmdSource) (engine : Nat) (s : State) : Option Raise :=
  if c.la.kcnt ≤ (counterOf c.i).getD 0 then some (c.raise 0x08)
  else if engine == 0 then c.checkCopyFamily s
  else if engine == 1 then c.checkMatrix
  else c.checkRoute s

/-- A program's command put into its engine's queue; none where it must wait. -/
def CmdSource.enqueue (c : CmdSource) (engine : Nat) (s : State) : Option State :=
  let n := s.newId
  let r := if engine == 0 then enqueueCopy c.it.tile (c.command n.1 c.copyDescs c.copyValue) n.2
    else if engine == 1 then let a := c.matrixArgs; enqueueMatrix c.it.tile (c.command n.1 a.1 a.2) n.2
    else if c.routeWaits s then none
    else some (c.enqueueRoute n.1 none n.2)
  r.map fun s => if c.la.det then deferCount c.item n.1 ((counterOf c.i).getD 0) s else s

/-- A program stops: at its EXIT, or with an error that is charged to the elected strand and that RDV reports as detail 11
(R382). -/
def stopProgram (item engine : Nat) (error : Option Raise) (s : State) : State :=
  let s := adjProg item engine (fun p => { p with
    ending := true, pc := 0x40000, status := if p.status == 0 && error.isSome then 11 else p.status }) s
  match error with
  | some r => chargeElected item { r with precise := false, origin := 2 } s
  | none => s

/-- What an instruction of a program does: it goes on, waits for its engine, or has stopped. -/
inductive ProgStep where
  | on (s : State)
  | wait (s : State)
  | stop (s : State)

/-- The next instruction of a program, inside a clause. -/
def progInstr (item engine : Nat) (it : Item) (la : Launch) (held : TileLaunch) (p : EngineProg) (s : State) : ProgStep :=
  let bad (s : State) : ProgStep := .stop (stopProgram item engine (some (progRaise it held p 0x5A)) s)
  let w1 := codeWord held p.pc
  let long := longMajor (majorOf w1).toNat && !reservedMajor (majorOf w1).toNat
  let size := if long then 8 else 4
  let next (s : State) : ProgStep :=
    if (p.pc + size) % 4096 == 0 then
      .stop (stopProgram item engine (some { progRaise it held p 0x5A with pc := p.pc + size, info0 := 0 }) s)
    else .on (adjProg item engine (fun p => { p with pc := p.pc + size, left := p.left - 1 }) s)
  if 4096 < p.pc % 4096 + size then bad s
  else
    match decode w1 (if long then codeWord held (p.pc + 4) else 0) with
    | .error _ => bad s
    | .ok (.exit _) => if !p.guarded && guardField w1 != 7 then bad s else .stop (stopProgram item engine none s)
    | .ok (.nop _) => if !p.guarded && guardField w1 != 7 then bad s else next s
    | .ok i =>
      let slot := if p.guarded then some (guardField w1) else none
      if !engineTakes engine i || indirect i || (!p.guarded && guardField w1 != 7) || (p.guarded && la.gcnt ≤ guardField w1)
      then bad s
      else
        let c := progSource item it la held p i w1 (if long then codeWord held (p.pc + 4) else 0) slot
        match c.progFails engine s with
        | some r => .stop (stopProgram item engine (some r) s)
        | none =>
          match c.enqueue engine s with
          | some s => next s
          | none => .wait s

/-- One step of a program: a clause header taken up, or an instruction (R380, R381). -/
def progStep (item engine : Nat) (s : State) : ProgStep :=
  match Map.find item s.items with
  | none => .stop s
  | some it =>
    match Map.find engine it.progs, Map.find it.launch s.launches with
    | some p, some la =>
      let held := s.heldAt it.tile it.launch
      if !p.running || p.ending then .stop s
      else if p.left != 0 then progInstr item engine it la held p s
      else
        let w := codeWord held p.pc
        if !programHeader engine w
            || (walkClause held (p.pc / 4096 * 4096 + 4096) (headerOf w).n (p.pc + 4)).isNone then
          .stop (stopProgram item engine (some (progRaise it held p 0x5A)) s)
        else .on (adjProg item engine (fun p => { p with pc := p.pc + 4, left := (headerOf w).n, guarded := (headerOf w).j }) s)
    | _, _ => .stop s

/-- A program runs until it waits for its engine or stops. -/
def runProgram (item engine : Nat) : Nat → State → State
  | 0, s => s
  | n + 1, s =>
    match progStep item engine s with
    | .on s => runProgram item engine n s
    | .wait s => s
    | .stop s => s

/-- ENGINE_PROGRAM_END (R253, R382): the program goes on as far as its engine takes commands; once it has stopped and its
commands are complete it has ended, and its counter is decremented. (log 42 DEDUCED) -/
def execEngineProgramEnd (item : Nat) (e : EngineKind) (s : State) : Host.Outcome State Fault Refusal :=
  let n := e.code.toNat
  let here : Bool := match Map.find item s.items with
    | some it => it.tile < 768
    | none => false
  let s := if here then runProgram item n 2048 s else s
  match (if here then Map.find item s.items else none) with
  | none => .next s
  | some it =>
    match Map.find n it.progs with
    | none => .next s
    | some p =>
      if !p.running then .next s
      else if p.ending && (engineCommands s it item n).all fun c => !c.program then
        let s := adjProg item n (fun p => { p with running := false }) s
        .next (retireIfOver item (countEnd it.tile it.launch item p.id p.k s))
      else if itemOver s it && (headGuarded (engineCommands s it item n)) != [] then .next (s.once (.itemRetire item))
      else .next s

/-- FORK (R253): once per item; the segment of the entry must be LANDED, and a program of the item that runs on the engine
is waited for. The elected thread's v0 to v63 and the strand's d0 to d15 become the program's frame (R381). -/
def execFork (g : Guard) (e : EngineKind) (a : Opnd) (k : BitVec 6) (s : State) : Host.Outcome State Fault Refusal :=
  issue (.fork g e a k) s fun c s =>
    let n := e.code.toNat
    let entry := c.target a c.elect
    let landed := match c.seg s (entry / 4096) with
      | some x => x.state == 2
      | none => false
    let busy := match Map.find n c.it.progs with
      | some p => p.running
      | none => false
    if !c.once then .done s
    else if !landed then .trap { c.raise 0x0A c.electedMask with info1 := c.segInfo s (entry / 4096) } s
    else if busy then .wait .engine s
    else
      let id := s.newId
      let p : EngineProg :=
        { id := id.1, running := true, ending := false, pc := entry, left := 0, guarded := false
          v := (c.st.lanes.get c.elect).v.filter fun x => x.1 < 64, d := c.st.d, k := k.toNat, strand := c.key
          lane := c.elect, status := 0, retcnt := c.st.retcnt.toNat }
      let s := commandIssued c id.1 k.toNat id.2
      .done ((s.adjItem c.st.item fun it => { it with progs := Map.insert n p it.progs }).later (.engineProgramEnd c.st.item e))

/-- RDV (R254): waits while the item's program on the engine runs, then gives its status. (log 41 DEDUCED) -/
def execRdv (g : Guard) (d : Opnd) (e : EngineKind) (s : State) : Host.Outcome State Fault Refusal :=
  issue (.rdv g d e) s fun c s =>
    match Map.find e.code.toNat c.it.progs with
    | none => c.put d (fun _ => 0) s
    | some p => if p.running then .wait .engine s else c.put d (fun _ => BitVec.ofNat 32 p.status) s

/-! Guard slots (R255). -/

/-- GRES (R255): once per item; it waits until the slot is EMPTY, publishes at package scope, and resolves the slot. -/
def execGres (g : Guard) (slot : BitVec 4) (neg : Bool) (p : BitVec 3) (s : State) : Host.Outcome State Fault Refusal :=
  issue (.gres g slot neg p) s fun c s =>
    if !c.once then .done s
    else if guardAt s c.it.tile c.it.launch slot.toNat != slotEmpty then .wait .engine s
    else
      let v := (c.st.lanes.get c.elect).pred p != neg
      let s := setGuard c.it.tile c.it.launch slot.toNat (if v then slotTrue else slotFalse) (l1Publish c.it.tile s)
      let s := s.adjHeld c.it.tile c.it.launch fun h => { h with resolvers := Table.put 0 slot.toNat c.st.item h.resolvers }
      .done (s.later (.guardedCommandRelease c.it.tile c.it.launch slot.toNat))

/-- An engine of a queue takes up what may go on: the queue's number, and the item for the array. -/
def kickEngine (tile : Nat) (engine item : Nat) (s : State) : State :=
  if engine == 0 then s.later (.copyEntryStart tile)
  else if engine == 1 then arrayNext tile item s
  else s.later (.copyEntryStart (768 + dieOf tile))

/-- A held command changed in, or taken out of, its queue. -/
def resolveHeld (tile engine id : Nat) (keep : Bool) (s : State) : State :=
  let on (q : List Command) : List Command :=
    if keep then q.map fun e => if e.id == id then { e with guardSlot := none } else e else q.filter fun e => e.id != id
  if engine == 0 then s.setTile tile { s.tile tile with copies := on (s.tile tile).copies }
  else if engine == 1 then s.setTile tile { s.tile tile with array := on (s.tile tile).array }
  else s.setDie (dieOf tile) { s.die (dieOf tile) with routes := on (s.die (dieOf tile)).routes }

/-- A held command discarded (R147, R255): it moves nothing and its counter is decremented; the dispatch context that an
RTCOUNT opened closes. (log 43 DEDUCED) -/
def discardCommand (tile engine : Nat) (e : Command) (s : State) : State :=
  let s := if engine == 2 && isCount e.op then closeCtx (dieOf tile) e.launch e.value.toNat s
    else if engine == 2 && isDisp e.op then adjCtx (dieOf tile) e.launch e.value.toNat (fun x => { x with dispIssued := false }) s
    else s
  let s := countEnd tile e.launch e.item e.id (commandCounter e) (resolveHeld tile engine e.id false s)
  afterCommand { e with err := 0 } engine (kickEngine tile engine e.item s)

/-- The held commands of a launch on a tile that stand at the heads of their engines' queues, oldest first. -/
def heldGuarded (tile launch : Nat) (s : State) : List (Nat × Command) :=
  let of (n : Nat) (q : List Command) : List (Nat × Command) :=
    ((headGuarded q).filter fun e => e.launch == launch && (match Map.find e.item s.items with
      | some it => it.tile == tile
      | none => false)).map fun e => (n, e)
  (of 0 (s.tile tile).copies
    ++ of 1 ((s.tile tile).array.filter fun e => (arrayHead (s.tile tile).array e.item).map (·.id) == some e.id)
    ++ of 2 (s.die (dieOf tile)).routes).sortedBy fun a b => a.2.id ≤ b.2.id

/-- GUARDED_COMMAND_RELEASE (R255): the oldest held command that names the slot consumes its resolution: TRUE executes it,
FALSE discards it. -/
def execGuardedCommandRelease (tile launch slot : Nat) (s : State) : Host.Outcome State Fault Refusal :=
  let v := guardAt s tile launch slot
  match (if v == slotEmpty then none else (heldGuarded tile launch s).find? fun x => x.2.guardSlot == some slot) with
  | none => .next s
  | some (n, e) =>
    let s := setGuard tile launch slot slotEmpty s
    if v == slotTrue then .next (kickEngine tile n e.item (resolveHeld tile n e.id true s))
    else .next (discardCommand tile n e s)

/-- Every held guarded command of an item discarded as if FALSE, and its slots EMPTY again (R255). -/
def discardGuarded (item : Nat) (s : State) : State :=
  match Map.find item s.items with
  | none => s
  | some it =>
    [0, 1, 2].foldl (fun s n =>
      ((engineCommands s it item n).filter fun e => e.guardSlot.isSome).foldl (fun s e =>
        let s := match e.guardSlot with
          | some g => setGuard it.tile it.launch g slotEmpty s
          | none => s
        discardCommand it.tile n e s) s) s

/-- The slots that an item resolved, and that no command has consumed, EMPTY again as it retires (R255). -/
def emptySlots (item : Nat) (it : Item) (s : State) : State :=
  s.adjHeld it.tile it.launch fun h =>
    let mine (g : Nat) : Bool := Table.get 0 g h.resolvers == item
    { h with guards := h.guards.filter fun g => !mine g.1, resolvers := h.resolvers.filter fun g => g.2 != item }

end Sys2Proof.Machine
end

