-- ==== Sys2Proof/Machine/System.lean ====
section
/-! DEFINITION. System registers and descriptors: SYSR, SYSW and DSET (09_isa_memory_sync.md R234 to R239,
06_encoding_and_assembly.md R132), with the register writes that the host window shares (04_translation.md R71, R82). -/

namespace Sys2Proof.Machine

/-! Registers that the host writes too. -/

/-- A write of ASIDCTXn (R71): ROOT and EN. -/
def writeAsidctx (n : Nat) (v : BitVec 64) (s : State) : State :=
  { s with asidctx := Table.put 0 (n % 512) (v &&& 0x000FFFFFFFFFF001) s.asidctx }

/-- A write of TLBIVA (R82). -/
def writeTlbiva (v : BitVec 64) (s : State) : State := { s with tlbi := { s.tlbi with va := v &&& 0x01FFFFFFFFFFF000 } }

/-- A write of TLBISTAT (R82): ERR is cleared by 1. -/
def writeTlbistat (v : BitVec 64) (s : State) : State :=
  { s with tlbi := { s.tlbi with stat := s.tlbi.stat &&& ~~~(v &&& 0x4000000000000000) } }

/-! The values of the registers (R237, R238). -/

/-- TILEID. -/
def tileIdOf (s : State) (tile : Nat) : Nat :=
  s.self * 2 ^ 23 + memberOf tile * 2 ^ 21 + clusterOf tile * 2 ^ 13 + dieOf tile * 2 ^ 10 + tile

/-- CONVOY of an item. -/
def convoyNumber (s : State) (it : Item) : Nat :=
  match Map.find it.convoy s.convoys with
  | some cv => cv.num
  | none => 0

/-- CPSTAT as it is read: INFLIGHT and FREE are counted (R169). -/
def cpstatOf (s : State) (it : Item) (item : Nat) : Nat :=
  let q := (s.tile it.tile).copies
  let inFlight := (q.filter fun e => e.item == item && e.state != .bank).length
  let shared := 64 - (floorStages s it.tile false).length - (q.filter fun e => !e.floor).length
  putBits (putBits it.cpstat.toNat 21 15 inFlight) 14 8 shared

/-- OPLOGST (R91). -/
def oplogstOf (st : Strand) : Nat :=
  let v := 2 ^ min 4 st.oplog.length - 1
  v * 16 + v

/-- TOKSTAT (R238). -/
def tokstatOf (la : Launch) (it : Item) (item : Nat) : Nat :=
  la.token.passes % 2 ^ 32 * 2 ^ 32 + (if la.det then 2 else 0) + (if la.det && holdsToken la it item then 1 else 0)

/-- CREWIDX of a lane (R238, R386). -/
def crewIdx (s : State) (c : Issue) (lane : Nat) : Nat :=
  match c.crew with
  | none => 0
  | some seat =>
    match Map.find seat.crew s.crews with
    | some r => 4 * r.g * 2 ^ 16 + workerOf seat lane
    | none => 0

/-- Whether a number names a register (R237); KVALn is the only family whose bound is the launch's. -/
def sysAssigned (n : Nat) : Bool :=
  n ≤ 0x08 || (0x10 ≤ n && n ≤ 0x16) || (0x18 ≤ n && n ≤ 0x1E) || (0x20 ≤ n && n ≤ 0x23) || (0x30 ≤ n && n ≤ 0x33)
    || (0x100 ≤ n && n ≤ 0x13F) || (0x200 ≤ n && n ≤ 0x23F) || (0x1000 ≤ n && n ≤ 0x1202) || n == 0x1300

/-- The registers whose read is a fabric input (R237, R416). -/
def sysInput (n : Nat) : Bool := 0x13 ≤ n && n ≤ 0x16

/-- The value of a register for a lane (R237, R238). (log 53 DEDUCED) -/
def sysValue (c : Issue) (s : State) (n lane : Nat) : Nat :=
  let it := c.it
  let st := c.st
  match n with
  | 0x00 => tileIdOf s it.tile
  | 0x01 => (st.inItem * 4 + lane) * 256 + physLane st.context lane
  | 0x02 => logicalId c.la it st.inItem * 2 ^ 12 + st.inItem * 2 ^ 8 + st.context
  | 0x03 => (c.drawAt s st lane).1
  | 0x04 => it.num
  | 0x05 => it.stage
  | 0x06 => convoyNumber s it
  | 0x07 => if c.crew.isSome then (Table.get 0 (frameS 80) (st.lanes.get lane).v).toNat else st.xi.toNat
  | 0x08 => it.scrBase
  | 0x10 => if c.la.det then st.retcnt.toNat else s.clock.toNat
  | 0x11 => st.retcnt.toNat
  | 0x12 => (s.tile it.tile).lclock.toNat
  | 0x13 => s.fabric.slotno
  | 0x14 => s.fabric.tidecnt.toNat
  | 0x15 => (slotPeer s 0).toNat
  | 0x16 => (slotPeer s 8).toNat
  | 0x18 => c.la.seed.toNat
  | 0x19 => (c.drawAt s st lane).2
  | 0x1A => st.fstat.toNat
  | 0x1B => it.deadMask.toNat
  | 0x1C => it.poison.toNat
  | 0x1D => crewIdx s c lane
  | 0x1E => tokstatOf c.la it st.item
  | 0x20 => st.trdetail.toNat
  | 0x21 => oplogstOf st
  | 0x22 => it.engdetail.toNat
  | 0x23 => cpstatOf s it st.item
  | 0x30 => st.fault.rec0.toNat
  | 0x31 => st.fault.rec1.toNat
  | 0x32 => st.fault.rec2.toNat
  | 0x33 => st.fault.rec3.toNat
  | 0x1200 => s.tlbi.va.toNat
  | 0x1201 => s.tlbi.cmd.toNat
  | 0x1202 => s.tlbi.stat.toNat
  | 0x1300 => (s.tile it.tile).mtestinj.toNat
  | _ =>
    if 0x100 ≤ n && n ≤ 0x13F then
      (Table.get 0 (if c.crew.isSome then frameS (n - 0x100) else n - 0x100)
        (if c.crew.isSome then (st.lanes.get lane).v else st.s)).toNat
    else if 0x200 ≤ n && n ≤ 0x23F then (counterAt s it.tile it.launch (n - 0x200)).toNat
    else if 0x1000 ≤ n && n ≤ 0x11FF then (Table.get 0 (n - 0x1000) s.asidctx).toNat
    else 0

/-- The trap of an unassigned register number (R236, R237). -/
def Issue.sysFails (c : Issue) (n : Nat) : Option Raise :=
  if sysAssigned n then none else some { c.raise 0x2A with info1 := n }

/-- SYSR (R235): every active lane receives the register's value for it. The fabric's registers are a fabric input of a
capture or replay (R416, R417). (log 52 DEDUCED) -/
def execSysr (g : Guard) (d : Opnd) (num : BitVec 16) (s : State) : Host.Outcome State Fault Refusal :=
  issue (.sysr g d num) s fun c s =>
    let n := num.toNat
    let give (f : Nat → Nat) (s : State) : Act :=
      if sysWide n then c.putPair d (fun l => BitVec.ofNat 64 (f l)) s else c.put d (fun l => BitVec.ofNat 32 (f l)) s
    match c.sysFails n with
    | some r => .trap r s
    | none =>
      if sysInput n && c.first.isSome then
        let r := fabricInput (c.inputAt 0x3F) 1 (sysValue c s n 0) s
        match r.2 with
        | some v => give (fun _ => v) r.1
        | none => .over (fatalTrap c.it.launch c.key c.diverge r.1)
      else give (sysValue c s n) s

/-! SYSW. -/

/-- What results in flight still owe to FSTAT and POISONMASK has landed (R236). -/
def landMarks (k : Nat) (s : State) : State :=
  match s.strand k with
  | none => s
  | some st =>
    let flags := st.pend.foldl (fun f p => f ||| p.flags) (0 : Flags)
    let lost := st.pend.foldl (fun f p => f ||| p.poisoned) (0 : BitVec 4)
    let s := s.adjStrand k fun st => { st with
      fstat := st.fstat ||| flags, pend := st.pend.map fun p => { p with flags := 0, poisoned := 0 } }
    s.adjItem st.item fun it => { it with poison := it.poison ||| (lost.setWidth 64 <<< (st.inItem * 4)) }

/-- DROP of OPLOGST (R91): the entries it names are not replayed, and their destinations are unlocked at once; a bit written
as 0 does nothing (R3). -/
def dropEntries (k : Nat) (m : BitVec 4) (s : State) : State :=
  match s.strand k with
  | none => s
  | some st =>
    let ids := (st.oplog.zipIdx.filter fun e => m.getLsbD e.2).map (·.1.id)
    let valid := maskOf fun j => decide (j < st.oplog.length)
    wakeOthers k ids (s.setStrand k { st with
      drop := st.drop ||| (m &&& valid), pend := st.pend.filter fun p => !(p.logged && ids.contains p.id) })

/-- CANCEL of ENGDETAIL (R167, R168): marks the item's oldest HELD command. -/
def writeEngdetail (item : Nat) (v : BitVec 64) (s : State) : State :=
  if v.getLsbD 0 && heldCommands item s != [] then s.adjItem item fun it => { it with cancel := true } else s

/-- The effect of SYSW with a value (R236, R237): read-only registers and fields discard it. -/
def Issue.sysWrite (c : Issue) (n : Nat) (v : BitVec 64) (s : State) : State :=
  match n with
  | 0x07 => s.adjStrand c.key fun st => { st with xi := v.extractLsb' 0 8, badS := st.badS.filter (· != 80) }
  | 0x1A => (landMarks c.key s).adjStrand c.key fun st => { st with fstat := st.fstat &&& ~~~(v.extractLsb' 0 6) }
  | 0x1C => (landMarks c.key s).adjItem c.st.item fun it => { it with poison := it.poison &&& ~~~v }
  | 0x21 => dropEntries c.key (v.extractLsb' 16 4) s
  | 0x22 => writeEngdetail c.st.item v s
  | 0x23 => s.adjItem c.st.item fun it => { it with cpstat := it.cpstat &&& ~~~(v &&& 0x30000000) }
  | 0x1200 => writeTlbiva v s
  | 0x1201 => writeTlbicmd v s
  | 0x1202 => writeTlbistat v s
  | 0x1300 => s.setTile c.it.tile { s.tile c.it.tile with mtestinj := v &&& 0x800101FF00000007 }
  | _ =>
    if 0x100 ≤ n && n ≤ 0x13F then s.adjStrand c.key (·.setS (n - 0x100) (v.extractLsb' 0 32))
    else if 0x1000 ≤ n && n ≤ 0x11FF then writeAsidctx (n - 0x1000) v s
    else s

/-- The number in a worker's frame of a register that SYSW writes there: XI and the s registers (R237, R386). -/
def frameReg (n : Nat) : Option Nat :=
  if n == 0x07 then some (frameS 80) else if 0x100 ≤ n && n ≤ 0x13F then some (frameS (n - 0x100)) else none

/-- SYSW to a register of a worker's frame: each active worker writes its own. (log 145 DEDUCED) -/
def Issue.frameWrite (c : Issue) (n : Nat) (a : Opnd) (s : State) : State :=
  s.adjStrand c.key fun st => (lanesIn c.active).foldl (fun st l =>
    st.setV l n (if n == frameS 80 then c.reg l a &&& 0xFF else c.reg l a)) st

/-- SYSW (R235, R236): the value of the lowest active lane; it waits for accesses that can still raise a flag or a poison
mark in a register that holds them. -/
def execSysw (g : Guard) (a : Opnd) (num : BitVec 16) (s : State) : Host.Outcome State Fault Refusal :=
  issue (.sysw g a num) s fun c s =>
    let n := num.toNat
    match c.sysFails n with
    | some r => .trap r s
    | none =>
      match c.first with
      | none => .done s
      | some l =>
        if (n == 0x1A || n == 0x1C) && c.st.pend.any (·.open) then .wait .issue s
        else
        match if c.crew.isSome then frameReg n else none with
        | some r => .done (c.frameWrite r a s)
        | none => .done (c.sysWrite n (if sysWide n then c.pair l a else (c.reg l a).setWidth 64) s)

/-! DSET. -/

/-- A quarter of a descriptor. -/
def putQuarter (d : BitVec 256) (q : Nat) (v : BitVec 64) : BitVec 256 :=
  BitVec.ofNat 256 (putBits d.toNat (64 * q + 63) (64 * q) v.toNat)

/-- DSET (R234); a descriptor register written whole can be read again (R433). -/
def execDset (g : Guard) (dn : BitVec 4) (a : Opnd) (all : Bool) (q : BitVec 2) (s : State) : Host.Outcome State Fault Refusal :=
  issue (.dset g dn a all q) s fun c s =>
    let old := Table.get 0 dn.toNat c.st.d
    let new := if !all then
        match c.first with
        | some l => putQuarter old q.toNat (c.pair l a)
        | none => old
      else if c.uniform || c.frames then
        match c.first with
        | some l => (upTo 4).foldl (fun d i => putQuarter d i (c.pair l a)) old
        | none => old
      else (lanesIn c.active).foldl (fun d i => putQuarter d i (c.pair i a)) old
    let whole := all && (c.uniform || c.frames || c.active == 15) && c.first.isSome
    .done (s.adjStrand c.key fun st => { st with
      d := Table.put 0 dn.toNat new st.d
      badS := if whole then st.badS.filter (· != 64 + dn.toNat) else st.badS })

end Sys2Proof.Machine
end

