-- ==== Sys2Proof/Machine/Debug.lean ====
section
/-! DEFINITION. The DBG family and KEYOP (17_host_boot_debug.md R472 to R478). -/

namespace Sys2Proof.Machine

/-! Halts (R474). -/

/-- The strands of a launch that a halt of one group, or of all items, covers. -/
def haltStrands (s : State) (launch : Nat) (la : Launch) (group : Nat) : List Nat :=
  (s.items.filter fun x => x.2.launch == launch && (group == 0x100 ||
    match la.groups[group]? with
    | some g => g.stage == x.2.stage && g.list.contains x.2.num
    | none => false)).flatMap fun x => liveStrands s x.2

/-- HALTED as HALTG raises it: PC is the HALTG's own offset in the strand that issued it. -/
def Issue.haltRaise (c : Issue) (k : Nat) : Raise :=
  let r := { c.raise 0x7A with origin := 5, info1 := 0, precise := false, active := 0, hmask := 0 }
  if k == c.key then r else { r with pc := 0x3FFFF, gen := 0 }

/-- A group number that names no group (R474). -/
def Issue.badGroup (c : Issue) (n : Nat) : Bool := n != 0x100 && c.la.groups.length ≤ n

/-- HALTG (R474): the group is halted, and every strand of its items takes HALTED at its next clause boundary. -/
def execHaltg (g : Guard) (a : Opnd) (s : State) : Host.Outcome State Fault Refusal :=
  issue (.haltg g a) s fun c s =>
    match c.first with
    | none => .done s
    | some l =>
      let n := (c.reg l a).toNat % 512
      if c.badGroup n then c.traps 0x08 s (maskOf (· == l))
      else
        let s := s.adjLaunch c.it.launch fun la =>
          { la with halts := Map.insert n c.w1.toNat la.halts }
        .done ((haltStrands s c.it.launch c.la n).foldl (fun s k => charge k (c.haltRaise k) s) s)

/-- RESUMEG (R474): the halt of a group is cleared, or every halt of the launch. -/
def execResumeg (g : Guard) (a : Opnd) (s : State) : Host.Outcome State Fault Refusal :=
  issue (.resumeg g a) s fun c s =>
    match c.first with
    | none => .done s
    | some l =>
      let n := (c.reg l a).toNat % 512
      if c.badGroup n then c.traps 0x08 s (maskOf (· == l))
      else
        .done (s.adjLaunch c.it.launch fun la =>
          { la with halts := if n == 0x100 then [] else Map.erase n la.halts })

/-! Steps and watches (R475, R476). -/

/-- The strand of a launch on a tile that a logical id names. -/
def strandNamed (s : State) (tile launch logical : Nat) : Option Nat :=
  s.items.findSome? fun x =>
    if x.2.tile == tile && x.2.launch == launch then
      (liveStrands s x.2).find? fun k =>
        match s.strand k, Map.find launch s.launches with
        | some st, some la => logicalId la x.2 st.inItem == logical
        | _, _ => false
    else none

/-- STEP (R475): a strand of the launch on this tile is armed for one step. -/
def execStep (g : Guard) (a : Opnd) (s : State) : Host.Outcome State Fault Refusal :=
  issue (.step g a) s fun c s =>
    match c.first with
    | none => .done s
    | some l =>
      match strandNamed s c.it.tile c.it.launch ((c.reg l a).toNat % 2 ^ 20) with
      | none => c.traps 0x08 s (maskOf (· == l))
      | some k => .done (s.adjStrand k fun st => { st with stepArm := true })

/-- WATCH (R476): a slot of the launch on this tile is armed over a range. -/
def execWatch (g : Guard) (sp : Space) (kind : WatchKind) (n : BitVec 2) (a : Opnd) (len : BitVec 8) (s : State) :
    Host.Outcome State Fault Refusal :=
  issue (.watch g sp kind n a len) s fun c s =>
    match c.first with
    | none => .done s
    | some l =>
      let ea := c.address sp l a 0
      let fail (code : Nat) : Act := .trap { c.raise code (maskOf (· == l)) with info0 := c.spaceInfo sp l, info1 := ea } s
      if sp == .acc then fail 0x28
      else if c.beyond s sp (len.toNat + 1) ea then fail 0x26
      else
        .done (s.adjHeld c.it.tile c.it.launch fun h => { h with
          watches := Map.insert n.toNat ⟨sp, kind, ea, len.toNat + 1⟩ h.watches })

/-- UNWATCH (R476). -/
def execUnwatch (g : Guard) (n : BitVec 2) (s : State) : Host.Outcome State Fault Refusal :=
  issue (.unwatch g n) s fun c s =>
    if c.active == 0 then .done s
    else .done (s.adjHeld c.it.tile c.it.launch fun h => { h with watches := Map.erase n.toNat h.watches })

/-! The mailbox (R472, R477). -/

/-- MBOXW (R477): the wait of FENCE.sys, the write of MBOXn of the die, and a notice for MBOX63. -/
def execMboxw (g : Guard) (n : BitVec 6) (a : Opnd) (s : State) : Host.Outcome State Fault Refusal :=
  issue (.mboxw g n a) s fun c s =>
    match c.first with
    | none => .done s
    | some l =>
      let v := c.pair l a
      let s := wcDrainStrand c.it.tile c.key s
      let d := dieOf c.it.tile
      let s := s.setDie d { s.die d with mbox := Table.put 0 n.toNat v (s.die d).mbox }
      .done (if n == 63 then postNotice [noticeWord 5 0 c.it.launch c.it.tile 1, v, 0, 0, 0, 0, 0, 0] s else s)

/-! KEYOP (R478). -/

/-- Whether a KEYOP is carried out, or answered MALFORMED (R64, R114, R478). -/
def KeyJob.ok (j : KeyJob) : Bool := if j.destroy then j.key != 0 else zeroOk j.arg j.size

/-- A KEYOP issued: its status register is locked, and its work is under way. (log 125 DEDUCED) -/
def keyCommand (c : Issue) (d : Opnd) (k : BitVec 6) (l : Nat) (destroy : Bool) (arg key size : Nat) (s : State) : Act :=
  let n := s.newId
  let j : KeyJob :=
    { id := n.1, destroy := destroy, arg := arg, key := key, size := size, tile := c.it.tile, launch := c.it.launch
      item := c.st.item, strand := c.key, pend := n.1, k := k.toNat }
  let s := commandIssued c n.1 k.toNat (owe c n.1 d 1 (maskOf (· == l)) n.2)
  let s := { s with keyJobs := s.keyJobs ++ [j] }
  let s := if !j.ok then s
    else if destroy then (upTo 12).foldl (fun s die => s.later (.baseDieKeyDestroy die key)) s
    else s.later (.bulkZeroCommand arg size key)
  .done (s.later (.keyopCompletion n.1))

/-- KEYOP.DESTROY (R63, R478). -/
def execKeyopDestroy (g : Guard) (d a : Opnd) (k : BitVec 6) (s : State) : Host.Outcome State Fault Refusal :=
  issue (.keyopDestroy g d a k) s fun c s =>
    match c.first with
    | none => .done s
    | some l => keyCommand c d k l true 0 ((c.reg l a).toNat % 512) 0 s

/-- KEYOP.BZERO (R64, R114, R478). -/
def execKeyopBzero (g : Guard) (d a : Opnd) (k : BitVec 6) (key : BitVec 9) (logpg : BitVec 5) (s : State) :
    Host.Outcome State Fault Refusal :=
  issue (.keyopBzero g d a k key logpg) s fun c s =>
    match c.first with
    | none => .done s
    | some l =>
      let base := (c.pair l a).toNat
      let size := 4096 * 2 ^ logpg.toNat
      if base % size != 0 then
        .trap { c.raise 0x27 (maskOf (· == l)) with info0 := c.spaceInfo .global l, info1 := base } s
      else keyCommand c d k l false base key.toNat size s

/-- KEYOP_COMPLETION (R478): the status is written, and the counter is decremented. -/
def execKeyopCompletion (id : Nat) (s : State) : Host.Outcome State Fault Refusal :=
  match s.keyJobs.find? fun j => j.id == id with
  | none => .next s
  | some j =>
    let s := { s with keyJobs := s.keyJobs.filter fun x => x.id != id }
    let s := answerEngine j.strand j.pend (if j.ok then 0 else 3) s
    .next (retireIfOver j.item (countEnd j.tile j.launch j.item j.id j.k s))

end Sys2Proof.Machine
end

