-- ==== Sys2Proof/Machine/Validate.lean ====
section
/-! DEFINITION. The launch record and its validator (13_execution.md R365 to R371, 14_scheduling.md R415): the fields of
the record, the convoys that groups close into, and the checks of R371 in their order. -/

namespace Sys2Proof.Machine

/-! Fields of the record. -/

/-- An 8 B word of a record. -/
def recWord (r : Memory) (off : Nat) : Nat := ofLeBytes (r.readBytes off 8)

/-- A field of a record. -/
def recField (r : Memory) (off hi lo : Nat) : Nat := bitsOf (recWord r off) hi lo

/-- NSTAGE, NQUEUE, NSEG, NGROUP (R366). -/
def recStages (r : Memory) : Nat := recField r 0x00 51 48
/-- NQUEUE. -/
def recQueues (r : Memory) : Nat := recField r 0x00 56 52
/-- NSEG. -/
def recSegs (r : Memory) : Nat := recField r 0x10 38 32
/-- NGROUP. -/
def recGroups (r : Memory) : Nat := recField r 0x10 47 39

/-- A stage descriptor (R367). -/
def recStage (r : Memory) (n : Nat) : Stage :=
  let o := 0x1C0 + 64 * n
  { eseg := recField r o 5 0, eoff := recField r o 17 6, width := recField r o 21 18 + 1, vregs := (recField r o 25 22 + 1) * 16
    inq := recField r o 26 26 == 1, qin := recField r o 30 27, pldies := recField r o 39 32, lpriv := recField r o 46 40 * 16
    spill := recField r o 53 47 * 16, scritem := recField r (o + 8) 12 0 * 256, accrows := recField r (o + 8) 19 13 * 8
    nbar := recField r (o + 8) 26 20, crewres := recField r (o + 8) 33 27, gatek := recField r (o + 8) 39 34
    gateen := recField r (o + 8) 40 40 == 1, rbase := recField r (o + 16) 31 0, count := recField r (o + 16) 63 32 }

/-- A queue descriptor (R368). -/
def recQueue (r : Memory) (n : Nat) : Queue :=
  let o := 0xC0 + 16 * n
  { fromStage := recField r o 2 0, toStage := recField r o 5 3, depth := recField r o 23 8 + 1, qbase := recWord r (o + 8)
    appended := 0, bound := 0, live := [], bad := [] }

/-- The launch that a record describes, its groups still unread (R366). -/
def recLaunch (r : Memory) (priv : Bool) : Launch :=
  let capture := recField r 0 19 19 == 1
  { det := recField r 0 16 16 == 1 || capture, red := recField r 0 17 17 == 1, strict := recField r 0 18 18 == 1
    capture := capture, prio := recField r 0 26 24, asid := recField r 0 40 32, priv := priv
    seed := BitVec.ofNat 64 (recWord r 0x08), lkey := recField r 0x10 31 0, nseg := recSegs r, kcnt := recField r 0x10 54 48
    bcnt := recField r 0x10 61 55, gcnt := recField r 0x18 4 0, scrtile := recField r 0x18 25 16 * 3072
    cshare := recField r 0x18 42 32 * 1024, clbase := recField r 0x20 7 0, clcount := recField r 0x20 15 8
    diemask := recField r 0x28 7 0, pkgmask := recWord r 0x30 + recWord r 0x38 * 2 ^ 64, cpladdr := recWord r 0x48
    slots := (upTo 8).map fun i => recWord r (0x80 + 8 * i), stages := (upTo (recStages r)).map (recStage r)
    queues := (upTo (recQueues r)).map (recQueue r), segtab := (upTo (recSegs r)).map fun i => recWord r (0x3C0 + 8 * i)
    groups := [], image := none, state := .live, retired := 0, detbreak := false, lostrem := false, loststr := false
    cursors := [], parked := [], ages := [], halts := [], token := Token.empty, home := none
    shape := [], tags := [], sheet := 0, sheetLen := 0, sheetAt := 0, trunc := false, log := [], ranges := []
    replay := none, lostOn := [], vectors := [] }

/-! Refusals. -/

/-- Why a launch is refused (R371, R372): the reason, the OFFSET of the field, and the INDEX. -/
structure Reject where
  reason : Nat
  offset : Nat := 0
  index : Nat := 0
deriving DecidableEq, Repr, Inhabited

/-- Reject with a reason at an offset, where a test fails. -/
def rejectIf (b : Bool) (reason : Nat) (offset : Nat := 0) (index : Nat := 0) : Option Reject :=
  if b then some ⟨reason, offset, index⟩ else none

/-- The bits of each 8 B word of a record that may be 1 (R366 to R369). -/
def recAllowed (r : Memory) (off : Nat) : Nat :=
  let all := 2 ^ 64 - 1
  if off == 0x00 then 0x01FF01FF070FFFFF
  else if off == 0x10 then 2 ^ 62 - 1
  else if off == 0x18 then 0x000007FF03FF001F
  else if off == 0x20 then 0xFFFF
  else if off == 0x28 then 0xFF
  else if off < 0x50 then all
  else if off < 0x80 then 0
  else if off < 0xC0 then all
  else if off < 0x1C0 then
    if recQueues r ≤ (off - 0xC0) / 16 then 0 else if off % 16 == 0 then 0x00FFFF3F else all
  else if off < 0x3C0 then
    if recStages r ≤ (off - 0x1C0) / 64 then 0
    else
      let o := (off - 0x1C0) % 64
      if o == 0 then 0x003FFFFF7FFFFFFF else if o == 8 then 2 ^ 41 - 1 else if o == 16 then all else 0
  else if off < 0x5C0 then (if recSegs r ≤ (off - 0x3C0) / 8 then 0 else 0x01FFFFFFFFFFF003)
  else 0

/-- Reason 0x01: the version, and bits that must be 0. (log 91 DEDUCED) -/
def rejectReserved (r : Memory) : Option Reject :=
  (rejectIf (recField r 0 15 0 != 1) 1).or
    (((upTo 256).find? fun i => recWord r (8 * i) &&& recAllowed r (8 * i) != recWord r (8 * i)).map fun i =>
      ⟨1, 8 * i, if 0x1C0 ≤ 8 * i && 8 * i < 0x3C0 then (8 * i - 0x1C0) / 64 else 0⟩)

/-- Reason 0x02: a format slot that fails R39. -/
def rejectSlots (la : Launch) : Option Reject :=
  ((numbered la.slots).find? fun x => (slotOf x.2).isNone).map fun x => ⟨2, 0x80 + 8 * x.1, 0⟩

/-- Who submits a launch with LAUNCH: its ASID, its priority, and whether it is bound by them (R397, R401). -/
structure Submitter where
  asid : Nat
  prio : Nat
  bound : Bool
deriving DecidableEq, Repr, Inhabited

/-- Reason 0x03: the ASID. -/
def rejectAsid (s : State) (by_ : Option Submitter) (la : Launch) : Option Reject :=
  let other := match by_ with
    | some x => x.bound && x.asid != la.asid
    | none => false
  rejectIf (la.asid == 0 || !(Table.get 0 la.asid s.asidctx).getLsbD 0 || other) 3

/-- The first stage that fails a test, with the offset of the word of its descriptor that the field at fault lies in. -/
def badStage (la : Launch) (reason : Nat) (f : Nat → Stage → Option Nat) : Option Reject :=
  (numbered la.stages).findSome? fun x => (f x.1 x.2).map fun off => ⟨reason, 0x1C0 + 64 * x.1 + off, x.1⟩

/-- The first word of a stage's descriptor, where a test fails. -/
def atWord (off : Nat) (b : Bool) : Option Nat := if b then some off else none

/-- The first queue that fails a test. -/
def badQueue (la : Launch) (reason off : Nat) (f : Queue → Bool) : Option Reject :=
  ((numbered la.queues).find? fun x => f x.2).map fun x => ⟨reason, 0xC0 + 16 * x.1 + off, 0⟩

/-- Reason 0x04: counts and fields outside their ranges (R366 to R368, R379). (log 93 DEDUCED) -/
def rejectRanges (r : Memory) (la : Launch) : Option Reject :=
  let out (v lo hi : Nat) : Bool := v < lo || hi < v
  (rejectIf (out (recStages r) 1 8 || out (recQueues r) 0 16) 4 0x00).or
    ((rejectIf (out (recSegs r) 1 64 || out (recGroups r) 0 256 || out la.kcnt 0 64 || out la.bcnt 0 96) 4 0x10).or
    ((rejectIf (out la.gcnt 0 16 || out la.scrtile 0 0x180000 || out la.cshare 0 0x100000) 4 0x18).or
    ((rejectIf (out la.clbase 0 191 || out la.clcount 1 192) 4 0x20).or
    ((rejectIf (la.cpladdr % 32 != 0) 4 0x48).or
    ((badQueue la 4 8 fun q => q.qbase % 4096 != 0).or
    (badStage la 4 fun _ st =>
      (atWord 0 (st.eoff % 4 != 0 || 1024 < st.lpriv || st.lpriv < st.spill || (!st.inq && st.qin != 0))).or
        ((atWord 8 (512 < st.accrows || la.bcnt < st.nbar || (st.gateen && la.kcnt ≤ st.gatek))).or
        (atWord 16 (2 ^ 23 < st.rbase + st.count)))))))))

/-- The stages that a cycle keeps from being ordered: what is left when stages without an unordered producer are taken away,
`n` times. -/
def unordered (la : Launch) : Nat → List Nat → List Nat
  | 0, left => left
  | n + 1, left => unordered la n (left.filter fun s => la.queues.any fun q => q.toStage == s && left.contains q.fromStage)

/-- Reason 0x05: the stage graph. -/
def rejectGraph (la : Launch) : Option Reject :=
  let n := la.stages.length
  (badQueue la 5 0 fun q => n ≤ q.fromStage || n ≤ q.toStage || q.fromStage == q.toStage
      || !(la.stages.getD q.toStage default).inq).or
    ((badStage la 5 fun i st => atWord 0 (st.inq &&
      ((numbered la.queues).filter fun x => x.2.toStage == i).map (·.1) != [st.qin])).or
    (((unordered la 9 (upTo n)).head?).map fun i => ⟨5, 0x1C0 + 64 * i, i⟩))

/-- Reason 0x06: stage entries outside a segment that is loaded at admission and is no crew segment. A source is canonical
as it is formed (R369). -/
def rejectEntries (la : Launch) : Option Reject :=
  badStage la 6 fun _ st => atWord 0 (la.nseg ≤ st.eseg || la.segtab.getD st.eseg 0 % 4 != 1)

/-! Groups (R370, R371). -/

/-- An entry of the group table as it stands in memory: its two words. -/
abbrev GroupWords := Nat × Nat

/-- The checks of a group entry on itself: reasons 0x01, 0x04, and 0x07 for its stage. -/
def rejectEntry (la : Launch) (n : Nat) (w : GroupWords) : Option Reject :=
  let stage := bitsOf w.1 2 0
  let count := bitsOf w.1 17 8
  let gbar := bitsOf w.1 24 18
  let st := la.stages.getD stage default
  if w.1 &&& 0x05FFFF07 != w.1 then some ⟨1, 0xFFFF, n⟩
  else if la.stages.length ≤ stage || count == 0 || 512 < count || w.2 % 4 != 0
      || (gbar != 0x7F && (gbar < st.nbar || la.bcnt ≤ gbar)) then some ⟨4, 0xFFFF, n⟩
  else if st.inq then some ⟨7, 0xFFFF, n⟩
  else none

/-- What reading the groups gives: the groups read, the first refusal, and whether memory could not be read. -/
structure GroupRead where
  groups : List Group
  reject : Option Reject
  unread : Option Nat
deriving DecidableEq, Repr, Inhabited

/-- Whether a list can belong to its group (R371): its items lie in the stage's range, none twice, none in a fifth group. -/
def badList (la : Launch) (gs : List Group) (stage : Nat) (list : List Nat) : Bool :=
  let st := la.stages.getD stage default
  list.any (fun x => x < st.rbase || st.rbase + st.count ≤ x) || list.eraseDups.length != list.length
    || list.any fun x => 4 ≤ (gs.filter fun g => g.stage == stage && g.list.contains x).length

/-- The group table and its lists read, entry by entry, with the checks of R371 on each. -/
def readGroups (g : Agent) (la : Launch) (gtab : Nat) : Nat → Nat → List Group → State → State × GroupRead
  | 0, _, gs, s => (s, ⟨gs, none, none⟩)
  | m + 1, n, gs, s =>
    let t := g.read .global (gtab + 16 * n) 16 s
    match t.2 with
    | .error _ => (t.1, ⟨gs, none, some n⟩)
    | .ok b =>
      if b.bad || b.gone then (t.1, ⟨gs, none, some n⟩)
      else
        let w : GroupWords := (ofLeBytes (b.bytes.take 8), ofLeBytes (b.bytes.drop 8))
        match rejectEntry la n w with
        | some x => (t.1, ⟨gs, some x, none⟩)
        | none =>
          let count := bitsOf w.1 17 8
          let l := g.read .global w.2 (4 * count) t.1
          match l.2 with
          | .error _ => (l.1, ⟨gs, none, some n⟩)
          | .ok v =>
            if v.bad || v.gone then (l.1, ⟨gs, none, some n⟩)
            else
              let list := (upTo count).map fun i => ofLeBytes ((v.bytes.drop (4 * i)).take 4)
              let stage := bitsOf w.1 2 0
              if badList la gs stage list then (l.1, ⟨gs, some ⟨7, 0xFFFF, n⟩, none⟩)
              else
                readGroups g la gtab m (n + 1)
                  (gs ++ [{ stage := stage, gbar := bitsOf w.1 24 18, crewok := bitOf w.1 26, list := list }]) l.1

/-- Reason 0x07 for two groups of one convoy that name one barrier with different parties. -/
def rejectParties (gs : List Group) : Option Reject :=
  ((closuresOf gs).findSome? fun c =>
    let mine := c.groups.filterMap fun n => (gs[n]?).map fun g => (n, g)
    (mine.find? fun y => y.2.gbar != 0x7F && mine.any fun z => z.1 < y.1 && z.2.gbar == y.2.gbar &&
      !(z.2.list.all y.2.list.contains && y.2.list.all z.2.list.contains)).map fun y => ⟨7, 0xFFFF, y.1⟩)

/-! What fits (R374, R375). -/

/-- Four empty tiles on which a launch's barriers that groups name are taken. -/
def emptyCluster (la : Launch) : List Taken := List.replicate 4 { Taken.none with bars := (groupBars la).length }

/-- A convoy's barriers taken on every tile of a cluster (R374), if they fit there. -/
def takeBars (n : Nat) (ts : List Taken) : Option (List Taken) :=
  if ts.any fun t => 96 < t.bars + n then none else some (ts.map fun t => { t with bars := t.bars + n })

/-- A demand put on the first of some tiles where it fits. -/
def putFirst (d : Demand) (scrtile : Nat) : List Taken → Option (List Taken)
  | [] => none
  | t :: ts =>
    match placeItem d scrtile t with
    | some (_, t') => some (t' :: ts)
    | none => (putFirst d scrtile ts).map fun us => t :: us

/-- Several demands put on some tiles. -/
def putAll (scrtile : Nat) : List Demand → List Taken → Option (List Taken)
  | [], ts => some ts
  | d :: ds, ts => (putFirst d scrtile ts).bind (putAll scrtile ds)

/-- Whether `n` items of a stage, and a convoy's barriers, fit an empty cluster, with no more than 512 strands. (log 94 DEDUCED) -/
def convoyFits (la : Launch) (stage n bars : Nat) : Bool :=
  let st := la.stages.getD stage default
  n * st.width ≤ 512
    && ((takeBars bars (emptyCluster la)).bind (putAll la.scrtile (List.replicate n (demandOf 0 la st)))).isSome

/-- Reason 0x08: convoys. -/
def rejectConvoys (la : Launch) : Option Reject :=
  (((closuresOf la.groups).find? fun c => !convoyFits la c.stage c.items.length (closureBars la.groups c).length).map fun c =>
      (⟨8, 0xFFFF, c.groups.headD 0⟩ : Reject)).or
    (badStage la 8 fun i _ => atWord 0 (!convoyFits la i 1 0))

/-- Reason 0x09: placement. -/
def rejectPlacement (la : Launch) : Option Reject :=
  (rejectIf (192 < la.clbase + la.clcount) 9 0x20).or
    (badStage la 9 fun _ st => atWord 0 (!(upTo 768).any (placeable la st)))

/-- Reason 0x0A: the floors of every stage with the tile-wide allotments on one empty tile. -/
def rejectFloors (la : Launch) : Option Reject :=
  let t := { Taken.none with bars := (groupBars la).length }
  rejectIf (fillTile t (la.stages.map fun st => (demandOf 0 la st, la.scrtile))).isNone 0x0A 0x1C0

/-- Reason 0x0B: packages of the routing domain. -/
def rejectPackages (s : State) (la : Launch) : Option Reject :=
  let member (p : Nat) : Bool := p == s.self || podMember s p
  rejectIf (la.pkgmask != 0 && (!bitOf la.pkgmask s.self || (upTo 128).any fun p => bitOf la.pkgmask p && !member p)) 0x0B 0x30

/-- Reason 0x0C: the submitter's priority. -/
def rejectPriority (by_ : Option Submitter) (la : Launch) : Option Reject :=
  rejectIf (match by_ with
    | some x => x.bound && x.prio < la.prio
    | none => false) 0x0C

/-- Reason 0x0D: 64 live launches. -/
def rejectFull (s : State) : Option Reject := rejectIf (64 ≤ s.launches.length) 0x0D

/-! The capture descriptor (R415). -/

/-- The capture descriptor of a record: SHEET, SHEETLEN and the input ranges. -/
structure CaptureDesc where
  sheet : Nat
  len : Nat
  ranges : List (Nat × Nat)
  ok : Bool
deriving DecidableEq, Repr, Inhabited

/-- The capture descriptor read behind the completion record; none where it cannot be read. -/
def readCapture (g : Agent) (la : Launch) (s : State) : State × Option CaptureDesc :=
  let t := g.read .global (la.cpladdr + 0x20) 16 s
  match t.2 with
  | .error _ => (t.1, none)
  | .ok b =>
    let w := ofLeBytes (b.bytes.drop 8)
    let n := bitsOf w 46 40
    let r := g.read .global (la.cpladdr + 0x30) (16 * n) t.1
    match r.2 with
    | .error _ => (r.1, none)
    | .ok v =>
      if b.bad || b.gone || v.bad || v.gone then (r.1, none)
      else
        let num (i : Nat) : Nat := ofLeBytes ((v.bytes.drop (8 * i)).take 8)
        let sheet := ofLeBytes (b.bytes.take 8)
        (r.1, some
          { sheet := sheet, len := bitsOf w 39 0, ranges := (upTo n).map fun i => (num (2 * i), bitsOf (num (2 * i + 1)) 39 0)
            ok := n ≤ 126 && w / 2 ^ 47 == 0 && sheet % 4096 == 0 && (upTo n).all fun i => num (2 * i + 1) / 2 ^ 40 == 0 })

/-! The whole. -/

/-- The verdict of the validator: the launch it admits, or why it refuses (R371). (log 92 DEDUCED) -/
def validate (sub : Submission) (by_ : Option Submitter) (s : State) : State × Except Reject Launch :=
  let r := sub.record
  let la := recLaunch r sub.priv
  let g := la.agent sub.tile
  if sub.fault then (s, .error ⟨0x0E, 0, 0⟩)
  else
    let early := ((rejectSlots la).or (rejectAsid s by_ la)).or ((rejectRanges r la).or ((rejectGraph la).or (rejectEntries la)))
    match rejectReserved r with
    | some x => (s, .error x)
    | none =>
      let cd := if la.capture then readCapture g la s else (s, some ⟨0, 0, [], true⟩)
      match (match cd.2 with
        | some d => rejectIf (!d.ok) 1 0x48
        | none => none).or early with
      | some x => (cd.1, .error x)
      | none =>
        let t := readGroups g la (recWord r 0x40) (recGroups r) 0 [] cd.1
        let la := { la with groups := t.2.groups }
        let late := (t.2.reject.or (rejectParties la.groups)).or ((rejectConvoys la).or ((rejectPlacement la).or
          ((rejectFloors la).or ((rejectPackages s la).or ((rejectPriority by_ la).or (rejectFull s))))))
        match late, t.2.unread, cd.2 with
        | some x, _, _ => (t.1, .error x)
        | none, some n, _ => (t.1, .error ⟨0x0E, 0xFFFF, n⟩)
        | none, none, none => (t.1, .error ⟨0x0E, 0x48, 0⟩)
        | none, none, some d => (t.1, .ok { la with sheet := d.sheet, sheetLen := d.len, ranges := d.ranges })

end Sys2Proof.Machine
end

