-- ==== Sys2Proof/Machine/Admit.lean ====
section
/-! DEFINITION. Admission (13_execution.md R373 to R379, R383, 14_scheduling.md R399 to R401, R409, 16_beacons_and_redundancy.md R451): the
waiting items of a launch and their order, the tile-wide allotments, an item's and a convoy's places, and the shape of a
deterministic launch. -/

namespace Sys2Proof.Machine

/-! The contact sheet's parts (R416). -/

/-- Where the parts of a contact sheet lie: the record at 64, the capture descriptor, the group table and its lists, the
contents of the ranges, and the input log. -/
structure SheetLayout where
  desc : Nat
  groups : Nat
  ranges : Nat
  log : Nat
deriving DecidableEq, Repr, Inhabited

/-- A number rounded up to a multiple of 32. -/
def align32 (n : Nat) : Nat := (n + 31) / 32 * 32

/-- The layout of a launch's contact sheet. (log 106 DESIGN CHOICE) -/
def Launch.sheetLayout (la : Launch) : SheetLayout :=
  let desc := 64 + 2048
  let groups := align32 (desc + 16 + 16 * la.ranges.length)
  let ranges := align32 (groups + la.groups.foldl (fun n g => n + 16 + 4 * g.list.length) 0)
  ⟨desc, groups, ranges, align32 (la.ranges.foldl (fun n r => n + r.2) ranges)⟩

/-- Bytes written into a contact sheet; where they do not fit or fault, capture stops with TRUNC. -/
def sheetWrite (h off : Nat) (bytes : List Byte) (s : State) : State :=
  match Map.find h s.launches with
  | none => s
  | some la =>
    let stop (s : State) : State := s.adjLaunch h fun la => { la with trunc := true }
    if la.trunc then s
    else if la.sheetLen < off + bytes.length then stop s
    else
      let w := (la.agent (tileAt la.clbase 0)).write .global (la.sheet + off) bytes s
      match w.2 with
      | .ok _ => w.1
      | .error _ => stop w.1

/-- The contents of an input range copied into the sheet, 256 B at a time. -/
def sheetRange (h base len off : Nat) : Nat → State → State
  | 0, s => s
  | n + 1, s =>
    match Map.find h s.launches with
    | none => s
    | some la =>
      let r := (la.agent (tileAt la.clbase 0)).read .global (base + 256 * n) (min 256 (len - 256 * n)) s
      let s := match r.2 with
        | .ok b => sheetWrite h (off + 256 * n) b.bytes r.1
        | .error _ => r.1.adjLaunch h fun la => { la with trunc := true }
      sheetRange h base len off n s

/-- What the first admission of a capture launch writes (R416): the header and the contents of the input ranges. -/
def startSheet (h : Nat) (s : State) : State :=
  match Map.find h s.launches with
  | none => s
  | some la =>
    if !la.capture || la.sheetAt != 0 then s
    else
      let y := la.sheetLayout
      let words := [1 + s.self * 2 ^ 32 + (if la.trunc then 2 ^ 16 else 0), la.lkey, s.fabric.tidecnt.toNat, 64, y.desc,
        y.groups, y.ranges, y.log]
      let s := sheetWrite h 0 (words.flatMap (leBytes 8)) s
      let s := (la.ranges.foldl (fun (acc : State × Nat) r =>
        (sheetRange h r.1 r.2 acc.2 ((r.2 + 255) / 256) acc.1, acc.2 + r.2)) (s, y.ranges)).1
      s.adjLaunch h fun la => { la with sheetAt := y.log }

/-! Waiting items (R399, R401, R409). -/

/-- A convoy that waits: its launch and stage, the ITEMID it ranks by, and its number where it is a convoy of groups. -/
structure Waiting where
  launch : Nat
  stage : Nat
  item : Nat
  group : Option Nat
deriving DecidableEq, Repr, Inhabited

/-- The key of an item's age in `ages` (R401). -/
def ageKey (stage item : Nat) : Nat := stage * 2 ^ 32 + item

/-- The key in `cursors` of a convoy of groups, which holds 1 once it is admitted; a stage's own key is its number. -/
def groupCursor (n : Nat) : Nat := 64 + n

/-- The key in `cursors` of an item admitted out of order. -/
def itemCursor (stage off : Nat) : Nat := (stage + 1) * 2 ^ 40 + off

/-- The first number from `o` on that a list does not hold, where the list holds fewer than `n` numbers. -/
def firstOutside (skip : List Nat) : Nat → Nat → Nat
  | 0, o => o
  | n + 1, o => if skip.contains o then firstOutside skip n (o + 1) else o

/-- The offsets of a range stage's items that are in groups, or were admitted out of order. -/
def skippedOffsets (la : Launch) (n : Nat) : List Nat :=
  let st := la.stages.getD n default
  ((la.groups.filter fun g => g.stage == n).flatMap (·.list)).map (· - st.rbase)
    ++ (la.cursors.filter fun x => x.1 / 2 ^ 40 == n + 1).map (·.1 % 2 ^ 40)

/-- The items of a range stage in no group that may be admitted next: the next in order, and those that have aged. -/
def singleItems (la : Launch) (n : Nat) : List Nat :=
  let st := la.stages.getD n default
  let skip := skippedOffsets la n
  let from_ := Table.get 0 n la.cursors
  let next := firstOutside skip (skip.length + 1) from_
  let aged := ((la.ages.filter fun x => x.1 / 2 ^ 32 == n).map (·.1 % 2 ^ 32)).filter fun i =>
    st.rbase + from_ ≤ i && i < st.rbase + st.count && !skip.contains (i - st.rbase)
  ((if next < st.count then [st.rbase + next] else []) ++ aged).eraseDups

/-- What waits in a launch. -/
def waitingIn (h : Nat) (la : Launch) : List Waiting :=
  let groups := ((numbered (closuresOf la.groups)).filter fun x => Table.get 0 (groupCursor x.1) la.cursors == 0).map fun x =>
    (⟨h, x.2.stage, x.2.items.foldl min (x.2.items.headD 0), some x.1⟩ : Waiting)
  let singles := (numbered la.stages).flatMap fun x =>
    if x.2.inq then
      match la.queues[x.2.qin]? with
      | some q => if q.bound < q.appended then [(⟨h, x.1, q.bound % 2 ^ 32, none⟩ : Waiting)] else []
      | none => []
    else (singleItems la x.1).map fun i => ⟨h, x.1, i, none⟩
  groups ++ singles

/-- The effective priority of a waiting item (R401). -/
def effectivePrio (la : Launch) (w : Waiting) : Nat := min 7 (la.prio + Table.get 0 (ageKey w.stage w.item) la.ages)

/-- Whether one list of numbers stands before another or is equal to it. -/
def lexLe : List Nat → List Nat → Bool
  | [], _ => true
  | _ :: _, [] => false
  | a :: as, b :: bs => a < b || (a == b && lexLe as bs)

/-- The place of a waiting item in the order of R399; an occupancy ratio is compared to 40 fractional bits, which tells any
two of depths up to 65,536 apart. -/
def Waiting.rank (s : State) (tile : Nat) (w : Waiting) : List Nat :=
  match Map.find w.launch s.launches with
  | none => []
  | some la =>
    let st := la.stages.getD w.stage default
    let q := la.queues.getD st.qin default
    [7 - effectivePrio la w, (s.heldAt tile w.launch).lastAdmit, w.launch, if la.parked.contains w.stage then 1 else 0,
      if st.inq then 0 else 1, if st.inq then 2 ^ 40 - min (2 ^ 40) (q.live.length * 2 ^ 40 / q.depth) else 0, w.stage, w.item]

/-- The gate of a stage on a tile is shut (R379). -/
def gateShut (s : State) (tile h : Nat) (st : Stage) : Bool := st.gateen && counterAt s tile h st.gatek != 0

/-- The convoy of a deterministic launch that comes next (R409): the first in ordinal order of the lowest-numbered stage
that is unparked, is not gated on the tiles of a slot, and has one waiting. -/
def nextConvoy (s : State) (h : Nat) (la : Launch) : Option Waiting :=
  let slot (w : Waiting) : Bool :=
    la.shape == [] || la.shape.any fun x => x.2 == 0 &&
      (upTo 4).any fun m => !gateShut s (tileAt x.1 m) h (la.stages.getD w.stage default)
  let ws := (waitingIn h la).filter fun w => !la.parked.contains w.stage && slot w
  (ws.sortedBy fun a b => lexLe [a.stage, a.item] [b.stage, b.item]).head?

/-- What a tile may admit, in the order of R399. (log 96 DEDUCED) -/
def candidates (s : State) (tile : Nat) : List Waiting :=
  (s.launches.flatMap fun x =>
    if x.2.state != .live then []
    else if x.2.det then (nextConvoy s x.1 x.2).toList
    else waitingIn x.1 x.2).sortedBy fun a b => lexLe (a.rank s tile) (b.rank s tile)

/-! Shapes of deterministic launches (R409, R451). -/

/-- One step of the Hilbert index. -/
def hilbertStep (acc : Nat × Nat × Nat) (k : Nat) : Nat × Nat × Nat :=
  let (x, y, d) := acc
  let rx := if x &&& k != 0 then 1 else 0
  let ry := if y &&& k != 0 then 1 else 0
  let d := d + k * k * ((3 * rx) ^^^ ry)
  if ry == 0 then if rx == 1 then (15 - y, 15 - x, d) else (y, x, d) else (x, y, d)

/-- The index of a cluster along the Hilbert curve (R409). -/
def hilbert (cluster : Nat) : Nat := ([8, 4, 2, 1].foldl hilbertStep (cluster % 12, cluster / 12, 0)).2.2

/-- H0 to H(M − 1). -/
def hilbertList (s : State) (la : Launch) : List Nat :=
  ((upTo 192).filter fun c => la.stages.any (fun st => placeable la st (tileAt c 0))
    && (upTo 4).all fun m => tileTakes s (tileAt c m) la).sortedBy fun a b => hilbert a ≤ hilbert b

/-- A launch's largest convoy: its stage, its items, and the barriers of its groups. -/
def largestConvoy (la : Launch) : Nat × Nat × Nat :=
  let all := (closuresOf la.groups).map (fun c => (c.stage, c.items.length, (closureBars la.groups c).length))
    ++ (upTo la.stages.length).map fun n => (n, 1, 0)
  let strands (x : Nat × Nat × Nat) : Nat := x.2.1 * (la.stages.getD x.1 default).width
  all.foldl (fun m x => if strands m < strands x then x else m) (0, 1, 0)

/-- What a slot of a launch reserves, beside its barriers. -/
def slotDemands (h : Nat) (la : Launch) : List Demand :=
  let x := largestConvoy la
  List.replicate x.2.1 (demandOf h la (la.stages.getD x.1 default))

/-- A slot of a launch put on some tiles, if it fits. -/
def putSlot (h : Nat) (la : Launch) (ts : List Taken) : Option (List Taken) :=
  (takeBars (largestConvoy la).2.2 ts).bind (putAll la.scrtile (slotDemands h la))

/-- Demands of one tile put on it one after the other. -/
def putOn (scrtile : Nat) (t : Taken) : List Demand → Option Taken
  | [] => some t
  | d :: ds => (placeItem d scrtile t).bind fun x => putOn scrtile x.2 ds

/-- Slots, at most `n`, that fit some tiles one after the other. -/
def countSlots (h : Nat) (la : Launch) : Nat → List Taken → Nat
  | 0, _ => 0
  | n + 1, ts =>
    match putSlot h la ts with
    | some ts' => countSlots h la n ts' + 1
    | none => 0

/-- P of R409: the slots of a cluster. (log 97 DEDUCED) -/
def slotsPerCluster (h : Nat) (la : Launch) : Nat :=
  let floors := la.stages.map (demandOf h la)
  let ts := (emptyCluster la).map fun t => (putOn la.scrtile t floors).getD t
  let fit := countSlots h la 512 ts
  max 1 (if la.cshare == 0 then fit else min fit (0x100000 / la.cshare))

/-- Whether what others may still claim on a cluster can be met (R383, R409): a floor of each stage that has none on its
tile, but of the stage that is being placed, then the free slots of deterministic launches other than `h`. -/
def reservesHold (s : State) (cluster h stage : Nat) : Bool :=
  let tiles := (upTo 4).map (tileAt cluster)
  let slots := (s.launches.filter fun x => x.1 != h && x.2.det && x.2.state != .preempted).flatMap fun x =>
    (x.2.shape.filter fun c => c.1 == cluster && c.2 == 0).map fun _ => x
  let floored := fillTiles (tiles.map fun t => (takenOn s t, floorDemands s t (launchesOn s t) h stage))
  (slots.foldl (fun (ts : Option (List Taken)) x => ts.bind (putSlot x.1 x.2)) floored).isSome

/-- Whether a cluster can take a launch's whole shape, beside what others hold and may claim. -/
def takesShape (s : State) (h : Nat) (la : Launch) (slots cluster : Nat) : Bool :=
  let tiles := (upTo 4).map (tileAt cluster)
  let floored := fillTiles (tiles.map fun t =>
    let k := takenOn s t
    ({ k with bars := k.bars + (groupBars la).length }, floorDemands s t (launchesOn s t ++ [(h, la)]) 65536 0))
  tiles.all (fun t => tileWideFits s t h la)
    && ((upTo slots).foldl (fun (ts : Option (List Taken)) _ => ts.bind (putSlot h la)) floored).isSome

/-- The shape of a deterministic launch, where every cluster of its range can take it now: slot c lies on
H(c mod M). -/
def fixShape (s : State) (h : Nat) (la : Launch) : Option (List (Nat × Nat)) :=
  let hs := hilbertList s la
  let p := slotsPerCluster h la
  if hs == [] || !hs.all (takesShape s h la p) then none
  else some ((upTo (hs.length * p)).map fun c => (hs.getD (c % hs.length) 0, 0))

/-! Places on a tile (R374, R375). -/

/-- The scratchpad regions of a tile (R97). -/
def regionsOn (s : State) (tile : Nat) : List (Nat × Nat) :=
  (launchesOn s tile).map fun x => ((s.heldAt tile x.1).region, x.2.scrtile)

/-- A source of the segment table, sign-extended from bit 56 (R369). -/
def segSource (e : Nat) : Nat :=
  let v := bitsOf e 56 12 * 4096
  if bitOf e 56 then v + (2 ^ 64 - 2 ^ 57) else v

/-- A segment with PRE = 1 loaded as CFETCH loads it (R375); a source that does not translate leaves it EMPTY, and a fault
notice says so. -/
def preload (tile h : Nat) (la : Launch) (n : Nat) (s : State) : State :=
  let va := segSource (la.segtab.getD n 0)
  let r := sourceLines tile la.asid la.priv va 16 s
  match r.2 with
  | .ok ls =>
    (r.1.adjHeld tile h fun x => { x with
      segs := Map.adjust n (fun g => { g with state := 1, source := va, lines := ls, k := none }) x.segs }).later
        (.segmentLanding tile h n)
  | .error (a, f) =>
    let raise : Raise := { code := f.cause, info1 := trDetail a f.level 3, origin := 1 }
    report tile h 0 f.cause (raise.record 0x3FFFF false) r.1

/-- The tile-wide allotments of a launch at its first admission to a tile (R375); none where they do not fit. -/
def takeTile (tile h : Nat) (la : Launch) (s : State) : Option State :=
  if (Map.find (heldKey tile h) s.held).isSome then some s
  else if !tileWideFits s tile h la then none
  else
    (firstFit la.scrtile scratchBytes (regionsOn s tile)).map fun r =>
      let empty : Seg := ⟨0, 0, 0, [], 0, none, 0⟩
      let held := { TileLaunch.empty with region := r, segs := (upTo la.nseg).map fun n => (n, empty) }
      let s := ({ s with held := Map.insert (heldKey tile h) held s.held } : State).adjLaunch h fun la =>
        { la with lostOn := la.lostOn.filter (· != tile) }
      ((numbered la.segtab).filter fun x => bitOf x.2 0).foldl (fun s x => preload tile h la x.1 s) s

/-- The accumulator rows of a window given to a launch: rows that another launch held, and in a deterministic launch
every row, are zeroed (R112). -/
def claimRows (tile h base rows : Nat) (det : Bool) (s : State) : State :=
  let t := s.tile tile
  let fresh (row : Nat) : Bool := base ≤ row && row < base + rows && (det || Table.get 0 row t.accOwner != h)
  s.setTile tile { t with
    acc := t.acc.filter fun x => !fresh (x.1 / 256)
    accBad := t.accBad.filter fun x => !fresh (x / 256)
    accOwner := (upTo rows).foldl (fun o i => Table.put 0 (base + i) h o) t.accOwner }

/-- A lane at the start of its item, its window still to be given (R112). -/
def entryLane (pc : Nat) : Lane :=
  { v := [], p := 0, flow := { pc := pc, ctx := none, stack := [] }, exited := false, dead := false, draw := 0, lp := []
    bad := [], badV := [], iter := 0, drawn := 0, atOp := none }

/-- A strand at the start of its item (R112, R430). (log 26 DEDUCED) -/
def entryStrand (item inItem context lpBase pc : Nat) : Strand :=
  let l := entryLane pc
  { item := item, inItem := inItem, context := context, lpBase := lpBase, lanes := ⟨l, l, l, l⟩, cur := 15, s := [], d := [], xi := 0, badS := []
    fstat := 0, retcnt := 0, pend := [], handler := none, trapping := none, fault := FaultRec.none, trdetail := 0
    oplog := [], drop := 0, queue := [], ovf := false, wait := .none, stepArm := false, stepHeld := none, crewWord := 0
    crew := none, seat := none, lost := false }

/-- A strand put into its context, its lanes' windows taken (R96, R112). -/
def enterStrand (tile h size : Nat) (keep : Bool) (st : Strand) (s : State) : State :=
  let slice := st.context / 8
  let s := s.setStrand (tile * 128 + st.context)
    { st with lanes := takeLanes (s.tile tile).left h slice st.lpBase size keep st.lanes }
  s.adjLeft tile fun x => x.claim h slice st.lpBase size

/-- An item of a convoy placed on a tile, if everything it needs is free there at once (R374): a stage that is parked admits
only into its own floor (R400), a gated one only while its counter is 0 (R379). -/
def admitItem (h stage num convoy : Nat) (record : Option (Nat × Nat)) (tile : Nat) (s : State) : Option State :=
  match Map.find h s.launches with
  | none => none
  | some la =>
    let st := la.stages.getD stage default
    if !tileTakes s tile la || !placeable la st tile || gateShut s tile h st
        || (la.parked.contains stage && stageOn s tile h stage) then none
    else
      (takeTile tile h la s).bind fun s =>
        (placeItem (demandOf h la st) la.scrtile (takenOn s tile)).map fun spot =>
          let p := spot.1
          let id := s.nextId
          let keys := p.contexts.map fun c => tile * 128 + c.1
          let it : Item :=
            { launch := h, stage := stage, num := num, tile := tile, strands := keys, convoy := convoy, scrBase := p.scrBase
              accBase := p.accBase, bars := [], poison := 0, deadMask := 0, engdetail := 0, cancel := false, cpstat := 0
              mstat := 0, record := record, popped := [], progs := [], deferred := [], passes := 0, reserved := p.reserved
              lost := false }
          let s := { s with items := Map.insert id it s.items, nextId := id + 1 }
          let pc := st.eseg * 4096 + st.eoff
          let s := (numbered p.contexts).foldl (fun s x =>
            enterStrand tile h st.lpriv (!la.det) (entryStrand id x.1 x.2.1 x.2.2 pc) s) s
          let s := claimRows tile h p.accBase st.accrows la.det s
          let s := s.adjHeld tile h fun x =>
            let x := { x with lastAdmit := id }
            if la.det then
              { x with
                scr := x.scr.zero p.scrBase (p.scrBase + st.scritem)
                bad := x.bad.filter fun w => 16 * w + 16 ≤ p.scrBase || p.scrBase + st.scritem ≤ 16 * w }
            else x
          let s := { s with convoys := Map.adjust convoy (fun cv => { cv with items := cv.items ++ [id] }) s.convoys }
          let s := if la.det then adjToken h (fun t => { t with joining := t.joining ++ [id] }) s else s
          match haltWord la it with
          | some w => keys.foldl (fun s k => charge k { code := 0x7A, origin := 5, pc := 0x3FFFF, precise := false, info0 := w } s) s
          | none => s

/-- The cluster-shared regions of a cluster: base and size in each member (R103). -/
def sharesOn (s : State) (cluster : Nat) : List (Nat × Nat) :=
  (s.convoys.filter fun x => x.2.cluster == cluster).filterMap fun x =>
    match Map.find x.2.launch s.launches with
    | some la => if la.cshare == 0 then none else some (x.2.base, la.cshare / 4)
    | none => none

/-- Items admitted one after the other, each on the first tile that takes it. -/
def admitItems (h stage convoy : Nat) (record : Option (Nat × Nat)) (tiles : List Nat) : List Nat → State → Option State
  | [], s => some s
  | i :: is, s => (tiles.findSome? fun t => admitItem h stage i convoy record t s).bind (admitItems h stage convoy record tiles is)

/-- Whether every member of a cluster has its barriers (R374). -/
def barsFit (s : State) (cluster : Nat) : Bool := (upTo 4).all fun m => (takenOn s (tileAt cluster m)).bars ≤ 96

/-- A convoy admitted whole onto one cluster (R374), if its items, its group barriers, its cluster-shared region and everything
that others may claim fit; with its number in the state. -/
def admitConvoy (w : Waiting) (la : Launch) (tiles : List Nat) (s : State) : Option (Nat × State) :=
  let cluster := clusterOf (tiles.headD 0)
  let st := la.stages.getD w.stage default
  let items := match w.group with
    | some n => ((closuresOf la.groups).getD n default).items.sortedBy (· ≤ ·)
    | none => [w.item]
  let num := w.group.getD (0x80000000 + w.item % 2 ^ 31)
  let record := if st.inq then some (st.qin, (la.queues.getD st.qin default).bound) else none
  (firstFit (la.cshare / 4) 0x40000 (sharesOn s cluster)).bind fun base =>
    let id := s.nextId
    let share := takeShare w.launch cluster base (la.cshare / 4) (!la.det) s
    let cv : Convoy := ⟨w.launch, num, cluster, [], base, share.1.1, share.1.2, []⟩
    let s := { share.2 with convoys := Map.insert id cv s.convoys, nextId := id + 1 }
    (admitItems w.launch w.stage id record tiles items s).bind fun s =>
      if barsFit s cluster && reservesHold s cluster w.launch w.stage then some (id, s) else none

/-- What an admission changes in its launch: cursors, ages and the record bound (R373, R378, R401). -/
def Launch.noteAdmitted (la : Launch) (w : Waiting) : Launch :=
  let st := la.stages.getD w.stage default
  let la := { la with ages := Table.put 0 (ageKey w.stage w.item) 0 la.ages }
  match w.group with
  | some n => { la with cursors := Table.put 0 (groupCursor n) 1 la.cursors }
  | none =>
    if st.inq then
      { la with queues := la.queues.zipIdx.map fun (x : Queue × Nat) =>
          if x.2 == st.qin then { x.1 with bound := x.1.bound + 1 } else x.1 }
    else
      let off := w.item - st.rbase
      let skip := skippedOffsets la w.stage
      if off == firstOutside skip (skip.length + 1) (Table.get 0 w.stage la.cursors) then
        { la with cursors := Table.put 0 w.stage (off + 1) (la.cursors.filter fun x =>
            !(x.1 / 2 ^ 40 == w.stage + 1 && x.1 % 2 ^ 40 ≤ off)) }
      else { la with cursors := Table.put 0 (itemCursor w.stage off) 1 la.cursors }

/-- A waiting convoy of a deterministic launch: the launch's shape is fixed first, then the convoy takes the slot that
became free first (R409), where this tile is on that slot's cluster. -/
def admitToSlot (tile : Nat) (w : Waiting) (la : Launch) (s : State) : Option State :=
  if la.shape == [] then
    (fixShape s w.launch la).map fun shape =>
      wakeTile (tileAt ((shape.headD (0, 0)).1) 0) (s.adjLaunch w.launch fun la => { la with shape := shape })
  else
    let st := la.stages.getD w.stage default
    match la.shape.find? fun x => x.2 == 0 && placeable la st (tileAt x.1 0) with
    | none => none
    | some x =>
      if x.1 != clusterOf tile then none
      else
        (admitConvoy w la ((upTo 4).map (tileAt x.1)) s).map fun r =>
          let rest := la.shape.takeWhile (· != x) ++ (x.1, r.1) :: (la.shape.dropWhile (· != x)).drop 1
          let s := r.2.adjLaunch w.launch fun la => { la.noteAdmitted w with shape := rest }
          match rest.find? fun y => y.2 == 0 with
          | some y => wakeTile (tileAt y.1 0) s
          | none => s

/-- A waiting convoy admitted, if it may be on this tile's cluster. -/
def admitWaiting (tile : Nat) (w : Waiting) (s : State) : Option State :=
  match Map.find w.launch s.launches with
  | none => none
  | some la =>
    let r := if la.det then admitToSlot tile w la s
      else (admitConvoy w la (if w.group.isSome then (upTo 4).map (tileAt (clusterOf tile)) else [tile]) s).map fun r =>
        r.2.adjLaunch w.launch fun la => la.noteAdmitted w
    r.map (startSheet w.launch)

/-- The crews of a tile's cluster that a waiting item of a priority may have released (R391, R394). -/
def lesserCrews (s : State) (tile prio : Nat) : List Nat :=
  (s.crews.filter fun x => clusterOf x.2.tile == clusterOf tile &&
    match (s.strand x.2.recruiter).bind fun st => (Map.find st.item s.items).bind fun it => Map.find it.launch s.launches with
    | some la => !la.det && la.prio < prio
    | none => false).map (·.1)

/-- Whether a waiting convoy would be admitted without some crews. -/
def fitsWithout (tile : Nat) (w : Waiting) (cs : List Nat) (s : State) : Bool :=
  (admitWaiting tile w { s with crews := s.crews.filter fun x => !cs.contains x.1 }).isSome

/-- The crews, of those that may be released, whose contexts a waiting convoy needs: what is left when each that it can do
without is kept (R391); none where it does not fit even without all of them. -/
def neededCrews (tile prio : Nat) (w : Waiting) (s : State) : List Nat :=
  let cs := lesserCrews s tile prio
  if cs == [] || !fitsWithout tile w cs s then []
  else cs.foldl (fun need c => if fitsWithout tile w (need.filter (· != c)) s then need.filter (· != c) else need) cs

/-- ITEM_ADMISSION (R374, R399): the first waiting convoy that fits is admitted, and the tile looks again; where none fits
for want of contexts that crews of lower priority hold, the crews that it needs are released (R391). -/
def execItemAdmission (tile : Nat) (s : State) : Host.Outcome State Fault Refusal :=
  let ws := candidates s tile
  match ws.findSome? fun w => admitWaiting tile w s with
  | some s => .next (s.once (.itemAdmission tile))
  | none =>
    let prio (w : Waiting) : Nat := match Map.find w.launch s.launches with
      | some la => effectivePrio la w
      | none => 0
    match (ws.map fun w => neededCrews tile (prio w) w s).find? (· != []) with
    | some cs => .next (cs.foldl (fun s c => s.once (.crewForcedRelease c)) s)
    | none => .next s

/-- Whether an item of a launch waits (R401): a convoy of groups by its lowest ITEMID, an item of a range that is not yet
admitted, or a record that is not yet bound. -/
def itemWaits (h : Nat) (la : Launch) (stage item : Nat) : Bool :=
  (waitingIn h la).any (fun w => w.stage == stage && w.item == item) ||
    match la.stages[stage]? with
    | none => false
    | some st =>
      if st.inq then
        match la.queues[st.qin]? with
        | some q => (upTo (q.appended - q.bound)).any fun i => (q.bound + i) % 2 ^ 32 == item
        | none => false
      else
        st.rbase + Table.get 0 stage la.cursors ≤ item && item < st.rbase + st.count
          && !(skippedOffsets la stage).contains (item - st.rbase)

/-- PRIORITY_AGING (R401): a waiting item has been admissible for another 64 µs. -/
def execPriorityAging (launch stage item : Nat) (s : State) : Host.Outcome State Fault Refusal :=
  match Map.find launch s.launches with
  | none => .next s
  | some la =>
    if !itemWaits launch la stage item then .next s
    else
      if la.state != .live || 7 ≤ effectivePrio la ⟨launch, stage, item, none⟩ then .next s
      else
        .next (wakeLaunch launch (s.adjLaunch launch fun la => { la with
          ages := Table.put 0 (ageKey stage item) (Table.get 0 (ageKey stage item) la.ages + 1) la.ages }))

end Sys2Proof.Machine
end

