-- ==== Sys2Proof/Machine/Finish.lean ====
section
/-! DEFINITION. How launches come and go: submission by the host and by LAUNCH, the validator's verdict, the retirement of
items, and the end of a launch (13_execution.md R365, R371, R372, R395 to R397, 15_traps.md R422, 14_scheduling.md R415 to
R417, 17_host_boot_debug.md R461, R462). -/

namespace Sys2Proof.Machine

/-! The completion record (R372). -/

/-- The four words of a completion record. -/
def recordWords (la : Launch) (status code offset index : Nat) : List Nat :=
  [status + code % 256 * 2 ^ 8 + offset % 2 ^ 16 * 2 ^ 16 + index % 2 ^ 32 * 2 ^ 32, la.retired,
    (if la.detbreak then 1 else 0) + (if la.lostrem then 2 else 0) + (if la.loststr then 4 else 0), la.lkey]

/-- A completion record written at CPLADDR; where that faults the record goes to the host as a notice of type 2. (log 102 DEDUCED) -/
def writeRecord (h tile : Nat) (la : Launch) (status code offset index : Nat) (s : State) : State :=
  let ws := recordWords la status code offset index
  let r := (la.agent tile).write .global la.cpladdr (ws.flatMap (leBytes 8)) s
  match r.2 with
  | .ok _ => r.1
  | .error _ =>
    let w (i : Nat) : BitVec 64 := BitVec.ofNat 64 (ws.getD i 0)
    postNotice (noticeOf 2 code h tile 1 0 ⟨w 0, w 1, w 2, w 3⟩) r.1

/-! PRESTAT (R403). -/

/-- An operation of the pre-emption registers ended: BUSY clears, and a refusal sets ERR and ERRCODE. (log 109 DEDUCED) -/
def preEnd (refusal : Option Nat) (s : State) : State :=
  let v := putBits s.pre.stat.toNat 63 63 0
  let v := match refusal with
    | some code => putBits (putBits v 62 62 1) 55 48 code
    | none => v
  { s with pre := { s.pre with stat := BitVec.ofNat 64 v } }

/-- Whether an operation is in progress, of a kind, on a launch. -/
def preBusy (s : State) (op h : Nat) : Bool :=
  s.pre.stat.getLsbD 63 && bitsOf s.pre.goCmd.toNat 59 58 == op && bitsOf s.pre.goCmd.toNat 15 0 == h

/-- A restore that waits for room looks again (R406). -/
def wakeRestore (s : State) : State :=
  if s.pre.stat.getLsbD 63 && bitsOf s.pre.goCmd.toNat 59 58 == 1 then s.once .restore else s

/-! Ends of launches. -/

/-- The tiles on which other launches may admit once a launch has freed something there. -/
def wakeTiles (la : Launch) (s : State) : State :=
  if s.launches == [] then s else (launchTiles la).foldl (fun s t => wakeTile t s) s

/-- The banks that entries of a launch hold, closed (R59): each holding engine takes its close event at once, for the entries
leave their tiles with the launch. (log 61 DEDUCED) -/
def closeBanks (reason h : Nat) (s : State) : State :=
  let mine (b : Bank) : Bool := (s.tile b.tile).copies.any fun e => e.no == b.entry && e.launch == h
  (s.mem.banks.filter fun x => mine x.2).foldl (fun s x =>
    closeBank x.2.tile x.1 reason { s with mem := { s.mem with banks := Map.erase x.1 s.mem.banks } }) s

/-- The counters of a place on a tile that is freed are decremented no more by launches submitted from there (R396). -/
def dropHomes (f : Nat → Bool) (s : State) : State :=
  { s with launches := s.launches.map fun x =>
      (x.1, { x.2 with home := match x.2.home with
        | some (key, k) => if f key then none else some (key, k)
        | none => none }) }

/-- A launch ended (R371, R372, R396): its record is written, its banks and dispatch contexts close, what it held is freed,
and the counter of the LAUNCH that submitted it is decremented. -/
def endLaunch (h : Nat) (la : Launch) (status code index : Nat) (s : State) : State :=
  let s := writeRecord h (tileAt la.clbase 0) la status code 0 index (closeBanks 3 h s)
  let s := { s with
    dies := s.dies.map fun x => (x.1, { x.2 with ctxs := x.2.ctxs.filter fun c => c.launch != h })
    held := s.held.filter fun x => x.1 % 65536 != h
    convoys := s.convoys.filter fun x => x.2.launch != h
    launches := Map.erase h s.launches }
  let s := dropHomes (fun key => key % 65536 == h) (disown h s)
  let s := match la.home with
    | some (key, k) => countDown (key / 65536) (key % 65536) k s
    | none => s
  let s := if preBusy s 0 h then preEnd (some 1) s else s
  wakeRestore (wakeTiles la s)

/-- Whether a launch has nothing left to do (R372). -/
def launchOver (s : State) (h : Nat) (la : Launch) : Bool :=
  waitingIn h la == [] && !s.items.any (fun x => x.2.launch == h) && la.queues.all fun q => q.live == []

/-- A launch with nothing left to do ends. -/
def endIfOver (h : Nat) (s : State) : State :=
  match Map.find h s.launches with
  | some la => if launchOver s h la then s.once (.launchEnd h) else s
  | none => s

/-- LAUNCH_END (R372). -/
def execLaunchEnd (launch : Nat) (s : State) : Host.Outcome State Fault Refusal :=
  match Map.find launch s.launches with
  | none => .next s
  | some la => if launchOver s launch la then .next (endLaunch launch la 0 0 0 s) else .next s

/-- The strands of a launch, those of its crews among them. -/
def strandsOf (s : State) (h : Nat) : List (Nat × Strand) :=
  s.strands.filter fun x =>
    match Map.find x.2.item s.items with
    | some it => it.launch == h
    | none => false

/-- The logical id of a strand's charge, 0 where the strand is gone. -/
def logicalAt (s : State) (k : Nat) : Nat :=
  match (s.strand k).bind fun st => (Map.find st.item s.items).bind fun it =>
      (Map.find it.launch s.launches).map fun la => logicalId la it st.inItem with
  | some n => n
  | none => 0

/-- The tile that a strand's key names. -/
def tileOfKey (k : Nat) : Nat := if k < 98304 then k / 128 else (k - 98304) / 128

/-- Everything of a launch but the launch itself removed from the package (R422): strands, crews, items, engine commands,
log of reports to come. Writes already performed stand. -/
def stopLaunch (h : Nat) (s : State) : State :=
  let mine := (strandsOf s h).map (·.1)
  let s := mine.foldl (fun s k =>
    let tile := match (s.strand k).bind fun st => Map.find st.item s.items with
      | some it => it.tile
      | none => 0
    publish tile k .system s) s
  let keep (e : Command) : Bool := e.launch != h || e.state == .bank
  { s with
    crews := s.crews.filter fun x => !mine.contains x.2.recruiter
    strands := s.strands.filter fun x => !mine.contains x.1
    items := s.items.filter fun x => x.2.launch != h
    tiles := s.tiles.map fun x =>
      (x.1, { x.2 with
        copies := x.2.copies.filter keep, array := x.2.array.filter keep
        shadow := x.2.shadow.filter fun p => x.2.array.any fun e => e.id == p.cmd && keep e })
    dies := s.dies.map fun x => (x.1, { x.2 with routes := x.2.routes.filter keep }) }

/-- The record of a fatal cause that becomes a notice: the strand's own where it holds that cause. -/
def fatalRecord (s : State) (k cause : Nat) : FaultRec :=
  match s.strand k with
  | some st =>
    if bitsOf st.fault.rec0.toNat 6 0 == cause && st.fault.rec0.getLsbD 63 then st.fault
    else ({ code := cause } : Raise).record 0x3FFFF false
  | none => ({ code := cause } : Raise).record 0x3FFFF false

/-- LAUNCH_FATAL (R422): the launch ends with its first fatal cause; another that was raised before the record is written
becomes a fault notice. (log 103 DEDUCED) -/
def execLaunchFatal (launch cause strand : Nat) (s : State) : Host.Outcome State Fault Refusal :=
  match Map.find launch s.launches with
  | none => .next s
  | some la =>
    let index := logicalAt s strand
    let s := s.plan.foldl (fun s t =>
      match t with
      | .event (.launchFatal l c k) =>
        if l == launch then
          report (tileOfKey k) launch (logicalAt s k) c (fatalRecord s k c) s
        else s
      | _ => s) s
    .next (endLaunch launch la 2 cause index (stopLaunch launch s))

/-! Retirement (R147, R242, R293, R375, R409). -/

/-- Whether nothing keeps an item that is over from retiring: no engine command, no engine program and no KEYOP of it is
outstanding (R147, R382). -/
def nothingLeft (s : State) (item : Nat) (it : Item) : Bool :=
  let loading := match Map.find (heldKey it.tile it.launch) s.held with
    | some h => h.segs.any fun g => g.2.state == 1 && g.2.k.isSome && g.2.item == item
    | none => false
  !((s.tile it.tile).copies.any fun e => e.item == item && e.state != .bank)
    && !((s.tile it.tile).array.any fun e => e.item == item)
    && !((s.die (dieOf it.tile)).routes.any fun e => e.item == item)
    && !it.progs.any (fun p => p.2.running) && !loading && !s.keyJobs.any fun j => j.item == item

/-- Whether a convoy of lower ordinal of the same stage is still resident (R409). -/
def lowerResident (s : State) (item : Nat) (it : Item) : Bool :=
  s.items.any fun x => x.1 != item && x.2.launch == it.launch && x.2.stage == it.stage && x.2.convoy != it.convoy
    && x.2.convoy < it.convoy

/-- Whether an item is still in its launch's token ring. -/
def inRing (la : Launch) (item : Nat) : Bool := la.token.ring.contains item || la.token.joining.contains item

/-- What an item holds on its tile freed: its lanes' windows (R112), its strands and crews' frames, its place in its convoy, and with the last item
the convoy's region and the launch's tile-wide allotments (R375). (log 130 DEDUCED) -/
def freeItem (item : Nat) (it : Item) (s : State) : State :=
  let s := emptySlots item it (leaveWindows it s)
  let s := { s with
    strands := s.strands.filter fun x => x.2.item != item
    crews := s.crews.filter fun x => !it.strands.contains x.2.recruiter
    items := Map.erase item s.items
    convoys := Map.adjust it.convoy (fun cv => { cv with items := cv.items.filter (· != item) }) s.convoys }
  let s := match Map.find it.convoy s.convoys with
    | some cv => if cv.items == [] then { leaveShare cv s with convoys := Map.erase it.convoy s.convoys } else s
    | none => s
  if s.items.any fun x => x.2.tile == it.tile && x.2.launch == it.launch then s
  else
    let key := heldKey it.tile it.launch
    dropHomes (· == key) { s with held := Map.erase key s.held }

/-- ITEM_RETIRE (R147, R293, R382): an item all of whose strands have exited discards its held commands; when nothing of it
is left to complete it is counted, its record and all that it held are freed, and the launch may end. In a deterministic
launch it has left the ring, and convoys of a stage retire in order (R409). (log 98 DEDUCED) -/
def execItemRetire (item : Nat) (s : State) : Host.Outcome State Fault Refusal :=
  match Map.find item s.items with
  | none => .next s
  | some it =>
    if !itemOver s it then .next s
    else
      let s := discardGuarded item s
      match Map.find item s.items, Map.find it.launch s.launches with
      | some it, some la =>
        if la.state != .live && la.state != .preempting && !it.lost then .next s
        else if !nothingLeft s item it || (la.det && (inRing la item || lowerResident s item it)) then .next s
        else
          let s := freeItem item it (releaseRecord item s)
          let s := if it.lost then s else s.adjLaunch it.launch fun la => { la with retired := la.retired + 1 }
          let s := if la.det then
              s.items.foldl (fun s x =>
                if x.2.launch == it.launch && x.2.stage == it.stage && itemOver s x.2 then s.once (.itemRetire x.1) else s) s
            else s
          .next (endIfOver it.launch (wakeRestore (wakeTile it.tile s)))
      | _, _ => .next s

/-! Submission (R461, R462). -/

/-- A handle that no live launch has: the next after the one given last. -/
def newHandle (s : State) : Nat → Nat → Nat
  | 0, n => n
  | fuel + 1, n =>
    let n := if n % 65536 == 0 then 1 else n % 65536
    if (Map.find n s.launches).isSome then newHandle s fuel (n + 1) else n

/-- GO of LRCTL (R461): the record in LRBUF goes to the validator; while BUSY it is discarded and ERR is set. -/
def submitHost (replay : Bool) (s : State) : State :=
  if s.host.lrstat.getLsbD 63 then { s with host := { s.host with lrstat := s.host.lrstat ||| 0x4000000000000000 } }
  else
    let sub : Submission :=
      { record := s.host.lrbuf, host := true, priv := s.host.lrctl.getLsbD 62
        sheet := if replay then some s.host.lrsheet.toNat else none, tile := 0, launch := 0, asid := 0, prio := 0
        bound := false, strand := 0, pend := 0, k := 0, stage := 0, logical := 0, retcnt := 0, lane := 0, fault := false }
    { s with
      host := { s.host with lrstat := s.host.lrstat ||| 0x8000000000000000 }
      subs := s.subs ++ [sub] }.later .validatorDone

/-- LAUNCH_SUBMIT (R461, R462). -/
def execLaunchSubmit (s : State) : Host.Outcome State Fault Refusal := .next (submitHost false s)

/-- REPLAY_SUBMIT (R417, R461). -/
def execReplaySubmit (s : State) : Host.Outcome State Fault Refusal := .next (submitHost true s)

/-- The parts of a contact sheet that lie before its ranges written at acceptance (R416): the record, the capture
descriptor, and the group table with its lists. -/
def sheetHead (h : Nat) (record : Memory) (s : State) : State :=
  match Map.find h s.launches with
  | none => s
  | some la =>
    if !la.capture then s
    else
      let y := la.sheetLayout
      let desc := leBytes 8 la.sheet ++ leBytes 8 (la.sheetLen % 2 ^ 40 + la.ranges.length * 2 ^ 40)
        ++ la.ranges.flatMap fun r => leBytes 8 r.1 ++ leBytes 8 r.2
      let lists := la.groups.foldl (fun (acc : List Byte × Nat) g =>
        (acc.1 ++ leBytes 8 (g.stage + g.list.length * 2 ^ 8 + g.gbar * 2 ^ 18 + (if g.crewok then 2 ^ 26 else 0))
          ++ leBytes 8 acc.2, acc.2 + 4 * g.list.length)) ([], la.sheet + y.groups + 16 * la.groups.length)
      let items := la.groups.flatMap fun g => g.list.flatMap (leBytes 4)
      sheetWrite h y.groups (lists.1 ++ items) (sheetWrite h y.desc desc (sheetWrite h 64 (record.readBytes 0 2048) s))

/-- The entries of a contact sheet's log read for a replay, from an offset on, until an entry of KIND 0 or the end; the
bytes of the kinds 6 to 9 run from an entry's offset to that of the entry with bytes before it. -/
def readSheet (g : Agent) (sheet : Nat) : Nat → Nat → Nat → State → State × List SheetEntry
  | 0, _, _, s => (s, [])
  | n + 1, off, top, s =>
    if top < off + 32 then (s, [])
    else
      let r := g.read .global (sheet + off) 32 s
      match r.2 with
      | .error _ => (r.1, [])
      | .ok b =>
        let w (i : Nat) : Nat := ofLeBytes ((b.bytes.drop (8 * i)).take 8)
        let kind := bitsOf (w 1) 15 8
        if kind == 0 then (r.1, [])
        else
          let long := 6 ≤ kind
          let p := if long && w 3 ≤ top then g.read .global (sheet + w 3) (top - w 3) r.1 else (r.1, .ok ⟨[], false, false⟩)
          let bytes := match p.2 with
            | .ok v => v.bytes
            | .error _ => []
          let e : SheetEntry :=
            { tide := w 0, slot := bitsOf (w 1) 7 0, kind := kind, lane := bitsOf (w 1) 21 16, stage := bitsOf (w 1) 31 29
              strand := bitsOf (w 1) 51 32, retcnt := w 2, value := w 3, bytes := bytes }
          let rest := readSheet g sheet n (off + 32) (if long then min top (w 3) else top) p.1
          (rest.1, e :: rest.2)

/-- The replay that a launch submitted with a sheet runs (R417): its log is the sheet's, and it captures nothing. -/
def withReplay (sub : Submission) (la : Launch) (s : State) : State × Launch :=
  match sub.sheet with
  | none => (s, la)
  | some a =>
    let y := la.sheetLayout
    let r := readSheet (la.agent sub.tile) a ((la.sheetLen - y.log) / 32) y.log la.sheetLen s
    (r.1, { la with replay := some r.2, capture := false })

/-- What the submitter is told (R396, R461): LRSTAT, or the vD of a LAUNCH, which a capture logs. -/
def tellSubmitter (sub : Submission) (v : Nat) (s : State) : State :=
  if sub.host then { s with host := { s.host with lrstat := BitVec.ofNat 64 (putBits (putBits s.host.lrstat.toNat 31 0 v) 63 63 0) } }
  else
    answerEngine sub.strand sub.pend v
      (captureInput ⟨sub.tile, sub.launch, sub.stage, sub.logical, sub.retcnt, sub.lane⟩ 5 v [] s)

/-- VALIDATOR_DONE (R371, R396): a launch that passes every check becomes live, and its tiles look for items to admit; for a
refusal the completion record says why. The counter of a LAUNCH is decremented at once by a refusal. -/
def execValidatorDone (s : State) : Host.Outcome State Fault Refusal :=
  match s.subs with
  | [] => .next s
  | sub :: rest =>
    let r := validate sub (if sub.host then none else some ⟨sub.asid, sub.prio, sub.bound⟩) { s with subs := rest }
    match r.2 with
    | .error x =>
      let s := writeRecord 0 sub.tile (recLaunch sub.record sub.priv) 1 x.reason x.offset x.index r.1
      let s := tellSubmitter sub (2 ^ 31 + x.reason * 2 ^ 16 + x.offset % 2 ^ 16) s
      .next (if sub.host then s else countDown sub.tile sub.launch sub.k s)
    | .ok la =>
      let w := withReplay sub la r.1
      let h := newHandle s 65536 s.nextHandle
      let la := { w.2 with home := if sub.host then none else some (heldKey sub.tile sub.launch, sub.k) }
      let s := { w.1 with launches := Map.insert h la w.1.launches, nextHandle := (h + 1) % 65536 }
      let s := tellSubmitter sub h (sheetHead h sub.record s)
      .next (endIfOver h (wakeTiles la (replayPass h s)))

/-! LAUNCH (R395 to R397). -/

/-- LAUNCH: once per item. The pair is canonical and a multiple of 256, both pages translate as loads, and the record is
read as an engine reads; the validator has it from then on. In a replay the logged result stands instead. (log 101 DEDUCED) -/
def execLaunch (g : Guard) (d a : Opnd) (k : BitVec 6) (s : State) : Host.Outcome State Fault Refusal :=
  issue (.launch g d a k) s fun c s =>
    let lane := c.elect
    let va := (c.pair lane a).toNat
    let t := trDetail va 0 0
    let at_ := c.inputAt lane
    if !c.once then .done s
    else if !canonical va then .trap { c.raise 0x22 c.electedMask with info1 := t, trdetail := t } s
    else if va % 256 != 0 then
      .trap { c.raise 0x27 c.electedMask with info0 := c.spaceInfo .global lane, info1 := va } s
    else
      let ag : Agent := c.la.agent c.it.tile
      let r := ag.places .load .global ((lineParts va 2048)) s
      match r.2 with
      | .error (x, f) =>
        let t := trDetail x f.level 0
        .trap { c.raise f.cause c.electedMask with info1 := t, trdetail := t } r.1
      | .ok ps =>
        if replaying s c.it.launch then
          let v := replayInput at_ 5 r.1
          match v.2 with
          | none => .trap c.diverge v.1
          | some e =>
            .done (countDown c.it.tile c.it.launch k.toNat
              (v.1.adjStrand c.key fun st => c.write lane d (BitVec.ofNat 32 e.value) st))
        else
          let b := ag.fetch ps (l1Publish c.it.tile r.1)
          let n := b.1.newId
          let sub : Submission :=
            { record := Memory.writeBytes [] 0 b.2.bytes, host := false, priv := false, sheet := none, tile := c.it.tile
              launch := c.it.launch, asid := c.la.asid, prio := c.la.prio, bound := !c.la.priv, strand := c.key, pend := n.1
              k := k.toNat, stage := at_.stage, logical := at_.logical, retcnt := at_.retcnt, lane := at_.lane
              fault := b.2.bad || b.2.gone }
          let s := owe c n.1 d 1 c.electedMask n.2
          .done ({ s with subs := s.subs ++ [sub] }.later .validatorDone)

end Sys2Proof.Machine
end

