-- ==== Sys2Proof/Machine/Float.lean ====
section
/-! DEFINITION. The FP32, packed and conversion majors and RNG (10_isa_compute.md R265 to R276, R283). -/

namespace Sys2Proof.Machine

/-- FABS and FNEG (R266): a NaN gives the canonical NaN. -/
def signWord (neg : Bool) (a : Word) : Word :=
  if (read32 a).isNan then nan32 else if neg then a ^^^ 0x80000000 else a &&& 0x7FFFFFFF

/-- The tests of FSETP with the flag NV of an ordered test on a NaN (R268). -/
def fcmpTest (k : FCmp) (a b : Word) : Bool × Flags :=
  let x := read32 a
  let y := read32 b
  let unordered := x.isNan || y.isNan
  let ordered (r : Bool) : Bool × Flags := if unordered then (false, flagNV) else (r, 0)
  let equal := !unordered && !Fp.lt x y && !Fp.lt y x
  match k with
  | .eq => (equal, 0)
  | .ne => (!equal, 0)
  | .lt => ordered (Fp.lt x y)
  | .le => ordered (!Fp.lt y x)
  | .gt => ordered (Fp.lt y x)
  | .ge => ordered (!Fp.lt x y)
  | .num => (!unordered, 0)
  | .nan => (unordered, 0)

/-- FRND (R269): no flag. -/
def frndWord (m : FrndMode) (a : Word) : Word :=
  let mode : Rnd := match m with
    | .rne => .rne
    | .rtz => .rtz
    | .rdn => .rdn
    | .rup => .rup
  match read32 a with
  | .nan => nan32
  | .inf _ => a
  | .fin n sig e => if 0 ≤ e then a else (round32 (.fin n (roundAt mode 0 n sig e 0).1 0, 0)).1

/-- FCLASS (R270). -/
def fclassWord (a : Word) : Word :=
  let e := bitsOf a.toNat 30 23
  let neg := a.getLsbD 31
  let bit := match read32 a with
    | .nan => 8
    | .inf n => if n then 0 else 7
    | .fin n m _ => if m == 0 then (if n then 3 else 4) else if e == 0 then (if neg then 2 else 5) else if neg then 1 else 6
  (1#32 <<< bit) ||| (if a == 0xFFFFFFFF then 0x200 else 0)

/-- The BF16 element `i` of a register (R22, R271). -/
def half (a : Word) (i : Nat) : Fp := FKind.bf16.read (bitsOf a.toNat (16 * i + 15) (16 * i))

/-- One BF16 result, rounded by RNE with subnormals kept (R271). -/
def roundHalf (r : Fp × Flags) : Nat × Flags :=
  let y := FKind.bf16.round .rne 0 false false r.1
  (y.1, r.2 ||| y.2)

/-- A packed operation on both elements (R271). -/
def packed (f : Nat → Fp × Flags) : Word × Flags :=
  let lo := roundHalf (f 0)
  let hi := roundHalf (f 1)
  (BitVec.ofNat 32 (lo.1 + hi.1 * 2 ^ 16), lo.2 ||| hi.2)

/-- PACK2 (R276). -/
def pack2Word (a b : Word) : Word × Flags := packed fun i => (read32 (if i == 0 then a else b), 0)

/-- FSCALE (R269). -/
def fscaleWord (a b : Word) : Word × Flags := round32 ((read32 a).scale b.toInt, 0)

/-! Conversions (R272 to R275). -/

/-- The formats that CVT refuses (R273). -/
def cvtRefuses : EFmt → Bool
  | .int _ 64 | .fp .acc36 | .accInt => true
  | .int _ _ | .ni _ | .fp _ => false

/-- Whether a format is floating. -/
def EFmt.isFp : EFmt → Bool
  | .fp _ => true
  | .int _ _ | .ni _ | .accInt => false

/-- Whether a CVT under SR draws (R274). -/
def cvtDraws (dir : CvtDir) (x : Slot) : Bool :=
  x.rnd == .sr &&
    match dir with
    | .f32To => true
    | .s32To | .n32To | .toS32 | .toN32 => x.efmt.isFp
    | .toF32 => x.efmt == .int true 32 || x.efmt == .int false 32

/-- The integer that an element of an integer format is. -/
def EFmt.asInt (f : EFmt) (bits : Nat) : Int :=
  match f with
  | .int true w => signedOf w bits
  | .int false w => (bits % 2 ^ w : Nat)
  | .ni n => signedOf n bits
  | .fp _ => 0
  | .accInt => signedOf 36 bits

/-- An integer written in an integer format by R34, in register form. -/
def EFmt.fromInt (f : EFmt) (sat : Bool) (x : Int) : Nat × Flags :=
  match f with
  | .int sg w => let r := intToInt sat sg w x; (lowBits w r.1, r.2)
  | .ni n => let r := intToInt sat true n x; (lowBits n r.1, r.2)
  | .fp _ => (0, 0)
  | .accInt => let r := intToInt sat true 36 x; (lowBits 36 r.1, r.2)

/-- A value of format X read for CVT: flushed under FLUSH; reduced in direction 1 alone (R274). -/
def Slot.cvtRead (x : Slot) (reduce : Bool) (bits : Nat) : Fp := (if reduce then x else { x with planes := 0 }).value bits

/-- An FP32 result of CVT: X's FLUSH acts on it only when X is FP32 (R274). -/
def Slot.toF32 (x : Slot) (u : Nat) (v : Fp) : Nat × Flags := FKind.fp32.round x.rnd u x.sat (x.flush && x.efmt == .fp .fp32) v

/-- An FP32 source of CVT (R274). -/
def Slot.fromF32 (x : Slot) (a : Word) : Fp :=
  FKind.fp32.read (FKind.fp32.flushed (x.flush && x.efmt == .fp .fp32) a.toNat)

/-- CVT of one lane (R272, R274). -/
def cvtWord (dir : CvtDir) (x : Slot) (u : Nat) (a : Word) : Word × Flags :=
  let bits := a.toNat % 2 ^ x.efmt.bits
  let r : Nat × Flags := match dir with
    | .f32To => x.store u (x.fromF32 a)
    | .toF32 => x.toF32 u (x.cvtRead true bits)
    | .s32To => if x.efmt.isFp then x.store u (Fp.ofInt a.toInt) else x.efmt.fromInt x.sat a.toInt
    | .n32To => if x.efmt.isFp then x.store u (Fp.ofInt (a.toNat : Int)) else x.efmt.fromInt x.sat (a.toNat : Int)
    | .toS32 =>
      if x.efmt.isFp then (let r := fpToInt x.rnd u (intRange true 32) (x.cvtRead false bits); (lowBits 32 r.1, r.2))
      else (EFmt.int true 32).fromInt x.sat (x.efmt.asInt bits)
    | .toN32 =>
      if x.efmt.isFp then (let r := fpToInt x.rnd u (intRange false 32) (x.cvtRead false bits); (lowBits 32 r.1, r.2))
      else (EFmt.int false 32).fromInt x.sat (x.efmt.asInt bits)
  (BitVec.ofNat 32 r.1, r.2)

/-- CVTI of one lane (R275): subnormals kept. -/
def cvtiWord (conv : CvtiConv) (m : Rnd) (u : Nat) (a : Word) : Word × Flags :=
  let fromI (x : Int) : Word × Flags :=
    let r := FKind.fp32.round m u false false (Fp.ofInt x)
    (BitVec.ofNat 32 r.1, r.2)
  let toI (sg : Bool) : Word × Flags :=
    let r := fpToInt m u (intRange sg 32) (read32 a)
    (BitVec.ofNat 32 (lowBits 32 r.1), r.2)
  match conv with
  | .sToF => fromI a.toInt
  | .nToF => fromI (a.toNat : Int)
  | .fToS => toI true
  | .fToN => toI false

/-! The meanings. -/

/-- FADD (R266). -/
def execFadd (g : Guard) (d a b : Opnd) (s : State) : Host.Outcome State Fault Refusal :=
  issue (.fadd g d a b) s fun c s => c.putFlags d (fun l => round32 (Fp.add (read32 (c.reg l a)) (read32 (c.reg l b)))) s

/-- FSUB (R266). -/
def execFsub (g : Guard) (d a b : Opnd) (s : State) : Host.Outcome State Fault Refusal :=
  issue (.fsub g d a b) s fun c s => c.putFlags d (fun l => round32 (Fp.add (read32 (c.reg l a)) (read32 (c.reg l b)).neg)) s

/-- FMUL (R266). -/
def execFmul (g : Guard) (d a b : Opnd) (s : State) : Host.Outcome State Fault Refusal :=
  issue (.fmul g d a b) s fun c s => c.putFlags d (fun l => round32 (Fp.mul (read32 (c.reg l a)) (read32 (c.reg l b)))) s

/-- FFMA (R266): rounds once; the old destination is a source (R257). -/
def execFfma (g : Guard) (d a b : Opnd) (s : State) : Host.Outcome State Fault Refusal :=
  issue (.ffma g d a b) s fun c s =>
    c.putFlags d (fun l => round32 (Fp.fma (read32 (c.reg l a)) (read32 (c.reg l b)) (read32 (c.reg l d)))) s

/-- FMIN (R230, R266). -/
def execFmin (g : Guard) (d a b : Opnd) (s : State) : Host.Outcome State Fault Refusal :=
  issue (.fmin g d a b) s fun c s => c.putFlags d (fun l => fpPick false (c.reg l a) (c.reg l b)) s

/-- FMAX (R230, R266). -/
def execFmax (g : Guard) (d a b : Opnd) (s : State) : Host.Outcome State Fault Refusal :=
  issue (.fmax g d a b) s fun c s => c.putFlags d (fun l => fpPick true (c.reg l a) (c.reg l b)) s

/-- FABS (R266). -/
def execFabs (g : Guard) (d a : Opnd) (s : State) : Host.Outcome State Fault Refusal :=
  issue (.fabs g d a) s fun c s => c.put d (fun l => signWord false (c.reg l a)) s

/-- FNEG (R266). -/
def execFneg (g : Guard) (d a : Opnd) (s : State) : Host.Outcome State Fault Refusal :=
  issue (.fneg g d a) s fun c s => c.put d (fun l => signWord true (c.reg l a)) s

/-- FRCP (R267). -/
def execFrcp (g : Guard) (d a : Opnd) (s : State) : Host.Outcome State Fault Refusal :=
  issue (.frcp g d a) s fun c s => c.putFlags d (fun l => round32 (fpRcp (read32 (c.reg l a)))) s

/-- FRSQ (R267). -/
def execFrsq (g : Guard) (d a : Opnd) (s : State) : Host.Outcome State Fault Refusal :=
  issue (.frsq g d a) s fun c s => c.putFlags d (fun l => round32 (fpRsq (read32 (c.reg l a)))) s

/-- FEXP2 (R267). -/
def execFexp2 (g : Guard) (d a : Opnd) (s : State) : Host.Outcome State Fault Refusal :=
  issue (.fexp2 g d a) s fun c s => c.putFlags d (fun l => round32 (fpExp2 (read32 (c.reg l a)))) s

/-- FLOG2 (R267). -/
def execFlog2 (g : Guard) (d a : Opnd) (s : State) : Host.Outcome State Fault Refusal :=
  issue (.flog2 g d a) s fun c s => c.putFlags d (fun l => round32 (fpLog2 (read32 (c.reg l a)))) s

/-- FTANH (R267). -/
def execFtanh (g : Guard) (d a : Opnd) (s : State) : Host.Outcome State Fault Refusal :=
  issue (.ftanh g d a) s fun c s => c.putFlags d (fun l => round32 (fpTanh (read32 (c.reg l a)))) s

/-- FSETP (R268). -/
def execFsetp (g : Guard) (k : FCmp) (pd : BitVec 3) (a b : Opnd) (s : State) : Host.Outcome State Fault Refusal :=
  issue (.fsetp g k pd a b) s fun c s => c.putPred pd (fun l => fcmpTest k (c.reg l a) (c.reg l b)) s

/-- FSCALE (R269). -/
def execFscale (g : Guard) (d a b : Opnd) (s : State) : Host.Outcome State Fault Refusal :=
  issue (.fscale g d a b) s fun c s => c.putFlags d (fun l => fscaleWord (c.reg l a) (c.reg l b)) s

/-- FRND (R269). -/
def execFrnd (g : Guard) (m : FrndMode) (d a : Opnd) (s : State) : Host.Outcome State Fault Refusal :=
  issue (.frnd g m d a) s fun c s => c.put d (fun l => frndWord m (c.reg l a)) s

/-- HADD2 (R271). -/
def execHadd2 (g : Guard) (d a b : Opnd) (s : State) : Host.Outcome State Fault Refusal :=
  issue (.hadd2 g d a b) s fun c s => c.putFlags d (fun l => packed fun i => Fp.add (half (c.reg l a) i) (half (c.reg l b) i)) s

/-- HMUL2 (R271). -/
def execHmul2 (g : Guard) (d a b : Opnd) (s : State) : Host.Outcome State Fault Refusal :=
  issue (.hmul2 g d a b) s fun c s => c.putFlags d (fun l => packed fun i => Fp.mul (half (c.reg l a) i) (half (c.reg l b) i)) s

/-- HFMA2 (R271): rounds once; the old destination is a source (R257). -/
def execHfma2 (g : Guard) (d a b : Opnd) (s : State) : Host.Outcome State Fault Refusal :=
  issue (.hfma2 g d a b) s fun c s =>
    c.putFlags d (fun l => packed fun i => Fp.fma (half (c.reg l a) i) (half (c.reg l b) i) (half (c.reg l d) i)) s

/-- FCLASS (R270). -/
def execFclass (g : Guard) (d a : Opnd) (s : State) : Host.Outcome State Fault Refusal :=
  issue (.fclass g d a) s fun c s => c.put d (fun l => fclassWord (c.reg l a)) s

/-- CVT (R272 to R274): a slot in S64, N64 or ACC36 raises SLOT_FORMAT. -/
def execCvt (g : Guard) (dir : CvtDir) (d a : Opnd) (slot : BitVec 3) (s : State) : Host.Outcome State Fault Refusal :=
  issue (.cvt g dir d a slot) s fun c s =>
    match slotOf (c.la.slots.getD slot.toNat 0) with
    | none => c.traps 0x40 s
    | some x =>
      if cvtRefuses x.efmt then c.traps 0x40 s
      else c.putDraw d (cvtDraws dir x) (fun l u => cvtWord dir x u (c.reg l a)) s

/-- CVTI (R275). -/
def execCvti (g : Guard) (conv : CvtiConv) (m : Rnd) (d a : Opnd) (s : State) : Host.Outcome State Fault Refusal :=
  issue (.cvti g conv m d a) s fun c s =>
    c.putDraw d (m == .sr) (fun l u => cvtiWord conv m u (c.reg l a)) s

/-- PACK2 (R276). -/
def execPack2 (g : Guard) (d a b : Opnd) (s : State) : Host.Outcome State Fault Refusal :=
  issue (.pack2 g d a b) s fun c s => c.putFlags d (fun l => pack2Word (c.reg l a) (c.reg l b)) s

/-- RNG (R283). -/
def execRng (g : Guard) (d : Opnd) (s : State) : Host.Outcome State Fault Refusal :=
  issue (.rng g d) s fun c s => c.putDraw d true (fun _ u => (BitVec.ofNat 32 u, 0)) s

end Sys2Proof.Machine
end

