-- ==== Sys2Proof/Machine/Preempt.lean ====
section
/-! DEFINITION. Pre-emption and restore (14_scheduling.md R403 to R407, 07_copy_and_routing.md R171, R185,
11_matrix.md R322, 08_consistency.md R214). What an image holds stands in the state under the numbers of a shadow of
the package: tile t is shadow tile 3072 + t, whose cluster, die and member follow by the same arithmetic. Nothing runs on a
shadow tile, and completions that come meanwhile reach the image there (R185, R404). -/

namespace Sys2Proof.Machine

/-- The shadow of a tile. -/
def shadowTile (tile : Nat) : Nat := 3072 + tile

/-- Entries of a map under other numbers. -/
def rekey {α : Type} (f : Nat → Nat) (m : Map α) : Map α := m.foldl (fun acc x => Map.insert (f x.1) x.2 acc) []

/-! Stop (R404). -/

/-- Whether a strand of a launch that is being pre-empted has stopped: it is over, it waits, its recruiter's work is a
crew's, a precise trap waits for its entry (R429), or it stands at a clause boundary; and its local accesses are complete. -/
def Strand.stopped (st : Strand) : Bool :=
  (st.over || (st.set == 0 && (st.handler.isNone || st.pool != 0)) || st.crew.isSome || st.trapping.isSome
      || st.wait != .none || atBoundary (st.flow ((lowest st.set).getD 0)))
    && !st.pend.any fun p => p.open && p.kind != .remote

/-- Whether a launch has stopped: every strand, every crew of a launch that is not deterministic, and every command that has
run to its end. -/
def launchStopped (s : State) (h : Nat) (la : Launch) : Bool :=
  let mine := strandsOf s h
  mine.all (fun x => x.2.stopped) && (la.det || mine.all fun x => x.2.crew.isNone)
    && !s.tiles.any fun x => x.2.copies.any fun e => e.launch == h && e.state == .active && e.finished

/-- A handler none of whose lanes is left ends as after EXIT, once its accesses have completed and the replay may be performed
(R426, R429). -/
def handlerTurns (s : State) : State :=
  let ends (st : Strand) : Bool := st.handler.isSome && st.pool == 0 && !st.over && !st.pend.any (·.open)
    && match (Map.find st.item s.items).bind fun it => Map.find it.launch s.launches with
      | some la => la.state == .live || la.state == .preempting
      | none => false
  (s.strands.filter fun x => ends x.2 && !replayHeld x.1 x.2 s).foldl (fun s x => endHandler x.1 (settle true x.1 s)) s

/-- A launch that is being pre-empted goes on to its Drain once it has stopped. -/
def preemptTurn (s : State) : State :=
  match Map.find (bitsOf s.pre.goCmd.toNat 15 0) s.launches with
  | some la =>
    if la.state == .preempting && launchStopped s (bitsOf s.pre.goCmd.toNat 15 0) la
        && !s.plan.contains (.event .saveComplete) then s.once .preempt
    else s
  | none => s

/-- The pages that a launch's image needs (R404): its regions, and what the layout of an image adds. -/
def imagePages (s : State) (h : Nat) (la : Launch) : Nat :=
  let tiles := (s.held.filter fun x => x.1 % 65536 == h).length * la.scrtile
  let items := (s.items.filter fun x => x.2.launch == h).foldl (fun n x =>
    let st := stageOf la x.2
    n + st.accrows * 2048 + st.width * 4 * (st.vregs * 4 + st.lpriv)) 0
  let shares := (s.convoys.filter fun x => x.2.launch == h).length * la.cshare
  (tiles + items + shares + 4095) / 4096 + Config.imageExtraPages h

/-- GO for a pre-emption (R403): USED is set; the operation is refused, or the launch begins to stop. -/
def goPreempt (h : Nat) (s : State) : State :=
  let used := match Map.find h s.launches with
    | some la => imagePages s h la
    | none => 0
  let s := { s with pre := { s.pre with stat := BitVec.ofNat 64 (putBits s.pre.stat.toNat 31 0 used) } }
  match Map.find h s.launches with
  | none => preEnd (some 1) s
  | some la =>
    if la.state != .live then preEnd (some 4) s
    else if bitsOf s.pre.len.toNat 31 0 < used then preEnd (some 2) s
    else
      let s := { s with pre := { s.pre with
        stat := BitVec.ofNat 64 (putBits s.pre.stat.toNat 63 63 1)
        goCmd := s.pre.cmd, goBase := s.pre.base, goLen := s.pre.len } }
      let s := s.adjLaunch h fun la => { la with state := .preempting }
      let crews := if la.det then [] else (strandsOf s h).filterMap fun x => x.2.crew
      (crews.foldl (fun s c => s.once (.crewForcedRelease c)) s).once .preempt

/-- PREEMPT (R404): once the launch has stopped, each strand publishes at system scope, its banks close with reason 3, and
the image is saved. A launch that ended before that refuses the operation (R407). -/
def execPreempt (s : State) : Host.Outcome State Fault Refusal :=
  let h := bitsOf s.pre.goCmd.toNat 15 0
  if !preBusy s 0 h then .next s
  else
    match Map.find h s.launches with
    | none => .next (preEnd (some 1) s)
    | some la =>
      if la.state != .preempting || !launchStopped s h la then .next s
      else
        let s := (strandsOf s h).foldl (fun s x =>
          match Map.find x.2.item s.items with
          | some it => publish it.tile x.1 .system s
          | none => s) s
        .next ((closeBanks 3 h s).later .saveComplete)

/-! Places that change. -/

/-- Where the tiles and strands of a launch go. -/
structure Move where
  launch : Nat
  tile : Nat → Nat
  key : Nat → Nat

/-- A lane's flow as an image holds it: inside a clause it will fetch the clause again (R116), at a header it fetches, and
past a clause's last word it fetches the next clause, of the same segment only (R119). -/
def Flow.saved (f : Flow) : Flow :=
  match f.ctx with
  | some x => if !x.waited then { f with ctx := none } else { f with ctx := some { x with resume := x.stop != f.pc } }
  | none => f

/-- A strand in its new context. -/
def Strand.movedTo (st : Strand) (context : Nat) : Strand :=
  { st with context := context, lanes := st.lanes.map fun l => { l with flow := l.flow.saved } }

/-- The strands, items, convoys and crews of a launch at their new places, and every mention of them: remote accesses,
KEYOPs, submissions, results on their way, and launches that count down its counters. -/
def moveParts (m : Move) (s : State) : State :=
  let mine := (strandsOf s m.launch).map (·.1)
  let key (k : Nat) : Nat := if mine.contains k then m.key k else k
  let crews := (s.crews.filter fun x => mine.contains x.2.recruiter).map (·.1)
  let oldTile (item : Nat) : Option Nat := (Map.find item s.items).map (·.tile)
  let stays (e : Command) : Bool := e.launch == m.launch && isCount e.op
  let counting (r : Remote) : Bool := s.dies.any fun x => x.2.routes.any fun e => some e.id == r.command && isCount e.op
  let queue (r : Remote) : Nat :=
    if r.tile < 768 || 3072 ≤ r.tile then m.tile r.tile
    else if counting r then r.tile
    else
      match oldTile r.item with
      | some t => routeQueue (dieOf (m.tile t))
      | none => r.tile
  let turn : Turn → Turn
    | .event (.loadWriteback k id) => .event (.loadWriteback (key k) id)
    | t => t
  { s with
    plan := s.plan.map turn
    strands := rekey key (s.strands.map fun x =>
      if mine.contains x.1 then (x.1, x.2.movedTo (m.key x.1 % 128)) else x)
    items := s.items.map fun x =>
      if x.2.launch == m.launch then
        (x.1, { x.2 with
          tile := m.tile x.2.tile, strands := x.2.strands.map m.key
          reserved := x.2.reserved.map fun c => m.key (crewKey x.2.tile c) % 128
          progs := x.2.progs.map fun p => (p.1, { p.2 with strand := m.key p.2.strand }) })
      else x
    crews := s.crews.map fun x =>
      if crews.contains x.1 then
        (x.1, { x.2 with
          tile := m.tile x.2.tile, recruiter := m.key x.2.recruiter
          contexts := x.2.contexts.map fun c => m.key (crewKey x.2.tile c) % 128 })
      else x
    dies := s.dies.map fun x =>
      (x.1, { x.2 with routes := x.2.routes.map fun e => if stays e then { e with strand := key e.strand } else e })
    fabric := { s.fabric with remotes := s.fabric.remotes.map fun r =>
      if r.launch == m.launch then { r with tile := queue r, strand := key r.strand } else r }
    keyJobs := s.keyJobs.map fun j =>
      if j.launch == m.launch then { j with tile := m.tile j.tile, strand := key j.strand } else j
    subs := s.subs.map fun u =>
      if !u.host && u.launch == m.launch then { u with tile := m.tile u.tile, strand := key u.strand } else u
    upsets := s.upsets.map fun u => { u with strand := key u.strand }
    launches := s.launches.map fun x =>
      (x.1, { x.2 with home := match x.2.home with
        | some (k, c) => if k % 65536 == m.launch then some (heldKey (m.tile (k / 65536)) m.launch, c) else some (k, c)
        | none => none }) }

/-- A command as an image holds it (R171): an ACTIVE one is queued again at its cursor, RTDISP at the start of its token
(R185). -/
def Command.saved (m : Move) (ctxs : List Dispatch) (e : Command) : Command :=
  let e := match (if isDisp e.op then ctxs.find? fun c => c.launch == e.launch && c.id == e.value.toNat else none) with
    | some c => restartToken c e
    | none => e
  { e with strand := m.key e.strand, state := if e.state == .active then .queued else e.state }

/-- Commands put behind those of a queue in their order, each with a free entry; none where the queue is too full. -/
def requeue (size : Nat) (floors : List (Nat × Nat)) : List Command → List Command → Option (List Command)
  | q, [] => some q
  | q, e :: es =>
    match queueTakes q size floors e.launch e.stage with
    | none => none
    | some floor => requeue size floors (q ++ [{ e with no := freeEntry q size, floor := floor }]) es

/-- Dispatch contexts put beside those of a die, each with a free number; none where the die has no room (R172). -/
def openContexts (limited : Bool) : List Dispatch → List Dispatch → Option (List Dispatch)
  | cs, [] => some cs
  | cs, x :: xs =>
    match (upTo (if limited then 4 else 65536)).find? fun i => cs.all fun c => c.ix != i with
    | some i => openContexts limited (cs ++ [{ x with ix := i }]) xs
    | none => none

/-- The commands of a launch moved from one tile's engines, and its die's, to another's. RTCOUNT stays with its die
(R185); the dispatch context of an RTDISP that has started goes where it goes, and on a restore to another die every one. -/
def moveCommands (m : Move) (t u : Nat) (limited : Bool) (s : State) : Option State :=
  let mine (e : Command) : Bool := e.launch == m.launch
  let onTile (e : Command) : Bool := match Map.find e.item s.items with
    | some it => it.tile == u
    | none => false
  let a := s.tile t
  let routes := (s.die (dieOf t)).routes.filter fun e => mine e && !isCount e.op && onTile e
  let s1 := (s.setTile t { a with
      copies := a.copies.filter (!mine ·), array := a.array.filter (!mine ·)
      shadow := a.shadow.filter fun p => !a.array.any fun e => e.id == p.cmd && mine e }).setDie (dieOf t)
    { s.die (dieOf t) with routes := (s.die (dieOf t)).routes.filter fun e => !routes.any fun r => r.id == e.id }
  let b := s1.tile u
  let size (n : Nat) : Nat := if limited then n else 65536
  (requeue (size 64) (if limited then floorStages s u false else []) b.copies
    ((a.copies.filter mine).map (Command.saved m []))).bind fun copies =>
    (requeue (size 16) (if limited then floorStages s u true else []) b.array
      ((a.array.filter mine).map (Command.saved m []))).bind fun array =>
      let s := s1.setTile u { b with copies := copies, array := array }
      let d := s.die (dieOf u)
      let of (c : Dispatch) : Bool := c.launch == m.launch &&
        routes.any fun e => isDisp e.op && e.value.toNat == c.id && (e.started || limited)
      let all := ((s.die (dieOf t)).ctxs ++ if limited then d.ctxs else [])
      let left := dieOf t % 32
      let here := (s.die (dieOf t)).ctxs.filter of
      let behind := if limited && left != dieOf u then (s.die left).ctxs.filter fun c => of c && c.complete else []
      let ctxs := here ++ behind
      let without (x : Nat) (s : State) : State :=
        s.setDie x { s.die x with ctxs := (s.die x).ctxs.filter fun c => !ctxs.contains c }
      let s := if behind == [] then without (dieOf t) s else without left (without (dieOf t) s)
      (openContexts limited (s.die (dieOf u)).ctxs ctxs).map fun placed =>
        s.setDie (dieOf u) { s.die (dieOf u) with routes := d.routes ++ routes.map (Command.saved m all), ctxs := placed }

/-- The accumulator rows of a window moved from one tile to another. -/
def moveRows (h t base u base' rows : Nat) (s : State) : State :=
  let a := s.tile t
  let inside (x : Nat) : Bool := 256 * base ≤ x && x < 256 * (base + rows)
  let to_ (x : Nat) : Nat := x - 256 * base + 256 * base'
  let words := a.acc.filter fun x => inside x.1
  let bad := a.accBad.filter inside
  let s := s.setTile t { a with acc := a.acc.filter fun x => !inside x.1, accBad := a.accBad.filter fun x => !inside x }
  let b := (claimRows u h base' rows true s).tile u
  s.setTile u { b with
    acc := words.foldl (fun acc x => Table.put 0 (to_ x.1) x.2 acc) b.acc, accBad := b.accBad ++ bad.map to_ }

/-- The tiles, or shadow tiles, that a launch holds something on. -/
def heldTiles (s : State) (h : Nat) : List Nat := (s.held.filter fun x => x.1 % 65536 == h).map (·.1 / 65536)

/-! Save (R405). -/

/-- Values that are not stated written from an address of main memory on, 8 B each. -/
def writeOpen (a : Nat) : Nat → State → State
  | 0, s => s
  | n + 1, s =>
    let v := s.free
    writeOpen (a + 8) n (physWrite (v.2.tileReq 0 0 true) a 8 v.1.toNat v.2)

/-- The image written into its area under key id 0: a header with the launch handle and the pages, and contents whose
layout is not stated. (log 107 DESIGN CHOICE) -/
def writeImage (h base pages : Nat) (s : State) : State :=
  let put (i v : Nat) (s : State) : State := physWrite (s.tileReq 0 0 true) (base + 8 * i) 8 v s
  writeOpen (base + 16) (512 * pages - 2) (put 1 pages (put 0 h s))

/-- SAVE_COMPLETE (R404, R405): every tile has saved; the launch's allotments are free, and BUSY clears. -/
def execSaveComplete (s : State) : Host.Outcome State Fault Refusal :=
  let h := bitsOf s.pre.goCmd.toNat 15 0
  if !preBusy s 0 h then .next s
  else
    match Map.find h s.launches with
    | none => .next (preEnd (some 1) s)
    | some la =>
      if la.state != .preempting || !launchStopped s h la then .next s
      else
        let base := bitsOf s.pre.goBase.toNat 51 12 * 4096
        let pages := bitsOf s.pre.stat.toNat 31 0
        let m : Move := ⟨h, fun t => if t < 768 then shadowTile t else t, fun k => k + 128 * 3072⟩
        let tiles := heldTiles s h
        let items := s.items.filter fun x => x.2.launch == h
        let s := writeImage h base pages s
        let s := moveParts m s
        let s := { s with
          held := rekey (fun k => if k % 65536 == h then heldKey (m.tile (k / 65536)) h else k) s.held
          convoys := s.convoys.map fun x => if x.2.launch == h then (x.1, { x.2 with cluster := x.2.cluster + 768 }) else x }
        let s := items.foldl (fun s x =>
          moveRows h x.2.tile x.2.accBase (m.tile x.2.tile) x.2.accBase (stageOf la x.2).accrows s) s
        let s := tiles.foldl (fun s t => (moveCommands m t (m.tile t) false s).getD s) s
        let s := s.adjLaunch h fun la => { la with state := .preempted, image := some ⟨base, pages⟩ }
        .next (wakeTiles la (preEnd none (disown h s)))

/-! Restore (R406). -/

/-- The handle and pages that the header at PREBASE names. -/
def imageHeader (s : State) : Nat × Nat :=
  let base := bitsOf s.pre.base.toNat 51 12 * 4096
  let r := physRead (s.tileReq 0 0 true) base 8 s
  (r.2.value, (physRead (s.tileReq 0 0 true) (base + 8) 8 s).2.value)

/-- GO for a restore (R403, R406): it is refused, or waits for room. -/
def goRestore (h : Nat) (s : State) : State :=
  match Map.find h s.launches with
  | none => preEnd (some 1) s
  | some la =>
    let hdr := imageHeader s
    let new := bitsOf s.pre.cmd.toNat 47 40
    if la.state != .preempted then preEnd (some 4) s
    else if hdr.1 != h || bitsOf s.pre.len.toNat 31 0 < hdr.2 then preEnd (some 3) s
    else if s.pre.cmd.getLsbD 57 && (192 < new + la.clcount
        || la.stages.any fun st => !(upTo 768).any (placeable { la with clbase := new } st)) then preEnd (some 6) s
    else
      { s with pre := { s.pre with
        stat := BitVec.ofNat 64 (putBits s.pre.stat.toNat 63 63 1)
        goCmd := s.pre.cmd, goBase := s.pre.base, goLen := s.pre.len } }.once .restore

/-- The tile that a shadow tile returns to (R406), the launch's clusters moved by `shift`. -/
def returnTile (shift : Int) (u : Nat) : Nat :=
  tileAt ((((clusterOf (u - 3072) : Nat) : Int) + shift).toNat) (memberOf (u - 3072))

/-- A segment as a restore finds it (R405): what was LANDED, or LOADING, is fetched again from the source of its latest
load, and keeps its generation. -/
def reload (tile h : Nat) (la : Launch) (n : Nat) (g : Seg) (s : State) : State :=
  if g.state != 1 && g.state != 2 then s
  else
    let loading := g.state == 1 && g.k.isSome
    let r := sourceLines tile la.asid la.priv g.source 16 s
    match r.2 with
    | .ok ls =>
      (r.1.adjHeld tile h fun x => { x with
        segs := Map.adjust n (fun g => { g with
          state := 1, lines := ls, gen := if loading then g.gen else (g.gen + 2 ^ 14 - 1) % 2 ^ 14 }) x.segs }).later
        (.segmentLanding tile h n)
    | .error (a, f) =>
      let raise : Raise := { code := f.cause, info1 := trDetail a f.level 3, origin := 1 }
      report tile h 0 f.cause (raise.record 0x3FFFF false)
        (r.1.adjHeld tile h fun x => { x with segs := Map.adjust n (fun g => { g with state := 0 }) x.segs })

/-- The tile-wide allotments of a launch taken again on a tile (R375); the regions keep their contents. -/
def restoreTile (h : Nat) (la : Launch) (t u : Nat) (s : State) : Option State :=
  if !tileTakes s t la || !tileWideFits s t h la then none
  else
    (firstFit la.scrtile scratchBytes (regionsOn s t)).map fun r =>
      let x := s.heldAt u h
      { s with held := Map.insert (heldKey t h) { x with region := r } (Map.erase (heldKey u h) s.held) }

/-- A place for an item of an image on its tile: contexts and rows are chosen anew, the scratchpad window stays at its
offset. The pairs of old and new keys of its strands and of its crew's frames. (log 108 DEDUCED) -/
def restoreSpot (h : Nat) (la : Launch) (t u : Nat) (it : Item) (taken : Taken) : Option (Spot × List (Nat × Nat) × Taken) :=
  let d := demandOf h la (stageOf la it)
  (placeItem { d with scr := 0 } la.scrtile taken).map fun r =>
    let p := r.1
    let own := (it.strands.zip p.contexts).flatMap fun x =>
      [(x.1, t * 128 + x.2.1), (crewKey u (x.1 % 128), crewKey t x.2.1)]
    let more := (it.reserved.zip p.reserved).map fun x => (crewKey u x.1, crewKey t x.2)
    (p, own ++ more, r.2)

/-- Places for the items of an image, one after the other. -/
def restoreSpots (h : Nat) (la : Launch) (t u : Nat) : List (Nat × Item) → Taken → Option (List (Nat × Spot) × List (Nat × Nat))
  | [], _ => some ([], [])
  | x :: xs, taken =>
    (restoreSpot h la t u x.2 taken).bind fun r =>
      (restoreSpots h la t u xs r.2.2).map fun q => ((x.1, r.1) :: q.1, r.2.1 ++ q.2)

/-- A strand's window at its new base, which the launch takes (R96, R405). -/
def rebase (h tile context base size : Nat) (s : State) : State :=
  (s.adjStrand (tile * 128 + context) fun st => { st with lpBase := base }).adjLeft tile fun x => x.claim h (context / 8) base size

/-- A section of an image brought back to a tile, if the tile can take it. -/
def restoreSection (h : Nat) (la : Launch) (t u : Nat) (s : State) : Option State :=
  (restoreTile h la t u s).bind fun s =>
    let items := s.items.filter fun x => x.2.launch == h && x.2.tile == u
    (restoreSpots h la t u items (takenOn s t)).bind fun r =>
      let key (k : Nat) : Nat := (Map.find k r.2).getD k
      let m : Move := ⟨h, fun v => if v == u then t else v, key⟩
      let others := s.items.filter fun x => x.2.launch == h && x.2.tile != u
      let hidden := { s with items := s.items.map fun x =>
        if (others.any fun y => y.1 == x.1) then (x.1, { x.2 with launch := 0 }) else x }
      let s := moveParts m hidden
      let back (x : Nat × Item) : Nat × Item := (x.1, (Map.find x.1 others).getD x.2)
      let s := { s with items := s.items.map back }
      let s := items.foldl (fun s x =>
        match (r.1.find? fun y => y.1 == x.1) with
        | some y =>
          let s := y.2.contexts.foldl (fun s c => rebase h t c.1 c.2 (stageOf la x.2).lpriv s) s
          (moveRows h u x.2.accBase t y.2.accBase (stageOf la x.2).accrows s).adjItem x.1 fun it =>
            { it with accBase := y.2.accBase }
        | none => s) s
      moveCommands m u t true s

/-- The sections of an image brought back, one after the other. -/
def restoreSections (h : Nat) (la : Launch) (shift : Int) : List Nat → State → Option State
  | [], s => some s
  | u :: us, s => (restoreSection h la (returnTile shift u) u s).bind (restoreSections h la shift us)

/-- The convoys of an image brought back to their clusters, each with a cluster-shared region of its own (R103). -/
def restoreConvoys (h : Nat) (la : Launch) (shift : Int) : List (Nat × Convoy) → State → Option State
  | [], s => some s
  | (k, cv) :: cs, s =>
    let cluster := (((cv.cluster - 768 : Nat) : Int) + shift).toNat
    (firstFit (la.cshare / 4) 0x40000 (sharesOn s cluster)).bind fun b =>
      let s := (takeShare h cluster b (la.cshare / 4) false s).2
      restoreConvoys h la shift cs { s with convoys := Map.insert k { cv with cluster := cluster, base := b } s.convoys }

/-- The whole image of a launch brought back, if its clusters can take every section; its segments load again. -/
def restoreAll (h : Nat) (la : Launch) (shift : Int) (s : State) : Option State :=
  let tiles := (heldTiles s h).filter (3072 ≤ ·)
  (restoreConvoys h la shift (s.convoys.filter fun x => x.2.launch == h) s).bind fun s =>
    (restoreSections h la shift tiles s).bind fun s =>
      if tiles.any fun u => !barsFit s (clusterOf (returnTile shift u)) || !reservesHold s (clusterOf (returnTile shift u)) h 65536
      then none
      else
        some (tiles.foldl (fun s u =>
          let t := returnTile shift u
          (s.heldAt t h).segs.foldl (fun s g => reload t h la g.1 g.2 s) s) s)

/-- RESTORE (R406): where every section fits, the launch takes its places and its code loads; else it waits, holding
nothing. -/
def execRestore (s : State) : Host.Outcome State Fault Refusal :=
  let h := bitsOf s.pre.goCmd.toNat 15 0
  if !preBusy s 1 h then .next s
  else
    match Map.find h s.launches with
    | none => .next (preEnd (some 1) s)
    | some la =>
      if la.state != .preempted then .next s
      else
        let reloc := s.pre.goCmd.getLsbD 57
        let new := if reloc then bitsOf s.pre.goCmd.toNat 47 40 else la.clbase
        let shift : Int := (new : Int) - (la.clbase : Int)
        let la := { la with
          clbase := new, state := .restoring
          shape := la.shape.map fun x => ((((x.1 : Nat) : Int) + shift).toNat, x.2) }
        match restoreAll h la shift { s with launches := Map.insert h la s.launches } with
        | some s => .next (s.later .restoreFill)
        | none => .next s

/-- What goes on again on a tile after a restore: engines, lane operations, engine programs, items that are over, and
commands that were HELD, which raise ENGINE_PAGE again (R171). -/
def resumeTile (h tile : Nat) (s : State) : State :=
  let s := wakeTile tile ((refresh tile .system s).later (.copyEntryStart tile))
  let s := s.later (.copyEntryStart (routeQueue (dieOf tile)))
  (s.items.filter fun x => x.2.launch == h && x.2.tile == tile).foldl (fun s x =>
    let s := raiseHeld x.1 (arrayNext tile x.1 s)
    if itemOver s x.2 then s.once (.itemRetire x.1) else s.later (.laneOpPerform x.1)) s

/-- RESTORE_FILL (R406): every region holds what the image held; the strands go on after a refresh at system scope
(R214). -/
def execRestoreFill (s : State) : Host.Outcome State Fault Refusal :=
  let h := bitsOf s.pre.goCmd.toNat 15 0
  if !preBusy s 1 h then .next s
  else
    match Map.find h s.launches with
    | none => .next (preEnd (some 1) s)
    | some la =>
      if la.state != .restoring then .next s
      else
        let s := s.adjLaunch h fun la => { la with state := .live, image := none }
        let s := (heldTiles s h).foldl (fun s t => resumeTile h t s) s
        .next (endIfOver h (wakePrograms (preEnd none s)))

end Sys2Proof.Machine
end

