-- ==== Sys2Proof/Machine/Health.lean ====
section
/-! DEFINITION. Beacons, judgements, votes, fences and appeals of tiles (16_beacons_and_redundancy.md R438 to R451,
15_traps.md R437), and what a fence settles (R446). -/

namespace Sys2Proof.Machine

/-! Neighbours. Directions are 0 north, 1 east, 2 south, 3 west (R9). -/

/-- The tile in a direction, if the grid has one. -/
def neighbour (t dir : Nat) : Option Nat :=
  match dir with
  | 0 => if t < 24 then none else some (t - 24)
  | 1 => if t % 24 == 23 then none else some (t + 1)
  | 2 => if 744 ≤ t then none else some (t + 24)
  | _ => if t % 24 == 0 then none else some (t - 1)

/-- The neighbours of a tile with their directions. -/
def neighbours (t : Nat) : List (Nat × Nat) := (upTo 4).filterMap fun d => (neighbour t d).map fun n => (d, n)

/-- The bit of a direction in JUDGE and CLOSED, from the lowest: N, E, S, W stand in descending order. -/
def dirBit (dir : Nat) : Nat := 3 - dir

/-- The direction from one tile to a neighbour. -/
def dirTo (a b : Nat) : Option Nat := ((neighbours a).find? fun x => x.2 == b).map (·.1)

/-- A tile's judgement of the neighbour in a direction. -/
def judgementAt (s : State) (tile dir : Nat) : Judgement := (Map.find (tile * 4 + dir) s.health.judgements).getD Judgement.reset

/-- A judgement changed. -/
def adjJudgement (tile dir : Nat) (f : Judgement → Judgement) (s : State) : State :=
  { s with health := { s.health with
      judgements := Map.insert (tile * 4 + dir) (f (judgementAt s tile dir)) s.health.judgements } }

/-- TILEHEALTH of a tile changed. -/
def adjHealth (tile : Nat) (f : Nat → Nat) (s : State) : State :=
  { s with health := { s.health with
      tilehealth := Table.put 0 tile (BitVec.ofNat 64 (f (Table.get 0 tile s.health.tilehealth).toNat)) s.health.tilehealth } }

/-- FCNT (R450). -/
def fenceCount (s : State) (tile : Nat) : Nat := bitsOf (Table.get 0 tile s.health.tilehealth).toNat 12 10

/-- The judges of a tile with their directions to it: its neighbours that are not fenced (R443). -/
def judgesOf (s : State) (t : Nat) : List (Nat × Nat) :=
  (neighbours t).filterMap fun x => if tileDown s x.2 then none else (dirTo x.2 t).map fun d => (x.2, d)

/-- The votes or grants that decide (R443). -/
def threshold (s : State) (t : Nat) : Nat := (judgesOf s t).length / 2 + 1

/-- SILENT or BABBLING: a judgement that votes (R442). -/
def Judgement.faulty (j : Judgement) : Bool := j.state == 4 || j.state == 5

/-! Beacons (R438). -/

/-- CRC-16/CCITT of the 48 bits above a beacon's CRC field, highest bit first. -/
def crc16 (v : Nat) : Nat :=
  (upTo 48).foldl (fun c i =>
    let top := bitOf c 15 != bitOf v (63 - i)
    let c := c * 2 % 65536
    if top then c ^^^ 0x1021 else c) 0xFFFF

/-- A beacon (R438). -/
def beaconOf (tile seq hstate judge inj : Nat) : BitVec 64 :=
  let v := tile * 2 ^ 54 + seq % 65536 * 2 ^ 38 + hstate % 8 * 2 ^ 35 + judge % 16 * 2 ^ 31 + inj % 2 ^ 15 * 2 ^ 16
  BitVec.ofNat 64 (v + crc16 v)

/-- The JUDGE field of a tile: the neighbours that it judges faulty or whose port it holds closed. -/
def judgeField (s : State) (tile : Nat) : Nat :=
  (upTo 4).foldl (fun n d =>
    let j := judgementAt s tile d
    if j.faulty || j.closed then n + 2 ^ dirBit d else n) 0

/-- Messages about a tile to every other neighbour of it. -/
def toOthers (about from_ : Nat) (f : Nat → Instr) (s : State) : State :=
  (neighbours about).foldl (fun s x => if x.2 == from_ then s else s.later (f x.2)) s

/-- BEACON_SEND (R438, R442, R448): SEQ advances, a beacon leaves on every link, and for each neighbour that this tile votes
against or grants a return to, a message goes to every other neighbour of it. INJ is open, within what a tile that works
correctly originates (R441). (log 115 DEDUCED) -/
def execBeaconSend (tile : Nat) (s : State) : Host.Outcome State Fault Refusal :=
  if 768 ≤ tile then .next s
  else
    let seq := Table.get 0 tile s.health.seqs
    let hst := Table.get 0 tile s.health.hstate
    let judge := judgeField s tile
    let s := (neighbours tile).foldl (fun (s : State) x =>
      let v := s.free
      let b := beaconOf tile seq hst judge (v.1.toNat % 2051)
      match dirTo x.2 tile with
      | some d => v.2.later (.beaconReceive x.2 d b false false)
      | none => s) s
    let s := { s with health := { s.health with seqs := Table.put 0 tile ((seq + 1) % 65536) s.health.seqs } }
    if tileDown s tile then .next s
    else
      .next ((neighbours tile).foldl (fun s x =>
        let j := judgementAt s tile x.1
        if j.faulty then toOthers x.2 tile (fun n => .voteMessage n x.2 tile) s
        else if j.state == 7 then toOthers x.2 tile (fun n => .grantMessage n x.2 tile) s
        else s) s)

/-! Fences (R437, R443 to R446). -/

/-- A strand lost with its tile reported (R437). -/
def loseStrand (k : Nat) (s : State) : State :=
  match s.strand k with
  | none => s
  | some st =>
    if st.over || st.seat.isSome then s
    else
      reportStrand k 0x74 { code := 0x74, mask := st.live, info0 := st.inItem * 4 + (lowest st.live).getD 0, pc := 0x3FFFF
                            retcnt := st.retcnt.toNat } s

/-- An item lost with its tile (R437, R446): its strands are reported and gone, its record is released, its decrements are
lost, it counts as exited at its barriers, and it stays only while routing commands of it are to end; those that are HELD, which no
handler can resume, are cancelled (R184). (log 148 DESIGN CHOICE) -/
def loseItem (item : Nat) (s : State) : State :=
  match Map.find item s.items with
  | none => s
  | some it =>
    let s := it.strands.foldl (fun s k => loseStrand k s) s
    let s := { s with
      strands := s.strands.filter fun x => x.2.item != item
      crews := s.crews.filter fun x => !it.strands.contains x.2.recruiter }
    let s := ((heldCommands item s).filter fun c => 768 ≤ c.1).foldl (fun s c => cancelCommand c.1 c.2 s) s
    let s := releaseRecord item s
    let s := s.adjItem item fun it => { it with strands := [], progs := [], deferred := [], bars := [], lost := true }
    let s := s.adjLaunch it.launch fun la => { la with loststr := true }
    (settleBarriers item s).once (.itemRetire item)

/-- The section that an image holds of a tile, lost with the tile (R407): it holds no state any more, and its strands are
reported. (log 108 DEDUCED) -/
def loseSection (t : Nat) (s : State) : State :=
  let u := shadowTile t
  let mine := (s.items.filter fun x => x.2.tile == u).map (·.1)
  let d := s.die (dieOf u)
  let s := s.setDie (dieOf u) { d with routes := d.routes.filter fun e => !mine.contains e.item }
  let s := { s with
    items := s.items.map fun x => if mine.contains x.1 then (x.1, { x.2 with tile := t }) else x
    tiles := Map.erase u s.tiles
    held := s.held.filter fun x => x.1 / 65536 != u
    convoys := s.convoys.map fun x =>
      if x.2.cluster == clusterOf u then
        (x.1, { x.2 with
          shared := x.2.shared.filter fun b => b.1 / 256 % 4 != memberOf u
          bad := x.2.bad.filter fun w => w / 16 % 4 != memberOf u })
      else x }
  mine.foldl (fun s i => loseItem i s) s

/-- What a fence settles on its tile (R446): items and crews are lost, the engines stop, banks close with reason 2, and every
state of the tile is discarded, its share of the cluster-shared regions with it; LCLOCK never goes back (R203). The launches
that held a region there are noted (R104). (log 117 DEDUCED) -/
def settleFence (t : Nat) (s : State) : State :=
  let s := ((s.items.filter fun x => x.2.tile == t).map (·.1)).foldl (fun s i => loseItem i s) s
  let s := dropBanks 2 (fun b => b.tile == t) (loseSection t s)
  let cluster := clusterOf t
  let m := memberOf t
  { (s.setTile t (s.tile t).zeroed) with
    held := s.held.filter fun x => x.1 / 65536 != t
    convoys := s.convoys.map fun x =>
      if x.2.cluster == cluster then
        (x.1, { x.2 with
          shared := x.2.shared.filter fun b => b.1 / 256 % 4 != m, bad := x.2.bad.filter fun w => w / 16 % 4 != m })
      else x
    launches := s.launches.map fun x => (x.1, { x.2 with
      shape := x.2.shape.filter fun c => c.1 != cluster
      lostOn := if (Map.find (heldKey t x.1) s.held).isSome then (x.2.lostOn.filter (· != t)) ++ [t]
        else x.2.lostOn.filter (· != t) }) }

/-- The state of a fence in the health unit (R444, R450): STATE FENCED, FCNT advanced, REASON, and a notice to the host. -/
def noteFence (t why : Nat) (s : State) : State :=
  let s := adjHealth t (fun v => putBits (putBits (putBits v 2 0 1) 12 10 (min 7 (bitsOf v 12 10 + 1))) 18 16 why) s
  postNotice (noticeOf 3 0 0 t 1 0 FaultRec.none) s

/-- A tile fenced, if it is not already. -/
def fenceTile (t why : Nat) (s : State) : State := if tileDown s t then s else settleFence t (noteFence t why s)

/-- The votes that a judge holds against a neighbour: its own, and those of other judges that are not fenced (R443). -/
def votesHeld (s : State) (judge dir : Nat) : Nat :=
  let j := judgementAt s judge dir
  (if j.faulty then 1 else 0) + (j.votes.filter fun v => !tileDown s v).length

/-- A judge closes its port to a neighbour (R443, R444): the other neighbours are told, and the health unit records it. -/
def closePort (judge about dir why : Nat) (s : State) : State :=
  if (judgementAt s judge dir).closed then s
  else
    let s := adjJudgement judge dir (fun j => { j with state := 6, good := 0, closed := true, votes := [], grants := [] }) s
    let s := fenceTile about why s
    let s := match dirTo about judge with
      | some d => adjHealth about (fun v => putBits v (4 + dirBit d) (4 + dirBit d) 1) s
      | none => s
    toOthers about judge (fun n => .fenceMessage n about) s

/-- A judge counts its votes against a neighbour (R443). -/
def countVotes (judge about : Nat) (s : State) : State :=
  match dirTo judge about with
  | none => s
  | some dir =>
    let j := judgementAt s judge dir
    if tileDown s judge || j.closed || votesHeld s judge dir < threshold s about then s
    else closePort judge about dir (if j.why == 0 then 1 else j.why) s

/-- Once a tile is fenced the judges of its neighbours count again, and a neighbour whose last judge it was is fenced as
ISOLATED (R443). -/
def afterFence (t : Nat) (s : State) : State :=
  (neighbours t).foldl (fun s x =>
    if tileDown s x.2 then s
    else if judgesOf s x.2 == [] then fenceTile x.2 5 s
    else (judgesOf s x.2).foldl (fun s y => countVotes y.1 x.2 s) s) s

/-- Votes counted, with what a fence that they decide brings about. -/
def settleVotes (judge about : Nat) (s : State) : State :=
  let r := countVotes judge about s
  if tileDown s about || !tileDown r about then r else afterFence about r

/-- VOTE_MESSAGE (R442, R443): a vote of another judge arrives; a vote of a fenced tile, or one that has been withdrawn, is
discarded. -/
def execVoteMessage (judge about voter : Nat) (s : State) : Host.Outcome State Fault Refusal :=
  match dirTo judge about, dirTo voter about with
  | some dir, some back =>
    if tileDown s voter || judge == voter || !(judgementAt s voter back).faulty then .next s
    else
      .next (settleVotes judge about
        (adjJudgement judge dir (fun j => { j with votes := (j.votes ++ [voter]).eraseDups }) s))
  | _, _ => .next s

/-- VOTE_EXPIRY (R442): no message of the vote came for 2 µs. -/
def execVoteExpiry (judge about voter : Nat) (s : State) : Host.Outcome State Fault Refusal :=
  match dirTo judge about with
  | some dir => .next (adjJudgement judge dir (fun j => { j with votes := j.votes.filter (· != voter) }) s)
  | none => .next s

/-- FENCE_MESSAGE (R443): a neighbour that receives one closes its port too. -/
def execFenceMessage (tile about : Nat) (s : State) : Host.Outcome State Fault Refusal :=
  match dirTo tile about with
  | none => .next s
  | some dir =>
    let r := closePort tile about dir (max 1 (judgementAt s tile dir).why) s
    .next (if tileDown s about || !tileDown r about then r else afterFence about r)

/-- A judge's vote withdrawn (R440, R442): it counts nowhere any more. (log 116 DEDUCED) -/
def withdraw (judge about : Nat) (s : State) : State :=
  (neighbours about).foldl (fun s x =>
    match dirTo x.2 about with
    | some d => adjJudgement x.2 d (fun j => { j with votes := j.votes.filter (· != judge) }) s
    | none => s) s

/-! Appeals (R447, R448). -/

/-- Ports to a tile reopened (R448): it is LIVE, or after its third fence QUARANTINED; its neighbours judge it GOOD, and it
judges them so, but for those that are fenced. -/
def reopen (t : Nat) (s : State) : State :=
  let s := adjHealth t (fun v => putBits (putBits v 2 0 (if bitsOf v 12 10 == 3 then 4 else 0)) 7 4 0) s
  let s := { s with health := { s.health with hstate := Table.put 0 t 0 s.health.hstate } }
  let s := (neighbours t).foldl (fun s x =>
    let s := match dirTo x.2 t with
      | some d => adjJudgement x.2 d (fun _ => Judgement.reset) s
      | none => s
    if tileDown s x.2 then
      adjJudgement t x.1 (fun _ => { Judgement.reset with state := 6, closed := true }) s
    else adjJudgement t x.1 (fun _ => Judgement.reset) s) s
  wakeTile t s

/-- The grants of a judge for a neighbour: its own and those it was sent. -/
def grantsHeld (s : State) (judge dir : Nat) : Nat :=
  let j := judgementAt s judge dir
  (if j.state == 7 then 1 else 0) + (j.grants.filter fun v => !tileDown s v).length

/-- A judge counts the grants (R448). -/
def countGrants (judge about : Nat) (s : State) : State :=
  match dirTo judge about with
  | none => s
  | some dir =>
    if tileDown s judge || tileState s about != 3 || grantsHeld s judge dir < threshold s about then s else reopen about s

/-- GRANT_MESSAGE (R448): the grant of another judge arrives. -/
def execGrantMessage (judge about voter : Nat) (s : State) : Host.Outcome State Fault Refusal :=
  match dirTo judge about, dirTo voter about with
  | some dir, some back =>
    if tileDown s voter || judge == voter || (judgementAt s voter back).state != 7 then .next s
    else
      .next (countGrants judge about
        (adjJudgement judge dir (fun j => { j with grants := (j.grants ++ [voter]).eraseDups }) s))
  | _, _ => .next s

/-- A judge's grant taken back where an appeal breaks. -/
def breakAppeal (judge dir about : Nat) (s : State) : State :=
  let s := (neighbours about).foldl (fun s x =>
    match dirTo x.2 about with
    | some d => adjJudgement x.2 d (fun j => { j with grants := j.grants.filter (· != judge) }) s
    | none => s) s
  adjJudgement judge dir (fun j => { j with state := 6, good := 0 }) s

/-- A tile that is fenced learns of it (R447): a majority of the beacons it last received judge it, or it has no judge. It
resets and tests itself. -/
def learnFence (t : Nat) (s : State) : State :=
  let accusers := ((upTo 4).filter fun d => (judgementAt s t d).accuses).length
  if tileState s t != 1 || (accusers < threshold s t && judgesOf s t != []) then s
  else
    let s := adjHealth t (fun v => putBits v 2 0 2) s
    { s with health := { s.health with hstate := Table.put 0 t 1 s.health.hstate } }

/-- SELFTEST_DONE (R447, R448): a test that fails, and a fourth fence, leave the tile RETIRED; a test that passes has
zeroed every structure, but for the clock and timestamps of R203, and the tile appeals with SEQ restarting at 0. -/
def execSelftestDone (tile : Nat) (passed : Bool) (s : State) : Host.Outcome State Fault Refusal :=
  if tileState s tile != 2 then .next s
  else
    let last := !passed || 4 ≤ fenceCount s tile
    let s := adjHealth tile (fun v => putBits v 2 0 (if last then 5 else 3)) s
    let s := s.setTile tile (s.tile tile).zeroed
    .next { s with health := { s.health with
      hstate := Table.put 0 tile (if passed then 2 else 3) s.health.hstate
      seqs := if passed then Table.put 0 tile 0 s.health.seqs else s.health.seqs } }

/-! Judgements (R440, R441). -/

/-- What a missed beacon, or a bad one, does to a judgement. -/
def missed (tile dir about : Nat) (s : State) : State :=
  let j := judgementAt s tile dir
  if j.state < 3 then adjJudgement tile dir (fun j => { j with state := j.state + 1 }) s
  else if j.state == 3 then settleVotes tile about (adjJudgement tile dir (fun j => { j with state := 4, why := 1, good := 0 }) s)
  else if j.state == 5 || j.state == 6 then adjJudgement tile dir (fun j => { j with good := 0 }) s
  else if j.state == 7 then breakAppeal tile dir about s
  else s

/-- Why a beacon is babbling, as REASON gives it (R441, R450): 2 a repeated SEQ, 3 an early beacon, 4 injection or a flit
without a credit; 0 where it is not. -/
def babbles (j : Judgement) (seq : Nat) (high early noCredit : Bool) : Nat :=
  if j.seq == some seq then 2 else if early then 3 else if (high && j.injHigh) || noCredit then 4 else 0

/-- A beacon that passes its CRC and names the neighbour on its link. -/
def heard (tile dir about : Nat) (b : Nat) (early noCredit : Bool) (s : State) : State :=
  let j := judgementAt s tile dir
  let seq := bitsOf b 53 38
  let high := bitsOf s.health.beaconcfg.toNat 15 0 < bitsOf b 30 16
  let why := babbles j seq high early noCredit
  let appeal := bitsOf b 37 35 == 2
  let accuses := match dirTo about tile with
    | some d => bitOf b (31 + dirBit d)
    | none => false
  let s := adjJudgement tile dir (fun j => { j with seq := some seq, injHigh := high, accuses := accuses }) s
  let s := learnFence tile s
  if why != 0 then
    if j.state ≤ 3 then
      settleVotes tile about (adjJudgement tile dir (fun j => { j with state := 5, why := why, good := 0 }) s)
    else if j.state == 7 then breakAppeal tile dir about s
    else adjJudgement tile dir (fun j => { j with good := 0 }) s
  else if j.state ≤ 3 then adjJudgement tile dir (fun j => { j with state := 0 }) s
  else if j.state == 4 then withdraw tile about (adjJudgement tile dir (fun j => { j with state := 0, why := 0 }) s)
  else if j.state == 5 then
    if 15 ≤ j.good then withdraw tile about (adjJudgement tile dir (fun j => { j with state := 0, why := 0, good := 0 }) s)
    else adjJudgement tile dir (fun j => { j with good := j.good + 1 }) s
  else if j.state == 6 then
    if !appeal || 4 ≤ fenceCount s about then adjJudgement tile dir (fun j => { j with good := 0 }) s
    else if 63 ≤ j.good then
      countGrants tile about (toOthers about tile (fun n => .grantMessage n about tile)
        (adjJudgement tile dir (fun j => { j with state := 7, good := 64 }) s))
    else adjJudgement tile dir (fun j => { j with good := j.good + 1 }) s
  else if appeal then countGrants tile about s
  else breakAppeal tile dir about s

/-- BEACON_RECEIVE (R438 to R441): a beacon whose CRC fails, or whose TILE is not the neighbour on that link, counts as
missed. `early` says that it came less than 0.75 µs after the one before; `noCredit` that the neighbour sent a data flit
without a credit, or that the receiver's own count of its flits was above INJTH in two periods. -/
def execBeaconReceive (tile dir : Nat) (beacon : BitVec 64) (early noCredit : Bool) (s : State) :
    Host.Outcome State Fault Refusal :=
  match (if 768 ≤ tile then none else neighbour tile dir) with
  | none => .next s
  | some about =>
    let b := beacon.toNat
    if bitsOf b 15 0 != crc16 b || bitsOf b 63 54 != about then .next (missed tile dir about s)
    else .next (heard tile dir about b early noCredit s)

/-- BEACON_MISSED (R439, R440). -/
def execBeaconMissed (tile dir : Nat) (s : State) : Host.Outcome State Fault Refusal :=
  match (if 768 ≤ tile then none else neighbour tile dir) with
  | none => .next s
  | some about => .next (missed tile dir about s)

/-- MESH_RESEND (R445): a packet that was inside a fenced tile's router is sent again by its source. A request is performed
once, when it is issued; the destination discards the copy of what it has already had. -/
def execMeshResend (_packet : Nat) (s : State) : Host.Outcome State Fault Refusal := .next s

/-- TILE_STATE_WRITE (R450): a write to STATE takes effect from LIVE to QUARANTINED and back alone. -/
def execTileStateWrite (tile value : Nat) (s : State) : Host.Outcome State Fault Refusal :=
  let v := value % 8
  if tile < 768 && ((tileState s tile == 0 && v == 4) || (tileState s tile == 4 && v == 0)) then
    .next (wakeTile tile (adjHealth tile (fun h => putBits h 2 0 v) s))
  else .next s

end Sys2Proof.Machine
end

