-- ==== Sys2Proof/Machine/HostIf.lean ====
section
/-! DEFINITION. The host die: the register window, the aperture, the link and its loss, boot, attestation, wear
(17_host_boot_debug.md R457 to R472), and soft errors (03_main_memory.md R48, 15_traps.md R433). -/

namespace Sys2Proof.Machine

/-- The bits of a mask kept of a value, the others of an old one. -/
def keep (old v mask : BitVec 64) : BitVec 64 := (old &&& ~~~mask) ||| (v &&& mask)

/-- The bits of a mask that are written as 1 cleared (R3, W1C). -/
def clearBits (old v mask : BitVec 64) : BitVec 64 := old &&& ~~~(v &&& mask)

/-- The host die changed. -/
def State.adjHost (f : HostIf → HostIf) (s : State) : State := { s with host := f s.host }

/-! The aperture (R213, R460). -/

/-- A host access as its home sees it: under the shared key, counted as a host access. (log 24 DEDUCED) -/
def hostReq : HomeReq := ⟨0, true, .host, 0, true⟩

/-- The package address of an aperture offset (R460). -/
def apertureAddr (s : State) (offset : Nat) : Nat := bitsOf s.host.aperbase.toNat 51 36 * 2 ^ 36 + offset

/-- HOST_APERTURE_ACCESS (R213, R460): a read or write through BAR2, performed at homes; one that leaves HBM and the die
scratchpad, or the aperture, has no effect and is an Unsupported Request. -/
def execHostApertureAccess (offset : Nat) (data : Option (List Byte)) (len : Nat) (s : State) :
    Host.Outcome State Fault Refusal :=
  let n := match data with
    | some bs => bs.length
    | none => len
  let a := apertureAddr s offset
  let fits : Bool := n != 0 && offset + n ≤ 2 ^ 36 && (a + n ≤ hbmEnd || (hbmEnd ≤ a && a + n ≤ dieEnd))
  if !fits then .next (s.adjHost fun h => { h with readData := [], readOk := false })
  else
    match data with
    | some bs =>
      let s := (lineParts a n).foldl
        (fun s p => physWrite hostReq p.1 p.2.2 (ofLeBytes ((bs.drop p.2.1).take p.2.2)) s) s
      .next (s.adjHost fun h => { h with readData := [], readOk := true })
    | none =>
      let r := (lineParts a n).foldl (fun (x : State × List Byte) p =>
        let v := physRead hostReq p.1 p.2.2 x.1
        (v.1, x.2 ++ leBytes p.2.2 v.2.value)) (s, [])
      .next (r.1.adjHost fun h => { h with readData := r.2, readOk := true })

/-! The link (R457, R460, R465, R466). -/

/-- HOST_LINK_DOWN (R465): the data-link layer is lost. -/
def execHostLinkDown (s : State) : Host.Outcome State Fault Refusal :=
  .next ((s.adjHost fun h => { h with
    hoststat := h.hoststat ||| 0x8000000000000000
    linkstat := h.linkstat &&& 0xFFFFFFFFFFFF0000 }).once .hostGoneCompletion)

/-- A host-range read or atomic in flight at the loss: its destinations take poison and HOST_GONE follows (R436, R465). (log 123 DEDUCED) -/
def Pending.lose (p : Pending) : Pending :=
  match p.ifGone with
  | some x =>
    if p.ready then p
    else
      { p with
        writes := x.1, preds := [], poisoned := p.poisoned ||| maskOf fun i => x.1.any fun w => w.lane == i
        flags := 0, causes := [x.2], ready := true, ifGone := none }
  | none => p

/-- HOST_GONE_COMPLETION (R465): every host-range read and atomic outstanding at the loss completes with poison. -/
def execHostGoneCompletion (s : State) : Host.Outcome State Fault Refusal :=
  if !hostGone s then .next s
  else
    .next (s.strands.foldl (fun s x =>
      if x.2.pend.any fun p => p.ifGone.isSome && !p.ready then
        settle false x.1 (s.adjStrand x.1 fun st => { st with pend := st.pend.map (·.lose) })
      else s) s)

/-- HOSTSTAT_GONE_CLEAR (R466): GONE is cleared, DLUP again says whether the link is up, and the held notices are written
in order. -/
def execHoststatGoneClear (s : State) : Host.Outcome State Fault Refusal :=
  if !hostGone s then .next s
  else
    let held := s.host.held
    let up := bitsOf s.host.linkstat.toNat 15 8 != 0
    let s := s.adjHost fun h => { h with
      hoststat := h.hoststat &&& 0x7FFFFFFFFFFFFFFF, held := []
      linkstat := if up then h.linkstat ||| 8 else h.linkstat }
    .next (held.foldl (fun s n => writeNotice n s) s)

/-- LINK_TRAINING (R457, R460): the link trains to a width and rate of the standard; training again counts. (log 122 DEDUCED) -/
def execLinkTraining (width rate : Nat) (flit : Bool) (s : State) : Host.Outcome State Fault Refusal :=
  if !([1, 2, 4, 8, 16].contains width) || rate == 0 || 8 ≤ rate then .next s
  else
    let old := s.host.linkstat.toNat
    let again := bitsOf old 15 8 != 0 || hostGone s
    let n := if again then min 0xFFFF (bitsOf old 47 32 + 1) else bitsOf old 47 32
    .next (s.adjHost fun h => { h with
      linkstat := BitVec.ofNat 64 (n * 2 ^ 32 + width * 2 ^ 8 + rate * 2 ^ 5 + (if flit then 16 else 0)
        + (if hostGone s then 0 else 8)) })

/-! Boot and attestation (R467, R468). -/

/-- POWER_ON (R467): the machine as reset leaves it, beside memory that is not the package's; then the checks of the
firmware image in their order. A check that fails leaves the package in recovery. -/
def execPowerOn (goodSignature goodRollback goodImage : Bool) (s : State) : Host.Outcome State Fault Refusal :=
  let err := if !goodSignature then 1 else if !goodRollback then 2 else if !goodImage then 3 else 0
  let fw := if err == 0 then Config.firmwareRevision.toNat else 0
  let boot := BitVec.ofNat 64 (Config.rollback.toNat * 2 ^ 48 + fw * 2 ^ 32 + err * 2 ^ 8 + (if err == 0 then 2 else 4))
  .next (State.adjHost (fun h => { h with bootstat := boot })
    { State.reset with plan := s.plan, cur := s.cur, tick := s.tick, fresh := s.fresh, hostMem := s.hostMem })

/-- BOOT_READY (R467): the firmware has filled the key slots, trained HBM and opened the window; HBM that does not train
leaves the package in recovery. -/
def execBootReady (hbmTrained : Bool) (s : State) : Host.Outcome State Fault Refusal :=
  let b := s.host.bootstat.toNat
  if bitsOf b 3 0 != 2 then .next s
  else
    let b := if hbmTrained then putBits b 3 0 3 else putBits (putBits b 15 8 4) 3 0 4
    .next (s.adjHost fun h => { h with bootstat := BitVec.ofNat 64 b })

/-- ATTESTATION_REQUEST (R468): a report over the nonce begins and DONE clears; while DONE = 0 the request is discarded. -/
def execAttestationRequest (s : State) : Host.Outcome State Fault Refusal :=
  if !s.host.attcmd.getLsbD 62 then .next s
  else
    .next ((s.adjHost fun h => { h with
      attcmd := 0, attheld := (upTo 4).map fun i => Table.get 0 i h.attnonce }).once .attestationDone)

/-- The report (R468): the nonce at byte 88, zeros from byte 248, and what the specification gives no value to. -/
def attestationBytes (report : Nat) (nonce : List (BitVec 64)) : List Byte :=
  let made (lo n : Nat) : List Byte := (upTo n).map fun i => Config.attestation report (lo + i)
  made 0 88 ++ nonce.flatMap (fun x => leBytes 8 x.toNat) ++ made 120 128 ++ List.replicate 8 0

/-- ATTESTATION_DONE (R468): ATTREPORT holds the report and DONE is set. -/
def execAttestationDone (s : State) : Host.Outcome State Fault Refusal :=
  if s.host.attcmd.getLsbD 62 then .next s
  else
    .next (s.adjHost fun h => { h with
      attcmd := 0x4000000000000000, reports := h.reports + 1
      attreport := Memory.writeBytes [] 0 (attestationBytes h.reports h.attheld), attheld := [] })

/-! Wear (R471). -/

/-- WEAR_THRESHOLD (R471): a unit's REMAIN falls below WEARTH for the first time; word 1 of the notice names the unit. -/
def execWearThreshold (unit : Nat) (s : State) : Host.Outcome State Fault Refusal :=
  if 36 ≤ unit || s.host.wornSent.contains unit then .next s
  else
    .next (postNotice (noticeOf 4 0 0 0 1 unit FaultRec.none)
      (s.adjHost fun h => { h with wornSent := h.wornSent ++ [unit] }))

/-! The register window (R458, R459). -/

/-- Whether a register is of the identity block, which answers before the package is ready (R467). -/
def identityReg : HostReg → Bool
  | .bootstat | .attcmd | .attnonce _ | .attreport _ | .idcert _ => true
  | _ => false

/-- Whether the window's registers answer (R467). (log 121 DEDUCED) -/
def windowOpen (s : State) : Bool := bitsOf s.host.bootstat.toNat 3 0 == 3

/-- Eight bytes of a table of bytes as a register. -/
def wordOf (f : Nat → Byte) (n : Nat) : BitVec 64 := BitVec.ofNat 64 (ofLeBytes ((upTo 8).map fun i => f (8 * n + i)))

/-- FABCFG as it is read (R332): SLOTS reads back S on the spread and gang calendars. -/
def fabcfgOf (s : State) : BitVec 64 :=
  if calendarOf s < 2 then BitVec.ofNat 64 (putBits s.fabric.fabcfg.toNat 46 39 (slotsOf s)) else s.fabric.fabcfg

/-- What a register reads as (R458, with the rule of each): 0 where there is none. -/
def readReg (s : State) : HostReg → BitVec 64
  | .lrbuf n => if n < 256 then BitVec.ofNat 64 (ofLeBytes (s.host.lrbuf.readBytes (8 * n) 8)) else 0
  | .lrctl => s.host.lrctl
  | .lrsheet => s.host.lrsheet
  | .lrstat => s.host.lrstat
  | .nqbase => s.host.nqbase
  | .nqstat => s.host.nqstat
  | .hoststat => s.host.hoststat
  | .linkstat => s.host.linkstat
  | .aperbase => s.host.aperbase
  | .migctl => s.mem.migctl
  | .migqbase => s.mem.migqbase
  | .migqstat => s.mem.migqstat
  | .migidx => s.mem.migidx
  | .migdata => match migRegion s with
    | some q => (Table.get 0 q s.mem.counts).setWidth 64 ||| (if Table.get false q s.mem.queued then 0x10000 else 0)
    | none => 0
  | .tlbiva => s.tlbi.va
  | .tlbicmd => s.tlbi.cmd
  | .tlbistat => s.tlbi.stat
  | .asidctx n => if n < 512 then Table.get 0 n s.asidctx else 0
  | .fabcfg => fabcfgOf s
  | .vqbase => s.fabric.vqbase
  | .vqcfg => s.fabric.vqcfg
  | .rekeyat => s.fabric.rekeyat
  | .railstat n => if n < 16 then ((Map.find n s.fabric.rails).getD Rail.reset).stat else 0
  | .tidetab n => if n < 510 then wordOf (fun i => Table.get 0x80 i s.fabric.tidetab) n else 0
  | .precmd => s.pre.cmd
  | .prebase => s.pre.base
  | .prelen => s.pre.len
  | .prestat => s.pre.stat
  | .pwrsum => s.host.pwrsum
  | .pwrcap => s.host.pwrcap
  | .wearth => s.host.wearth
  | .wear n => if n < 36 then Config.wear n s.tick else 0
  | .tilehealth n => if n < 768 then Table.get 0 n s.health.tilehealth else 0
  | .lanefail n => if n < 768 then Table.get 0 n s.health.lanefail else 0
  | .beaconcfg => s.health.beaconcfg
  | .mbox d n => if d < 8 && n < 64 then Table.get 0 n (s.die d).mbox else 0
  | .bootstat => s.host.bootstat
  | .attcmd => s.host.attcmd
  | .attnonce n => if n < 4 then Table.get 0 n s.host.attnonce else 0
  | .attreport n => if n < 32 then BitVec.ofNat 64 (ofLeBytes (s.host.attreport.readBytes (8 * n) 8)) else 0
  | .idcert n => if n < 256 then wordOf Config.idCert n else 0
  | .none => 0

/-- What the host reads of a register: before the package is ready only the identity block answers (R467). -/
def hostRead (s : State) (r : HostReg) : BitVec 64 := if windowOpen s || identityReg r then readReg s r else 0

/-- The bits of a register that a write of 1 clears (R3). -/
def w1cMask : HostReg → BitVec 64
  | .lrstat | .tlbistat | .prestat => 0x4000000000000000
  | .nqstat | .hoststat | .migqstat => 0x8000000000000000
  | .tilehealth _ => 0x80000000
  | .lanefail _ => 0xFFFFFFFFFFFFFFFF
  | _ => 0

/-- The 8 B that a write of 8 B, or of the low (false) or high half, comes to (R459): the other half keeps what it holds
and clears nothing. (log 54 DEDUCED) -/
def wholeWrite (s : State) (r : HostReg) (half : Option Bool) (v : BitVec 64) : BitVec 64 :=
  let rest := readReg s r &&& ~~~w1cMask r
  match half with
  | Option.none => v
  | some false => keep rest v 0xFFFFFFFF
  | some true => keep rest v 0xFFFFFFFF00000000

/-- A number held within bounds. -/
def clampTo (lo hi n : Nat) : Nat := min hi (max lo n)

/-- A write of VQCFG (R334): REMTO 0 is stored as 1, and the ring sizes are stored clamped. -/
def vqcfgOf (v : Nat) : BitVec 64 :=
  let remto := if bitsOf v 23 16 == 0 then 1 else bitsOf v 23 16
  BitVec.ofNat 64 (bitsOf v 47 24 * 2 ^ 24 + remto * 2 ^ 16 + clampTo 4 14 (bitsOf v 15 8) * 2 ^ 8
    + clampTo 2 12 (bitsOf v 7 0))

/-- A write of PRECMD (R403). -/
def writePrecmd (v : BitVec 64) (s : State) : State :=
  let busy := s.pre.stat.getLsbD 63
  let s := { s with pre := { s.pre with cmd := v &&& 0x0E00FF000000FFFF } }
  if !v.getLsbD 63 || busy then s
  else
    let h := bitsOf v.toNat 15 0
    match bitsOf v.toNat 59 58 with
    | 0 => goPreempt h s
    | 1 => goRestore h s
    | _ => preEnd (some 5) s

/-- The state that a step answers, where it answers one. -/
def orSame (s : State) : Host.Outcome State Fault Refusal → State
  | .next t => t
  | _ => s

/-- A write of all 8 B of a register (R458, with the rule of each register); a register that is read-only, and an offset
without one, discard it. -/
def writeReg (r : HostReg) (v : BitVec 64) (s : State) : State :=
  match r with
  | .lrbuf n => if n < 256 && !s.host.lrstat.getLsbD 63 then
      s.adjHost fun h => { h with lrbuf := h.lrbuf.writeBytes (8 * n) (leBytes 8 v.toNat) } else s
  | .lrctl =>
    let s := s.adjHost fun h => { h with lrctl := v &&& 0x6000000000000000 }
    if v.getLsbD 63 then submitHost (v.getLsbD 61) s else s
  | .lrsheet => s.adjHost fun h => { h with lrsheet := v }
  | .lrstat => s.adjHost fun h => { h with lrstat := clearBits h.lrstat v 0x4000000000000000 }
  | .nqbase => s.adjHost fun h => { h with nqbase := v &&& 0xFFFFFFFFFFFFF00F }
  | .nqstat => s.adjHost fun h => { h with nqstat := keep (clearBits h.nqstat v 0x8000000000000000) v 0xFFFFFF }
  | .hoststat => if v.getLsbD 63 then orSame s (execHoststatGoneClear s) else s
  | .aperbase => s.adjHost fun h => { h with aperbase := v &&& 0x000FFFF000000000 }
  | .migctl => { s with mem := { s.mem with migctl := v &&& 0x000000010700FFFF } }
  | .migqbase => { s with mem := { s.mem with migqbase := v &&& 0x000FFFFFFFFFF00F } }
  | .migqstat => { s with mem := { s.mem with migqstat := keep (clearBits s.mem.migqstat v 0x8000000000000000) v 0xFFFFFF } }
  | .migidx => { s with mem := { s.mem with migidx := v &&& 0xFFFFFF } }
  | .migdata => orSame s (execMigdataWrite v s)
  | .tlbiva => writeTlbiva v s
  | .tlbicmd => writeTlbicmd v s
  | .tlbistat => writeTlbistat v s
  | .asidctx n => if n < 512 then writeAsidctx n v s else s
  | .fabcfg => if s.fabric.inPod then s else { s with fabric := { s.fabric with fabcfg := v &&& 0xFFFFFFFFFFFF01FF } }
  | .vqbase => { s with fabric := { s.fabric with vqbase := v &&& 0x000FFFFFFFFFF000 } }
  | .vqcfg => { s with fabric := { s.fabric with vqcfg := vqcfgOf v.toNat } }
  | .rekeyat => { s with fabric := { s.fabric with rekeyat := BitVec.ofNat 64 (min 0xFFFFF00000 (bitsOf v.toNat 39 0)) } }
  | .tidetab n =>
    let rows := (upTo 8).foldl (fun t i => Table.put 0x80 (8 * n + i) (v.extractLsb' (8 * i) 8) t) s.fabric.tidetab
    if n < 510 && !s.fabric.inPod then { s with fabric := { s.fabric with tidetab := rows } } else s
  | .precmd => writePrecmd v s
  | .prebase => { s with pre := { s.pre with base := v &&& 0x000FFFFFFFFFF000 } }
  | .prelen => { s with pre := { s.pre with len := v &&& 0xFFFFFFFF } }
  | .prestat => { s with pre := { s.pre with stat := clearBits s.pre.stat v 0x4000000000000000 } }
  | .pwrcap => s.adjHost fun h => { h with pwrcap := BitVec.ofNat 64 (clampTo 1700 3400 (bitsOf v.toNat 15 0)) }
  | .wearth => s.adjHost fun h => { h with wearth := v &&& 0xFFFFFFFF }
  | .tilehealth n => if n < 768 then
      orSame s (execTileStateWrite n v.toNat (adjHealth n (fun h => if v.getLsbD 31 then putBits h 31 31 0 else h) s)) else s
  | .lanefail n =>
    let x := clearBits (Table.get 0 n s.health.lanefail) v 0xFFFFFFFFFFFFFFFF
    if n < 768 then { s with health := { s.health with lanefail := Table.put 0 n x s.health.lanefail } } else s
  | .beaconcfg => { s with health := { s.health with beaconcfg := v &&& 0x1FFFF } }
  | .attcmd => if v.getLsbD 63 then orSame s (execAttestationRequest s) else s
  | .attnonce n => if n < 4 then s.adjHost fun h => { h with attnonce := Table.put 0 n v h.attnonce } else s
  | .linkstat | .railstat _ | .pwrsum | .wear _ | .mbox _ _ | .bootstat | .attreport _ | .idcert _ | .none => s

/-- REGISTER_WRITE (R3, R4, R458, R459): a host write to the window. Before the package is ready only the identity block
answers (R467). -/
def execRegisterWrite (reg : HostReg) (half : Option Bool) (value : BitVec 64) (s : State) :
    Host.Outcome State Fault Refusal :=
  .next (if windowOpen s || identityReg reg then writeReg reg (wholeWrite s reg half value) s else s)

/-! Soft errors (R48, R433). -/

/-- A number put into a list of what cannot be read. -/
def addBad {α : Type} [BEq α] (x : α) (l : List α) : List α := if l.contains x then l else l ++ [x]

/-- An uncorrectable error in a storage unit (R48, R433): what it holds cannot be read until it is written whole. (log 114 DEDUCED) -/
def spoil (place : ErrUnit) (s : State) : State :=
  match place with
  | .dramBurst a => if a < hbmEnd then { s with mem := { s.mem with badBursts := addBad (a / 32) s.mem.badBursts } } else s
  | .scratchWord tile launch o =>
    if (Map.find (heldKey tile launch) s.held).isSome then s.adjHeld tile launch fun h => { h with bad := addBad (o / 16) h.bad }
    else s
  | .sharedWord k o => { s with convoys := Map.adjust k (fun cv => { cv with bad := addBad (o / 16) cv.bad }) s.convoys }
  | .dieWord a => if inDie a then { s with dieScrBad := addBad ((a - hbmEnd) / 8) s.dieScrBad } else s
  | .accWord tile row col =>
    if tile < 768 && row < 512 && col < 256 then
      s.setTile tile { s.tile tile with accBad := addBad (row * 256 + col) (s.tile tile).accBad } else s
  | .l1Sector tile line i =>
    if tile < 768 then s.setL1 tile ((s.tile tile).l1.map fun l =>
      if l.pline == line then { l with bad := l.bad ||| 2 ^ (i % 8) } else l) else s
  | .l2Sector line i => { s with l2 := Map.adjust line (fun l => { l with bad := l.bad ||| 2 ^ (i % 8) }) s.l2 }
  | .vreg k lane n => s.adjStrand k (·.adjLane lane fun l => { l with badV := addBad (n % 256) l.badV })
  | .pred k lane n => s.adjStrand k (·.adjLane lane fun l => { l with badV := addBad (256 + n % 8) l.badV })
  | .laneWord k lane o => s.adjStrand k (·.adjLane lane fun l => { l with bad := addBad (o / 4) l.bad })
  | .strandReg k n => s.adjStrand k fun st =>
    if st.seat.isSome && (n < 64 || n == 80) then st.mapLanes 15 fun l => { l with badV := addBad (frameS n) l.badV }
    else { st with badS := addBad n st.badS }
  | .code tile launch seg =>
    if (Map.find (heldKey tile launch) s.held).isSome then s.adjHeld tile launch fun h => { h with badCode := addBad seg h.badCode }
    else s
  | .queueRec launch q n lane => adjQueue launch q (fun x => { x with bad := addBad (n, lane) x.bad }) s

/-- A burst of DRAM whose reading needs a correction (R48, R49); of another unit a corrected error shows nothing. -/
def weaken (place : ErrUnit) (s : State) : State :=
  match place with
  | .dramBurst a => if a < hbmEnd then { s with mem := { s.mem with weakBursts := addBad (a / 32) s.mem.weakBursts } } else s
  | _ => s

/-- SOFT_ERROR (R48, R433): a corrected error changes no value that is read. -/
def execSoftError (place : ErrUnit) (uncorrectable : Bool) (s : State) : Host.Outcome State Fault Refusal :=
  .next (if uncorrectable then spoil place s else weaken place s)

end Sys2Proof.Machine
end

