-- ==== Sys2Proof/Machine/Integer.lean ====
section
/-! DEFINITION. The integer and bit-field majors (10_isa_compute.md R259 to R264) and MOVW (09_isa_memory_sync.md
R233). -/

namespace Sys2Proof.Machine

/-! The functions of the table of R259 and the rules it names. -/

/-- MULHI.S (R259). -/
def mulhiSigned (a b : Word) : Word := ((a.signExtend 64) * (b.signExtend 64)).extractLsb' 32 32

/-- MULHI.N (R259). -/
def mulhiNatural (a b : Word) : Word := ((a.setWidth 64) * (b.setWidth 64)).extractLsb' 32 32

/-- ABS (R259): 0x8000_0000 stays. -/
def absWord (a : Word) : Word := if a.toInt < 0 then 0 - a else a

/-- The smaller or larger of two words, signed (R259). -/
def pickSigned (max : Bool) (a b : Word) : Word := if decide (a.toInt < b.toInt) == max then b else a

/-- The smaller or larger of two words, natural (R259). -/
def pickNatural (max : Bool) (a b : Word) : Word := if decide (a.toNat < b.toNat) == max then b else a

/-- Leading zero bits (R259). -/
def clzWord (a : Word) : Word := if a == 0 then 32 else BitVec.ofNat 32 (31 - Nat.log2 a.toNat)

/-- Bits that are 1 (R259). -/
def popcWord (a : Word) : Word := BitVec.ofNat 32 ((upTo 32).filter fun i => a.getLsbD i).length

/-- d[i] := a[31 − i] (R259). -/
def brevWord (a : Word) : Word := a.reverse

/-- SHL by b[7:0] (R260). -/
def shlWord (a b : Word) : Word := a <<< (b.extractLsb' 0 8).toNat

/-- SHR by b[7:0] (R260). -/
def shrWord (a b : Word) : Word := a >>> (b.extractLsb' 0 8).toNat

/-- SAR by b[7:0] (R260). -/
def sarWord (a b : Word) : Word := a.sshiftRight (b.extractLsb' 0 8).toNat

/-- ROL by b[7:0] mod 32 (R260). -/
def rolWord (a b : Word) : Word := a.rotateLeft ((b.extractLsb' 0 8).toNat % 32)

/-- The length of a bit field: min(b[13:8], 32) (R261). -/
def fieldLen (b : Word) : Nat := min (b.extractLsb' 8 6).toNat 32

/-- The position of a bit field: b[4:0] (R261). -/
def fieldPos (b : Word) : Nat := (b.extractLsb' 0 5).toNat

/-- The low `n` bits set. -/
def lowMask (n : Nat) : Word := BitVec.ofNat 32 (2 ^ n - 1)

/-- BFE (R261). -/
def bfeWord (a b : Word) : Word :=
  let len := fieldLen b
  if len == 0 then 0
  else
    let f := (a >>> fieldPos b) &&& lowMask len
    if b.getLsbD 16 && f.getLsbD (len - 1) then f ||| ~~~lowMask len else f

/-- BFI (R261). -/
def bfiWord (a b d : Word) : Word :=
  let m := lowMask (fieldLen b) <<< fieldPos b
  (d &&& ~~~m) ||| ((a <<< fieldPos b) &&& m)

/-- The tests of ISETP (R263). -/
def icmpTest (k : ICmp) (a b : Word) : Bool :=
  match k with
  | .eq => a == b
  | .ne => a != b
  | .lts => a.toInt < b.toInt
  | .les => a.toInt ≤ b.toInt
  | .gts => b.toInt < a.toInt
  | .ges => b.toInt ≤ a.toInt
  | .ltn => a.toNat < b.toNat
  | .len => a.toNat ≤ b.toNat
  | .gtn => b.toNat < a.toNat
  | .gen => b.toNat ≤ a.toNat

/-! The meanings. -/

/-- NOP: its guard is ignored (R259). -/
def execNop (g : Guard) (s : State) : Host.Outcome State Fault Refusal := issue (.nop g) s fun _ s => .done s

/-- MOV (R259). -/
def execMov (g : Guard) (d a : Opnd) (s : State) : Host.Outcome State Fault Refusal :=
  issue (.mov g d a) s fun c s => c.put d (fun l => c.reg l a) s

/-- MOVI (R259). -/
def execMovi (g : Guard) (d : Opnd) (imm : BitVec 7) (s : State) : Host.Outcome State Fault Refusal :=
  issue (.movi g d imm) s fun c s => c.put d (fun _ => imm.signExtend 32) s

/-- ADD (R259). -/
def execAdd (g : Guard) (d a b : Opnd) (s : State) : Host.Outcome State Fault Refusal :=
  issue (.add g d a b) s fun c s => c.put d (fun l => c.reg l a + c.reg l b) s

/-- ADDI (R259). -/
def execAddi (g : Guard) (d a : Opnd) (imm : BitVec 7) (s : State) : Host.Outcome State Fault Refusal :=
  issue (.addi g d a imm) s fun c s => c.put d (fun l => c.reg l a + imm.signExtend 32) s

/-- SUB (R259). -/
def execSub (g : Guard) (d a b : Opnd) (s : State) : Host.Outcome State Fault Refusal :=
  issue (.sub g d a b) s fun c s => c.put d (fun l => c.reg l a - c.reg l b) s

/-- MUL (R259). -/
def execMul (g : Guard) (d a b : Opnd) (s : State) : Host.Outcome State Fault Refusal :=
  issue (.mul g d a b) s fun c s => c.put d (fun l => c.reg l a * c.reg l b) s

/-- MULHI.S (R259). -/
def execMulhiS (g : Guard) (d a b : Opnd) (s : State) : Host.Outcome State Fault Refusal :=
  issue (.mulhiS g d a b) s fun c s => c.put d (fun l => mulhiSigned (c.reg l a) (c.reg l b)) s

/-- MULHI.N (R259). -/
def execMulhiN (g : Guard) (d a b : Opnd) (s : State) : Host.Outcome State Fault Refusal :=
  issue (.mulhiN g d a b) s fun c s => c.put d (fun l => mulhiNatural (c.reg l a) (c.reg l b)) s

/-- MAD (R259); the old destination is a source (R257). -/
def execMad (g : Guard) (d a b : Opnd) (s : State) : Host.Outcome State Fault Refusal :=
  issue (.mad g d a b) s fun c s => c.put d (fun l => c.reg l a * c.reg l b + c.reg l d) s

/-- MIN.S (R259). -/
def execMinS (g : Guard) (d a b : Opnd) (s : State) : Host.Outcome State Fault Refusal :=
  issue (.minS g d a b) s fun c s => c.put d (fun l => pickSigned false (c.reg l a) (c.reg l b)) s

/-- MIN.N (R259). -/
def execMinN (g : Guard) (d a b : Opnd) (s : State) : Host.Outcome State Fault Refusal :=
  issue (.minN g d a b) s fun c s => c.put d (fun l => pickNatural false (c.reg l a) (c.reg l b)) s

/-- MAX.S (R259). -/
def execMaxS (g : Guard) (d a b : Opnd) (s : State) : Host.Outcome State Fault Refusal :=
  issue (.maxS g d a b) s fun c s => c.put d (fun l => pickSigned true (c.reg l a) (c.reg l b)) s

/-- MAX.N (R259). -/
def execMaxN (g : Guard) (d a b : Opnd) (s : State) : Host.Outcome State Fault Refusal :=
  issue (.maxN g d a b) s fun c s => c.put d (fun l => pickNatural true (c.reg l a) (c.reg l b)) s

/-- ABS (R259). -/
def execAbs (g : Guard) (d a : Opnd) (s : State) : Host.Outcome State Fault Refusal :=
  issue (.abs g d a) s fun c s => c.put d (fun l => absWord (c.reg l a)) s

/-- AND (R259). -/
def execAnd (g : Guard) (d a b : Opnd) (s : State) : Host.Outcome State Fault Refusal :=
  issue (.and g d a b) s fun c s => c.put d (fun l => c.reg l a &&& c.reg l b) s

/-- OR (R259). -/
def execOr (g : Guard) (d a b : Opnd) (s : State) : Host.Outcome State Fault Refusal :=
  issue (.or g d a b) s fun c s => c.put d (fun l => c.reg l a ||| c.reg l b) s

/-- XOR (R259). -/
def execXor (g : Guard) (d a b : Opnd) (s : State) : Host.Outcome State Fault Refusal :=
  issue (.xor g d a b) s fun c s => c.put d (fun l => c.reg l a ^^^ c.reg l b) s

/-- ANDN (R259). -/
def execAndn (g : Guard) (d a b : Opnd) (s : State) : Host.Outcome State Fault Refusal :=
  issue (.andn g d a b) s fun c s => c.put d (fun l => c.reg l a &&& ~~~(c.reg l b)) s

/-- SHL (R260). -/
def execShl (g : Guard) (d a b : Opnd) (s : State) : Host.Outcome State Fault Refusal :=
  issue (.shl g d a b) s fun c s => c.put d (fun l => shlWord (c.reg l a) (c.reg l b)) s

/-- SHR (R260). -/
def execShr (g : Guard) (d a b : Opnd) (s : State) : Host.Outcome State Fault Refusal :=
  issue (.shr g d a b) s fun c s => c.put d (fun l => shrWord (c.reg l a) (c.reg l b)) s

/-- SAR (R260). -/
def execSar (g : Guard) (d a b : Opnd) (s : State) : Host.Outcome State Fault Refusal :=
  issue (.sar g d a b) s fun c s => c.put d (fun l => sarWord (c.reg l a) (c.reg l b)) s

/-- SHLI (R260). -/
def execShli (g : Guard) (d a : Opnd) (n : BitVec 5) (s : State) : Host.Outcome State Fault Refusal :=
  issue (.shli g d a n) s fun c s => c.put d (fun l => c.reg l a <<< n.toNat) s

/-- SHRI (R260). -/
def execShri (g : Guard) (d a : Opnd) (n : BitVec 5) (s : State) : Host.Outcome State Fault Refusal :=
  issue (.shri g d a n) s fun c s => c.put d (fun l => c.reg l a >>> n.toNat) s

/-- SARI (R260). -/
def execSari (g : Guard) (d a : Opnd) (n : BitVec 5) (s : State) : Host.Outcome State Fault Refusal :=
  issue (.sari g d a n) s fun c s => c.put d (fun l => (c.reg l a).sshiftRight n.toNat) s

/-- ROLI (R260). -/
def execRoli (g : Guard) (d a : Opnd) (n : BitVec 5) (s : State) : Host.Outcome State Fault Refusal :=
  issue (.roli g d a n) s fun c s => c.put d (fun l => (c.reg l a).rotateLeft n.toNat) s

/-- ROL (R260). -/
def execRol (g : Guard) (d a b : Opnd) (s : State) : Host.Outcome State Fault Refusal :=
  issue (.rol g d a b) s fun c s => c.put d (fun l => rolWord (c.reg l a) (c.reg l b)) s

/-- CLZ (R259). -/
def execClz (g : Guard) (d a : Opnd) (s : State) : Host.Outcome State Fault Refusal :=
  issue (.clz g d a) s fun c s => c.put d (fun l => clzWord (c.reg l a)) s

/-- POPC (R259). -/
def execPopc (g : Guard) (d a : Opnd) (s : State) : Host.Outcome State Fault Refusal :=
  issue (.popc g d a) s fun c s => c.put d (fun l => popcWord (c.reg l a)) s

/-- BREV (R259). -/
def execBrev (g : Guard) (d a : Opnd) (s : State) : Host.Outcome State Fault Refusal :=
  issue (.brev g d a) s fun c s => c.put d (fun l => brevWord (c.reg l a)) s

/-- BFE (R261). -/
def execBfe (g : Guard) (d a b : Opnd) (s : State) : Host.Outcome State Fault Refusal :=
  issue (.bfe g d a b) s fun c s => c.put d (fun l => bfeWord (c.reg l a) (c.reg l b)) s

/-- BFI (R261); the old destination is a source (R257). -/
def execBfi (g : Guard) (d a b : Opnd) (s : State) : Host.Outcome State Fault Refusal :=
  issue (.bfi g d a b) s fun c s => c.put d (fun l => bfiWord (c.reg l a) (c.reg l b) (c.reg l d)) s

/-- SEL (R262): the guard field is the selector, and every live lane of the set executes (R127). -/
def execSel (g : Guard) (d a b : Opnd) (s : State) : Host.Outcome State Fault Refusal :=
  issue (.sel g d a b) s fun c s =>
    c.put d (fun l => if guardHolds g (c.st.lanes.get l) then c.reg l a else c.reg l b) s

/-- ISETP (R263). -/
def execIsetp (g : Guard) (k : ICmp) (pd : BitVec 3) (a b : Opnd) (s : State) : Host.Outcome State Fault Refusal :=
  issue (.isetp g k pd a b) s fun c s => c.putPred pd (fun l => (icmpTest k (c.reg l a) (c.reg l b), 0)) s

/-- ADD64 (R264). -/
def execAdd64 (g : Guard) (d a b : Opnd) (s : State) : Host.Outcome State Fault Refusal :=
  issue (.add64 g d a b) s fun c s => c.putPair d (fun l => c.pair l a + c.pair l b) s

/-- MOVW (R233). -/
def execMovw (g : Guard) (d : Opnd) (imm : Word) (s : State) : Host.Outcome State Fault Refusal :=
  issue (.movw g d imm) s fun c s => c.put d (fun _ => imm) s

end Sys2Proof.Machine
end

