-- ==== Sys2Proof/Machine/LoadStore.lean ====
section
/-! DEFINITION. LD, ST, GATHER, SCATTER, the members of ATOM, PREFETCH and the response of an access
(09_isa_memory_sync.md R217 to R232). -/

namespace Sys2Proof.Machine

/-- LD (R222): each active lane's load. -/
def execLd (g : Guard) (la : BitVec 4) (m : MemMod) (ty : Ty) (d a : Opnd) (disp : BitVec 16) (s : State) :
    Host.Outcome State Fault Refusal :=
  issue (.ld g la m ty d a disp) s fun c s =>
    c.access (loadAccess la m ty d) ((lanesIn c.active).map fun l => ⟨l, c.address m.space l a disp.toInt, 0, 0⟩) s

/-- ST (R222): each active lane's store of the low bytes of its data. -/
def execSt (g : Guard) (la : BitVec 4) (m : MemMod) (ty : Ty) (a b : Opnd) (disp : BitVec 16) (s : State) :
    Host.Outcome State Fault Refusal :=
  issue (.st g la m ty a b disp) s fun c s =>
    c.access (storeAccess la m ty)
      ((lanesIn c.active).map fun l =>
        ⟨l, c.address m.space l a disp.toInt, c.value ty.isPair l b % 256 ^ tyBytes ty, 0⟩) s

/-- GATHER (R225): the strand arrives, and the packet is performed when the item's live strands have. -/
def execGather (g : Guard) (la : BitVec 4) (m : MemMod) (ty : Ty) (d a b : Opnd) (s : State) :
    Host.Outcome State Fault Refusal :=
  issue (.gather g la m ty d a b) s arrive

/-- SCATTER (R225). -/
def execScatter (g : Guard) (la : BitVec 4) (m : MemMod) (ty : Ty) (a b v : Opnd) (s : State) :
    Host.Outcome State Fault Refusal :=
  issue (.scatter g la m ty a b v) s arrive

/-- An atomic of the active lanes (R228, R229): operand b, and for CAS the compare value, as read at issue. -/
def atomic (op : AtomOp) (la : BitVec 4) (m : MemMod) (w : Bool) (d a b : Opnd) (disp : BitVec 15) (c : Issue)
    (s : State) : Act :=
  c.access (atomAccess op la m w d)
    ((lanesIn c.active).map fun l => ⟨l, c.address m.space l a disp.toInt, c.value w l b, c.value w l d⟩) s

/-- ATOM.ADD (R228). -/
def execAtomAdd (g : Guard) (la : BitVec 4) (m : MemMod) (w : Bool) (d a b : Opnd) (disp : BitVec 15) (s : State) :
    Host.Outcome State Fault Refusal :=
  issue (.atomAdd g la m w d a b disp) s (atomic .add la m w d a b disp)

/-- ATOM.MIN.S (R228). -/
def execAtomMinS (g : Guard) (la : BitVec 4) (m : MemMod) (w : Bool) (d a b : Opnd) (disp : BitVec 15) (s : State) :
    Host.Outcome State Fault Refusal :=
  issue (.atomMinS g la m w d a b disp) s (atomic .minS la m w d a b disp)

/-- ATOM.MIN.N (R228). -/
def execAtomMinN (g : Guard) (la : BitVec 4) (m : MemMod) (w : Bool) (d a b : Opnd) (disp : BitVec 15) (s : State) :
    Host.Outcome State Fault Refusal :=
  issue (.atomMinN g la m w d a b disp) s (atomic .minN la m w d a b disp)

/-- ATOM.MAX.S (R228). -/
def execAtomMaxS (g : Guard) (la : BitVec 4) (m : MemMod) (w : Bool) (d a b : Opnd) (disp : BitVec 15) (s : State) :
    Host.Outcome State Fault Refusal :=
  issue (.atomMaxS g la m w d a b disp) s (atomic .maxS la m w d a b disp)

/-- ATOM.MAX.N (R228). -/
def execAtomMaxN (g : Guard) (la : BitVec 4) (m : MemMod) (w : Bool) (d a b : Opnd) (disp : BitVec 15) (s : State) :
    Host.Outcome State Fault Refusal :=
  issue (.atomMaxN g la m w d a b disp) s (atomic .maxN la m w d a b disp)

/-- ATOM.AND (R228). -/
def execAtomAnd (g : Guard) (la : BitVec 4) (m : MemMod) (w : Bool) (d a b : Opnd) (disp : BitVec 15) (s : State) :
    Host.Outcome State Fault Refusal :=
  issue (.atomAnd g la m w d a b disp) s (atomic .and la m w d a b disp)

/-- ATOM.OR (R228). -/
def execAtomOr (g : Guard) (la : BitVec 4) (m : MemMod) (w : Bool) (d a b : Opnd) (disp : BitVec 15) (s : State) :
    Host.Outcome State Fault Refusal :=
  issue (.atomOr g la m w d a b disp) s (atomic .or la m w d a b disp)

/-- ATOM.XOR (R228). -/
def execAtomXor (g : Guard) (la : BitVec 4) (m : MemMod) (w : Bool) (d a b : Opnd) (disp : BitVec 15) (s : State) :
    Host.Outcome State Fault Refusal :=
  issue (.atomXor g la m w d a b disp) s (atomic .xor la m w d a b disp)

/-- ATOM.EXCH (R228). -/
def execAtomExch (g : Guard) (la : BitVec 4) (m : MemMod) (w : Bool) (d a b : Opnd) (disp : BitVec 15) (s : State) :
    Host.Outcome State Fault Refusal :=
  issue (.atomExch g la m w d a b disp) s (atomic .exch la m w d a b disp)

/-- ATOM.CAS (R228): c is vD as read at issue. -/
def execAtomCas (g : Guard) (la : BitVec 4) (m : MemMod) (w : Bool) (d a b : Opnd) (disp : BitVec 15) (s : State) :
    Host.Outcome State Fault Refusal :=
  issue (.atomCas g la m w d a b disp) s (atomic .cas la m w d a b disp)

/-- ATOM.FADD (R228, R230). -/
def execAtomFadd (g : Guard) (la : BitVec 4) (m : MemMod) (w : Bool) (d a b : Opnd) (disp : BitVec 15) (s : State) :
    Host.Outcome State Fault Refusal :=
  issue (.atomFadd g la m w d a b disp) s (atomic .fadd la m w d a b disp)

/-- ATOM.FMIN (R228, R230). -/
def execAtomFmin (g : Guard) (la : BitVec 4) (m : MemMod) (w : Bool) (d a b : Opnd) (disp : BitVec 15) (s : State) :
    Host.Outcome State Fault Refusal :=
  issue (.atomFmin g la m w d a b disp) s (atomic .fmin la m w d a b disp)

/-- ATOM.FMAX (R228, R230). -/
def execAtomFmax (g : Guard) (la : BitVec 4) (m : MemMod) (w : Bool) (d a b : Opnd) (disp : BitVec 15) (s : State) :
    Host.Outcome State Fault Refusal :=
  issue (.atomFmax g la m w d a b disp) s (atomic .fmax la m w d a b disp)

/-- ATOM.INCW (R228). -/
def execAtomIncw (g : Guard) (la : BitVec 4) (m : MemMod) (w : Bool) (d a b : Opnd) (disp : BitVec 15) (s : State) :
    Host.Outcome State Fault Refusal :=
  issue (.atomIncw g la m w d a b disp) s (atomic .incw la m w d a b disp)

/-- ATOM.DECW (R228). -/
def execAtomDecw (g : Guard) (la : BitVec 4) (m : MemMod) (w : Bool) (d a b : Opnd) (disp : BitVec 15) (s : State) :
    Host.Outcome State Fault Refusal :=
  issue (.atomDecw g la m w d a b disp) s (atomic .decw la m w d a b disp)

/-- The response of an access (R130, R224). -/
def execLoadWriteback (strand id : Nat) (s : State) : Host.Outcome State Fault Refusal := .next (respond strand id s)

/-! PREFETCH (R232). -/

/-- One line of PREFETCH: skipped, with nothing installed, where its translation would fault or a deterministic launch's
page is shared. -/
def prefetchLine (c : Issue) (host l2 : Bool) (a : Nat) (s : State) : State :=
  let sp : Space := if host then .host else .global
  let t := translate c.it.tile c.la.asid c.la.priv .load sp a s
  match t.2 with
  | .error _ => s
  | .ok x =>
    if c.la.det && leafSH x.leaf then s
    else
    let s := t.1
    if leafMT x.leaf != 0 then s
    else if l2 then (homeRead (s.tileReq c.it.tile x.key true) (x.pa / 256) s).1
    else
      match l1Find s c.it.tile c.la.asid (va57 a) with
      | some _ => s
      | none => (l1Fill c.it.tile c.la.asid (va57 a) x s).1

/-- PREFETCH (R232): by the strand's lowest active lane, n lines in ascending order. (log 36 DEDUCED) -/
def execPrefetch (g : Guard) (host l2 : Bool) (a : Opnd) (n : BitVec 8) (s : State) : Host.Outcome State Fault Refusal :=
  issue (.prefetch g host l2 a n) s fun c s =>
    match lowest c.active with
    | none => .done s
    | some l =>
      let base := (c.pair l a).toNat / 256 * 256
      .done ((upTo (n.toNat + 1)).foldl (fun s i => prefetchLine c host l2 ((base + 256 * i) % 2 ^ 64) s) s)

end Sys2Proof.Machine
end

