-- ==== Sys2Proof/Machine/Dispatch.lean ====
section
/-! DEFINITION. The dispatch: one arm per constructor of `Instr`, each a direct call of that instruction's meaning. -/

namespace Sys2Proof.Machine

/-- What an instruction or an event does to a state. -/
def exec (i : Instr) (s : State) : Host.Outcome State Fault Refusal :=
  match i with
  | .nop g => Sys2Proof.Machine.execNop g s
  | .mov g d a => Sys2Proof.Machine.execMov g d a s
  | .movi g d imm => Sys2Proof.Machine.execMovi g d imm s
  | .add g d a b => Sys2Proof.Machine.execAdd g d a b s
  | .addi g d a imm => Sys2Proof.Machine.execAddi g d a imm s
  | .sub g d a b => Sys2Proof.Machine.execSub g d a b s
  | .mul g d a b => Sys2Proof.Machine.execMul g d a b s
  | .mulhiS g d a b => Sys2Proof.Machine.execMulhiS g d a b s
  | .mulhiN g d a b => Sys2Proof.Machine.execMulhiN g d a b s
  | .mad g d a b => Sys2Proof.Machine.execMad g d a b s
  | .minS g d a b => Sys2Proof.Machine.execMinS g d a b s
  | .minN g d a b => Sys2Proof.Machine.execMinN g d a b s
  | .maxS g d a b => Sys2Proof.Machine.execMaxS g d a b s
  | .maxN g d a b => Sys2Proof.Machine.execMaxN g d a b s
  | .abs g d a => Sys2Proof.Machine.execAbs g d a s
  | .and g d a b => Sys2Proof.Machine.execAnd g d a b s
  | .or g d a b => Sys2Proof.Machine.execOr g d a b s
  | .xor g d a b => Sys2Proof.Machine.execXor g d a b s
  | .andn g d a b => Sys2Proof.Machine.execAndn g d a b s
  | .shl g d a b => Sys2Proof.Machine.execShl g d a b s
  | .shr g d a b => Sys2Proof.Machine.execShr g d a b s
  | .sar g d a b => Sys2Proof.Machine.execSar g d a b s
  | .shli g d a n => Sys2Proof.Machine.execShli g d a n s
  | .shri g d a n => Sys2Proof.Machine.execShri g d a n s
  | .sari g d a n => Sys2Proof.Machine.execSari g d a n s
  | .roli g d a n => Sys2Proof.Machine.execRoli g d a n s
  | .rol g d a b => Sys2Proof.Machine.execRol g d a b s
  | .clz g d a => Sys2Proof.Machine.execClz g d a s
  | .popc g d a => Sys2Proof.Machine.execPopc g d a s
  | .brev g d a => Sys2Proof.Machine.execBrev g d a s
  | .bfe g d a b => Sys2Proof.Machine.execBfe g d a b s
  | .bfi g d a b => Sys2Proof.Machine.execBfi g d a b s
  | .sel g d a b => Sys2Proof.Machine.execSel g d a b s
  | .isetp g c pd a b => Sys2Proof.Machine.execIsetp g c pd a b s
  | .add64 g d a b => Sys2Proof.Machine.execAdd64 g d a b s
  | .fadd g d a b => Sys2Proof.Machine.execFadd g d a b s
  | .fsub g d a b => Sys2Proof.Machine.execFsub g d a b s
  | .fmul g d a b => Sys2Proof.Machine.execFmul g d a b s
  | .ffma g d a b => Sys2Proof.Machine.execFfma g d a b s
  | .fmin g d a b => Sys2Proof.Machine.execFmin g d a b s
  | .fmax g d a b => Sys2Proof.Machine.execFmax g d a b s
  | .fabs g d a => Sys2Proof.Machine.execFabs g d a s
  | .fneg g d a => Sys2Proof.Machine.execFneg g d a s
  | .frcp g d a => Sys2Proof.Machine.execFrcp g d a s
  | .frsq g d a => Sys2Proof.Machine.execFrsq g d a s
  | .fexp2 g d a => Sys2Proof.Machine.execFexp2 g d a s
  | .flog2 g d a => Sys2Proof.Machine.execFlog2 g d a s
  | .ftanh g d a => Sys2Proof.Machine.execFtanh g d a s
  | .fsetp g c pd a b => Sys2Proof.Machine.execFsetp g c pd a b s
  | .fscale g d a b => Sys2Proof.Machine.execFscale g d a b s
  | .frnd g m d a => Sys2Proof.Machine.execFrnd g m d a s
  | .hadd2 g d a b => Sys2Proof.Machine.execHadd2 g d a b s
  | .hmul2 g d a b => Sys2Proof.Machine.execHmul2 g d a b s
  | .hfma2 g d a b => Sys2Proof.Machine.execHfma2 g d a b s
  | .fclass g d a => Sys2Proof.Machine.execFclass g d a s
  | .cvt g dir d a slot => Sys2Proof.Machine.execCvt g dir d a slot s
  | .cvti g conv m d a => Sys2Proof.Machine.execCvti g conv m d a s
  | .pack2 g d a b => Sys2Proof.Machine.execPack2 g d a b s
  | .ballot g d neg p => Sys2Proof.Machine.execBallot g d neg p s
  | .vote g m pd neg p => Sys2Proof.Machine.execVote g m pd neg p s
  | .shflIdx g d a b => Sys2Proof.Machine.execShflIdx g d a b s
  | .shflXor g d a b => Sys2Proof.Machine.execShflXor g d a b s
  | .shflUp g d a b => Sys2Proof.Machine.execShflUp g d a b s
  | .shflDn g d a b => Sys2Proof.Machine.execShflDn g d a b s
  | .xchg g d a b => Sys2Proof.Machine.execXchg g d a b s
  | .rng g d => Sys2Proof.Machine.execRng g d s
  | .redux g op d a => Sys2Proof.Machine.execRedux g op d a s
  | .laneOpPerform item => Sys2Proof.Machine.execLaneOpPerform item s
  | .bra g off => Sys2Proof.Machine.execBra g off s
  | .brx g a => Sys2Proof.Machine.execBrx g a s
  | .call g off => Sys2Proof.Machine.execCall g off s
  | .callx g a => Sys2Proof.Machine.execCallx g a s
  | .ret g => Sys2Proof.Machine.execRet g s
  | .jmpf g seg a => Sys2Proof.Machine.execJmpf g seg a s
  | .cfetch g seg a k => Sys2Proof.Machine.execCfetch g seg a k s
  | .segmentLanding tile launch seg => Sys2Proof.Machine.execSegmentLanding tile launch seg s
  | .exit g => Sys2Proof.Machine.execExit g s
  | .yield g => Sys2Proof.Machine.execYield g s
  | .trap g n => Sys2Proof.Machine.execTrap g n s
  | .eret g => Sys2Proof.Machine.execEret g s
  | .bkpt g n => Sys2Proof.Machine.execBkpt g n s
  | .bru g off => Sys2Proof.Machine.execBru g off s
  | .cseg g d a => Sys2Proof.Machine.execCseg g d a s
  | .bar g n => Sys2Proof.Machine.execBar g n s
  | .bararv g d n => Sys2Proof.Machine.execBararv g d n s
  | .barwt g a n => Sys2Proof.Machine.execBarwt g a n s
  | .kinitReg g k a => Sys2Proof.Machine.execKinitReg g k a s
  | .kinitImm g k imm => Sys2Proof.Machine.execKinitImm g k imm s
  | .kaddReg g k a => Sys2Proof.Machine.execKaddReg g k a s
  | .kaddImm g k imm => Sys2Proof.Machine.execKaddImm g k imm s
  | .kwait g k => Sys2Proof.Machine.execKwait g k s
  | .phase g refresh publish scope => Sys2Proof.Machine.execPhase g refresh publish scope s
  | .fence g scope => Sys2Proof.Machine.execFence g scope s
  | .tokwait g d => Sys2Proof.Machine.execTokwait g d s
  | .tokpass g => Sys2Proof.Machine.execTokpass g s
  | .tokenForcedPass launch => Sys2Proof.Machine.execTokenForcedPass launch s
  | .fork g e a k => Sys2Proof.Machine.execFork g e a k s
  | .rdv g d e => Sys2Proof.Machine.execRdv g d e s
  | .engineProgramEnd item e => Sys2Proof.Machine.execEngineProgramEnd item e s
  | .gres g slot neg p => Sys2Proof.Machine.execGres g slot neg p s
  | .guardedCommandRelease tile launch slot => Sys2Proof.Machine.execGuardedCommandRelease tile launch slot s
  | .crew g d a b => Sys2Proof.Machine.execCrew g d a b s
  | .crwend g d => Sys2Proof.Machine.execCrwend g d s
  | .crwred g op n a => Sys2Proof.Machine.execCrwred g op n a s
  | .crewIterationStart crew worker => Sys2Proof.Machine.execCrewIterationStart crew worker s
  | .crewEnd crew => Sys2Proof.Machine.execCrewEnd crew s
  | .crewForcedRelease crew => Sys2Proof.Machine.execCrewForcedRelease crew s
  | .crewCancel crew worker cause => Sys2Proof.Machine.execCrewCancel crew worker cause s
  | .ld g la m ty d a disp => Sys2Proof.Machine.execLd g la m ty d a disp s
  | .st g la m ty a b disp => Sys2Proof.Machine.execSt g la m ty a b disp s
  | .gather g la m ty d a b => Sys2Proof.Machine.execGather g la m ty d a b s
  | .scatter g la m ty a b c => Sys2Proof.Machine.execScatter g la m ty a b c s
  | .atomAdd g la m w d a b disp => Sys2Proof.Machine.execAtomAdd g la m w d a b disp s
  | .atomMinS g la m w d a b disp => Sys2Proof.Machine.execAtomMinS g la m w d a b disp s
  | .atomMinN g la m w d a b disp => Sys2Proof.Machine.execAtomMinN g la m w d a b disp s
  | .atomMaxS g la m w d a b disp => Sys2Proof.Machine.execAtomMaxS g la m w d a b disp s
  | .atomMaxN g la m w d a b disp => Sys2Proof.Machine.execAtomMaxN g la m w d a b disp s
  | .atomAnd g la m w d a b disp => Sys2Proof.Machine.execAtomAnd g la m w d a b disp s
  | .atomOr g la m w d a b disp => Sys2Proof.Machine.execAtomOr g la m w d a b disp s
  | .atomXor g la m w d a b disp => Sys2Proof.Machine.execAtomXor g la m w d a b disp s
  | .atomExch g la m w d a b disp => Sys2Proof.Machine.execAtomExch g la m w d a b disp s
  | .atomCas g la m w d a b disp => Sys2Proof.Machine.execAtomCas g la m w d a b disp s
  | .atomFadd g la m w d a b disp => Sys2Proof.Machine.execAtomFadd g la m w d a b disp s
  | .atomFmin g la m w d a b disp => Sys2Proof.Machine.execAtomFmin g la m w d a b disp s
  | .atomFmax g la m w d a b disp => Sys2Proof.Machine.execAtomFmax g la m w d a b disp s
  | .atomIncw g la m w d a b disp => Sys2Proof.Machine.execAtomIncw g la m w d a b disp s
  | .atomDecw g la m w d a b disp => Sys2Proof.Machine.execAtomDecw g la m w d a b disp s
  | .loadWriteback strand id => Sys2Proof.Machine.execLoadWriteback strand id s
  | .movw g d imm => Sys2Proof.Machine.execMovw g d imm s
  | .sysr g d num => Sys2Proof.Machine.execSysr g d num s
  | .sysw g a num => Sys2Proof.Machine.execSysw g a num s
  | .dset g dn a all q => Sys2Proof.Machine.execDset g dn a all q s
  | .qpush g la scope ord nb b ps q => Sys2Proof.Machine.execQpush g la scope ord nb b ps q s
  | .qpop g la scope ord d ps q => Sys2Proof.Machine.execQpop g la scope ord d ps q s
  | .qpeek g la d ps q => Sys2Proof.Machine.execQpeek g la d ps q s
  | .prefetch g host l2 a n => Sys2Proof.Machine.execPrefetch g host l2 a n s
  | .copy g d a k m peer => Sys2Proof.Machine.execCopy g d a k m peer s
  | .plpack g d a k m slot => Sys2Proof.Machine.execPlpack g d a k m slot s
  | .plunpk g d a k m slot => Sys2Proof.Machine.execPlunpk g d a k m slot s
  | .fill g d a k m peer => Sys2Proof.Machine.execFill g d a k m peer s
  | .bkopen g d a k m => Sys2Proof.Machine.execBkopen g d a k m s
  | .bkclose g a k m => Sys2Proof.Machine.execBkclose g a k m s
  | .copyEntryStart tile => Sys2Proof.Machine.execCopyEntryStart tile s
  | .copyCompletion tile entry => Sys2Proof.Machine.execCopyCompletion tile entry s
  | .engineTranslationFault tile entry => Sys2Proof.Machine.execEngineTranslationFault tile entry s
  | .closeEvent tile handle reason => Sys2Proof.Machine.execCloseEvent tile handle reason s
  | .rtcount g d dn k id => Sys2Proof.Machine.execRtcount g d dn k id s
  | .rtdisp g d dn k id => Sys2Proof.Machine.execRtdisp g d dn k id s
  | .rtcomb g d dn k slot id => Sys2Proof.Machine.execRtcomb g d dn k slot id s
  | .countVectorArrival launch id package sums crc k nexp rowu => Sys2Proof.Machine.execCountVectorArrival launch id package sums crc k nexp rowu s
  | .routingRowArrival launch id package rank token expert slot row => Sys2Proof.Machine.execRoutingRowArrival launch id package rank token expert slot row s
  | .rtdispCompletion die launch id => Sys2Proof.Machine.execRtdispCompletion die launch id s
  | .rtcombCompletion die launch id => Sys2Proof.Machine.execRtcombCompletion die launch id s
  | .mloop g dn k fa fb => Sys2Proof.Machine.execMloop g dn k fa fb s
  | .mzero g k a => Sys2Proof.Machine.execMzero g k a s
  | .mread g k a b slot sp int clr pitch => Sys2Proof.Machine.execMread g k a b slot sp int clr pitch s
  | .mwrite g k a b slot sp int pitch => Sys2Proof.Machine.execMwrite g k a b slot sp int pitch s
  | .mstat g d k => Sys2Proof.Machine.execMstat g d k s
  | .mloopStep tile => Sys2Proof.Machine.execMloopStep tile s
  | .matrixCompletion tile => Sys2Proof.Machine.execMatrixCompletion tile s
  | .rld g la scope ord ty d a p => Sys2Proof.Machine.execRld g la scope ord ty d a p s
  | .rst g la scope ord ty a b p => Sys2Proof.Machine.execRst g la scope ord ty a b p s
  | .ratom g la scope ord op w d a b p => Sys2Proof.Machine.execRatom g la scope ord op w d a b p s
  | .tidewaitPeer g d a immp => Sys2Proof.Machine.execTidewaitPeer g d a immp s
  | .tidewaitTide g d => Sys2Proof.Machine.execTidewaitTide g d s
  | .vqstat g d a => Sys2Proof.Machine.execVqstat g d a s
  | .launch g d a k => Sys2Proof.Machine.execLaunch g d a k s
  | .haltg g a => Sys2Proof.Machine.execHaltg g a s
  | .resumeg g a => Sys2Proof.Machine.execResumeg g a s
  | .step g a => Sys2Proof.Machine.execStep g a s
  | .watch g sp kind n a len => Sys2Proof.Machine.execWatch g sp kind n a len s
  | .unwatch g n => Sys2Proof.Machine.execUnwatch g n s
  | .mboxw g n a => Sys2Proof.Machine.execMboxw g n a s
  | .keyopDestroy g d a k => Sys2Proof.Machine.execKeyopDestroy g d a k s
  | .keyopBzero g d a k key logpg => Sys2Proof.Machine.execKeyopBzero g d a k key logpg s
  | .keyopCompletion id => Sys2Proof.Machine.execKeyopCompletion id s
  | .launchFatal launch cause strand => Sys2Proof.Machine.execLaunchFatal launch cause strand s
  | .reportMergeExpiry tile launch cause => Sys2Proof.Machine.execReportMergeExpiry tile launch cause s
  | .pageWalk cluster asid va store => Sys2Proof.Machine.execPageWalk cluster asid va store s
  | .tlbiAsid asid => Sys2Proof.Machine.execTlbiAsid asid s
  | .tlbiVa asid va log2 => Sys2Proof.Machine.execTlbiVa asid va log2 s
  | .tlbiPa pa log2 => Sys2Proof.Machine.execTlbiPa pa log2 s
  | .fabricInvalidation peer asid va log2 => Sys2Proof.Machine.execFabricInvalidation peer asid va log2 s
  | .memoryRequest addr key src op => Sys2Proof.Machine.execMemoryRequest addr key src op s
  | .blockRead addr lay efmt pln pitch len key => Sys2Proof.Machine.execBlockRead addr lay efmt pln pitch len key s
  | .gatherPacket base width key entries => Sys2Proof.Machine.execGatherPacket base width key entries s
  | .scatterPacket base width key entries values => Sys2Proof.Machine.execScatterPacket base width key entries values s
  | .memorySideAtomic addr key op w steps => Sys2Proof.Machine.execMemorySideAtomic addr key op w steps s
  | .bankReserveRequest stack pc bank tile entry => Sys2Proof.Machine.execBankReserveRequest stack pc bank tile entry s
  | .streamRequest handle write row count key data => Sys2Proof.Machine.execStreamRequest handle write row count key data s
  | .foreignWindow handle => Sys2Proof.Machine.execForeignWindow handle s
  | .bankCloseRequest handle => Sys2Proof.Machine.execBankCloseRequest handle s
  | .bankIdleClose handle => Sys2Proof.Machine.execBankIdleClose handle s
  | .baseDieKeyDestroy die key => Sys2Proof.Machine.execBaseDieKeyDestroy die key s
  | .bulkZeroCommand base size key => Sys2Proof.Machine.execBulkZeroCommand base size key s
  | .migdataWrite value => Sys2Proof.Machine.execMigdataWrite value s
  | .remoteScratchpadAccess tile offset width data => Sys2Proof.Machine.execRemoteScratchpadAccess tile offset width data s
  | .bankStarvePromote tile bank requester => Sys2Proof.Machine.execBankStarvePromote tile bank requester s
  | .wcDrainTimeout tile => Sys2Proof.Machine.execWcDrainTimeout tile s
  | .itemAdmission tile => Sys2Proof.Machine.execItemAdmission tile s
  | .itemRetire item => Sys2Proof.Machine.execItemRetire item s
  | .priorityAging launch stage item => Sys2Proof.Machine.execPriorityAging launch stage item s
  | .launchEnd launch => Sys2Proof.Machine.execLaunchEnd launch s
  | .portEngineSend rail => Sys2Proof.Machine.execPortEngineSend rail s
  | .idleFlit rail f => Sys2Proof.Machine.execIdleFlit rail f s
  | .bulkHeaderFlit rail f => Sys2Proof.Machine.execBulkHeaderFlit rail f s
  | .bulkDataFlit rail f => Sys2Proof.Machine.execBulkDataFlit rail f s
  | .smallFlit rail f => Sys2Proof.Machine.execSmallFlit rail f s
  | .responseFlit rail f => Sys2Proof.Machine.execResponseFlit rail f s
  | .endToEndAck rail f => Sys2Proof.Machine.execEndToEndAck rail f s
  | .markerFlit rail f => Sys2Proof.Machine.execMarkerFlit rail f s
  | .controlFlit rail f => Sys2Proof.Machine.execControlFlit rail f s
  | .dseqGateRelease peer small => Sys2Proof.Machine.execDseqGateRelease peer small s
  | .translationRequest peer asid va kind => Sys2Proof.Machine.execTranslationRequest peer asid va kind s
  | .railRetrainDone rail up => Sys2Proof.Machine.execRailRetrainDone rail up s
  | .peerRemoved peer => Sys2Proof.Machine.execPeerRemoved peer s
  | .remoteTimeout id => Sys2Proof.Machine.execRemoteTimeout id s
  | .podJoin peer cap => Sys2Proof.Machine.execPodJoin peer cap s
  | .beaconSend tile => Sys2Proof.Machine.execBeaconSend tile s
  | .beaconReceive tile dir beacon early noCredit => Sys2Proof.Machine.execBeaconReceive tile dir beacon early noCredit s
  | .beaconMissed tile dir => Sys2Proof.Machine.execBeaconMissed tile dir s
  | .voteMessage judge about voter => Sys2Proof.Machine.execVoteMessage judge about voter s
  | .voteExpiry judge about voter => Sys2Proof.Machine.execVoteExpiry judge about voter s
  | .fenceMessage tile about => Sys2Proof.Machine.execFenceMessage tile about s
  | .grantMessage judge about voter => Sys2Proof.Machine.execGrantMessage judge about voter s
  | .selftestDone tile passed => Sys2Proof.Machine.execSelftestDone tile passed s
  | .meshResend packet => Sys2Proof.Machine.execMeshResend packet s
  | .tileStateWrite tile value => Sys2Proof.Machine.execTileStateWrite tile value s
  | .hostApertureAccess offset data len => Sys2Proof.Machine.execHostApertureAccess offset data len s
  | .powerOn goodSignature goodRollback goodImage => Sys2Proof.Machine.execPowerOn goodSignature goodRollback goodImage s
  | .wearThreshold unit => Sys2Proof.Machine.execWearThreshold unit s
  | .registerWrite reg half value => Sys2Proof.Machine.execRegisterWrite reg half value s
  | .softError place uncorrectable => Sys2Proof.Machine.execSoftError place uncorrectable s
  | .linkTraining width rate flit => Sys2Proof.Machine.execLinkTraining width rate flit s
  | .bootReady hbmTrained => Sys2Proof.Machine.execBootReady hbmTrained s
  | .clauseFetch => Sys2Proof.Machine.execClauseFetch s
  | .clauseWaitSatisfied => Sys2Proof.Machine.execClauseWaitSatisfied s
  | .impreciseDelivery => Sys2Proof.Machine.execImpreciseDelivery s
  | .preciseTrapEntry => Sys2Proof.Machine.execPreciseTrapEntry s
  | .tlbiAll => Sys2Proof.Machine.execTlbiAll s
  | .tlbiDone => Sys2Proof.Machine.execTlbiDone s
  | .launchSubmit => Sys2Proof.Machine.execLaunchSubmit s
  | .replaySubmit => Sys2Proof.Machine.execReplaySubmit s
  | .validatorDone => Sys2Proof.Machine.execValidatorDone s
  | .preempt => Sys2Proof.Machine.execPreempt s
  | .saveComplete => Sys2Proof.Machine.execSaveComplete s
  | .restore => Sys2Proof.Machine.execRestore s
  | .restoreFill => Sys2Proof.Machine.execRestoreFill s
  | .slotBoundary => Sys2Proof.Machine.execSlotBoundary s
  | .slotGuard => Sys2Proof.Machine.execSlotGuard s
  | .lockReacquired => Sys2Proof.Machine.execLockReacquired s
  | .podFormation => Sys2Proof.Machine.execPodFormation s
  | .hostLinkDown => Sys2Proof.Machine.execHostLinkDown s
  | .hostGoneCompletion => Sys2Proof.Machine.execHostGoneCompletion s
  | .hoststatGoneClear => Sys2Proof.Machine.execHoststatGoneClear s
  | .attestationRequest => Sys2Proof.Machine.execAttestationRequest s
  | .attestationDone => Sys2Proof.Machine.execAttestationDone s

end Sys2Proof.Machine
end

