-- ==== Sys2Proof/Machine/Turns.lean ====
section
/-! DEFINITION. Whose turn it is: which strand may issue, what its turn is, how the turn passes on (13_execution.md R383,
14_scheduling.md R402), and the placing of an instruction where the next step fetches it. -/

namespace Sys2Proof.Machine

/-- Whether a strand can have a turn: it has lanes that may issue, and no crew runs for it (R386). -/
def Strand.runnable (st : Strand) : Bool := !st.over && st.set != 0 && st.crew.isNone && !st.lost

/-- Whether a launch lets a strand of its own issue (R404): it is live, or it stops and the strand has not stopped yet, or
the strand works for a crew whose rounds end first. -/
def Launch.lets (la : Launch) (st : Strand) : Bool :=
  match la.state with
  | .live => true
  | .preempting => !st.stopped || (st.seat.isSome && !la.det)
  | .preempted | .restoring => false

/-- Whether a launch still loads its segments on a tile (R375). -/
def preloading (t : TileLaunch) : Bool := t.segs.any fun g => g.2.state == 1 && g.2.k.isNone

/-- Whether a strand's turn may be taken: it can have one, its launch lets it, its tile is one of the package, and no
preload of its launch is in progress there (R375, R404). -/
def Here.mayIssue (h : Here) : Bool :=
  h.st.runnable && h.la.lets h.st && h.it.tile < 768 && !preloading h.held

/-- The instruction at the place where the current set stands inside a clause. -/
def fetchAt (h : Here) : Except DecodeError Instr :=
  decode (codeWord h.held h.flow.pc) (codeWord h.held (h.flow.pc + 4))

/-- What a strand's turn is: a trap that waits for its entry, an imprecise delivery, a clause's fetch or wait, or the
instruction it stands at (R115, R120, R420, R421). Code that no longer decodes is fetched again. -/
def turnOf (h : Here) : Instr :=
  if h.st.trapping.isSome then .preciseTrapEntry
  else if mayDeliver h.st then .impreciseDelivery
  else
    match h.flow.ctx with
    | none => .clauseFetch
    | some x =>
      if !x.waited then .clauseWaitSatisfied
      else if x.resume || x.stop == h.flow.pc then .clauseFetch
      else
        match fetchAt h with
        | .ok i => i
        | .error _ => .clauseFetch

/-- The state that a turn runs in: a set whose code no longer decodes is to fetch its clause again. -/
def beforeTurn (h : Here) (s : State) : State :=
  match h.flow.ctx, fetchAt h with
  | some x, .error _ => if x.waited && x.stop != h.flow.pc then h.enter { x with resume := true } s else s
  | _, _ => s

/-! The order of issue (R402, R383, R294). -/

/-- The slice of a strand, numbered over the package: tile × 16 + slice. -/
def sliceOf (k : Nat) : Nat := k % 98304 / 8

/-- The age of a strand: its item's place in the order of admission, then strand-in-item; crews' frames by context. -/
def ageOf (s : State) (k : Nat) : List Nat :=
  match s.strand k with
  | some st => [st.item, st.inItem, k]
  | none => [k]

/-- The place of a strand of a deterministic launch in its slice's rotation, from 1 on: (stage, STRANDID.LOGICAL); none for
another strand. -/
def rotationPlace (s : State) (k : Nat) : Option Nat :=
  match ({ s with cur := k } : State).here with
  | some h => if h.la.det then some (((h.it.stage * 2 ^ 20 + logicalId h.la h.it h.st.inItem) * 2 ^ 20 + k) + 1) else none
  | none => none

/-- What competes for a slice: one strand, or the rotation of the strands of deterministic launches; with its strands in
order, its age, and the turns for which it has waited. -/
structure Contender where
  strands : List Nat
  age : List Nat
  idle : Nat
deriving DecidableEq, Repr, Inhabited

/-- The strands of a rotation in order, the one after the last that issued first. -/
def inRotation (last : Nat) (l : List (Nat × Nat)) : List Nat :=
  let l := l.sortedBy fun a b => a.2 ≤ b.2
  ((l.filter fun x => last < x.2) ++ l.filter fun x => x.2 ≤ last).map (·.1)

/-- The contenders for a slice among its ready strands. -/
def contenders (s : State) (slice : Nat) (ready : List Nat) : List Contender :=
  let det := ready.filterMap fun k => (rotationPlace s k).map fun p => (k, p)
  let idle (k : Nat) : Nat := Table.get 0 k s.idle
  let oldest (l : List (List Nat)) : List Nat := l.foldl (fun m a => if lexLe a m then a else m) (l.headD [])
  (if det == [] then []
    else [⟨inRotation (Table.get 0 slice s.rotor) det, oldest (det.map fun x => ageOf s x.1), (det.map fun x => idle x.1).foldl max 0⟩])
    ++ (ready.filter fun k => (rotationPlace s k).isNone).map fun k => ⟨[k], ageOf s k, idle k⟩

/-- Whether one contender goes before another: one that has waited for 64 turns, the longest first; else the older. -/
def Contender.before (a b : Contender) : Bool :=
  if 64 ≤ a.idle then b.idle < a.idle || (b.idle == a.idle && lexLe a.age b.age)
  else b.idle < 64 && lexLe a.age b.age

/-- Whether a strand that yielded still lets another ready strand go first (R294). -/
def heldByYield (s : State) (ready : List Nat) (k : Nat) : Bool := ((Map.find k s.yields).getD []).any ready.contains

/-- The ready strands of a slice in the order in which they may take its turn. (log 2 DESIGN CHOICE) -/
def turnOrder (s : State) (slice : Nat) (ready : List Nat) : List Nat :=
  (((contenders s slice (ready.filter fun k => sliceOf k == slice)).sortedBy fun a b => a.before b).flatMap (·.strands)).filter
    fun k => !heldByYield s ready k

/-- The strands that can have a turn (R383). -/
def readyStrands (s : State) : List Nat :=
  (s.strands.filter fun x =>
    match ({ s with cur := x.1 } : State).here with
    | some h => h.mayIssue
    | none => false).map (·.1)

/-- Whether a strand's turn has left it waiting: it did not issue. -/
def leftWaiting (s : State) (k : Nat) : Bool :=
  match s.strand k with
  | some st => st.wait != .none
  | none => false

/-- Whether the turn of the strand that `cur` names is a YIELD of a launch that is not deterministic. -/
def yieldsTurn (s : State) : Bool :=
  match s.here with
  | some h => !h.la.det && (match turnOf h with
    | .yield _ => true
    | _ => false)
  | none => false

/-- The strands that others let go first after a strand's turn: that strand no longer, and after its own YIELD every
other ready strand of its slice. -/
def yieldsAfter (before s : State) (ready : List Nat) : Map (List Nat) :=
  let k := before.cur
  let rest := (s.yields.map fun x => (x.1, x.2.filter (· != k))).filter fun x => x.1 != k && x.2 != []
  if !yieldsTurn before || leftWaiting s k then rest
  else match ready.filter fun j => sliceOf j == sliceOf k && j != k with
    | [] => rest
    | js => Map.insert k js rest

/-- The turns that ready strands have waited for, after a turn of a slice that one strand took. -/
def idleAfter (s : State) (slice k : Nat) (ready : List Nat) : Table Nat :=
  (ready.filter fun j => sliceOf j == slice).foldl
    (fun t j => Table.put 0 j (if j == k then 0 else Table.get 0 j s.idle + 1) t) (s.idle.filter fun x => sliceOf x.1 != slice)

/-- The next slice with a ready strand, in ascending order and round again. -/
def nextSlice (slice : Nat) (ready : List Nat) : Option Nat :=
  let ls := (ready.map sliceOf).sortedBy (· ≤ ·)
  (ls.find? (slice < ·)).or ls.head?

/-- The turn passes (R383, R402): where the strand waits, to the next of its slice that may take its place; else to the
first of the next slice. (log 2 DESIGN CHOICE) -/
def passTurn (before s : State) : State :=
  let k := before.cur
  let slice := sliceOf k
  let ready := readyStrands s
  let s := { s with yields := yieldsAfter before s ready }
  let rest := ((turnOrder s slice ready).dropWhile (· != k)).drop 1
  if leftWaiting s k && rest != [] then { s with cur := rest.headD k, idle := Table.put 0 k 0 s.idle }
  else
    let s := { s with
      idle := idleAfter s slice k ready
      rotor := match rotationPlace s k with
        | some p => if leftWaiting s k then s.rotor else Table.put 0 slice p s.rotor
        | none => s.rotor }
    match nextSlice slice ready with
    | some next => { s with cur := (turnOrder s next ready).headD s.cur }
    | none => s

/-- Whether a QPUSH on a queue would append its record now (R241, R411). -/
def Here.pushes (h : Here) (q : BitVec 4) : Bool :=
  (match h.la.queues[q.toNat]? with
    | some x => x.live.length < x.depth
    | none => false) && (!h.la.det || holdsToken h.la h.it h.st.item)

/-- The strands of an item that stand at one QPUSH and can issue it, in ascending strand-in-item order: a gang, which
appends its strands' records consecutively (R241, R285). No other instruction shows a gang's order. -/
def gangOf (h : Here) (s : State) : List Nat :=
  match turnOf h with
  | .qpush g la sc o nb b ps q =>
    let i : Instr := .qpush g la sc o nb b ps q
    let joins (k : Nat) : Bool :=
      match ({ s with cur := k } : State).here with
      | some g => g.mayIssue && turnOf g == i && g.flow.same h.flow && g.st.handler.isSome == h.st.handler.isSome
          && (ready i { s with cur := k }).isSome
      | none => false
    let place (k : Nat) : Nat := match s.strand k with
      | some st => st.inItem
      | none => 0
    if h.pushes q then (h.it.strands.filter joins).sortedBy fun a b => place a ≤ place b else []
  | _ => []

/-- The state in which the strand that the rotation names takes its turn: the first strand of its gang, the turns of the
others planned after it (R241). -/
def gangTurn (s : State) : State :=
  match s.here with
  | none => s
  | some h =>
    match gangOf h s with
    | k :: j :: ks => { s with cur := k, plan := (j :: ks).map .issue }
    | _ => s

/-- Time passes: one step is counted, the clock advances by the clocks it takes (R237), and the package's power is measured
(R470). (log 7 DESIGN CHOICE) -/
def tickOver (before s : State) : State :=
  { s with
    tick := before.tick + 1, clock := before.clock + BitVec.ofNat 64 (Config.stepClocks before.tick)
    host := { s.host with pwrsum := (Config.power before.tick).setWidth 64 } }

/-- A launch for a placed instruction: privileged, with every counter, barrier and guard slot, and two code segments. -/
def placedLaunch : Launch :=
  { det := false, red := false, strict := false, capture := false, prio := 0, asid := 1, priv := true, seed := 0, lkey := 0
    nseg := 2, kcnt := 64, bcnt := 96, gcnt := 16, scrtile := 3072, cshare := 1024, clbase := 0, clcount := 1, diemask := 1
    pkgmask := 0, cpladdr := 0, slots := [0, 0, 0, 0, 0, 0, 0, 0]
    stages := [{ eseg := 1, eoff := 0, width := 1, vregs := 256, inq := false, qin := 0, pldies := 0, lpriv := 64
                 spill := 16, scritem := 0, accrows := 8, nbar := 1, crewres := 0, gatek := 0, gateen := false, rbase := 0
                 count := 1 }]
    queues := [], segtab := [1, 1], groups := [], image := none, state := .live, retired := 0, detbreak := false
    lostrem := false, loststr := false, cursors := [(0, 1)], parked := [], ages := [], halts := []
    token := Token.empty, home := none, shape := [], tags := [], sheet := 0, sheetLen := 0
    sheetAt := 0, trunc := false, log := [], ranges := [], replay := none, lostOn := [], vectors := [] }

/-- The one item of a placed launch. -/
def placedItem : Item :=
  { launch := 1, stage := 0, num := 0, tile := 0, strands := [0], convoy := 1, scrBase := 0, accBase := 0, bars := []
    poison := 0, deadMask := 0, engdetail := 0, cancel := false, cpstat := 0, mstat := 0, record := none, popped := []
    progs := [], deferred := [], passes := 0, reserved := [], lost := false }

/-- A lane that stands at an instruction inside a clause. -/
def placedLane (x : Clause) : Lane :=
  { v := [], p := 0, flow := { pc := 0x1004, ctx := some x, stack := [] }, exited := false, dead := false, draw := 0, lp := []
    bad := [], badV := [], iter := 0, drawn := 0, atOp := none }

/-- The one strand of a placed launch. -/
def placedStrand (x : Clause) : Strand :=
  let l := placedLane x
  { item := 1, inItem := 0, context := 0, lpBase := 0, lanes := ⟨l, l, l, l⟩, cur := 15, s := [], d := [], xi := 0, badS := [], fstat := 0, retcnt := 0
    pend := [], handler := none, trapping := none, fault := FaultRec.none, trdetail := 0, oplog := [], drop := 0, queue := []
    ovf := false, wait := .none, stepArm := false, stepHeld := none, crewWord := 0, crew := none, seat := none
    lost := false }

/-- The segment slots and instruction memory of a placed instruction: segments 0 and 1 LANDED, the header at 0x1000 and
the instruction after it. -/
def placedHeld (hdr w1 w2 : Word) : TileLaunch :=
  let seg : Seg := ⟨2, 1, 0, [], 0, none, 0⟩
  { TileLaunch.empty with
    code := Table.put 0 0x400 hdr (Table.put 0 0x401 w1 (Table.put 0 0x402 w2 []))
    segs := [(0, seg), (1, seg)] }

end Sys2Proof.Machine
end

