-- ==== Sys2Proof/Machine/Step.lean ====
section
/-! DEFINITION. One step of the machine: the turn that is planned first, else the turn of the strand that the rotation
names, and the placing of an instruction for the next step. -/

namespace Sys2Proof.Machine

/-- The next state of a turn: the tokens of deterministic launches move on where they may (R411), handlers without lanes end
(R429), a launch that is being
pre-empted goes on where it has stopped (R404), time has passed and, after a strand's turn, so has the rotation. -/
def settleTurn (rotate : Bool) (before : State) : Host.Outcome State Fault Refusal → Host.Outcome State Fault Refusal
  | .next s =>
    let s := tickOver before (preemptTurn (handlerTurns (if rotate then tokenTurns s else s)))
    .next (if rotate then passTurn before s else s)
  | .fault f => .fault f
  | .refused r => .refused r

/-- The turn of the strand that `cur` names; where there is none that can issue, only time passes. (log 3 DESIGN CHOICE) -/
def strandTurn (s : State) : Host.Outcome State Fault Refusal :=
  match s.here with
  | none => settleTurn true s (.next s)
  | some h =>
    if h.mayIssue then settleTurn true s (exec (turnOf h) (beforeTurn h s))
    else settleTurn true s (.next s)

/-- One step. (log 1 DESIGN CHOICE) -/
def step (s : State) : Host.Outcome State Fault Refusal :=
  match s.plan with
  | .event i :: rest => settleTurn false s (exec i { s with plan := rest })
  | .issue k :: rest => strandTurn { s with plan := rest, cur := k }
  | [] => strandTurn (gangTurn s)

/-- A machine whose next step fetches and runs the instruction with these bits: a launch with one item of one strand on
tile 0 stands inside a clause of one instruction, of the instruction's own class. (log 4 DESIGN CHOICE) -/
def State.withFetchWord (s : State) (nbits w : Nat) : State :=
  let v := w % 2 ^ nbits
  let w1 : Word := BitVec.ofNat 32 v
  let w2 : Word := BitVec.ofNat 32 (v / 2 ^ 32)
  let hdr : Word := BitVec.ofNat 32 (2 ^ 28 + classOf (majorOf w1).toNat * 2 ^ 25)
  let x : Clause :=
    { hdr := 0x1000, gen := 1, word := hdr, stop := 0x1004 + wordBytes w1, waited := true, fail := none, resume := false }
  { s with
    plan := [], cur := 0
    launches := Map.insert 1 placedLaunch s.launches
    items := Map.insert 1 placedItem s.items
    convoys := Map.insert 1 ⟨1, 0, 0, [1], 0, [], [], []⟩ s.convoys
    strands := Map.insert 0 (placedStrand x) s.strands
    held := Map.insert (heldKey 0 1) (placedHeld hdr w1 w2) s.held }

end Sys2Proof.Machine
end

