-- ==== Sys2Proof/Safety.lean ====
section
/-! DEFINITION. What a safe run is, and the terms that statements use: when an instruction issues with nothing in its
way, what it changes in its strand and what it leaves alone, and the results of the compute majors in the arithmetic of
the specification's tables. -/

namespace Sys2Proof.Machine

/-- A machine that goes on: its next step is a next state. -/
def goesOn (s : State) : Prop := ∃ t, step s = .next t

/-- The memories of the machine are in their canonical form: rising addresses, no byte listed at its default. -/
def memoriesOk (s : State) : Prop :=
  Memory.wf s.mem.dram = true ∧ Memory.wf s.hostMem = true ∧ Memory.wf s.dieScr = true

/-! An instruction with nothing in its way. -/

/-- The instruction as its strand issues it, where it neither waits, nor is passed over, nor traps, nor reads what cannot
be read (`ready`), and nothing else happens beside it: no disagreement of a redundant launch, no answer of an earlier
load that has come, no single step armed. -/
def clear (i : Instr) (s : State) : Option Issue :=
  match ready i s with
  | none => none
  | some c =>
    if !(s.upsets.any fun u => u.strand == s.cur) && !(c.st.pend.any (·.ready)) && !c.st.stepArm then some c else none

/-- What an instruction writes in its strand: v registers and predicates by lane, s registers, flags, draws taken. -/
structure Change where
  v : Nat → Nat → Option Word := fun _ _ => none
  p : Nat → Nat → Option Bool := fun _ _ => none
  s : Nat → Option Word := fun _ => none
  flags : Flags := 0
  draws : Nat → Bool := fun _ => false

/-- A strand after an instruction that goes on past itself: the written registers hold the values written, the lanes of
the executing set stand behind the instruction, and everything else is as it was. -/
structure Moved (c : Issue) (ch : Change) (a b : Strand) : Prop where
  v : ∀ l < 4, ∀ n, Table.get 0 n (b.lanes.get l).v = (ch.v l n).getD (Table.get 0 n (a.lanes.get l).v)
  p : ∀ l < 4, ∀ n, (b.lanes.get l).p.getLsbD n = (ch.p l n).getD ((a.lanes.get l).p.getLsbD n)
  s : ∀ n, Table.get 0 n b.s = (ch.s n).getD (Table.get 0 n a.s)
  bad : ∀ l < 4, ∀ n, n ∈ (b.lanes.get l).badV ↔
    n ∈ (a.lanes.get l).badV ∧ ch.v l n = none ∧ (256 ≤ n → ch.p l (n - 256) = none)
  badS : ∀ n, n ∈ b.badS ↔ n ∈ a.badS ∧ ch.s n = none
  flow : ∀ l < 4, b.flow l = if c.set.getLsbD l then { a.flow l with pc := (a.flow l).pc + c.size } else a.flow l
  draw : ∀ l < 4, (b.lanes.get l).draw = (a.lanes.get l).draw + (if ch.draws l && c.crew.isNone then 1 else 0)
  drawn : ∀ l < 4, (b.lanes.get l).drawn = (a.lanes.get l).drawn + (if ch.draws l && c.crew.isSome then 1 else 0)
  fstat : b.fstat = a.fstat ||| ch.flags
  retcnt : b.retcnt = if a.handler.isSome || a.seat.isSome then a.retcnt else a.retcnt + 1
  lanes : ∀ l < 4, b.lanes.get l =
    { a.lanes.get l with
      v := (b.lanes.get l).v, p := (b.lanes.get l).p, badV := (b.lanes.get l).badV, flow := (b.lanes.get l).flow
      draw := (b.lanes.get l).draw, drawn := (b.lanes.get l).drawn }
  rest : b =
    { a with
      lanes := b.lanes, s := b.s, badS := b.badS, fstat := b.fstat, retcnt := b.retcnt, wait := .none
      pend := a.pend.map fun p => { p with left := p.left - 1 } }

/-- A machine after an instruction that changes its own strand alone. -/
structure Retired (c : Issue) (ch : Change) (s t : State) : Prop where
  own : ∃ b, t.strand c.key = some b ∧ Moved c ch c.st b
  others : ∀ k, k ≠ c.key → t.strand k = s.strand k
  rest : t = { s with strands := t.strands }

/-- The instruction completes, and changes what `ch` says and nothing else. -/
def Retires (i : Instr) (c : Issue) (ch : Change) (s : State) : Prop := ∃ t, exec i s = .next t ∧ Retired c ch s t

/-- A lane executes the instruction and its guard holds there. -/
def Issue.acts (c : Issue) (l : Nat) : Bool := decide (l < 4) && c.active.getLsbD l

/-- Registers written by every active lane, or once for the strand in a uniform clause (R121). -/
def Issue.writes (c : Issue) (w : Nat → List (Nat × Word)) : Change :=
  if c.uniform then { s := fun n => if c.active = 0 then none else Map.find n (w c.lead) }
  else { v := fun l n => if c.acts l then Map.find n (w l) else none }

/-- A predicate written by every active lane; in a uniform clause by every live lane, as the strand computes it (R121).
Writes to p7 are discarded (R131). -/
def Issue.writesPred (c : Issue) (q : BitVec 3) (b : Nat → Bool) : Change :=
  { p := fun l n =>
      if n ≠ q.toNat ∨ n = 7 then none
      else if c.uniform then (if c.active ≠ 0 ∧ c.st.live.getLsbD l then some (b c.lead) else none)
      else if c.acts l then some (b l) else none }

/-- The flags that the computing lanes raise, together (R41). -/
def Issue.raised (c : Issue) (f : Nat → Flags) : Flags :=
  if c.uniform then (if c.active = 0 then 0 else f c.lead)
  else (if c.acts 0 then f 0 else 0) ||| (if c.acts 1 then f 1 else 0) ||| (if c.acts 2 then f 2 else 0)
    ||| (if c.acts 3 then f 3 else 0)

/-- The lanes that take a draw. -/
def Issue.drawing (c : Issue) (l : Nat) : Bool := if c.uniform then c.active != 0 && l == c.lead else c.acts l

/-! The integer majors, in the arithmetic of R259 to R264. -/

/-- The word whose bits a test gives. -/
def ofBits (f : Nat → Bool) : Word := BitVec.ofNat 32 (((upTo 32).map fun i => if f i then 2 ^ i else 0).sum)

/-- The destination register of an integer major that writes one register. -/
def intDest : Instr → Option Opnd
  | .mov _ d _ | .movi _ d _ | .movw _ d _ | .add _ d _ _ | .addi _ d _ _ | .sub _ d _ _ | .mul _ d _ _
  | .mulhiS _ d _ _ | .mulhiN _ d _ _ | .mad _ d _ _ | .minS _ d _ _ | .minN _ d _ _ | .maxS _ d _ _ | .maxN _ d _ _
  | .abs _ d _ | .and _ d _ _ | .or _ d _ _ | .xor _ d _ _ | .andn _ d _ _ | .clz _ d _ | .popc _ d _ | .brev _ d _ => some d
  | _ => none

/-- What an integer major writes, of the registers that its lane reads (R259, R233). -/
def intValue (r : Opnd → Word) : Instr → Word
  | .mov _ _ a => r a
  | .movi _ _ imm => BitVec.ofInt 32 imm.toInt
  | .movw _ _ imm => imm
  | .add _ _ a b => BitVec.ofNat 32 ((r a).toNat + (r b).toNat)
  | .addi _ _ a imm => BitVec.ofInt 32 ((r a).toInt + imm.toInt)
  | .sub _ _ a b => BitVec.ofInt 32 ((r a).toInt - (r b).toInt)
  | .mul _ _ a b => BitVec.ofNat 32 ((r a).toNat * (r b).toNat)
  | .mulhiS _ _ a b => BitVec.ofInt 32 ((r a).toInt * (r b).toInt / 2 ^ 32)
  | .mulhiN _ _ a b => BitVec.ofNat 32 ((r a).toNat * (r b).toNat / 2 ^ 32)
  | .mad _ d a b => BitVec.ofNat 32 ((r a).toNat * (r b).toNat + (r d).toNat)
  | .minS _ _ a b => if (r a).toInt ≤ (r b).toInt then r a else r b
  | .minN _ _ a b => if (r a).toNat ≤ (r b).toNat then r a else r b
  | .maxS _ _ a b => if (r b).toInt ≤ (r a).toInt then r a else r b
  | .maxN _ _ a b => if (r b).toNat ≤ (r a).toNat then r a else r b
  | .abs _ _ a => BitVec.ofNat 32 (r a).toInt.natAbs
  | .and _ _ a b => ofBits fun i => (r a).getLsbD i && (r b).getLsbD i
  | .or _ _ a b => ofBits fun i => (r a).getLsbD i || (r b).getLsbD i
  | .xor _ _ a b => ofBits fun i => (r a).getLsbD i != (r b).getLsbD i
  | .andn _ _ a b => ofBits fun i => (r a).getLsbD i && !(r b).getLsbD i
  | .clz _ _ a => BitVec.ofNat 32 ((upTo 32).findIdx fun i => (r a).getLsbD (31 - i))
  | .popc _ _ a => BitVec.ofNat 32 ((upTo 32).countP fun i => (r a).getLsbD i)
  | .brev _ _ a => ofBits fun i => (r a).getLsbD (31 - i)
  | _ => 0

/-- The destination register of a shift, a bit-field major or SEL. -/
def shiftDest : Instr → Option Opnd
  | .shl _ d _ _ | .shr _ d _ _ | .sar _ d _ _ | .shli _ d _ _ | .shri _ d _ _ | .sari _ d _ _ | .roli _ d _ _
  | .rol _ d _ _ | .bfe _ d _ _ | .bfi _ d _ _ | .sel _ d _ _ => some d
  | _ => none

/-- A word rotated left by fewer places than it has bits. -/
def rotated (a : Word) (n : Nat) : Word := BitVec.ofNat 32 (a.toNat * 2 ^ n + a.toNat / 2 ^ (32 - n))

/-- What a shift, a bit-field major or SEL writes, of the registers that its lane reads and the guard read as SEL's
selector (R260 to R262). -/
def shiftValue (r : Opnd → Word) (holds : Guard → Bool) : Instr → Word
  | .shl _ _ a b => BitVec.ofNat 32 ((r a).toNat * 2 ^ ((r b).toNat % 256))
  | .shr _ _ a b => BitVec.ofNat 32 ((r a).toNat / 2 ^ ((r b).toNat % 256))
  | .sar _ _ a b => BitVec.ofInt 32 ((r a).toInt / 2 ^ ((r b).toNat % 256))
  | .shli _ _ a n => BitVec.ofNat 32 ((r a).toNat * 2 ^ n.toNat)
  | .shri _ _ a n => BitVec.ofNat 32 ((r a).toNat / 2 ^ n.toNat)
  | .sari _ _ a n => BitVec.ofInt 32 ((r a).toInt / 2 ^ n.toNat)
  | .roli _ _ a n => rotated (r a) n.toNat
  | .rol _ _ a b => rotated (r a) ((r b).toNat % 32)
  | .bfe _ _ a b =>
    let pos := bitsOf (r b).toNat 4 0
    let len := min (bitsOf (r b).toNat 13 8) 32
    let f := (r a).toNat / 2 ^ pos % 2 ^ len
    if bitOf (r b).toNat 16 ∧ len ≠ 0 ∧ 2 ^ (len - 1) ≤ f then BitVec.ofInt 32 ((f : Int) - 2 ^ len) else BitVec.ofNat 32 f
  | .bfi _ d a b =>
    let pos := bitsOf (r b).toNat 4 0
    let len := min (bitsOf (r b).toNat 13 8) 32
    ofBits fun i => if pos ≤ i ∧ i < pos + len then (r a).getLsbD (i - pos) else (r d).getLsbD i
  | .sel g _ a b => if holds g then r a else r b
  | _ => 0

/-- The tests of ISETP (R263). -/
def intTest (k : ICmp) (a b : Word) : Prop :=
  match k with
  | .eq => a = b
  | .ne => a ≠ b
  | .lts => a.toInt < b.toInt
  | .les => a.toInt ≤ b.toInt
  | .gts => a.toInt > b.toInt
  | .ges => a.toInt ≥ b.toInt
  | .ltn => a.toNat < b.toNat
  | .len => a.toNat ≤ b.toNat
  | .gtn => a.toNat > b.toNat
  | .gen => a.toNat ≥ b.toNat

/-! The FP32 majors (R265 to R271, R276). -/

/-- The destination register of a floating major that takes no draw. -/
def floatDest : Instr → Option Opnd
  | .fadd _ d _ _ | .fsub _ d _ _ | .fmul _ d _ _ | .ffma _ d _ _ | .fmin _ d _ _ | .fmax _ d _ _ | .fabs _ d _
  | .fneg _ d _ | .frcp _ d _ | .frsq _ d _ | .fexp2 _ d _ | .flog2 _ d _ | .ftanh _ d _ | .fscale _ d _ _
  | .frnd _ _ d _ | .hadd2 _ d _ _ | .hmul2 _ d _ _ | .hfma2 _ d _ _ | .fclass _ d _ | .pack2 _ d _ _ => some d
  | _ => none

/-- The two BF16 elements of a word. -/
def elem (i : Nat) (w : Word) : Fp := FKind.bf16.read (w.toNat / 2 ^ (16 * i) % 2 ^ 16)

/-- Two BF16 results, each rounded once to nearest, in one word, with their flags (R271). -/
def bothHalves (f : Nat → Fp × Flags) : Word × Flags :=
  let x (i : Nat) := FKind.bf16.round .rne 0 false false (f i).1
  (BitVec.ofNat 32 ((x 0).1 + 65536 * (x 1).1), (f 0).2 ||| (x 0).2 ||| (f 1).2 ||| (x 1).2)

/-- What a floating major writes and the flags it raises, of the registers that its lane reads. -/
def floatValue (r : Opnd → Word) : Instr → Word × Flags
  | .fadd _ _ a b => round32 (Fp.add (read32 (r a)) (read32 (r b)))
  | .fsub _ _ a b => round32 (Fp.add (read32 (r a)) (read32 (r b)).neg)
  | .fmul _ _ a b => round32 (Fp.mul (read32 (r a)) (read32 (r b)))
  | .ffma _ d a b => round32 (Fp.fma (read32 (r a)) (read32 (r b)) (read32 (r d)))
  | .fmin _ _ a b => fpPick false (r a) (r b)
  | .fmax _ _ a b => fpPick true (r a) (r b)
  | .fabs _ _ a => (if (read32 (r a)).isNan then nan32 else ofBits fun i => i != 31 && (r a).getLsbD i, 0)
  | .fneg _ _ a => (if (read32 (r a)).isNan then nan32 else ofBits fun i => (i == 31) != (r a).getLsbD i, 0)
  | .frcp _ _ a => round32 (fpRcp (read32 (r a)))
  | .frsq _ _ a => round32 (fpRsq (read32 (r a)))
  | .fexp2 _ _ a => round32 (fpExp2 (read32 (r a)))
  | .flog2 _ _ a => round32 (fpLog2 (read32 (r a)))
  | .ftanh _ _ a => round32 (fpTanh (read32 (r a)))
  | .fscale _ _ a b => round32 ((read32 (r a)).scale (r b).toInt, 0)
  | .frnd _ m _ a => (frndWord m (r a), 0)
  | .hadd2 _ _ a b => bothHalves fun i => Fp.add (elem i (r a)) (elem i (r b))
  | .hmul2 _ _ a b => bothHalves fun i => Fp.mul (elem i (r a)) (elem i (r b))
  | .hfma2 _ d a b => bothHalves fun i => Fp.fma (elem i (r a)) (elem i (r b)) (elem i (r d))
  | .fclass _ _ a => (fclassWord (r a), 0)
  | .pack2 _ _ a b => bothHalves fun i => (read32 (r (if i = 0 then a else b)), 0)
  | _ => (0, 0)

/-- The number that a finite value is. -/
def Fp.number : Fp → Rat
  | .fin n m e => (if n then -1 else 1) * (m : Rat) * (2 : Rat) ^ e
  | .nan | .inf _ => 0

/-- Whether FSETP's test holds of two values, by the order of the numbers (R268): −0 equals +0, the infinities lie
outside, and a NaN satisfies .NE and .NAN alone. -/
def floatTest (k : FCmp) (x y : Fp) : Prop :=
  let lt (a b : Fp) : Prop :=
    match a, b with
    | .fin _ _ _, .fin _ _ _ => a.number < b.number
    | .inf n, .inf m => n = true ∧ m = false
    | .inf n, .fin _ _ _ => n = true
    | .fin _ _ _, .inf m => m = false
    | _, _ => False
  let un : Prop := x = .nan ∨ y = .nan
  match k with
  | .eq => ¬un ∧ ¬lt x y ∧ ¬lt y x
  | .ne => un ∨ lt x y ∨ lt y x
  | .lt => lt x y
  | .le => ¬un ∧ ¬lt y x
  | .gt => lt y x
  | .ge => ¬un ∧ ¬lt x y
  | .num => ¬un
  | .nan => un

/-! Time. -/

/-- The sum of the clocks of all steps so far, which CLOCK shows (R237). -/
def clockSum : Nat → Nat
  | 0 => 0
  | n + 1 => clockSum n + Config.stepClocks n

/-! Waiting. -/

/-- The strand waits: nothing changes but what it waits for. -/
def WaitsAt (i : Instr) (c : Issue) (w : Wait) (s : State) : Prop :=
  exec i s = .next (s.adjStrand c.key fun st => { st with wait := w })

/-! Lane operations (R277 to R282). -/

/-- Every lane that takes part in the strand's lane operations stands in the executing set and has not arrived at one, and
no other strand has a lane that does: those of the item have exited, or the strand is in a handler or in crew code. -/
def Gathered (c : Issue) (s : State) : Prop :=
  c.uniform = false ∧ c.frames = false ∧ c.set ≠ 0 ∧ c.st.cur = c.st.pool
  ∧ (∀ l < 4, c.set.getLsbD l → ((c.st.flow l).pc = c.pc ∧ (c.st.lanes.get l).atOp = none
      ∧ ∀ m < 4, c.set.getLsbD m → (c.st.flow l).depth = (c.st.flow m).depth))
  ∧ (c.st.handler.isSome ∨ c.st.seat.isSome ∨ (c.key ∈ c.it.strands
      ∧ ∀ k ∈ c.it.strands, k ≠ c.key → ∀ x, s.strand k = some x → x.over = true))

/-- The number j of a lane of the executing strand (R277, R238): its item lane, in crew code its place in the helper's
strand, and 0 for the recruiter alone. -/
def Issue.number (c : Issue) (l : Nat) : Nat :=
  match c.crew with
  | some seat => if seat.first = 0 then 0 else l
  | none => c.st.inItem * 4 + l

/-- W, the number of lanes (R280): of the item, of a helper's strand, or the recruiter alone. -/
def Issue.laneCount (c : Issue) : Nat :=
  match c.crew with
  | some seat => if seat.first = 0 then 1 else 4
  | none => 4 * (stageOf c.la c.it).width

/-- vA of lane j: 0 where it is dead or has exited (R280). -/
def Issue.laneValue (c : Issue) (a : Opnd) (j : Nat) : Word :=
  match (lanesIn c.set).find? fun l => c.number l == j with
  | some l => c.reg l a
  | none => 0

/-- What a SHFL form whose source is lane `src` writes in lane l (R280): outside 0 to W − 1 the lane's own vA. -/
def Issue.shuffled (c : Issue) (a : Opnd) (src : Int) (l : Nat) : Word :=
  c.laneValue a (if src < 0 ∨ src ≥ c.laneCount then c.number l else src.toNat)

/-- What XCHG writes in lane l (R281): with m = 2^s it swaps, within a pair of lanes, bit i + m of the lower one with bit i
of the upper one for every i that has bit s clear. -/
def Issue.exchanged (c : Issue) (a : Opnd) (s l : Nat) : Word :=
  let j := c.number l
  let m := 2 ^ s
  let own := c.laneValue a j
  let p := c.laneValue a (j ^^^ m)
  if 5 ≤ s ∨ j ^^^ m ≥ c.laneCount then own
  else ofBits fun b =>
    if j.testBit s then (if b.testBit s then own.getLsbD b else p.getLsbD (b + m))
    else if b.testBit s then p.getLsbD (b - m) else own.getLsbD b

/-- The register operations among the lane operations. -/
def laneOperation : Instr → Bool
  | .ballot _ _ _ _ | .vote _ _ _ _ _ | .shflIdx _ _ _ _ | .shflXor _ _ _ _ | .shflUp _ _ _ _ | .shflDn _ _ _ _
  | .xchg _ _ _ _ | .redux _ _ _ _ => true
  | _ => false


/-! Effects beside the strand's own. -/

/-- The instruction completes: its strand changes as `ch` says, and the rest of the machine is as `u` has it. -/
def Does (i : Instr) (c : Issue) (ch : Change) (s u : State) : Prop := ∃ t, exec i s = .next t ∧ Retired c ch u t

/-- Nothing differs but what memory accesses and translations write: memory, caches, translations, sequentially
consistent stamps, and the host's count of dropped writes. The queues and accumulators of the tiles are as they were. -/
structure Touched (s u : State) : Prop where
  rest : u = { s with mem := u.mem, l2 := u.l2, l2units := u.l2units, host := u.host, hostMem := u.hostMem
                      tiles := u.tiles, clusters := u.clusters, dieScr := u.dieScr, dieScrBad := u.dieScrBad }
  tiles : ∀ n, u.tile n = { s.tile n with
    l1 := (u.tile n).l1, wc := (u.tile n).wc, refreshed := (u.tile n).refreshed, lclock := (u.tile n).lclock
    scUnits := (u.tile n).scUnits }

/-- The same without a stamp. -/
structure MemoryAlone (s u : State) : Prop where
  touched : Touched s u
  units : u.l2units = s.l2units
  clocks : ∀ n, (u.tile n).lclock = (s.tile n).lclock ∧ (u.tile n).scUnits = (s.tile n).scUnits

/-- A strand whose long-latency instruction has issued: its lanes stand behind it, it is counted, and `ps` is in flight
behind what was. Lane-private windows apart, nothing else has changed. -/
structure Issued (c : Issue) (ps : List Pending) (b : Strand) : Prop where
  flow : ∀ l < 4, b.flow l = if c.set.getLsbD l then { c.st.flow l with pc := (c.st.flow l).pc + c.size } else c.st.flow l
  lanes : ∀ l < 4, b.lanes.get l =
    { c.st.lanes.get l with flow := b.flow l, lp := (b.lanes.get l).lp, bad := (b.lanes.get l).bad }
  rest : b = { c.st with
    lanes := b.lanes, wait := .none
    retcnt := if c.st.handler.isSome || c.st.seat.isSome then c.st.retcnt else c.st.retcnt + 1
    pend := (c.st.pend.map fun p => { p with left := p.left - 1 }) ++ ps }

/-- What an instruction in flight owes: `ws` into registers that stay locked till then, and no cause, mark or death. -/
structure Owes (c : Issue) (kind : PendKind) (ws : List RegWrite) (p : Pending) : Prop where
  kind : p.kind = kind
  from' : p.pc = c.pc ∧ p.w1 = c.w1 ∧ p.w2 = c.w2
  left : p.left = lookahead c.i
  writes : p.writes = ws
  locks : ∀ x ∈ ws, (x.lane, x.reg) ∈ p.locks
  clean : p.poisoned = 0 ∧ p.killed = 0 ∧ p.causes = [] ∧ p.ready = false ∧ p.logged = false

/-- The instruction completes its issue and is in flight with `p`; its response comes, and the rest of the machine is as
`u` has it. The number of `p` is new. -/
def Sends (i : Instr) (c : Issue) (p : Pending) (s u : State) : Prop :=
  ∃ t b, exec i s = .next t ∧ t.strand c.key = some b ∧ Issued c [p] b
    ∧ (∀ l < 4, (b.lanes.get l).lp = (c.st.lanes.get l).lp ∧ (b.lanes.get l).bad = (c.st.lanes.get l).bad)
    ∧ (∀ k, k ≠ c.key → t.strand k = u.strand k) ∧ p.id = s.nextId ∧ s.nextId < t.nextId
    ∧ t = { u with strands := t.strands, nextId := t.nextId, plan := u.plan ++ [.event (.loadWriteback c.key p.id)] }

/-- A cause that an item's elected strand is charged with: it stands in the strand's queue, or the queue was full. -/
def queuedFor (s : State) (k code : Nat) : Prop :=
  ∃ b, s.strand k = some b ∧ ((∃ q ∈ b.queue, q.code = code) ∨ b.ovf = true)

/-! Memory accesses (R217 to R231). -/

/-- A number by its bytes, the least significant first. -/
def littleEndian (n : Nat) (f : Nat → Byte) : Nat := ((upTo n).map fun i => (f i).toNat * 256 ^ i).sum

/-- The low `w` bits of a number as a signed one. -/
def asSigned (w x : Nat) : Int := if x % 2 ^ w < 2 ^ (w - 1) then x % 2 ^ w else x % 2 ^ w - 2 ^ w

/-- The registers that a value of a type fills (R218). -/
def filled (ty : Ty) (v : Nat) : List Word :=
  match ty with
  | .n8 | .n16 | .n32 => [BitVec.ofNat 32 v]
  | .n64 => [BitVec.ofNat 32 (v % 2 ^ 32), BitVec.ofNat 32 (v / 2 ^ 32)]
  | .s8 => [BitVec.ofInt 32 (asSigned 8 v)]
  | .s16 => [BitVec.ofInt 32 (asSigned 16 v)]

/-- The writes of a value into the destination of a lane. -/
def Issue.fillsOf (c : Issue) (ty : Ty) (d : Opnd) (l v : Nat) : List RegWrite :=
  (filled ty v).zipIdx.map fun w => ⟨l, c.index d + w.2, w.1⟩

/-- What an atomic stores (R228), and the flags it raises. -/
def atomResult (op : AtomOp) (w old b c : Nat) : Nat × Flags :=
  let f (x : Word) := read32 x
  let word (x : Nat) : Word := BitVec.ofNat 32 x
  let pair (r : Word × Flags) : Nat × Flags := (r.1.toNat, r.2)
  match op with
  | .add => ((old + b) % 2 ^ w, 0)
  | .minS => (if asSigned w old ≤ asSigned w b then old else b, 0)
  | .minN => (min old b, 0)
  | .maxS => (if asSigned w b ≤ asSigned w old then old else b, 0)
  | .maxN => (max old b, 0)
  | .and => (old &&& b, 0)
  | .or => (old ||| b, 0)
  | .xor => (old ^^^ b, 0)
  | .exch => (b, 0)
  | .cas => (if old = c then b else old, 0)
  | .fadd => pair (round32 (Fp.add (f (word old)) (f (word b))))
  | .fmin => pair (fpPick false (word old) (word b))
  | .fmax => pair (fpPick true (word old) (word b))
  | .incw => (if b ≤ old then 0 else (old + 1) % 2 ^ w, 0)
  | .decw => (if old = 0 ∨ b < old then b else old - 1, 0)

/-- The parts of an atomic: member, modifier, width, destination, address, operand, displacement. -/
def atomParts : Instr → Option (AtomOp × MemMod × Bool × Opnd × Opnd × Opnd × Int)
  | .atomAdd _ _ m w d a b e => some (.add, m, w, d, a, b, e.toInt)
  | .atomMinS _ _ m w d a b e => some (.minS, m, w, d, a, b, e.toInt)
  | .atomMinN _ _ m w d a b e => some (.minN, m, w, d, a, b, e.toInt)
  | .atomMaxS _ _ m w d a b e => some (.maxS, m, w, d, a, b, e.toInt)
  | .atomMaxN _ _ m w d a b e => some (.maxN, m, w, d, a, b, e.toInt)
  | .atomAnd _ _ m w d a b e => some (.and, m, w, d, a, b, e.toInt)
  | .atomOr _ _ m w d a b e => some (.or, m, w, d, a, b, e.toInt)
  | .atomXor _ _ m w d a b e => some (.xor, m, w, d, a, b, e.toInt)
  | .atomExch _ _ m w d a b e => some (.exch, m, w, d, a, b, e.toInt)
  | .atomCas _ _ m w d a b e => some (.cas, m, w, d, a, b, e.toInt)
  | .atomFadd _ _ m w d a b e => some (.fadd, m, w, d, a, b, e.toInt)
  | .atomFmin _ _ m w d a b e => some (.fmin, m, w, d, a, b, e.toInt)
  | .atomFmax _ _ m w d a b e => some (.fmax, m, w, d, a, b, e.toInt)
  | .atomIncw _ _ m w d a b e => some (.incw, m, w, d, a, b, e.toInt)
  | .atomDecw _ _ m w d a b e => some (.decw, m, w, d, a, b, e.toInt)
  | _ => none

/-- The address a lane forms (R219): 33 bits in spaces 0 to 2, 64 bits from a pair elsewhere. -/
def Issue.reaches (c : Issue) (sp : Space) (a : Opnd) (e : Int) (l : Nat) : Nat :=
  if sp.pairAddr then (((c.pair l a).toNat + e) % 2 ^ 64).toNat else (((c.reg l a).toNat + e) % 2 ^ 33).toNat

/-- The spaces that are not translated and that accesses may use (R93). -/
def localSpace : Space → Bool
  | .lanePrivate | .scratch | .shared | .remoteScratch => true
  | _ => false

/-- One byte of a local space, as a lane of the strand reaches it (R223). -/
def Issue.byteAt (c : Issue) (sp : Space) (lane a : Nat) (s : State) : Byte :=
  match sp with
  | .lanePrivate => match s.strand c.key with
    | some st => (st.lanes.get lane).lp.read a
    | none => 0
  | .scratch => (s.heldAt c.it.tile c.it.launch).scr.read a
  | .shared => match Map.find c.it.convoy s.convoys with
    | some cv => cv.shared.read a
    | none => 0
  | .remoteScratch => (s.heldAt (a / 2 ^ 21) c.it.launch).scr.read (a % 2 ^ 21)
  | _ => 0

/-- The bound of a local space (R94, R96, R103, R104): remote scratchpad is that of a tile on which the launch holds a
region, or held one when the tile was fenced. -/
def Issue.inBounds (c : Issue) (s : State) (sp : Space) (n ea : Nat) : Prop :=
  match sp with
  | .lanePrivate => c.crew = none ∧ ea + n + (stageOf c.la c.it).spill ≤ (stageOf c.la c.it).lpriv
  | .scratch => ea + n ≤ c.la.scrtile
  | .shared => ea + n ≤ c.la.cshare
  | .remoteScratch => ea < 2 ^ 33 ∧ ea / 2 ^ 21 < 768 ∧ ea % 2 ^ 21 + n ≤ c.la.scrtile
      ∧ ((Map.find (heldKey (ea / 2 ^ 21) c.it.launch) s.held).isSome
        ∨ tileDown s (ea / 2 ^ 21) = true ∧ ea / 2 ^ 21 ∈ c.la.lostOn)
  | _ => False

/-- The bytes that a lane reaches are there and can be read: no unreadable word, no fenced tile (R433, R436). -/
def Issue.sound (c : Issue) (s : State) (sp : Space) (lane ea : Nat) : Prop :=
  let held (tile : Nat) : Prop := ∃ h, Map.find (heldKey tile c.it.launch) s.held = some h ∧ h.bad = [] ∧ tileDown s tile = false
  match sp with
  | .lanePrivate => (c.st.lanes.get lane).bad = []
  | .scratch => held c.it.tile
  | .shared => ∃ cv, Map.find c.it.convoy s.convoys = some cv ∧ cv.bad = [] ∧ tileDown s (shareTile cv ea) = false
  | .remoteScratch => held (ea / 2 ^ 21)
  | _ => False

/-- Every active lane's access passes the checks of R220 in a local space and reaches bytes that can be read, and no watch
is set. -/
def Issue.fits (c : Issue) (s : State) (sp : Space) (n : Nat) (ea : Nat → Nat) : Prop :=
  localSpace sp = true ∧ (s.heldAt c.it.tile c.it.launch).watches = []
    ∧ ∀ l < 4, c.active.getLsbD l → ea l % n = 0 ∧ c.inBounds s sp n (ea l) ∧ c.sound s sp l (ea l)

/-- Lanes' atomics one after another (R229): the old values, the flags, and the bytes afterwards. -/
def atomChain (op : AtomOp) (n : Nat) : List (Nat × Nat × Nat) → (Nat → Byte) → List Nat × Flags × (Nat → Byte)
  | [], f => ([], 0, f)
  | (ea, b, c) :: ls, f =>
    let old := littleEndian n fun i => f (ea + i)
    let r := atomResult op (8 * n) old b c
    let x := atomChain op n ls fun a => if ea ≤ a ∧ a < ea + n then BitVec.ofNat 8 (r.1 / 256 ^ (a - ea)) else f a
    (old :: x.1, r.2 ||| x.2.1, x.2.2)

/-- The machine after an access to a local space: the memories of that space apart, it is as `v` has it. -/
structure StoredIn (c : Issue) (sp : Space) (s v t : State) : Prop where
  others : ∀ k, k ≠ c.key → t.strand k = s.strand k
  convoys : ∀ k, Map.find k t.convoys = (Map.find k s.convoys).map fun cv =>
    if sp = .shared ∧ k = c.it.convoy then
      { cv with shared := ((Map.find k t.convoys).getD cv).shared, bad := ((Map.find k t.convoys).getD cv).bad }
    else cv
  held : sp = .shared ∨ sp = .lanePrivate → t.held = s.held
  regions : ∀ k, Map.find k t.held = (Map.find k s.held).map fun h =>
    { h with scr := ((Map.find k t.held).getD h).scr, bad := ((Map.find k t.held).getD h).bad }
  apart : ∀ k, (∀ tile, k ≠ heldKey tile c.it.launch) ∨ (sp = .scratch ∧ k ≠ heldKey c.it.tile c.it.launch) →
    Map.find k t.held = Map.find k s.held
  rest : t = { v with strands := t.strands, held := t.held, convoys := t.convoys, nextId := t.nextId, plan := t.plan }

/-! Transfers of control (R284 to R291). -/

/-- A strand that an instruction leaves as it was but for its lanes and its current set: it is counted, and it waits for
nothing. -/
def Counted (c : Issue) (b : Strand) : Prop :=
  b = { c.st with
    lanes := b.lanes, cur := b.cur, wait := .none
    retcnt := if c.st.handler.isSome || c.st.seat.isSome then c.st.retcnt else c.st.retcnt + 1
    pend := c.st.pend.map fun p => { p with left := p.left - 1 } }

/-- A transfer of some lanes of the executing set: they go where `dest` says, the others of the set behind the
instruction, and of the set those lanes become current that stand lowest, the deeper of two at one place (R284). The
words of the lane-private windows that `spills` names hold what it gives and can be read again (R288); nothing else
changes. -/
structure Transferred (c : Issue) (moves : BitVec 4) (dest : Nat → Flow → Flow) (spills : Nat → Option (Nat × Word))
    (s t : State) : Prop where
  own : ∃ b, t.strand c.key = some b ∧ Counted c b
    ∧ (∀ l < 4, b.flow l = if moves.getLsbD l then dest l (c.st.flow l)
        else if c.set.getLsbD l then { c.st.flow l with pc := (c.st.flow l).pc + c.size } else c.st.flow l)
    ∧ (∀ l < 4, ∀ n, n ∈ (b.lanes.get l).bad ↔ n ∈ (c.st.lanes.get l).bad ∧ (spills l).map (·.1) ≠ some n)
    ∧ (∀ l < 4, ∀ a, (b.lanes.get l).lp.read a = match spills l with
        | some (w, x) => if 4 * w ≤ a ∧ a < 4 * w + 4 then x.extractLsb' (8 * (a - 4 * w)) 8 else (c.st.lanes.get l).lp.read a
        | none => (c.st.lanes.get l).lp.read a)
    ∧ (∀ l < 4, spills l = none → (b.lanes.get l).lp = (c.st.lanes.get l).lp)
    ∧ (∀ l < 4, b.lanes.get l =
        { c.st.lanes.get l with flow := b.flow l, bad := (b.lanes.get l).bad, lp := (b.lanes.get l).lp })
    ∧ (c.set ≠ 0 → (∀ l < 4, c.set.getLsbD l → (c.st.lanes.get l).atOp = none) →
        ∀ l < 4, b.cur.getLsbD l = true ↔
          c.set.getLsbD l = true ∧ ∀ m < 4, c.set.getLsbD m = true → (b.flow m).before (b.flow l) = false)
  others : ∀ k, k ≠ c.key → t.strand k = s.strand k
  rest : t = { s with strands := t.strands }

/-- A transfer may go there (R287): a segment of the allotment that is LANDED, and in crew code the crew's own. -/
def Issue.mayGo (c : Issue) (s : State) (target : Nat) : Prop :=
  target / 4096 < c.la.nseg
  ∧ (∃ g, Map.find (target / 4096) (s.heldAt c.it.tile c.it.launch).segs = some g ∧ g.state = 2)
  ∧ ∀ seat r, c.crew = some seat → Map.find seat.crew s.crews = some r → target / 4096 = r.seg

/-! Traps (R424, R425). -/

/-- A strand that has entered the handler: its interrupted flows, current set and wait are set aside, the handler lanes
stand at offset 0 with an empty stack, the record is written, and everything else is as it was. -/
structure Entered (r : Raise) (a b : Strand) : Prop where
  saved : ∃ resume, b.handler = some ⟨a.lanes.map (·.flow), a.cur, a.wait, r.hmask, resume⟩
    ∧ (∀ l, lowest r.hmask = some l → resume = (a.flow l).pc) ∧ b.fault = r.record resume a.ovf
  flow : ∀ l < 4, b.flow l = if r.hmask.getLsbD l then { pc := 0, ctx := none, stack := [] } else a.flow l
  lanes : ∀ l < 4, b.lanes.get l = { a.lanes.get l with flow := b.flow l, atOp := none }
  rest : b = { a with
    lanes := b.lanes, cur := r.hmask, handler := b.handler, trapping := none, fault := b.fault, ovf := false
    trdetail := BitVec.ofNat 64 r.trdetail, wait := .none }

/-- Segment 0 of an item's launch is LANDED on its tile. -/
def handlerLanded (s : State) (item : Nat) : Prop :=
  ∃ it g, Map.find item s.items = some it ∧ Map.find 0 (s.heldAt it.tile it.launch).segs = some g ∧ g.state = 2

/-! System registers (R237, R238) and queues. -/

/-- The words of a value that a read of a register gives. -/
def readWords (wide : Bool) (d v : Nat) : List (Nat × Word) :=
  if wide then [(d, BitVec.ofNat 32 (v % 2 ^ 32)), (d + 1, BitVec.ofNat 32 (v / 2 ^ 32 % 2 ^ 32))] else [(d, BitVec.ofNat 32 v)]

/-- The system registers outside crew code: number and, by lane, value (R237, R238). -/
def sysTable (c : Issue) (s : State) : List (Nat × (Nat → Nat)) :=
  let it := c.it
  let st := c.st
  let t := it.tile
  let fields (l : List (Nat × Nat)) : Nat := (l.map fun x => x.1 * 2 ^ x.2).sum
  let peers (first : Nat) : Nat := ((upTo 8).map fun i => ((joined s (first + i)).getD 0x80) * 256 ^ i).sum
  [(0x00, fun _ => fields [(s.self, 23), (memberOf t, 21), (clusterOf t, 13), (dieOf t, 10), (t, 0)]),
   (0x01, fun l => fields [(st.inItem * 4 + l, 8), (st.context / 8 * 4 + l, 0)]),
   (0x02, fun _ => fields [((it.num * (stageOf c.la it).width + st.inItem) % 2 ^ 20, 12), (st.inItem, 8), (st.context, 0)]),
   (0x03, fun l => threadId it st.inItem l), (0x04, fun _ => it.num), (0x05, fun _ => it.stage),
   (0x06, fun _ => ((Map.find it.convoy s.convoys).map (·.num)).getD 0), (0x07, fun _ => st.xi.toNat),
   (0x08, fun _ => it.scrBase), (0x10, fun _ => if c.la.det then st.retcnt.toNat else s.clock.toNat),
   (0x11, fun _ => st.retcnt.toNat), (0x12, fun _ => (s.tile t).lclock.toNat), (0x13, fun _ => s.fabric.slotno),
   (0x14, fun _ => s.fabric.tidecnt.toNat), (0x15, fun _ => peers 0), (0x16, fun _ => peers 8),
   (0x18, fun _ => c.la.seed.toNat), (0x19, fun l => (st.lanes.get l).draw.toNat), (0x1A, fun _ => st.fstat.toNat),
   (0x1B, fun _ => it.deadMask.toNat), (0x1C, fun _ => it.poison.toNat), (0x1D, fun _ => 0),
   (0x1E, fun _ => fields [(c.la.token.passes % 2 ^ 32, 32), (if c.la.det then 1 else 0, 1),
      (if c.la.det && holdsToken c.la it st.item then 1 else 0, 0)]),
   (0x20, fun _ => st.trdetail.toNat), (0x21, fun _ => (2 ^ min 4 st.oplog.length - 1) * 17),
   (0x23, fun _ => cpstatOf s it st.item), (0x22, fun _ => it.engdetail.toNat), (0x30, fun _ => st.fault.rec0.toNat),
   (0x31, fun _ => st.fault.rec1.toNat), (0x32, fun _ => st.fault.rec2.toNat), (0x33, fun _ => st.fault.rec3.toNat),
   (0x1200, fun _ => s.tlbi.va.toNat), (0x1201, fun _ => s.tlbi.cmd.toNat), (0x1202, fun _ => s.tlbi.stat.toNat),
   (0x1300, fun _ => (s.tile t).mtestinj.toNat)]
  ++ (upTo 64).map (fun n => (0x100 + n, fun _ => (Table.get 0 n st.s).toNat))
  ++ (upTo (min 64 c.la.kcnt)).map (fun n => (0x200 + n, fun _ => (counterAt s t it.launch n).toNat))
  ++ (upTo 512).map fun n => (0x1000 + n, fun _ => (Table.get 0 n s.asidctx).toNat)

/-! Commands for the engines. -/

/-- A command as an instruction run once per item puts it into a queue, its number new. -/
structure Enqueued (c : Issue) (n : Nat) (e : Command) : Prop where
  from' : e.op = c.i ∧ e.launch = c.it.launch ∧ e.item = c.st.item ∧ e.stage = c.it.stage ∧ e.strand = c.key
    ∧ e.lane = c.elect ∧ e.pc = c.pc ∧ e.w1 = c.w1 ∧ e.w2 = c.w2
  fresh : e.id = n ∧ e.state = .queued ∧ e.cursor = 0 ∧ e.err = 0 ∧ e.finished = false ∧ e.guardSlot = none ∧ e.program = false

/-- The instruction goes on, and an engine owes it `n` registers from `o` on in a lane, locked till then; with `n` = 0
nothing is owed. Of the strands no other changes; the number is new. -/
def Engages (i : Instr) (c : Issue) (lane : Nat) (o : Nat) (n : Nat) (s t : State) : Prop :=
  exec i s = .next t ∧ s.nextId < t.nextId ∧ (∀ k, k ≠ c.key → t.strand k = s.strand k)
    ∧ ∃ b ps, t.strand c.key = some b ∧ Issued c ps b
      ∧ (∀ l < 4, (b.lanes.get l).lp = (c.st.lanes.get l).lp ∧ (b.lanes.get l).bad = (c.st.lanes.get l).bad)
      ∧ (n = 0 → ps = [])
      ∧ (n ≠ 0 → ∃ p, ps = [p] ∧ p.kind = .engine ∧ p.id = s.nextId ∧ p.writes = [] ∧ p.ready = false
          ∧ ∀ x, x ∈ p.locks ↔ x.1 = lane ∧ o ≤ x.2 ∧ x.2 < o + n)

/-- What commands for the copy engine and the array have of an instruction: the checks, the queue, its size and the
floors that it keeps. -/
def commandQueue (c : Issue) (s : State) : Instr → Option (Option Raise × (Tile → List Command) × Nat × List (Nat × Nat))
  | .copy _ _ _ _ _ _ | .plpack _ _ _ _ _ _ | .plunpk _ _ _ _ _ _ | .fill _ _ _ _ _ _ | .bkopen _ _ _ _ _ | .bkclose _ _ _ _ =>
    some (c.source.checkCopyFamily s, (·.copies), 64, floorStages s c.it.tile false)
  | .mloop _ _ _ _ _ | .mzero _ _ _ | .mread _ _ _ _ _ _ _ _ _ | .mwrite _ _ _ _ _ _ _ _ | .mstat _ _ _ =>
    some (c.source.checkMatrix, (·.array), 16, floorStages s c.it.tile true)
  | _ => none

/-- The registers that such a command's answer is owed to: the first, and how many. -/
def commandResult : Instr → Opnd × Nat
  | .bkopen _ d _ _ _ => (d, 1)
  | .mstat _ d _ => (d, 2)
  | _ => (.dir 0, 0)

/-- The register that a routing command's status is owed to. -/
def routeResult : Instr → Option Opnd
  | .rtcount _ d _ _ _ | .rtdisp _ d _ _ _ | .rtcomb _ d _ _ _ _ => some d
  | _ => none

/-- The place of a command in a queue of so many entries (R145): a shared one while there is one beyond the floors, then
the floor of the command's stage, if it has one and none of its commands holds it. -/
def takesPlace (q : List Command) (size : Nat) (floors : List (Nat × Nat)) (c : Issue) (floor : Bool) : Prop :=
  let shared := (q.filter fun e => !e.floor).length < size - floors.length
  (floor = false ∧ shared)
    ∨ (floor = true ∧ ¬shared ∧ (c.it.launch, c.it.stage) ∈ floors ∧ ∀ e ∈ q, ¬(e.floor = true ∧ e.launch = c.it.launch ∧ e.stage = c.it.stage))

/-! Remote accesses, and notices. -/

/-- A remote instruction's operation and its lanes: each active lane names a peer and an address (R356). -/
def remoteParts (c : Issue) : Instr → Option (RemoteOp × List RemoteLane)
  | .rld _ la scope ord ty d a p =>
    some (⟨0, tyNumber ty, ord, scope, tyBytes ty, ty, some d, la.toNat⟩,
      (lanesIn c.active).map fun l => ⟨(c.reg l p).toNat % 128, ⟨l, (c.pair l a).toNat, 0, 0⟩⟩)
  | .rst _ la scope ord ty a b p =>
    some (⟨1, tyNumber ty, ord, scope, tyBytes ty, ty, none, la.toNat⟩,
      (lanesIn c.active).map fun l => ⟨(c.reg l p).toNat % 128, ⟨l, (c.pair l a).toNat,
        (if ty.isPair then (c.pair l b).toNat else (c.reg l b).toNat) % 256 ^ tyBytes ty, 0⟩⟩)
  | .ratom _ la scope ord op w d a b p =>
    let v (o : Opnd) (l : Nat) : Nat := if w then (c.pair l o).toNat else (c.reg l o).toNat
    some (⟨2, memberNumber op * 2 + (if w then 1 else 0), ord, scope, if w then 8 else 4, if w then .n64 else .n32, some d,
        la.toNat⟩,
      (lanesIn c.active).map fun l => ⟨(c.reg l p).toNat % 128, ⟨l, (c.pair l a).toNat, v b l, v d l⟩⟩)
  | _ => none

/-- A notice of eight words posted (R463, R464): held while the host is gone and fewer than 256 are; else written to its
place of the ring, PROD and the vector advanced; where there is no place for it, OVF is set. -/
structure Noticed (ws : List (BitVec 64)) (s u : State) : Prop where
  rest : u = { s with host := u.host, hostMem := u.hostMem }
  held : hostGone s = true → s.host.held.length < 256 →
    u.host = { s.host with held := s.host.held ++ [ws] } ∧ u.hostMem = s.hostMem
  ring : hostGone s = false → ringFull s = false →
    let prod := s.host.nqstat.toNat / 2 ^ 32 % 2 ^ 24
    let size := 2 ^ (s.host.nqbase.toNat % 16 + 6)
    let place := s.host.nqbase.toNat / 4096 * 4096 + 64 * (prod % size)
    u.host = { s.host with nqstat := u.host.nqstat, msix := s.host.msix + 1 }
      ∧ u.host.nqstat.toNat / 2 ^ 32 % 2 ^ 24 = (prod + 1) % 2 ^ 24
      ∧ u.host.nqstat.toNat % 2 ^ 32 = s.host.nqstat.toNat % 2 ^ 32
      ∧ ∀ a, u.hostMem.read a = if place ≤ a ∧ a < place + 8 * ws.length
          then BitVec.ofNat 8 ((ws.getD ((a - place) / 8) 0).toNat / 256 ^ ((a - place) % 8)) else s.hostMem.read a
  lost : (if hostGone s then 256 ≤ s.host.held.length else ringFull s = true) →
    u.host = { s.host with nqstat := s.host.nqstat ||| 0x8000000000000000 } ∧ u.hostMem = s.hostMem

/-- What an invalidation event names (R82). -/
def shootOf : Instr → Option Shoot
  | .tlbiAll => some ⟨none, none, none⟩
  | .tlbiAsid a => some ⟨some a, none, none⟩
  | .tlbiVa a va log2 => some ⟨some a, some (va % 2 ^ 57, min 57 (max 12 log2)), none⟩
  | .tlbiPa pa log2 => some ⟨none, none, some (pa, min 57 (max 12 log2))⟩
  | _ => none

/-! Main memory as its base dies serve it (R44 to R67). -/

/-- A byte of HBM as a key id reads it. -/
def hbmByte (m : MainMem) (key a : Nat) : Byte := BitVec.ofNat 8 ((granuleRead m key (a / 256)).2 / 256 ^ (a % 256))

/-- Bytes of HBM as a key id reads them. -/
def hbmBytes (m : MainMem) (key a n : Nat) : List Byte := (upTo n).map fun k => hbmByte m key (a + k)

/-- No burst is unreadable or needs a correction, every line of the memory-side cache is whole, readable and still to be
written back (as writes leave it), and no access is counted. -/
def quiet (s : State) : Prop :=
  s.mem.badBursts = [] ∧ s.mem.weakBursts = [] ∧ s.mem.migctl.getLsbD 32 = false
  ∧ ∀ g c, Map.find g s.mem.cache = some c → c.dirty = true ∧ c.bad = 0 ∧ c.data < 256 ^ 256

/-- A stream request at work on a held bank (R57, R58): its rows move up to the next foreign window, which is planned where
it is reached; a request whose last row has moved is answered. -/
structure Streamed (h : Nat) (b : Bank) (j : Stream) (s t : State) : Prop where
  rest : t = { s with mem := t.mem, answer := t.answer, plan := t.plan }
  bank : let k := min j.left (8 - b.streamed)
    let rows := (upTo (4 * k)).flatMap fun n => hbmBytes s.mem j.key (256 * bankGranule h (j.row + n / 4) (n % 4)) 256
    let data := if j.write then j.data.drop (1024 * k) else j.data ++ rows
    Map.find h t.mem.banks = some { b with
      streamed := b.streamed + k
      jobs := if k = j.left then [] else [{ j with row := j.row + k, left := j.left - k, data := data }] }
    ∧ t.answer = (if k = j.left then ⟨j.status, if j.write then [] else data, 0⟩ else s.answer)
    ∧ t.plan = s.plan ++ (if b.streamed < 8 ∧ b.streamed + k = 8 then [.event (.foreignWindow h)] else [])
    ∧ (j.write = true → h < 49152 → j.data.length = 1024 * j.left → ∀ n < 4 * k,
        hbmBytes t.mem j.key (256 * bankGranule h (j.row + n / 4) (n % 4)) 256 = (j.data.drop (256 * n)).take 256)
  others : ∀ k, k ≠ h → Map.find k t.mem.banks = Map.find k s.mem.banks

/-- A request answered, main memory apart with no other effect. -/
def Answers (i : Instr) (s : State) (status : Nat) (data : List Byte) (mask : Nat) (t : State) : Prop :=
  exec i s = .next t ∧ t.answer = ⟨status, data, mask⟩ ∧ t = { s with mem := t.mem, answer := t.answer }

/-- An entry of a packet is served (R54). -/
def served (base width offset : Nat) : Bool := (base + offset) % width == 0 && decide (0 < width ∧ base + offset + width ≤ hbmEnd)

/-- The launch whose region of a tile's scratchpad holds some bytes, with what it holds there (R104). -/
def regionOf (s : State) (tile offset width : Nat) : Option (Nat × TileLaunch) :=
  s.held.find? fun (x : Nat × TileLaunch) =>
    x.1 / 65536 == tile && x.2.region ≤ offset &&
      match Map.find (x.1 % 65536) s.launches with
      | some la => offset + width ≤ x.2.region + la.scrtile
      | none => false

/-! Judgements of neighbouring tiles (R438 to R448). -/

/-- An event changes one judgement, and no other state. -/
def Judges (i : Instr) (tile dir : Nat) (k : Judgement) (s : State) : Prop :=
  ∃ t : State, exec i s = .next t ∧ t = { s with health := { s.health with judgements := t.health.judgements } }
    ∧ judgementAt t tile dir = k ∧ ∀ a d, d < 4 → (a, d) ≠ (tile, dir) → judgementAt t a d = judgementAt s a d

/-- An event by which a judge closes its port to a neighbour, which is fenced (R443, R444). -/
def Fences (i : Instr) (tile dir about : Nat) (s : State) : Prop :=
  ∃ t : State, exec i s = .next t ∧ (judgementAt t tile dir).state = 6 ∧ (judgementAt t tile dir).closed = true
    ∧ tileDown t about = true

/-- An event by which the neighbours of a tile reopen their ports to it (R448). -/
def Reopens (i : Instr) (tile dir about : Nat) (s : State) : Prop :=
  ∃ t : State, exec i s = .next t ∧ tileState t about = (if fenceCount s about = 3 then 4 else 0)
    ∧ judgementAt t tile dir = Judgement.reset ∧ .event (.itemAdmission about) ∈ t.plan

/-- The votes of others that count (R443). -/
def standing (s : State) (voters : List Nat) : Nat := (voters.filter fun v => !tileDown s v).length

/-- A judge that does not close its port at so many votes: it is fenced itself, the port is closed, or they are too few. -/
def tooFew (s : State) (tile dir about votes : Nat) : Prop :=
  tileDown s tile = true ∨ (judgementAt s tile dir).closed = true ∨ votes < threshold s about

/-! The fabric. -/

/-- A flit that its receiver takes (R343, R344, R348): the rail is up in a pod, and the flit comes from a member, is of a
kind, is for this package, and authenticates under a key of its sender. -/
structure Takes (s : State) (rail type : Nat) (f : Flit) : Prop where
  pod : s.fabric.inPod = true
  up : railUp s rail = true
  kind : f.type = type ∧ type < 8
  dst : f.dst = s.self
  src : isMember s f.src = true ∧ f.src ≠ s.self
  key : f.authentic = true ∧ (s.peer f.src).takesKey f.ks = true

/-- The events by which a flit arrives, with its TYPE (R344). -/
def flitEvents (rail : Nat) (f : Flit) : List (Instr × Nat) :=
  [(.idleFlit rail f, 0), (.bulkHeaderFlit rail f, 1), (.bulkDataFlit rail f, 2), (.smallFlit rail f, 3),
    (.responseFlit rail f, 4), (.endToEndAck rail f, 5), (.markerFlit rail f, 6), (.controlFlit rail f, 7)]

/-- One remote access of a strand, one lane of it, waits for its answer, and the strand has nothing else in flight; its
launch does not capture. -/
structure Awaits (s : State) (r : Remote) (l : LogLane) (a : Strand) (p : Pending) : Prop where
  only : s.fabric.remotes = [r] ∧ r.command = none ∧ r.ord = .none ∧ r.lanes = [l]
  strand : s.strand r.strand = some a ∧ a.pend = [p] ∧ p.id = r.pend ∧ p.kind = .remote
  plain : ∀ la, Map.find r.launch s.launches = some la → la.capture = false

/-- The access has ended: its strand's instruction has `p'` in flight, and its writeback is planned. -/
def Ended (r : Remote) (p' : Pending) (t : State) : Prop :=
  t.fabric.remotes = [] ∧ (∃ b, t.strand r.strand = some b ∧ b.pend = [p'])
    ∧ .event (.loadWriteback r.strand r.pend) ∈ t.plan

/-- An entry waits in the queues for a package, directly or for an intermediate. -/
def Outbound (t : State) (q : Nat) (f : Flit → Prop) : Prop := ∃ m e, e ∈ (t.peer m).queue ∧ e.final = q ∧ f e.flit

/-! Launches. -/

/-- A launch is gone from the package: its record, what it held on tiles, its convoys and its dispatch contexts (R372,
R375, R396). -/
def LaunchGone (launch : Nat) (t : State) : Prop :=
  Map.find launch t.launches = none ∧ (∀ x ∈ t.held, x.1 % 65536 ≠ launch) ∧ (∀ x ∈ t.convoys, x.2.launch ≠ launch)
    ∧ ∀ d ∈ t.dies, ∀ c ∈ d.2.ctxs, c.launch ≠ launch

/-- An operation of the pre-emption registers has ended (R403): BUSY is 0, and a refusal stands in ERR and ERRCODE. -/
def PreEnded (refusal : Option Nat) (s t : State) : Prop :=
  t.pre.stat.getLsbD 63 = false ∧ t.pre.stat.toNat % 2 ^ 32 = s.pre.stat.toNat % 2 ^ 32
    ∧ ∀ code, refusal = some code → t.pre.stat.getLsbD 62 = true ∧ t.pre.stat.toNat / 2 ^ 48 % 2 ^ 8 = code

/-- A strand as an admission leaves it (R112, R374): its lanes at the entry of its stage, its registers and counts 0; the
lanes' windows may hold what items of the launch left there. -/
def Fresh (item inItem pc : Nat) (b : Strand) : Prop :=
  b.item = item ∧ b.inItem = inItem ∧ b.cur = 15 ∧ b.s = [] ∧ b.fstat = 0 ∧ b.retcnt = 0 ∧ b.pend = [] ∧ b.handler = none
    ∧ ∀ l < 4, b.lanes.get l = { entryLane pc with lp := (b.lanes.get l).lp, bad := (b.lanes.get l).bad }

end Sys2Proof.Machine
end

