-- ==== Sys2Proof/Certificates/Slice0/Obligations.lean ====
section
/-! DEFINITION. The statements for the provers: encodings, the step, the compute majors, control, synchronisation, memory,
engines, fabric, traps, scheduling, health and host. Titles, citations and tiers stand in OBLIGATIONS.json. -/

open Sys2Proof Sys2Proof.Machine

/-! Encodings. -/

/-- Decoding the words of a well-formed instruction gives it back, with every operand (R123 to R135). -/
def Obligations.DecodeOfEncode : Prop :=
  ∀ i : Instr, i.wf = true → encode i ≠ [] → decode ((encode i).getD 0 0) ((encode i).getD 1 0) = .ok i

/-- What the decoder reads is well formed, and encoding it gives the words it was read from. -/
def Obligations.EncodeOfDecode : Prop :=
  ∀ (w1 w2 : Word) (i : Instr), decode w1 w2 = .ok i →
    i.wf = true ∧ encode i = if longMajor (majorOf w1).toNat then [w1, w2] else [w1]

/-- A reserved major is no instruction whatever follows it (ILLEGAL_OPCODE), and a member that R134 marks "—", or a MINOR
other than 0 in a long-form major that is no family and not MOVW, is none either (ILLEGAL_MINOR). -/
def Obligations.ReservedOpcodesRefused : Prop :=
  ∀ w1 w2 : Word,
    let major := bitsOf w1.toNat 31 25
    let minor := bitsOf w2.toNat 27 24
    ((major = 0x4E ∨ major = 0x4F ∨ major = 0x7E ∨ major = 0x7F) → decode w1 w2 = .error .opcode)
    ∧ ((major = 0x64 ∧ minor = 15 ∨ major = 0x6C ∧ 6 ≤ minor ∨ major = 0x7C ∧ 6 ≤ minor
        ∨ 0x60 ≤ major ∧ major ≤ 0x7D ∧ major ≠ 0x64 ∧ major ≠ 0x65 ∧ major ≠ 0x6C ∧ major ≠ 0x7C ∧ minor ≠ 0)
      → decode w1 w2 = .error .minor)

/-- Words written out from the encoding tables, each decoded to its instruction. -/
def Obligations.WrittenWordsDecode : Prop :=
  decode 0x08E1427D 0 = .ok (.addi ⟨false, 7⟩ (.dir 5) (.dir 4) (-3))
  ∧ decode 0x0741A105 0 = .ok (.add ⟨true, 2⟩ (.dir 6) (.ind 2) (.dir 5))
  ∧ decode 0x803FFFFC 0 = .ok (.bra ⟨false, 1⟩ (-4))
  ∧ decode 0xCAE10000 0x00012345 = .ok (.movw ⟨false, 7⟩ (.dir 4) 0x12345)
  ∧ decode 0xA6E00002 0 = .ok (.kinitImm ⟨false, 7⟩ 0 2)
  ∧ decode 0xA0E00000 0 = .ok (.bar ⟨false, 7⟩ 0)
  ∧ decode 0x94E00000 0 = .ok (.eret ⟨false, 7⟩)
  ∧ decode 0xC8E2020A 0x09BC7FF8
      = .ok (.atomCas ⟨false, 7⟩ 0 ⟨.package, .sc, .global⟩ false (.dir 8) (.dir 4) (.dir 10) 0x7FF8)
  ∧ decode 0xE2E04400 0 = .ok (.mzero ⟨false, 7⟩ 1 (.dir 8))
  ∧ decode 0xFAE10309 0 = .ok (.keyopDestroy ⟨false, 7⟩ (.dir 4) (.dir 6) 9)

/-! The step. -/

/-- A step at a state whose strand stands at an instruction inside a clause, with no trap or delivery due, is `exec` of
the instruction that the words at its program counter decode to; around it, tokens, handlers without lanes and a pre-emption move on, the step
and its clocks are counted, and the turn passes to the next strand. It is so of the strand whose turn it is, and of one
whose turn is planned. Strands of an item that stand together at one QPUSH and can issue it take their turns one after
another (R241).
Choices of the model that it rests on: log entries 1, 2, 3, 7 and 47. -/
def Obligations.StepRunsTheDecodedInstruction : Prop :=
  ∀ s u : State,
    (s.plan = [] ∧ u = s ∨ ∃ k rest, s.plan = .issue k :: rest ∧ u = { s with plan := rest, cur := k }) →
    ∀ (h : Here) (x : Clause) (i : Instr), u.here = some h → h.mayIssue = true →
    h.st.trapping = none → mayDeliver h.st = false → h.flow.ctx = some x → x.waited = true → x.resume = false →
    x.stop ≠ h.flow.pc → decode (codeWord h.held h.flow.pc) (codeWord h.held (h.flow.pc + 4)) = .ok i →
    i.wf = true
    ∧ (s.plan ≠ [] ∨ (gangOf h s).length ≤ 1 →
        ∃ v, exec i u = .next v ∧
          let t : State :=
            { preemptTurn (handlerTurns (tokenTurns v)) with
              tick := u.tick + 1, clock := u.clock + BitVec.ofNat 64 (Config.stepClocks u.tick)
              host := { (preemptTurn (handlerTurns (tokenTurns v))).host with pwrsum := (Config.power u.tick).setWidth 64 } }
          step s = .next (passTurn u t))
    ∧ (s.plan = [] → ∀ k j ks, gangOf h s = k :: j :: ks → step s = step { s with plan := (k :: j :: ks).map .issue })

/-- A planned event is `exec` of that event, the turn staying where it is; a planned turn is a step of the strand it names.
Where no resident strand holds the turn, an instruction has nothing to issue it: the machine says so by name.
Choices of the model that it rests on: log entries 1, 2 and 3. -/
def Obligations.StepTakesPlannedTurnsFirst : Prop :=
  (∀ s t : State,
      let past (v : State) : State :=
        { preemptTurn (handlerTurns v) with
          tick := s.tick + 1, clock := s.clock + BitVec.ofNat 64 (Config.stepClocks s.tick)
          host := { (preemptTurn (handlerTurns v)).host with pwrsum := (Config.power s.tick).setWidth 64 } }
      (∀ rest i u, s.plan = .event i :: rest → exec i { s with plan := rest } = .next u → step s = .next (past u))
      ∧ (∀ k rest, s.plan = .issue k :: rest → t = { s with plan := rest, cur := k } →
          (t.here = none ∨ ∃ h, t.here = some h ∧ h.mayIssue = false) → step s = .next (passTurn t (past (tokenTurns t)))))
  ∧ (∀ (i : Instr) (s : State), encode i ≠ [] → s.strand s.cur = none → exec i s = .fault (.noSuchStrand s.cur))

/-- CLOCK is the sum of the clocks of the steps taken, modulo 2^64, and every step keeps it so.
Choices of the model that it rests on: log entry 7. -/
def Obligations.EveryStepKeepsTheClock : Prop :=
  ∀ s t : State, s.clock = BitVec.ofNat 64 (clockSum s.tick) → step s = .next t →
    t.tick = s.tick + 1 ∧ t.clock = BitVec.ofNat 64 (clockSum t.tick)

/-! Operands and the compute majors. -/

/-- What a register operand of an instruction names, by the kind of code (R121, R128): s(n) in a uniform clause; else the
lane's v(n), or with the index bit v(xi + n); in crew code the recruiter's window, and in a uniform clause the worker's
own s(n) (R386).
Choices of the model that it rests on: log entry 44. -/
def Obligations.OperandsNameTheirRegisters : Prop :=
  ∀ (i : Instr) (s : State) (c : Issue) (l : Nat) (n : BitVec 6), issueOf i s = some c →
    (c.uniform = true → c.reg l (.dir n) = Table.get 0 n.toNat c.st.s)
    ∧ (c.uniform = false → c.frames = false → c.reg l (.dir n) = Table.get 0 n.toNat (c.st.lanes.get l).v)
    ∧ (c.frames = true → c.reg l (.dir n) = Table.get 0 (512 + n.toNat) (c.st.lanes.get l).v)
    ∧ (c.frames = true ↔ c.crew.isSome = true ∧ ∃ x, c.clause = some x ∧ (headerOf x.word).u = true)
    ∧ (c.uniform = false → c.crew = none →
        c.reg l (.ind n) = Table.get 0 (c.st.xi.toNat + n.toNat) (c.st.lanes.get l).v
        ∧ c.pair l (.ind n) = Table.get 0 (c.st.xi.toNat + n.toNat + 1) (c.st.lanes.get l).v
            ++ Table.get 0 (c.st.xi.toNat + n.toNat) (c.st.lanes.get l).v)
    ∧ (∀ seat r, c.uniform = false → c.crew = some seat → Map.find seat.crew s.crews = some r →
        c.reg l (.ind n) = Table.get 0 n.toNat r.window)
    ∧ (c.uniform = false → c.frames = false → c.pair l (.dir n)
        = Table.get 0 (n.toNat + 1) (c.st.lanes.get l).v ++ Table.get 0 n.toNat (c.st.lanes.get l).v)

/-- MOV, MOVI, MOVW, the sums, products, minima, maxima, ABS, logic, CLZ, POPC and BREV complete: each active lane's
destination holds the value of R259, computed of the registers as read at issue, the executing set goes on past the
instruction, and nothing else changes, no flag among it. NOP changes nothing but that. -/
def Obligations.IntegerMajorsComplete : Prop :=
  (∀ (i : Instr) (s : State) (c : Issue) (d : Opnd), clear i s = some c → intDest i = some d →
    Retires i c (c.writes fun l => [(c.index d, intValue (c.reg l) i)]) s)
  ∧ ∀ (g : Guard) (s : State) (c : Issue), clear (.nop g) s = some c → Retires (.nop g) c {} s

/-- The shifts, BFE, BFI and SEL complete with the value of R260 to R262, and change nothing else. -/
def Obligations.ShiftsAndBitFieldsComplete : Prop :=
  ∀ (i : Instr) (s : State) (c : Issue) (d : Opnd), clear i s = some c → shiftDest i = some d →
    Retires i c (c.writes fun l =>
      [(c.index d, shiftValue (c.reg l) (fun g => guardHolds g (c.st.lanes.get l)) i)]) s

/-- ADD64 adds two pairs into a pair modulo 2^64, and changes nothing else (R264). ISETP writes its predicate with the
test of R263 in every active lane, and changes nothing else; p7 stays. -/
def Obligations.Add64AndIsetpComplete : Prop :=
  (∀ (g : Guard) (d a b : Opnd) (s : State) (c : Issue), clear (.add64 g d a b) s = some c →
      Retires (.add64 g d a b) c (c.writes fun l =>
        let sum := ((c.pair l a).toNat + (c.pair l b).toNat) % 2 ^ 64
        [(c.index d, BitVec.ofNat 32 (sum % 2 ^ 32)), (c.index d + 1, BitVec.ofNat 32 (sum / 2 ^ 32))]) s)
  ∧ (∀ (g : Guard) (k : ICmp) (pd : BitVec 3) (a b : Opnd) (s : State) (c : Issue), clear (.isetp g k pd a b) s = some c →
      ∃ test : Nat → Bool, (∀ l, test l = true ↔ intTest k (c.reg l a) (c.reg l b))
        ∧ Retires (.isetp g k pd a b) c (c.writesPred pd test) s)

/-- The FP32 and packed majors complete: the destination holds the value and FSTAT gains the flags of R265 to R271 and
R276, and nothing else changes. FSETP writes its predicate with the test of R268 in every active lane, raises NV for
an ordered test on a NaN, and changes nothing else.
Choices of the model that it rests on: log entries 8 and 9. -/
def Obligations.FloatMajorsAndFsetpComplete : Prop :=
  (∀ (i : Instr) (s : State) (c : Issue) (d : Opnd), clear i s = some c → floatDest i = some d →
      Retires i c { c.writes (fun l => [(c.index d, (floatValue (c.reg l) i).1)]) with
        flags := c.raised fun l => (floatValue (c.reg l) i).2 } s)
  ∧ (∀ (g : Guard) (k : FCmp) (pd : BitVec 3) (a b : Opnd) (s : State) (c : Issue), clear (.fsetp g k pd a b) s = some c →
      ∃ test : Nat → Bool, (∀ l, test l = true ↔ floatTest k (read32 (c.reg l a)) (read32 (c.reg l b)))
        ∧ Retires (.fsetp g k pd a b) c { c.writesPred pd test with
            flags := c.raised fun l =>
              if ((read32 (c.reg l a)).isNan || (read32 (c.reg l b)).isNan) && (k == .lt || k == .le || k == .gt || k == .ge)
              then flagNV else 0 } s)

/-- The FP32 rounding of R29 and R33: a finite value that does not overflow gives a finite pattern than which none is
nearer, the even one of two that are equally near, with NX exactly where it is not the value itself; OF is raised exactly
from (2 − 2^−24) × 2^127 on. -/
def Obligations.Fp32RoundsToNearestEven : Prop :=
  ∀ (n : Bool) (m : Nat) (e : Int), m ≠ 0 →
    let x := (Fp.fin n m e).number
    let r := round32 (.fin n m e, 0)
    let big : Rat := 2 ^ 128 - 2 ^ 103
    (r.2 &&& flagOF ≠ 0 ↔ big ≤ x ∨ x ≤ -big)
    ∧ (r.2 &&& flagOF = 0 →
        (∃ k q f, read32 r.1 = .fin k q f)
        ∧ (r.2 &&& flagNX = 0 ↔ (read32 r.1).number = x)
        ∧ ∀ w : Word, (∃ k q f, read32 w = .fin k q f) →
            |(read32 r.1).number - x| ≤ |(read32 w).number - x|
            ∧ (|(read32 r.1).number - x| = |(read32 w).number - x| → (read32 w).number ≠ (read32 r.1).number →
                r.1.getLsbD 0 = false))

/-- CVT, CVTI and RNG complete with the values and flags of R272 to R275 and R283; a lane that draws uses u of R31 for its
thread and draw counter, and that counter alone advances. CVT through a slot of S64, N64, ACC36 or no legal format raises
SLOT_FORMAT instead, whatever the guard selects (R273).
Choices of the model that it rests on: log entries 50 and 51. -/
def Obligations.ConversionsAndDrawsComplete : Prop :=
  (∀ (g : Guard) (dir : CvtDir) (d a : Opnd) (slot : BitVec 3) (s : State) (c : Issue) (x : Slot),
    clear (.cvt g dir d a slot) s = some c → slotOf (c.la.slots.getD slot.toNat 0) = some x → cvtRefuses x.efmt = false →
    let u (l : Nat) : Nat := if cvtDraws dir x then (c.drawValue s c.st l).toNat else 0
    Retires (.cvt g dir d a slot) c { c.writes (fun l => [(c.index d, (cvtWord dir x (u l) (c.reg l a)).1)]) with
      flags := c.raised fun l => (cvtWord dir x (u l) (c.reg l a)).2
      draws := fun l => cvtDraws dir x && c.drawing l } s)
  ∧ (∀ (g : Guard) (dir : CvtDir) (d a : Opnd) (slot : BitVec 3) (s : State) (c : Issue),
    clear (.cvt g dir d a slot) s = some c →
    (slotOf (c.la.slots.getD slot.toNat 0) = none
      ∨ ∃ x, slotOf (c.la.slots.getD slot.toNat 0) = some x ∧ (x.efmt.bits = 64 ∨ x.efmt = .fp .acc36 ∨ x.efmt = .accInt)) →
    exec (.cvt g dir d a slot) s = .next (trap c.key (c.raise 0x40) s))
  ∧ (∀ (g : Guard) (conv : CvtiConv) (m : Rnd) (d a : Opnd) (s : State) (c : Issue),
    clear (.cvti g conv m d a) s = some c →
    let u (l : Nat) : Nat := if m = .sr then (c.drawValue s c.st l).toNat else 0
    Retires (.cvti g conv m d a) c { c.writes (fun l => [(c.index d, (cvtiWord conv m (u l) (c.reg l a)).1)]) with
      flags := c.raised fun l => (cvtiWord conv m (u l) (c.reg l a)).2
      draws := fun l => m == .sr && c.drawing l } s)
  ∧ (∀ (g : Guard) (d : Opnd) (s : State) (c : Issue), clear (.rng g d) s = some c →
    Retires (.rng g d) c { c.writes (fun l => [(c.index d, c.drawValue s c.st l)]) with draws := c.drawing } s)
  ∧ (∀ (c : Issue) (s : State) (l : Nat), c.crew = none →
    c.drawValue s c.st l = rngValue c.la.seed.toNat (threadId c.it c.st.inItem l) (c.st.lanes.get l).draw.toNat)

/-! The checks at issue. -/

/-- The checks of R136, in their order, each before the instruction has any effect: it traps with PRIVILEGE, REG_BOUND,
WINDOW_WRITE, CREW_WRITE or (R388) CREW_STATE, in a redundant launch without a vote (R137). An instruction that must wait
at issue changes nothing. -/
def Obligations.IssueChecksTrapInOrder : Prop :=
  ∀ (i : Instr) (s : State) (c : Issue), encode i ≠ [] → issueOf i s = some c →
    let traps (code : Nat) : Prop := exec i s = .next (trap c.key (c.refusal code) s)
    let low : Prop := needsPrivilege i = true ∧ c.la.priv = false
    let beyond : Prop := (∃ u ∈ uses i, c.uniform = false ∧ c.frames = false
        ∧ (c.vregs < c.index u.o + u.n ∨ u.n = 2 ∧ c.index u.o % 2 = 1))
      ∨ (∃ k, counterOf i = some k ∧ c.la.kcnt ≤ k) ∨ (∃ b, barrierOf i = some b ∧ c.la.bcnt ≤ b)
      ∨ (∃ g, guardSlotOf i = some g ∧ c.la.gcnt ≤ g)
    let locked : Prop := (∃ u ∈ uses i, u.dest = true ∧ c.uniform = false ∧ ∃ p ∈ c.st.pend, p.kind ≠ .engine
        ∧ ∃ l ∈ p.locks, c.index u.o ≤ l.2 ∧ l.2 < c.index u.o + u.n)
      ∨ (∃ p q, predDest i = some p ∧ q ∈ c.st.pend ∧ q.kind ≠ .engine ∧ ∃ l ∈ q.locks, l.2 = 256 + p.toNat)
    let window : Prop := c.crew.isSome = true ∧ ∃ u ∈ uses i, u.dest = true ∧ ∃ n, u.o = .ind n
    let state : Prop := c.crew.isSome = true ∧ crewForbidden c.major = true
    (c.blocked = true → WaitsAt i c .issue s)
    ∧ (c.blocked = false → c.passed s = false →
        (low → traps 0x07)
        ∧ (¬low → beyond → traps 0x08)
        ∧ (¬low → ¬beyond → locked → traps 0x09)
        ∧ (¬low → ¬beyond → ¬locked → window → traps 0x5B)
        ∧ (¬low → ¬beyond → ¬locked → ¬window → state → traps 0x59))

/-- An instruction that runs once for the item is done by the set of the item's elected lane, its lowest live one; for
every other set that comes to it, it does nothing and the set goes on (R377). In crew code none is passed over. -/
def Obligations.OncePerItemInstructionsArePassedOver : Prop :=
  ∀ (i : Instr) (s : State) (c : Issue), encode i ≠ [] → issueOf i s = some c → c.blocked = false →
    (c.passed s = true ↔ onceMajor c.major = true ∧ c.crew = none
      ∧ ∀ k l, elected s c.it = some (k, l) → ¬(k = c.key ∧ c.set.getLsbD l = true))
    ∧ (c.passed s = true → c.st.stepArm = false → (∀ p ∈ c.st.pend, p.ready = false) → Retires i c {} s)

/-- YIELD, KWAIT on a counter that reads 0, PHASE and FENCE complete. YIELD and KWAIT change no state but RETCNT and the
program counters; PHASE publishes where its publish bit is set and then refreshes where its refresh bit is; FENCE drains
the strand's write-combining entries at system scope. KWAIT on any other value waits.
Choices of the model that it rests on: log entry 132. -/
def Obligations.OrderingInstructionsComplete : Prop :=
  (∀ (g : Guard) (s : State) (c : Issue), clear (.yield g) s = some c → Retires (.yield g) c {} s)
  ∧ (∀ (g : Guard) (k : BitVec 6) (s : State) (c : Issue), clear (.kwait g k) s = some c →
      (counterAt s c.it.tile c.it.launch k.toNat = 0 → Retires (.kwait g k) c {} s)
      ∧ (counterAt s c.it.tile c.it.launch k.toNat ≠ 0 → WaitsAt (.kwait g k) c (.counter k.toNat) s))
  ∧ (∀ (g : Guard) (scope : Scope) (s : State) (c : Issue), clear (.fence g scope) s = some c →
      let v := if scope = .system then wcDrainStrand c.it.tile c.key s else s
      ∃ t, exec (.fence g scope) s = .next t ∧ (v.strand c.key = some c.st → Retired c {} v t))
  ∧ (∀ (g : Guard) (f p : Bool) (scope : Scope) (s : State) (c : Issue), clear (.phase g f p scope) s = some c →
      let u := if p then publish c.it.tile c.key scope s else s
      let v := if f then refresh c.it.tile scope u else u
      ∃ t, exec (.phase g f p scope) s = .next t ∧ (v.strand c.key = some c.st → Retired c {} v t))

/-! Lane operations (R277 to R282). -/

/-- The lane operations complete for lanes that are gathered: BALLOT, VOTE, the SHFL forms, XCHG and REDUX write, in
the participants alone, what R279 to R282 say, and nothing else changes. A lane operation whose other lanes are still
to come waits: its set has arrived, no lane moves and no register changes. When the last of them has exited, the
operation is performed as if its lanes had just issued it.
Choices of the model that it rests on: log entry 49. -/
def Obligations.LaneOperationsComplete : Prop :=
  ((∀ (g : Guard) (d : Opnd) (neg : Bool) (p : BitVec 3) (s : State) (c : Issue), clear (.ballot g d neg p) s = some c →
      Gathered c s → ∃ m : BitVec 64,
        (∀ j < 64, m.getLsbD j = true ↔ ∃ l < 4, c.active.getLsbD l ∧ c.number l = j ∧ (c.st.lanes.get l).pred p ≠ neg)
        ∧ Retires (.ballot g d neg p) c
            (c.writes fun _ => [(c.index d, m.extractLsb' 0 32), (c.index d + 1, m.extractLsb' 32 32)]) s)
    ∧ (∀ (g : Guard) (md : VoteMode) (pd : BitVec 3) (neg : Bool) (p : BitVec 3) (s : State) (c : Issue),
      clear (.vote g md pd neg p) s = some c → Gathered c s → ∃ r : Bool,
        (r = true ↔
          let yes (l : Nat) : Prop := (c.st.lanes.get l).pred p ≠ neg
          let part (l : Nat) : Prop := l < 4 ∧ c.active.getLsbD l
          match md with
          | .all => ∀ l, part l → yes l
          | .any => ∃ l, part l ∧ yes l
          | .uni => ∀ l m, part l → part m → (yes l ↔ yes m))
        ∧ Retires (.vote g md pd neg p) c (c.writesPred pd fun _ => r) s)
    ∧ (∀ (g : Guard) (d a b : Opnd) (s : State) (c : Issue), Gathered c s →
      let n (l : Nat) : Int := ((c.reg l b).toNat % 64 : Nat)
      (clear (.shflIdx g d a b) s = some c →
        Retires (.shflIdx g d a b) c (c.writes fun l => [(c.index d, c.shuffled a (n l) l)]) s)
      ∧ (clear (.shflXor g d a b) s = some c →
        Retires (.shflXor g d a b) c
          (c.writes fun l => [(c.index d, c.shuffled a ((c.number l ^^^ (n l).toNat : Nat) : Int) l)]) s)
      ∧ (clear (.shflUp g d a b) s = some c →
        Retires (.shflUp g d a b) c (c.writes fun l => [(c.index d, c.shuffled a (c.number l - n l) l)]) s)
      ∧ (clear (.shflDn g d a b) s = some c →
        Retires (.shflDn g d a b) c (c.writes fun l => [(c.index d, c.shuffled a (c.number l + n l) l)]) s)
      ∧ (clear (.xchg g d a b) s = some c → ∀ e, lowest c.active = some e →
        Retires (.xchg g d a b) c (c.writes fun l => [(c.index d, c.exchanged a ((c.reg e b).toNat % 8) l)]) s)
      ∧ (clear (.xchg g d a b) s = some c → c.active = 0 → Retires (.xchg g d a b) c {} s))
    ∧ (∀ (g : Guard) (op : FoldOp) (d a : Opnd) (s : State) (c : Issue), clear (.redux g op d a) s = some c →
      Gathered c s →
      (c.active = 0 → Retires (.redux g op d a) c {} s)
      ∧ ∀ x xs, (lanesIn c.active).map (fun l => c.laneValue a (c.number l)) = x :: xs →
        let start := if (op = .fadd ∨ op = .fmin ∨ op = .fmax) ∧ (read32 x).isNan = true then nan32 else x
        let r := xs.foldl (fun acc w => ((combineFold op acc.1 w).1, acc.2 ||| (combineFold op acc.1 w).2)) (start, (0 : Flags))
        Retires (.redux g op d a) c { c.writes (fun _ => [(c.index d, r.1)]) with flags := r.2 } s))
  ∧ ((∀ (i : Instr) (s : State) (c : Issue) (k l : Nat) (x : Strand), laneOperation i = true → clear i s = some c →
      c.uniform = false → c.set ≠ 0 → c.st.handler = none → c.st.seat = none → c.st.set = c.st.live → c.st.cur = c.st.live →
      (∀ l < 4, c.set.getLsbD l → (c.st.lanes.get l).atOp = none ∧ (c.st.flow l).same (c.st.flow c.lead) = true) →
      k ∈ c.it.strands → k ≠ c.key → s.strand k = some x → l < 4 → x.live.getLsbD l = true →
      (x.lanes.get l).atOp = none → c.key ∈ c.it.strands →
      ∃ t, exec i s = .next t ∧ (∀ k', k' ≠ c.key → t.strand k' = s.strand k') ∧ ∃ b, t.strand c.key = some b
        ∧ b.wait = .laneOp ∧ b.retcnt = c.st.retcnt
        ∧ ∀ l < 4, b.lanes.get l =
            { c.st.lanes.get l with atOp := if c.set.getLsbD l then some i else (c.st.lanes.get l).atOp })
    ∧ (∀ (item k : Nat) (i : Instr) (s : State) (st : Strand) (c : Issue) (it : Item), laneOperation i = true →
      Map.find item s.items = some it → it.tile < 768 → s.strand k = some st → st.item = item → st.wait = .laneOp →
      st.handler = none → st.seat = none → st.over = false →
      (it.strands.find? fun k => match s.strand k with | some st => !st.over && st.handler.isNone | none => false) = some k →
      (∀ l < 4, st.live.getLsbD l → (st.lanes.get l).atOp = some i) → st.cur = st.live →
      let s' := { s.adjStrand k (fun st => st.mapLanes st.live fun l => { l with atOp := none }) with cur := k }
      clear i s' = some c → Gathered c s' →
      ∃ t, exec i s' = .next t ∧ exec (.laneOpPerform item) s = .next { t with cur := s.cur }))

/-! Control. -/

/-- BRA, BRX, BRU and JMPF complete wherever their targets may be entered: each active lane goes to its target, the
other lanes of the set fall through (BRU takes the whole set), and nothing else changes. BRU is decided by one lane
for the whole set (R287): by the lowest live lane of the set, in a uniform clause by the strand's.
Choices of the model that it rests on: log entries 44 and 47. -/
def Obligations.BranchesComplete : Prop :=
  (∀ (g : Guard) (off : BitVec 21) (a : Opnd) (seg : BitVec 6) (s : State) (c : Issue),
      let at' (T : Nat → Nat) (l : Nat) (f : Flow) : Flow := { f with pc := T l, ctx := none }
      let goes (i : Instr) (T : Nat → Nat) : Prop :=
        clear i s = some c → (∀ l < 4, c.active.getLsbD l → c.mayGo s (T l)) →
          ∃ t, exec i s = .next t ∧ Transferred c c.active (at' T) (fun _ => none) s t
      (∀ (x : Clause) (target : Nat), c.clause = some x → (target : Int) = x.hdr + 4 * off.toInt →
          target / 4096 = x.hdr / 4096 →
          goes (.bra g off) (fun _ => target) ∧ goes (.bru g off) (fun _ => target))
      ∧ goes (.brx g a) (fun l => (c.reg l a).toNat % 2 ^ 18 / 4 * 4)
      ∧ goes (.jmpf g seg a) (fun l => seg.toNat * 4096 + (c.reg l a).toNat % 4096 / 4 * 4))
  ∧ (∀ (g : Guard) (off : BitVec 21) (s : State) (c : Issue), issueOf (.bru g off) s = some c →
      (c.active = c.set ∨ c.active = 0)
      ∧ ∀ l, lowest c.set = some l → c.uniform = false → (c.active = c.set ↔ guardHolds g (c.st.lanes.get l) = true ∨ c.set = 0))

/-- CALL and CALLX complete below the depth limit: each active lane pushes the offset of the next clause's header with its
segment's generation and goes to its target; the entry that leaves the four newest is spilled to its word. RET completes where every popped entry names a LANDED segment of the same
generation: each active lane pops its entry and goes there, in a uniform clause all of them where one of them goes.
Choices of the model that it rests on: log entries 44 and 90. -/
def Obligations.CallsAndReturnsComplete : Prop :=
  ∀ (g : Guard) (off : BitVec 21) (a : Opnd) (s : State) (c : Issue) (x : Clause), c.clause = some x →
    let room : Prop := ∀ l < 4, c.active.getLsbD l → (c.st.flow l).depth <
      (if c.st.handler.isSome || c.crew.isSome then 4 else (stageOf c.la c.it).spill / 4 + 4)
    let entry : Word := BitVec.ofNat 32 (x.stop % 2 ^ 18 * 2 ^ 14 + genAt s c.it.tile c.it.launch x.stop % 2 ^ 14)
    let spills (l : Nat) : Option (Nat × Word) :=
      if c.active.getLsbD l ∧ 4 ≤ (c.st.flow l).depth
      then some (c.spillWord ((c.st.flow l).depth + 1 - 4), (c.st.flow l).stack.getD 3 0) else none
    let calls (i : Instr) (T : Nat → Nat) : Prop :=
      clear i s = some c → (∀ l < 4, c.active.getLsbD l → c.mayGo s (T l)) → room →
        ∃ t, exec i s = .next t ∧ Transferred c c.active
          (fun l f => { pc := T l, ctx := none, stack := entry :: f.stack }) spills s t
    (∀ target : Nat, (target : Int) = x.hdr + 4 * off.toInt → target / 4096 = x.hdr / 4096 →
        calls (.call g off) fun _ => target)
    ∧ calls (.callx g a) (fun l => (c.reg l a).toNat % 2 ^ 18 / 4 * 4)
    ∧ (clear (.ret g) s = some c →
        (∀ l < 4, c.active.getLsbD l → ∃ e es q, (c.st.flow l).stack = e :: es
          ∧ Map.find (e.toNat / 2 ^ 14 / 4096) (s.heldAt c.it.tile c.it.launch).segs = some q ∧ q.state = 2
          ∧ q.gen = e.toNat % 2 ^ 14
          ∧ (∀ seat r, c.crew = some seat → Map.find seat.crew s.crews = some r → e.toNat / 2 ^ 14 / 4096 = r.seg)
          ∧ (5 ≤ (c.st.flow l).depth → c.spillWord ((c.st.flow l).depth - 4) ∉ (c.st.lanes.get l).bad)) →
        ∃ t, exec (.ret g) s = .next t ∧ Transferred c c.active
          (fun l f => { pc := ((c.st.flow (c.guide l)).stack.headD 0).toNat / 2 ^ 14, ctx := none, stack := f.stack.drop 1 }) (fun _ => none) s t)

/-- Where a transfer may not go, it fails for every lane: a target outside the allotment raises REG_BOUND, one in a segment
that is not LANDED CODE_NOT_LANDED, a call at the depth limit STACK_OVF, a return with an empty stack STACK_EMPTY; nothing
moves but into the handler.
Choices of the model that it rests on: log entry 45. -/
def Obligations.TransfersThatFailTrap : Prop :=
  ∀ (g : Guard) (a : Opnd) (s : State) (c : Issue), c.crew = none →
    let T (l : Nat) : Nat := (c.reg l a).toNat % 2 ^ 18 / 4 * 4
    let traps (i : Instr) (code : Nat) (mask : BitVec 4) : Prop :=
      ∃ r : Raise, r.code = code ∧ r.mask = mask ∧ r.pc = c.pc ∧ exec i s = .next (trap c.key r s)
    let out : BitVec 4 := maskOf fun l => c.active.getLsbD l && decide (c.la.nseg ≤ T l / 4096)
    let dark : BitVec 4 := maskOf fun l => c.active.getLsbD l
      && ((Map.find (T l / 4096) (s.heldAt c.it.tile c.it.launch).segs).map (·.state)) != some 2
    let full : BitVec 4 := maskOf fun l => c.active.getLsbD l && decide (c.depthLimit ≤ (c.st.flow l).depth)
    let empty : BitVec 4 := maskOf fun l => c.active.getLsbD l && (c.st.flow l).stack == []
    (clear (.brx g a) s = some c → (out ≠ 0 → traps (.brx g a) 0x08 out)
      ∧ (out = 0 → dark ≠ 0 → traps (.brx g a) 0x0A dark))
    ∧ (clear (.callx g a) s = some c → (out ≠ 0 → traps (.callx g a) 0x08 out)
      ∧ (out = 0 → dark ≠ 0 → traps (.callx g a) 0x0A dark)
      ∧ (out = 0 → dark = 0 → full ≠ 0 → traps (.callx g a) 0x0B full))
    ∧ (clear (.ret g) s = some c → empty ≠ 0 → traps (.ret g) 0x0E empty)

/-- EXIT ends each active lane, outside a handler and crew code; the others of the set fall through; an item all of
whose strands have exited is to retire; memory, other strands and the lane's registers are as they were. EXIT with no
active lane, and TRAP and BKPT with none, do nothing.
Choices of the model that it rests on: log entry 46. -/
def Obligations.ExitEndsItsLanes : Prop :=
  (∀ (g : Guard) (s : State) (c : Issue), clear (.exit g) s = some c → c.active ≠ 0 → c.crew = none →
      c.st.handler = none →
      ∃ t, exec (.exit g) s = .next t ∧ (∀ k, k ≠ c.key → t.strand k = s.strand k)
        ∧ (∃ b, t.strand c.key = some b ∧ Counted c b
            ∧ ∀ l < 4, b.lanes.get l = { c.st.lanes.get l with
                exited := (c.st.lanes.get l).exited || c.active.getLsbD l
                flow := if c.set.getLsbD l && !c.active.getLsbD l
                  then { c.st.flow l with pc := (c.st.flow l).pc + c.size } else c.st.flow l })
        ∧ ((∀ k ∈ c.it.strands, ∀ x, t.strand k = some x → x.over = true) →
            Turn.event (.itemRetire c.st.item) ∈ t.plan)
        ∧ t.mem = s.mem ∧ t.held = s.held ∧ t.tiles = s.tiles ∧ t.hostMem = s.hostMem ∧ t.crews = s.crews)
  ∧ (∀ (g : Guard) (n : BitVec 7) (s : State) (c : Issue), c.active = 0 →
      (clear (.exit g) s = some c → Retires (.exit g) c {} s)
      ∧ (clear (.trap g n) s = some c → Retires (.trap g n) c {} s)
      ∧ (clear (.bkpt g n) s = some c → Retires (.bkpt g n) c {} s)
      ∧ (clear (.eret g) s = some c → Retires (.eret g) c {} s))

/-! Traps. -/

/-- Taking a precise cause that is not fatal, outside a handler and a crew, with nothing of the strand in flight: the
strand enters the handler at offset 0 of segment 0 (R424, R425). A second cause in the handler is a double fault: the
strand's lanes end (R427). A fatal cause ends the launch next, after fatal causes raised before it, and is the strand's
latest record (R422, R430).
Choices of the model that it rests on: log entry 110. -/
def Obligations.PreciseCausesEnterTheHandler : Prop :=
  ∀ (k : Nat) (r : Raise) (s : State) (st : Strand) (it : Item), s.strand k = some st →
    Map.find st.item s.items = some it →
    ((1 ≤ r.code ∧ r.code ≤ 6 ∨ r.code = 0x71) → ∀ first rest, s.plan = first ++ rest →
        (∀ x ∈ first, ∃ a b d, x = .event (.launchFatal a b d)) →
        (∀ a b d, rest.head? ≠ some (.event (.launchFatal a b d))) →
        trap k r s = { s.setStrand k { st with fault := r.record r.pc st.ovf } with
          plan := first ++ .event (.launchFatal it.launch r.code k) :: rest })
    ∧ (¬(1 ≤ r.code ∧ r.code ≤ 6 ∨ r.code = 0x71) → st.seat = none → st.handler = none →
        (∀ p ∈ st.pend, p.open = false ∧ p.ready = false) → handlerLanded s st.item →
        ∃ b, trap k r s = s.setStrand k b ∧ Entered r st b)
    ∧ (¬(1 ≤ r.code ∧ r.code ≤ 6 ∨ r.code = 0x71) → st.seat = none → st.handler ≠ none →
        ∃ b, (trap k r s).strand k = some b ∧ b.handler = none ∧ b.over = true
          ∧ (∀ j, j ≠ k → (trap k r s).strand j = s.strand j))

/-- TRAP n and BKPT n with an active lane raise SOFTWARE_TRAP and BREAKPOINT after themselves (R295): the strand is in the
handler with its active lanes, the record holds the cause, n and the mask, and the resume point is the next header.
Choices of the model that it rests on: log entries 38, 46 and 48. -/
def Obligations.TrapAndBkptEnterTheHandler : Prop :=
  ∀ (g : Guard) (n : BitVec 7) (s : State) (c : Issue), c.active ≠ 0 → c.crew = none → c.st.handler = none →
    (∀ p ∈ c.st.pend, p.open = false) → handlerLanded s c.st.item →
    let enters (i : Instr) (code origin : Nat) : Prop :=
      ∃ t a b, exec i s = .next t ∧ Moved c {} c.st a ∧ t = s.setStrand c.key b
        ∧ Entered { code := code, mask := c.active, info0 := n.toNat, origin := origin, pc := c.pc, active := c.active
                    gen := (c.raise code).gen, hmask := c.active, retcnt := c.st.retcnt.toNat + 1 } a b
    (clear (.trap g n) s = some c → enters (.trap g n) 0x0C 0)
    ∧ (clear (.bkpt g n) s = some c → enters (.bkpt g n) 0x78 5)

/-- ERET returns (R428): with no logged access, no access of the handler in flight, no halt and no held-back step, the
strand leaves the handler; each lane stands where it was interrupted, a lane inside a clause to fetch it again; the
current set is the interrupted one. ERET outside a handler raises ERET_CONTEXT (R295).
Choices of the model that it rests on: log entries 48 and 133. -/
def Obligations.EretReturnsOrTraps : Prop :=
  (∀ (g : Guard) (s : State) (c : Issue) (h : Interrupted), clear (.eret g) s = some c → c.active ≠ 0 →
      c.st.handler = some h → (∀ p ∈ c.st.pend, p.open = false) → haltCovers c.la c.it = false → c.st.oplog = [] →
      c.st.stepHeld = none → c.st.fault.rec0.toNat % 128 ≠ 0x52 → h.cur &&& c.st.live ≠ 0 →
      ∃ t b, exec (.eret g) s = .next t ∧ t = s.setStrand c.key b
        ∧ (∀ l < 4, (b.flow l).pc = (h.flows.get l).pc ∧ (b.flow l).stack = (h.flows.get l).stack
            ∧ (b.flow l).ctx = (h.flows.get l).ctx.bind fun x =>
                if x.waited then some { x with resume := x.stop != (h.flows.get l).pc } else none)
        ∧ (∀ l < 4, b.lanes.get l = { c.st.lanes.get l with flow := b.flow l })
        ∧ b = { c.st with
            lanes := b.lanes, cur := h.cur, handler := none
            wait := match h.wait with
              | .barrier n p => .barrier n p
              | _ => .none })
  ∧ (∀ (g : Guard) (s : State) (c : Issue), clear (.eret g) s = some c → c.active ≠ 0 → c.st.handler = none →
      ∃ r : Raise, r.code = 0x0D ∧ r.info0 = 0 ∧ r.info1 = 0 ∧ exec (.eret g) s = .next (trap c.key r s))

/-! The sequencer's turns. -/

/-- CLAUSE_FETCH at a header that passes every check puts the current set into the clause, still to wait (R115, R135);
a header word that fails its own check raises CLAUSE_FORMAT, and a segment that is not LANDED CODE_NOT_LANDED. A set that
resumes inside a clause has it fetched and checked from its header again, without the wait, where its segment is LANDED in
the generation held (R116), and raises CODE_NOT_LANDED where it is not. A fetch that meets words that cannot be read makes
the segment POISONED and traps at the header (R434).
CLAUSE_WAIT_SATISFIED, once the conditions of R120 hold, moves the set to the clause's first instruction.
Choices of the model that it rests on: log entry 88. -/
def Obligations.ClausesAreFetchedAndEntered : Prop :=
  ∀ (s : State) (h : Here), s.here = some h → h.st.set ≠ 0 →
    let pc := h.flow.pc
    let w := codeWord h.held pc
    (h.flow.ctx = none → (∀ q, Map.find (pc / 4096) h.held.segs = some q → q.state ≠ 2) →
      exec .clauseFetch s = .next (trap h.key (fetchRaise h.held h.st 0x0A pc) s))
    ∧ (∀ q, h.flow.ctx = none → Map.find (pc / 4096) h.held.segs = some q → q.state = 2 →
        h.held.badCode.contains (pc / 4096) = false →
        (headerFails w = true →
          exec .clauseFetch s = .next (trap h.key (fetchRaise h.held h.st 0x05 pc) (s.setStrand h.key h.st)))
        ∧ (∀ slots stop, headerFails w = false → (headerOf w).j = false →
            walkClause h.held (pc / 4096 * 4096 + 4096) (headerOf w).n (pc + 4) = some (slots, stop) →
            clauseFails pc (headerOf w) slots = none → ((headerOf w).wct = true → (headerOf w).ctr < h.la.kcnt) →
            ∃ b, exec .clauseFetch s = .next (s.setStrand h.key b)
              ∧ (∀ l < 4, b.lanes.get l = if h.st.set.getLsbD l then { h.st.lanes.get l with
                  flow := { h.st.flow l with ctx := some ⟨pc, q.gen, w, stop, false, none, false⟩ } } else h.st.lanes.get l)
              ∧ b = { h.st with lanes := b.lanes, wait := .none }))
    ∧ (∀ q, h.flow.ctx = none → Map.find (pc / 4096) h.held.segs = some q → q.state = 2 →
        h.held.badCode.contains (pc / 4096) = true →
        exec .clauseFetch s = .next (trap h.key (fetchRaise h.held h.st 0x0A pc)
          (s.adjHeld h.it.tile h.it.launch fun t =>
            { t with segs := Map.adjust (pc / 4096) (fun g => { g with state := 3 }) t.segs })))
    ∧ (∀ x, h.flow.ctx = some x → x.waited = true → x.resume = true →
        (∀ q, Map.find (x.hdr / 4096) h.held.segs = some q → q.state ≠ 2 ∨ q.gen ≠ x.gen) →
        exec .clauseFetch s = .next (trap h.key (fetchRaise h.held h.st 0x0A pc) s))
    ∧ (∀ x q slots stop, h.flow.ctx = some x → x.waited = true → x.resume = true →
        let v := codeWord h.held x.hdr
        Map.find (x.hdr / 4096) h.held.segs = some q → q.state = 2 → q.gen = x.gen →
        h.held.badCode.contains (x.hdr / 4096) = false → headerFails v = false →
        walkClause h.held (x.hdr / 4096 * 4096 + 4096) (headerOf v).n (x.hdr + 4) = some (slots, stop) →
        ((headerOf v).wct = true → (headerOf v).ctr < h.la.kcnt) → clauseFails x.hdr (headerOf v) slots = none →
        (pc = stop ∨ ∃ y ∈ slots, y.off = pc) →
        ∃ b, exec .clauseFetch s = .next (s.setStrand h.key b)
          ∧ (∀ l < 4, b.lanes.get l = if h.st.set.getLsbD l then { h.st.lanes.get l with
              flow := { h.st.flow l with ctx := some { x with word := v, stop := stop, resume := false } } } else h.st.lanes.get l)
          ∧ b = { h.st with lanes := b.lanes, wait := .none })
    ∧ (∀ x, h.flow.ctx = some x → x.waited = false → clauseReady s h x = false →
        exec .clauseWaitSatisfied s = .next (s.adjStrand h.key fun st => { st with wait := .clause }))
    ∧ (∀ x, h.flow.ctx = some x → x.waited = false → clauseReady s h x = true → x.fail = none →
        (∀ p ∈ h.st.pend, p.ready = false) →
        ∃ b, exec .clauseWaitSatisfied s = .next (s.setStrand h.key b)
          ∧ (∀ l < 4, b.lanes.get l = if h.st.set.getLsbD l then { h.st.lanes.get l with
              flow := { h.st.flow l with pc := x.hdr + 4, ctx := some { x with waited := true } } } else h.st.lanes.get l)
          ∧ b = { h.st with lanes := b.lanes, wait := .none })

/-- IMPRECISE_DELIVERY takes the oldest queued cause of a strand that may take one, with its current set as handler lanes
(R421); PRECISE_TRAP_ENTRY enters the handler of a trap whose strand has nothing left in flight (R420).
Choices of the model that it rests on: log entries 110 and 111. -/
def Obligations.HeldCausesAreDelivered : Prop :=
  ∀ (s : State) (st : Strand), s.strand s.cur = some st → handlerLanded s st.item →
    (∀ q rest, mayDeliver st = true → st.queue = q :: rest →
      ∃ b, exec .impreciseDelivery s = .next (s.setStrand s.cur b)
        ∧ Entered { q with precise := false, hmask := st.set } { st with queue := rest } b)
    ∧ (∀ r, st.trapping = some r → (∀ p ∈ st.pend, p.open = false ∧ p.ready = false) →
      ∃ b, exec .preciseTrapEntry s = .next (s.setStrand s.cur b) ∧ Entered r st b)

/-! Code segments, synchronisation and scheduling inside a tile. -/

/-- CFETCH of an allotted slot that nothing uses, from an aligned address whose pages translate, completes: the slot
is LOADING from there, its landing comes, and the strand goes on; every other slot, counter and word of code stays.
The landing makes the slot LANDED, or POISONED, in the next generation, and decrements the counter. CSEG writes the
generation and state of the segment slots that its lanes name (R292); a slot outside the allotment raises REG_BOUND
for the lowest such lane.
Choices of the model that it rests on: log entry 87. -/
def Obligations.CodeSegmentsComplete : Prop :=
  ((∀ (g : Guard) (seg : BitVec 6) (a : Opnd) (k : BitVec 6) (s : State) (c : Issue) (h : TileLaunch) (q : Seg)
        (ls : List (Nat × Nat)), clear (.cfetch g seg a k) s = some c → c.once = true → seg.toNat < c.la.nseg →
      Map.find (heldKey c.it.tile c.it.launch) s.held = some h → Map.find seg.toNat h.segs = some q →
      slotBusy s c.it.tile c.it.launch seg.toNat = false →
      let va := (c.pair c.elect a).toNat
      canonical va = true → va % 256 = 0 → (sourceLines c.it.tile c.la.asid c.la.priv va 16 s).2 = .ok ls →
      ∃ u, Does (.cfetch g seg a k) c {} s u ∧ u.strands = s.strands ∧ u.launches = s.launches ∧ u.convoys = s.convoys
        ∧ u.plan = s.plan ++ [.event (.segmentLanding c.it.tile c.it.launch seg.toNat)]
        ∧ u.heldAt c.it.tile c.it.launch = { h with segs := (u.heldAt c.it.tile c.it.launch).segs }
        ∧ (∀ n, n ≠ seg.toNat → Map.find n (u.heldAt c.it.tile c.it.launch).segs = Map.find n h.segs)
        ∧ ∃ x, Map.find seg.toNat (u.heldAt c.it.tile c.it.launch).segs = some x ∧ x.state = 1 ∧ x.gen = q.gen
          ∧ x.source = va ∧ x.lines = ls ∧ x.k = some k.toNat)
    ∧ ∀ (tile launch seg : Nat) (s : State) (h : TileLaunch) (q : Seg), Map.find (heldKey tile launch) s.held = some h →
      Map.find seg h.segs = some q → q.state = 1 →
      ∃ t, exec (.segmentLanding tile launch seg) s = .next t ∧ t.strands = s.strands ∧ t.launches = s.launches
        ∧ (∃ x, Map.find seg (t.heldAt tile launch).segs = some x ∧ (x.state = 2 ∨ x.state = 3)
            ∧ x.gen = (q.gen + 1) % 2 ^ 14 ∧ x.source = q.source ∧ x.k = none)
        ∧ (∀ n, n ≠ seg → Map.find n (t.heldAt tile launch).segs = Map.find n h.segs)
        ∧ (∀ n, n / 1024 ≠ seg → q.lines.length ≤ 16 → Table.get 0 n (t.heldAt tile launch).code = Table.get 0 n h.code)
        ∧ (∀ j, q.k ≠ some j → counterAt t tile launch j = counterAt s tile launch j)
        ∧ (∀ j, q.k = some j → (∀ it, Map.find q.item s.items = some it → ∀ d ∈ it.deferred, d.id ≠ q.cmd) →
            (counterAt t tile launch j).toInt = max (-(2 ^ 31)) ((counterAt s tile launch j).toInt - 1)))
  ∧ (∀ (g : Guard) (d a : Opnd) (s : State) (c : Issue), clear (.cseg g d a) s = some c →
      let slot (l : Nat) : Nat := (c.reg l a).toNat % 64
      let word (n : Nat) : Word := match Map.find n (s.heldAt c.it.tile c.it.launch).segs with
        | some x => BitVec.ofNat 32 (4 * (x.gen % 2 ^ 14) + x.state)
        | none => 0
      ((∀ l ∈ c.doers, slot l < c.la.nseg) → Retires (.cseg g d a) c (c.writes fun l => [(c.index d, word (slot l))]) s)
      ∧ ∀ l ∈ c.doers, c.la.nseg ≤ slot l → (∀ m ∈ c.doers, m < l → slot m < c.la.nseg) →
          exec (.cseg g d a) s = .next (trap c.key (c.raise 0x08 (maskOf (· == l))) s))

/-- BAR, BARARV and BARWT on a barrier that the item is a party of (R244, R245). An arrival joins the arrived strands; the
one that completes the party starts the next phase with nobody arrived. BAR waits for that, BARARV writes the phase it
arrived in and goes on, BARWT waits while the phase is the one it names. On no barrier of the item they raise
BARRIER_PARTY.
Choices of the model that it rests on: log entry 39. -/
def Obligations.BarriersComplete : Prop :=
  ∀ (g : Guard) (d a : Opnd) (n : BitVec 7) (s : State) (c : Issue),
    let p := barPlace c.la c.it n.toNat
    let b := barAt s c.it p n.toNat
    let last := (barParty s c.la c.it p n.toNat).all fun k => k == c.key || b.arrived.contains k
    let joined : Barrier := ⟨b.phase, b.arrived ++ [c.key]⟩
    let arrives := setBar c.st.item c.it p n.toNat (if last then ⟨b.phase + 1, []⟩ else joined) s
    (p = .none →
      (clear (.bar g n) s = some c → exec (.bar g n) s = .next (trap c.key (c.raise 0x2C) s))
      ∧ (clear (.bararv g d n) s = some c → exec (.bararv g d n) s = .next (trap c.key (c.raise 0x2C) s))
      ∧ (clear (.barwt g a n) s = some c → exec (.barwt g a n) s = .next (trap c.key (c.raise 0x2C) s)))
    ∧ (p ≠ .none → (p = .group → ∃ cv, Map.find c.it.convoy s.convoys = some cv) → c.awaitsToken = false →
        c.key ∉ b.arrived →
        (clear (.bar g n) s = some c → (∀ k q, c.st.wait ≠ .barrier k q) →
          (last = true → Does (.bar g n) c {} s arrives)
          ∧ (last = false → exec (.bar g n) s
              = .next (arrives.adjStrand c.key fun st => { st with wait := .barrier n.toNat b.phase.toNat })))
        ∧ (clear (.bararv g d n) s = some c →
          Does (.bararv g d n) c (c.writes fun _ => [(c.index d, b.phase.setWidth 32)]) s arrives))
    ∧ (p ≠ .none → clear (.bar g n) s = some c → ∀ q, c.st.wait = .barrier n.toNat q →
        (b.phase.toNat ≠ q → Retires (.bar g n) c {} s)
        ∧ (b.phase.toNat = q → WaitsAt (.bar g n) c (.barrier n.toNat q) s))
    ∧ (p ≠ .none → clear (.barwt g a n) s = some c → ∀ l, lowest c.st.live = some l →
        (b.phase.toNat ≠ (c.reg l a).toNat % 2 ^ 16 → Retires (.barwt g a n) c {} s)
        ∧ (b.phase.toNat = (c.reg l a).toNat % 2 ^ 16 → WaitsAt (.barwt g a n) c (.barrier n.toNat b.phase.toNat) s))

/-- KINIT and KADD give the counter the operand, or the sum with it, as a signed number, once for the item (R246, R247);
beyond the range of the counter it stands at the nearest bound and COUNTER_RANGE follows the instruction. Other counters
stay; where the elected lane's guard is false nothing happens.
Choices of the model that it rests on: log entries 37 and 38. -/
def Obligations.CountersComplete : Prop :=
  ∀ (g : Guard) (k imm : BitVec 6) (a : Opnd) (s : State) (c : Issue) (h : TileLaunch), c.awaitsToken = false →
    Map.find (heldKey c.it.tile c.it.launch) s.held = some h →
    let n := fun u j => (counterAt u c.it.tile c.it.launch j).toInt
    let sets (i : Instr) (x : Int) : Prop := clear i s = some c →
      let y := max (-(2 ^ 31)) (min x (2 ^ 31 - 1))
      (c.once = false → Retires i c {} s)
      ∧ (c.once = true → ∃ u, n u k.toNat = y ∧ (∀ j, j ≠ k.toNat → n u j = n s j)
          ∧ u = { s with held := u.held, plan := u.plan }
          ∧ (u.plan = s.plan ∨ n s k.toNat ≠ 0 ∧ y = 0 ∧ u.plan = s.plan ++ [.event (.itemAdmission c.it.tile)])
          ∧ (x = y → Does i c {} s u)
          ∧ (x ≠ y → c.crew = none → c.st.handler = none → (∀ p ∈ c.st.pend, p.open = false) → handlerLanded s c.st.item →
              ∃ t m b, exec i s = .next t ∧ Moved c {} c.st m ∧ t = u.setStrand c.key b
                ∧ Entered { c.raise 0x2B c.electedMask with retcnt := c.st.retcnt.toNat + 1 } m b))
    sets (.kinitReg g k a) (c.reg c.elect a).toInt
    ∧ sets (.kinitImm g k imm) imm.toInt
    ∧ sets (.kaddReg g k a) (n s k.toNat + (c.reg c.elect a).toInt)
    ∧ sets (.kaddImm g k imm) (n s k.toNat + imm.toInt)

/-- Where the token goes next (R410): to the next member, or from the last one to the first of the ring with those that
were admitted meanwhile, in order of (stage, ITEMID). TOKPASS waits while an access of another strand of the item that the
token rules hold is still to be performed (R251).
Choices of the model that it rests on: log entry 104. -/
def Obligations.TokensPassAlongTheRing : Prop :=
  let passed (s t : State) (h : Nat) (la : Launch) : Prop := ∃ lb, Map.find h t.launches = some lb
    ∧ lb.token.passes = (la.token.passes + 1) % 2 ^ 64
    ∧ (la.token.holder + 1 < la.token.ring.length →
        lb.token.ring = la.token.ring ∧ lb.token.holder = la.token.holder + 1 ∧ lb.token.joining = la.token.joining)
    ∧ (la.token.holder + 1 = la.token.ring.length →
        lb.token.holder = 0 ∧ lb.token.joining = [] ∧ lb.token.ring.Perm (la.token.ring ++ la.token.joining)
          ∧ lb.token.ring.Pairwise fun a b => ringKey s a ≤ ringKey s b)
  (∀ (g : Guard) (d : Opnd) (s : State) (c : Issue), clear (.tokwait g d) s = some c →
    (c.la.det = false → Retires (.tokwait g d) c (c.writes fun _ => [(c.index d, 0)]) s)
    ∧ (c.la.det = true → holdsToken c.la c.it c.st.item = true →
        Retires (.tokwait g d) c (c.writes fun _ => [(c.index d, BitVec.ofNat 32 c.la.token.passes)]) s)
    ∧ (c.la.det = true → holdsToken c.la c.it c.st.item = false → WaitsAt (.tokwait g d) c .token s))
  ∧ (∀ (g : Guard) (s : State) (c : Issue), clear (.tokpass g) s = some c →
    ((c.once = false ∨ c.la.det = false ∨ holdsToken c.la c.it c.st.item = false) → Retires (.tokpass g) c {} s)
    ∧ (c.once = true → c.la.det = true → holdsToken c.la c.it c.st.item = true →
        (accessHeld s c.it c.key = false →
          ∃ u, Does (.tokpass g) c {} s u ∧ u.strands = s.strands ∧ u.held = s.held ∧ passed s u c.it.launch c.la)
        ∧ (accessHeld s c.it c.key = true → WaitsAt (.tokpass g) c .issue s)))
  ∧ ∀ (h item : Nat) (s : State) (la : Launch) (it : Item), Map.find h s.launches = some la → la.det = true →
    la.state = .live → la.token.ring[la.token.holder]? = some item → Map.find item s.items = some it →
    itemOver s it = false →
    (allLive s it (fun st => st.wait != .none) = true →
      ∃ t, exec (.tokenForcedPass h) s = .next t ∧ passed s t h la
        ∧ (∀ lb, Map.find h t.launches = some lb → lb.detbreak = true) ∧ ∃ k ∈ it.strands, queuedFor t k 0x70)
    ∧ (allLive s it (fun st => st.wait != .none) = false → exec (.tokenForcedPass h) s = .next s)

/-- FORK starts the item's program on a free engine with the elected thread's v0 to v63 and the strand's d0 to d15,
waits for one that runs, and raises CODE_NOT_LANDED where its entry's segment is not LANDED (R253, R381). RDV gives 0
without a program, waits for one that runs, and else gives its status. A program that has stopped, and whose commands
are complete, ends: its counter is decremented and RDV waits no longer. GRES resolves an EMPTY slot with the elected
lane's predicate and waits for one that is not EMPTY; the oldest held command that names a resolved slot then goes on
(TRUE) or is discarded (FALSE), and the slot is EMPTY again (R255).
Choices of the model that it rests on: log entries 41, 42 and 43. -/
def Obligations.EngineProgramsAndGuardsComplete : Prop :=
  ((∀ (g : Guard) (e : EngineKind) (a : Opnd) (k : BitVec 6) (s : State) (c : Issue), clear (.fork g e a k) s = some c →
      let entry := (c.reg c.elect a).toNat % 2 ^ 18 / 4 * 4
      let landed := ∃ x, Map.find (entry / 4096) (s.heldAt c.it.tile c.it.launch).segs = some x ∧ x.state = 2
      let busy := ∃ p, Map.find e.code.toNat c.it.progs = some p ∧ p.running = true
      (c.once = false → Retires (.fork g e a k) c {} s)
      ∧ (c.once = true → ¬landed → ∃ info, exec (.fork g e a k) s
          = .next (trap c.key { c.raise 0x0A c.electedMask with info1 := info } s))
      ∧ (c.once = true → landed → busy → WaitsAt (.fork g e a k) c .engine s)
      ∧ (c.once = true → landed → ¬busy → ∃ u, Does (.fork g e a k) c {} s u ∧ u.strands = s.strands ∧ u.held = s.held
          ∧ u.launches = s.launches ∧ u.plan = s.plan ++ [.event (.engineProgramEnd c.st.item e)]
          ∧ ∃ it p, Map.find c.st.item u.items = some it ∧ Map.find e.code.toNat it.progs = some p ∧ p.running = true
            ∧ p.ending = false ∧ p.pc = entry ∧ p.left = 0 ∧ p.status = 0 ∧ p.k = k.toNat ∧ p.d = c.st.d
            ∧ ∀ n < 64, Table.get 0 n p.v = Table.get 0 n (c.st.lanes.get c.elect).v))
    ∧ (∀ (g : Guard) (d : Opnd) (e : EngineKind) (s : State) (c : Issue), clear (.rdv g d e) s = some c →
      (Map.find e.code.toNat c.it.progs = none → Retires (.rdv g d e) c (c.writes fun _ => [(c.index d, 0)]) s)
      ∧ ∀ p, Map.find e.code.toNat c.it.progs = some p →
        (p.running = true → WaitsAt (.rdv g d e) c .engine s)
        ∧ (p.running = false → Retires (.rdv g d e) c (c.writes fun _ => [(c.index d, BitVec.ofNat 32 p.status)]) s))
    ∧ ∀ (item : Nat) (e : EngineKind) (s : State) (it : Item) (p : EngineProg), Map.find item s.items = some it →
      it.tile < 768 → Map.find e.code.toNat it.progs = some p → p.running = true → p.ending = true →
      (∀ x ∈ engineCommands s it item e.code.toNat, x.program = false) →
      ∃ t, exec (.engineProgramEnd item e) s = .next t ∧ t.strands = s.strands
        ∧ (∃ it', Map.find item t.items = some it' ∧ Map.find e.code.toNat it'.progs = some { p with running := false })
        ∧ ((∀ x ∈ it.deferred, x.id ≠ p.id) → ∀ h, Map.find (heldKey it.tile it.launch) s.held = some h →
            (counterAt t it.tile it.launch p.k).toInt = max (-(2 ^ 31)) ((counterAt s it.tile it.launch p.k).toInt - 1)))
  ∧ ((∀ (g : Guard) (slot : BitVec 4) (neg : Bool) (p : BitVec 3) (s : State) (c : Issue) (h : TileLaunch),
      clear (.gres g slot neg p) s = some c → Map.find (heldKey c.it.tile c.it.launch) s.held = some h →
      (c.once = false → Retires (.gres g slot neg p) c {} s)
      ∧ (c.once = true → guardAt s c.it.tile c.it.launch slot.toNat ≠ 0 → WaitsAt (.gres g slot neg p) c .engine s)
      ∧ (c.once = true → guardAt s c.it.tile c.it.launch slot.toNat = 0 → ∃ u, Does (.gres g slot neg p) c {} s u
          ∧ u.strands = s.strands ∧ u.items = s.items
          ∧ guardAt u c.it.tile c.it.launch slot.toNat = (if (c.st.lanes.get c.elect).pred p != neg then 1 else 2)
          ∧ (∀ j, j ≠ slot.toNat → guardAt u c.it.tile c.it.launch j = guardAt s c.it.tile c.it.launch j)
          ∧ u.plan = s.plan ++ [.event (.guardedCommandRelease c.it.tile c.it.launch slot.toNat)]))
    ∧ ∀ (tile launch slot n : Nat) (s : State) (e : Command), guardAt s tile launch slot ≠ 0 → tile < 768 → n < 3 →
      ((heldGuarded tile launch s).find? fun x => x.2.guardSlot == some slot) = some (n, e) →
      let queue (t : State) : List Command :=
        if n = 0 then (t.tile tile).copies else if n = 1 then (t.tile tile).array else (t.die (dieOf tile)).routes
      ∃ t, exec (.guardedCommandRelease tile launch slot) s = .next t ∧ guardAt t tile launch slot = 0
        ∧ (guardAt s tile launch slot = 1 → ∀ x ∈ queue t, x.id = e.id → x.guardSlot = none)
        ∧ (guardAt s tile launch slot ≠ 1 → ∀ x ∈ queue t, x.id ≠ e.id))

/-- CREW forms a crew of 4G + 1 workers on the granted contexts, with the recruiter's registers as their window, or is
refused with a reason in s63, in crew code in the worker's own (R385, R386); CRWEND reads the outcome; CRWRED notes
each active worker's contribution (R388, R389). A worker begins its next iteration at the start of the crew segment
with the number in v0 (R386); a crew that has nothing left ends, and its recruiter has the folds, the outcome and its
contexts back (R386 to R390); a release stops new rounds (R391), and a worker's fault cancels the crew and is queued
for the recruiter (R392). That a crew ends and is cancelled is said of a recruiter that holds no single step back
(R475).
Choices of the model that it rests on: log entries 99 and 100. -/
def Obligations.CrewsComplete : Prop :=
  ((∀ (g : Guard) (d a b : Opnd) (s : State) (c : Issue) (lane : Nat), clear (.crew g d a b) s = some c → c.uniform = false →
      c.key < 98304 →
      lowest c.active = some lane → c.st.handler = none →
      let seg := (c.reg lane a).toNat % 64
      let request := (c.reg lane a).toNat / 2 ^ 16 % 2 ^ 7
      let n := (c.reg lane b).toNat
      seg < c.la.nseg → (c.la.segtab.getD seg 0).testBit 1 = true →
      let ctxs := (upTo 128).filter (if c.la.det then (if request = 0 then [] else c.it.reserved)
        else grantContexts s c.la c.it c.st.item request).contains
      let reason := crewReason c s seg request n ctxs
      let vs (x : Nat) : Change := c.writes fun l => [(c.index d, BitVec.ofNat 32 (if l = lane then x else 0))]
      let ch (x : Nat) : Change :=
        { v := fun l m => if c.crew.isSome ∧ l = lane ∧ m = 512 + 63 then some (BitVec.ofNat 32 reason) else (vs x).v l m
          s := fun m => if c.crew = none ∧ m = 63 then some (BitVec.ofNat 32 reason) else none }
      (reason ≠ 0 → Does (.crew g d a b)
        { c with st := { c.st with crewWord := if c.crew.isSome then c.st.crewWord else 0 } } (ch 0) s s)
      ∧ (reason = 0 → ∃ u, Does (.crew g d a b) { c with st := { c.st with crewWord := 0, crew := some s.nextId } }
            (ch (4 * ctxs.length)) s u
          ∧ (∀ k, (∀ x ∈ c.st.context :: ctxs, k ≠ crewKey c.it.tile x) → k ≠ c.key → u.strand k = s.strand k)
          ∧ (∀ w ≤ 4 * ctxs.length, Turn.event (.crewIterationStart s.nextId w) ∈ u.plan)
          ∧ ∃ r, Map.find s.nextId u.crews = some r ∧ r.recruiter = c.key ∧ r.lane = lane ∧ r.contexts = ctxs ∧ r.seg = seg
            ∧ r.count = n ∧ r.g = ctxs.length ∧ r.begun = [] ∧ r.ended = [] ∧ r.limit = none
            ∧ (∀ m < min 64 c.vregs, m ≠ c.index d → Table.get 0 m r.window = Table.get 0 m (c.st.lanes.get lane).v)))
    ∧ (∀ (g : Guard) (d : Opnd) (s : State) (c : Issue), clear (.crwend g d) s = some c →
      Retires (.crwend g d) c (c.writes fun _ => [(c.index d, c.st.crewWord)]) s)
    ∧ ∀ (g : Guard) (op : FoldOp) (t : BitVec 6) (a : Opnd) (s : State) (c : Issue),
      clear (.crwred g op (.dir t) a) s = some c →
      (c.crew = none → exec (.crwred g op (.dir t) a) s = .next (trap c.key (c.raise 0x59) s))
      ∧ ∀ seat r, c.crew = some seat → Map.find seat.crew s.crews = some r → t.toNat < (stageOf c.la c.it).vregs →
        (c.active = 0 → Retires (.crwred g op (.dir t) a) c {} s)
        ∧ (c.active ≠ 0 →
            (∀ l < 4, c.active.getLsbD l → ∀ f ∈ r.folds, ¬(f.iter = (c.st.lanes.get l).iter ∧ f.target = t.toNat)) →
            (t.toNat ∈ r.targets ∨ r.targets.length < 4) →
            Does (.crwred g op (.dir t) a) c {} s { s with crews := Map.insert seat.crew { r with
              targets := if t.toNat ∈ r.targets then r.targets else r.targets ++ [t.toNat]
              folds := r.folds ++ (lanesIn c.active).map fun l =>
                ⟨(c.st.lanes.get l).iter, workerOf seat l, t.toNat, op, c.reg l a⟩ } s.crews }))
  ∧ ((∀ (crew w n : Nat) (s : State) (r : Crew) (st : Strand), Map.find crew s.crews = some r →
      let at' := workerAt s r w
      s.strand at'.1 = some st → r.mayBegin w = some n → at'.2 < 4 → (st.lanes.get at'.2).live = false →
      ∃ t b, exec (.crewIterationStart crew w) s = .next t ∧ t.strand at'.1 = some b
        ∧ (∀ k, k ≠ at'.1 → t.strand k = s.strand k)
        ∧ Map.find crew t.crews = some { r with begun := Table.put 0 w (n + 1) r.begun }
        ∧ (b.lanes.get at'.2).iter = n * (4 * r.g + 1) + w ∧ b.flow at'.2 = ⟨r.seg * 4096, none, []⟩
        ∧ (b.lanes.get at'.2).exited = false
        ∧ (∀ m, Table.get 0 m (b.lanes.get at'.2).v = if m = 0 then BitVec.ofNat 32 (n * (4 * r.g + 1) + w)
            else Table.get 0 m (st.lanes.get at'.2).v)
        ∧ ∀ l < 4, l ≠ at'.2 → b.lanes.get l = st.lanes.get l)
    ∧ (∀ (crew : Nat) (s : State) (r : Crew) (st : Strand), Map.find crew s.crews = some r → r.finished = true →
      r.limit = none → s.strand r.recruiter = some st → st.stepHeld = none → r.recruiter < 98304 → r.lane < 4 →
      ∃ t b, exec (.crewEnd crew) s = .next t ∧ Map.find crew t.crews = none ∧ t.strand r.recruiter = some b
        ∧ b.crew = none ∧ b.crewWord = BitVec.ofNat 32 ((r.count + 4 * r.g) / (4 * r.g + 1))
        ∧ (∀ m, Table.get 0 m (b.lanes.get r.lane).v = if m ∈ r.targets then (foldTarget r r.rounds m).1
            else Table.get 0 m (st.lanes.get r.lane).v)
        ∧ (∀ l < 4, l ≠ r.lane → b.lanes.get l = st.lanes.get l)
        ∧ (∀ x ∈ st.context :: r.contexts, t.strand (crewKey r.tile x) = none)
        ∧ ∀ k, k ≠ r.recruiter → (∀ x ∈ st.context :: r.contexts, k ≠ crewKey r.tile x) → t.strand k = s.strand k)
    ∧ (∀ (crew : Nat) (s : State) (r : Crew) (st : Strand) (it : Item) (la : Launch), Map.find crew s.crews = some r →
      r.limit = none → s.strand r.recruiter = some st → Map.find st.item s.items = some it →
      Map.find it.launch s.launches = some la →
      (la.det = true → exec (.crewForcedRelease crew) s = .next s)
      ∧ (la.det = false → ∃ t top, exec (.crewForcedRelease crew) s = .next t ∧ t = { s with crews := t.crews, plan := t.plan }
          ∧ Map.find crew t.crews = some { r with limit := some top }
          ∧ (∀ w < 4 * r.g + 1, Table.get 0 w r.begun ≤ top) ∧ (top = 0 ∨ ∃ w < 4 * r.g + 1, Table.get 0 w r.begun = top)))
    ∧ ∀ (crew w cause : Nat) (s : State) (r : Crew) (st : Strand), Map.find crew s.crews = some r →
      s.strand r.recruiter = some st → r.recruiter < 98304 → st.over = false → st.stepHeld = none → r.lane < 4 →
      ∃ t b, exec (.crewCancel crew w cause) s = .next t ∧ Map.find crew t.crews = none ∧ t.strand r.recruiter = some b
        ∧ b.crew = none ∧ b.crewWord.toNat % 2 ^ 31 = r.completed % 2 ^ 31 ∧ (r.completed < 2 ^ 31 → b.crewWord.getLsbD 31)
        ∧ queuedFor t r.recruiter 0x58)

/-! Memory accesses. -/

/-- LD, and GATHER once its lanes are gathered, in a local space complete: each active lane's value, as it stood, is in
flight to its destination, filled by its type, and no memory changes but by what the order says. With no active lane the
order alone takes place (R219 to R223, R225).
Choices of the model that it rests on: log entries 29, 30 and 132. -/
def Obligations.LocalLoadsComplete : Prop :=
  ∀ (g : Guard) (la : BitVec 4) (m : MemMod) (ty : Ty) (d a b : Opnd) (disp : BitVec 16) (s : State) (c : Issue),
    let n := tyBytes ty
    let loads (i : Instr) (ea : Nat → Nat) : Prop := clear i s = some c → c.fits s m.space n ea →
      (∀ q ∈ c.st.pend, q.id < s.nextId) →
      ∃ v, Touched s v ∧ (m.ord ≠ .sc → MemoryAlone s v) ∧ (m.ord = .none → v = s)
        ∧ (c.active = 0 → ∃ u, Does i c {} s u ∧ u = { v with nextId := u.nextId })
        ∧ (c.active ≠ 0 → ∃ p, Sends i c p s v ∧ p.flags = 0
          ∧ Owes c .load ((lanesIn c.active).flatMap fun l =>
              c.fillsOf ty d l (littleEndian n fun k => c.byteAt m.space l (ea l + k) s)) p)
    loads (.ld g la m ty d a disp) (c.reaches m.space a disp.toInt)
    ∧ (∀ e, Gathered c s → lowest c.set = some e → loads (.gather g la m ty d a b) fun l =>
        (c.reaches m.space a 0 e + (c.reg l b).toNat) % (if m.space.pairAddr then 2 ^ 64 else 2 ^ 33))

/-- ST, and SCATTER once its lanes are gathered, in a local space complete: a byte that active lanes store to holds the
byte of the highest of them, and every other byte stays; nothing else changes but by what the order says (R222, R225).
Choices of the model that it rests on: log entries 29, 30 and 132. -/
def Obligations.LocalStoresComplete : Prop :=
  ∀ (g : Guard) (la : BitVec 4) (m : MemMod) (ty : Ty) (a b x : Opnd) (disp : BitVec 16) (s : State) (c : Issue),
    let n := tyBytes ty
    let stores (i : Instr) (src : Opnd) (ea : Nat → Nat) : Prop := clear i s = some c → c.fits s m.space n ea →
      let data (l : Nat) : Nat := if ty.isPair then (c.pair l src).toNat else (c.reg l src).toNat
      ∃ v t b, Touched s v ∧ (m.ord ≠ .sc → MemoryAlone s v) ∧ (m.ord = .none → v = s)
        ∧ exec i s = .next t ∧ StoredIn c m.space s v t ∧ t.plan = s.plan ∧ t.strand c.key = some b ∧ Issued c [] b
        ∧ (m.space ≠ .lanePrivate → ∀ l < 4, (b.lanes.get l).lp = (c.st.lanes.get l).lp)
        ∧ ∀ lane < 4, ∀ y, c.byteAt m.space lane y t
          = match (lanesIn c.active).reverse.find? fun l =>
              (m.space != .lanePrivate || l == lane) && decide (ea l ≤ y ∧ y < ea l + n) with
            | some l => BitVec.ofNat 8 (data l / 256 ^ (y - ea l))
            | none => c.byteAt m.space lane y s
    stores (.st g la m ty a b disp) b (c.reaches m.space a disp.toInt)
    ∧ (∀ e, Gathered c s → lowest c.set = some e → stores (.scatter g la m ty a b x) x fun l =>
        (c.reaches m.space a 0 e + (c.reg l b).toNat) % (if m.space.pairAddr then 2 ^ 64 else 2 ^ 33))

/-- The fifteen atomics in the scratchpad, cluster-shared and remote scratchpad spaces complete (R228, R229): lane after
lane, each member stores its result, and every lane's old value is in flight to its destination.
Choices of the model that it rests on: log entries 29, 30 and 132. -/
def Obligations.LocalAtomicsComplete : Prop :=
  ∀ (i : Instr) (op : AtomOp) (m : MemMod) (w : Bool) (d a b : Opnd) (e : Int) (s : State) (c : Issue),
    atomParts i = some (op, m, w, d, a, b, e) → clear i s = some c → m.space ≠ .lanePrivate →
    let n := if w then 8 else 4
    let ea := c.reaches m.space a e
    let value (o : Opnd) (l : Nat) : Nat := if w then (c.pair l o).toNat else (c.reg l o).toNat
    c.fits s m.space n ea → (∀ q ∈ c.st.pend, q.id < s.nextId) → c.active ≠ 0 →
    let r := atomChain op n ((lanesIn c.active).map fun l => (ea l, value b l, value d l)) fun y => c.byteAt m.space 0 y s
    ∃ v t b p, Touched s v ∧ (m.ord ≠ .sc → MemoryAlone s v) ∧ (m.ord = .none → v = s)
      ∧ exec i s = .next t ∧ StoredIn c m.space s v t ∧ t.strand c.key = some b ∧ Issued c [p] b
      ∧ (∀ l < 4, (b.lanes.get l).lp = (c.st.lanes.get l).lp)
      ∧ t.plan = s.plan ++ [.event (.loadWriteback c.key p.id)] ∧ p.flags = r.2.1
      ∧ Owes c .load (((lanesIn c.active).zip r.1).flatMap fun x => c.fillsOf (if w then .n64 else .n32) d x.1 x.2) p
      ∧ ∀ y, c.byteAt m.space 0 y t = r.2.2 y

/-- The checks of R220 in their order, for LD, ST and the atomics: the first that some active lane fails is the trap, with
every lane that fails it in its mask, and nothing else happens.
Choices of the model that it rests on: log entries 29 and 105. -/
def Obligations.AccessChecksTrap : Prop :=
  ∀ (s : State) (c : Issue),
    let checks (i : Instr) (atomic : Bool) (m : MemMod) (n : Nat) (ea : Nat → Nat) : Prop := clear i s = some c →
      let bad (f : Nat → Prop) (l : Nat) : Prop := c.active.getLsbD l = true ∧ f (ea l)
      let none' (f : Nat → Prop) : Prop := ∀ l < 4, ¬bad f l
      let traps (code : Nat) (f : Nat → Prop) : Prop := (∃ l < 4, bad f l) →
        ∃ r : Raise, r.code = code ∧ r.pc = c.pc ∧ (∀ l < 4, r.mask.getLsbD l = true ↔ bad f l)
          ∧ exec i s = .next (trap c.key r s)
      let illegal (_ : Nat) : Prop := m.space = .acc ∨ atomic = true ∧ m.space = .lanePrivate
      let odd (x : Nat) : Prop := (m.space = .global ∨ m.space = .host ∨ m.space = .dieScratch)
        ∧ ¬(x / 2 ^ 56 % 2 ^ 8 = 0 ∨ x / 2 ^ 56 % 2 ^ 8 = 0xFF)
      let askew (x : Nat) : Prop := x % n ≠ 0
      let beyond (x : Nat) : Prop := localSpace m.space = true ∧ ¬c.inBounds s m.space n x
      traps 0x28 illegal
      ∧ (none' illegal → traps 0x22 odd)
      ∧ (none' illegal → none' odd → traps 0x27 askew)
      ∧ (none' illegal → none' odd → none' askew → traps 0x26 beyond)
    (∀ g la m ty d a disp, checks (.ld g la m ty d a disp) false m (tyBytes ty) (c.reaches m.space a disp.toInt))
    ∧ (∀ g la m ty a b disp, checks (.st g la m ty a b disp) false m (tyBytes ty) (c.reaches m.space a disp.toInt))
    ∧ (∀ i op m w d a b e, atomParts i = some (op, m, w, d, a, b, e) →
        checks i true m (if w then 8 else 4) (c.reaches m.space a e))

/-- LD, ST and the atomics in the translated spaces complete where no active lane's address faults and none meets an
unreadable sector or a lost host: a load and an atomic are in flight to the registers of the active lanes, and nothing
but memory and caches changes. A load that hits lines of the tile's L1 gives their bytes; a store to a writable line of
the L1 puts its bytes there, dirty, and nowhere else (R223).
Choices of the model that it rests on: log entries 17, 23 and 30. -/
def Obligations.TranslatedAccessesComplete : Prop :=
  ∀ (s : State) (c : Issue), (∀ x ∈ s.launches, x.2.tags = [] ∧ (x.1 = c.it.launch → x.2.det = false)) →
    (s.heldAt c.it.tile c.it.launch).watches = [] → (∀ q ∈ c.st.pend, q.id < s.nextId) →
    let passes (i : Instr) (x : Access) (ls : List LogLane) : Prop := clear i s = some c →
      (x.m.space = .global ∨ x.m.space = .host ∨ x.m.space = .dieScratch) →
      (∀ l ∈ ls, canonical l.addr = true ∧ l.addr % x.n = 0) →
      let w := ls.foldl (fun w l => w.entry x x.home false c l)
        (⟨orderBefore c.it.tile c.key x.m.ord x.m.scope s, [], [], []⟩ : Sweep)
      w.faults = [] → (∀ g ∈ w.got, g.2.2.dead = 0 ∧ g.2.2.lost = none) →
      ∃ v, Touched s v ∧ (x.m.ord ≠ .sc → MemoryAlone s v)
        ∧ ((ls = [] ∨ x.store = true) → ∃ u, Does i c {} s u ∧ u = { v with nextId := u.nextId })
        ∧ (ls ≠ [] → x.store = false → ∃ p ws, Sends i c p s v ∧ Owes c .load ws p
            ∧ ∀ k l, (k, l) ∈ p.locks ↔ ∃ y ∈ ls, y.lane = k ∧ ∃ j < (if x.ty.isPair then 2 else 1), ∃ d, x.dest = some d
                ∧ l = c.index d + j)
    let lanes (m : MemMod) (a : Opnd) (e : Int) (f g : Nat → Nat) : List LogLane :=
      (lanesIn c.active).map fun l => ⟨l, c.reaches m.space a e l, f l, g l⟩
    (∀ g la m ty d a disp, passes (.ld g la m ty d a disp) (loadAccess la m ty d)
        (lanes m a disp.toInt (fun _ => 0) fun _ => 0))
    ∧ (∀ g la m ty a b disp, passes (.st g la m ty a b disp) (storeAccess la m ty)
        (lanes m a disp.toInt (fun l => c.value ty.isPair l b % 256 ^ tyBytes ty) fun _ => 0))
    ∧ (∀ i op m w d a b e, atomParts i = some (op, m, w, d, a, b, e) → passes i (atomAccess op (lookahead i) m w d)
        (lanes m a e (fun l => c.value w l b) fun l => c.value w l d))
    ∧ (∀ g la m ty d a disp, clear (.ld g la m ty d a disp) s = some c → m.ord = .none → c.active ≠ 0 →
        (m.space = .global ∨ m.space = .host) → ((s.tile c.it.tile).l1.map (·.pline)).Nodup →
        let va (l : Nat) : Nat := c.reaches m.space a disp.toInt l
        (∀ l < 4, c.active.getLsbD l → canonical (va l) = true ∧ va l % tyBytes ty = 0
          ∧ ∃ x, l1Find s c.it.tile c.la.asid (va l % 2 ^ 57) = some x ∧ x.bad = 0) →
        ∃ p v, Sends (.ld g la m ty d a disp) c p s v ∧ MemoryAlone s v
          ∧ Owes c .load ((lanesIn c.active).flatMap fun l => c.fillsOf ty d l
            (((l1Find s c.it.tile c.la.asid (va l % 2 ^ 57)).map (·.data)).getD 0 / 256 ^ (va l % 256)
              % 256 ^ tyBytes ty)) p)
    ∧ (∀ g la m ty a b disp l x, clear (.st g la m ty a b disp) s = some c → m.ord = .none → lanesIn c.active = [l] →
        (m.space = .global ∨ m.space = .host) →
        let va := c.reaches m.space a disp.toInt l
        canonical va = true → va % tyBytes ty = 0 → l1Find s c.it.tile c.la.asid (va % 2 ^ 57) = some x →
        x.w = true → x.d = true →
        ∃ u y, Does (.st g la m ty a b disp) c {} s u ∧ u = { s with tiles := u.tiles, nextId := u.nextId }
          ∧ (∀ k, k ≠ c.it.tile → u.tile k = s.tile k)
          ∧ u.tile c.it.tile = { s.tile c.it.tile with
              l1 := y :: (s.tile c.it.tile).l1.filter fun z => z.pline != x.pline }
          ∧ y = { x with data := y.data, dirty := y.dirty, bad := y.bad }
          ∧ ∀ k < 256, let mine := va % 256 ≤ k ∧ k < va % 256 + tyBytes ty
            (mine → y.data / 256 ^ k % 256 = (if ty.isPair then (c.pair l b).toNat else (c.reg l b).toNat)
                / 256 ^ (k - va % 256) % 256 ∧ y.dirty.testBit k = true)
            ∧ (¬mine → y.data / 256 ^ k % 256 = x.data / 256 ^ k % 256 ∧ y.dirty.testBit k = x.dirty.testBit k))

/-- The response of an access (R130, R224): with its window still open it only becomes ready; else what it owes is written
into the lanes that live, its flags join FSTAT, and it is in flight no longer. PREFETCH changes memory and caches alone,
nothing with no active lane; a line that it brings to the L1 is there.
Choices of the model that it rests on: log entries 31 and 36. -/
def Obligations.ResponsesAreWritten : Prop :=
  (∀ (k id : Nat) (s : State) (st : Strand) (p : Pending), s.strand k = some st →
    (st.pend.filter fun q => q.id == id) = [p] → p.logged = false → (∀ q ∈ st.pend, q.id ≠ id → q.ready = false) →
    (∀ j x, j ≠ k → s.strand j = some x → ∀ y ∈ x.pend, y.logged = true → y.id ≠ id + 1) →
    (p.left ≠ 0 → ∃ t b, exec (.loadWriteback k id) s = .next t ∧ t = s.setStrand k b
      ∧ b = { st with pend := st.pend.map fun q => if q.id = id then { q with ready := true } else q })
    ∧ (p.left = 0 → (∀ q ∈ st.pend, q.id ≠ id → ∀ x ∈ q.locks, x ∉ p.locks) → p.poisoned = 0 → p.killed = 0 →
      p.causes = [] → p.preds = [] → (∀ w ∈ p.writes, w.lane < 4) →
      ∃ t b, exec (.loadWriteback k id) s = .next t ∧ (∀ j, j ≠ k → t.strand j = s.strand j) ∧ t.strand k = some b
        ∧ t = { s with strands := t.strands }
        ∧ (∀ l < 4, ∀ n, Table.get 0 n (b.lanes.get l).v =
            if (st.lanes.get l).live then
              (((p.writes.filter fun w => w.lane == l && w.reg == n).getLast?).map (·.val)).getD
                (Table.get 0 n (st.lanes.get l).v)
            else Table.get 0 n (st.lanes.get l).v)
        ∧ (∀ l < 4, b.lanes.get l = { st.lanes.get l with v := (b.lanes.get l).v, badV := (b.lanes.get l).badV })
        ∧ b = { st with lanes := b.lanes, fstat := st.fstat ||| p.flags, pend := st.pend.filter fun q => q.id != id }))
  ∧ ∀ (g : Guard) (host l2 : Bool) (a : Opnd) (n : BitVec 8) (s : State) (c : Issue),
    clear (.prefetch g host l2 a n) s = some c →
    (c.active = 0 → Retires (.prefetch g host l2 a n) c {} s)
    ∧ ∃ u, Does (.prefetch g host l2 a n) c {} s u ∧ MemoryAlone s u
      ∧ (n = 0 → l2 = false → host = false → c.la.det = false → ∀ l y v, lowest c.active = some l →
          let va := (c.pair l a).toNat / 256 * 256
          translate c.it.tile c.la.asid c.la.priv .load .global va s = (v, .ok y) → leafMT y.leaf = 0 →
          (l1Find u c.it.tile c.la.asid (va % 2 ^ 57)).isSome = true)

/-! System registers, queues, engine commands. -/

/-- SYSR gives every active lane the register's value for it, in a pair where it is 64 bits wide, and SYSW and DSET write
the register from the lowest active lane (DSET.all a quarter from each active lane); nothing else changes. A number that
names nothing raises SYSREG_ACCESS, a counter beyond the launch's REG_BOUND. Read-only registers stay. In crew code XI and
the s registers are each worker's own (R386), and SYSW writes them in every active worker.
Choices of the model that it rests on: log entries 52 and 53. -/
def Obligations.SystemRegistersComplete : Prop :=
  ∀ (g : Guard) (d a : Opnd) (num : BitVec 16) (s : State) (c : Issue),
    let n := num.toNat
    let rd : Instr := .sysr g d num
    let wr : Instr := .sysw g a num
    let beyond : Prop := 0x200 ≤ n ∧ n ≤ 0x23F ∧ c.la.kcnt ≤ n - 0x200
    (beyond → c.blocked = false →
      (issueOf rd s = some c → exec rd s = .next (trap c.key (c.raise 0x08) s))
      ∧ (issueOf wr s = some c → exec wr s = .next (trap c.key (c.raise 0x08) s)))
    ∧ (clear rd s = some c →
      (sysAssigned n = false → ∃ r : Raise, r.code = 0x2A ∧ r.info1 = n ∧ exec rd s = .next (trap c.key r s))
      ∧ (∀ v, (n, v) ∈ sysTable c s → c.crew = none → c.la.capture = false → c.la.replay = none →
          Retires rd c (c.writes fun l => readWords (sysWide n) (c.index d) (v l)) s)
      ∧ (∀ seat r, n = 0x1D → c.crew = some seat → Map.find seat.crew s.crews = some r →
          Retires rd c (c.writes fun l =>
            [(c.index d, BitVec.ofNat 32 (4 * r.g * 2 ^ 16 + if seat.first = 0 then 0 else seat.first + l))]) s)
      ∧ (∀ m, c.crew.isSome = true → (m = 592 ∧ n = 0x07 ∨ 512 ≤ m ∧ m < 576 ∧ n = 0x100 + (m - 512)) →
          Retires rd c (c.writes fun l => [(c.index d, Table.get 0 m (c.st.lanes.get l).v)]) s))
    ∧ (clear wr s = some c →
      (sysAssigned n = false → ∃ r : Raise, r.code = 0x2A ∧ r.info1 = n ∧ exec wr s = .next (trap c.key r s))
      ∧ (sysAssigned n = true → c.first = none → Retires wr c {} s)
      ∧ ∀ l, c.first = some l →
        let x := c.reg l a
        let v := c.pair l a
        let own (st : Strand) : Prop := Retires wr { c with st := st } {} s
        (n = 0x07 → c.crew = none → own { c.st with xi := x.extractLsb' 0 8, badS := c.st.badS.filter (· != 80) })
        ∧ (∀ m, c.crew.isSome = true → (m = 592 ∧ n = 0x07 ∨ 512 ≤ m ∧ m < 576 ∧ n = 0x100 + (m - 512)) →
            let w (l : Nat) : Word := if m = 592 then BitVec.ofNat 32 ((c.reg l a).toNat % 256) else c.reg l a
            Retires wr c { v := fun l j => if c.acts l ∧ j = m then some (w l) else none } s)
        ∧ (n = 0x21 →
            let drops := x.extractLsb' 16 4
            let ids := (c.st.oplog.zipIdx.filter fun e => drops.getLsbD e.2).map (·.1.id)
            ∃ u : State, u = { s with plan := u.plan } ∧ (ids = [] → u = s)
              ∧ Does wr { c with st := { c.st with
                  drop := c.st.drop ||| (drops &&& maskOf fun j => decide (j < c.st.oplog.length))
                  pend := c.st.pend.filter fun p => !(p.logged && ids.contains p.id) } } {} s u)
        ∧ (n = 0x1A → c.st.pend = [] → ∃ u : State, u = { s with items := u.items }
            ∧ (∀ k, Map.find k u.items = Map.find k s.items)
            ∧ Does wr { c with st := { c.st with fstat := c.st.fstat &&& ~~~(x.extractLsb' 0 6) } } {} s u)
        ∧ (n = 0x1C → c.st.pend = [] →
            Does wr c {} s (s.adjItem c.st.item fun it => { it with poison := it.poison &&& ~~~v }))
        ∧ (n = 0x1A ∨ n = 0x1C → (∃ p ∈ c.st.pend, p.open = true) → WaitsAt wr c .issue s)
        ∧ (n = 0x22 → Does wr c {} s
            (if v.getLsbD 0 = true ∧ heldCommands c.st.item s ≠ [] then s.adjItem c.st.item fun it => { it with cancel := true }
             else s))
        ∧ (n = 0x23 → Does wr c {} s
            (s.adjItem c.st.item fun it => { it with cpstat := it.cpstat &&& ~~~(v &&& 0x30000000) }))
        ∧ (∀ m < 64, n = 0x100 + m → c.crew = none → Retires wr c { s := fun j => if j = m then some x else none } s)
        ∧ (∀ m < 512, n = 0x1000 + m →
            Does wr c {} s { s with asidctx := Table.put 0 m (v &&& 0x000FFFFFFFFFF001) s.asidctx })
        ∧ (n = 0x1200 → Does wr c {} s { s with tlbi := { s.tlbi with va := v &&& 0x01FFFFFFFFFFF000 } })
        ∧ (n = 0x1201 → v.getLsbD 63 = false →
            Does wr c {} s { s with tlbi := { s.tlbi with cmd := v &&& 0x3F1FF007 } })
        ∧ (n = 0x1202 → Does wr c {} s { s with tlbi := { s.tlbi with stat := s.tlbi.stat &&& ~~~(v &&& 0x4000000000000000) } })
        ∧ (n = 0x1300 → Does wr c {} s (s.setTile c.it.tile { s.tile c.it.tile with mtestinj := v &&& 0x800101FF00000007 }))
        ∧ (sysAssigned n = true → n ∉ [0x07, 0x1A, 0x1C, 0x21, 0x22, 0x23] → n < 0x100 ∨ 0x200 ≤ n ∧ n ≤ 0x23F →
            Retires wr c {} s))
    ∧ ∀ (dn : BitVec 4) (all : Bool) (q : BitVec 2), clear (.dset g dn a all q) s = some c →
        let put (f : Nat → BitVec 64) (whole : Prop) (was : Nat → Bool) : Prop :=
          ∃ t b, exec (.dset g dn a all q) s = .next t ∧ (∀ k, k ≠ c.key → t.strand k = s.strand k)
            ∧ t = { s with strands := t.strands } ∧ t.strand c.key = some b
            ∧ Moved { c with st := { c.st with d := b.d, badS := b.badS } } {} { c.st with d := b.d, badS := b.badS } b
            ∧ (∀ m, m ≠ dn.toNat → Table.get 0 m b.d = Table.get 0 m c.st.d)
            ∧ (∀ i < 4, (Table.get 0 dn.toNat b.d).extractLsb' (64 * i) 64
                = if was i then (Table.get 0 dn.toNat c.st.d).extractLsb' (64 * i) 64 else f i)
            ∧ ∀ m, m ∈ b.badS ↔ m ∈ c.st.badS ∧ ¬(whole ∧ m = 64 + dn.toNat)
        (∀ l, all = false → c.first = some l → put (fun _ => c.pair l a) False fun i => i != q.toNat)
        ∧ (all = true → c.uniform = false → c.frames = false →
            put (fun i => c.pair i a) (c.active = 15) fun i => !c.active.getLsbD i)
        ∧ (∀ l, all = true → c.uniform = true ∨ c.frames = true → c.first = some l → put (fun _ => c.pair l a) True fun _ => false)
        ∧ (c.first = none → put (fun _ => 0) False fun _ => true)

/-- QPUSH appends one record at the next place of its queue's ring, and the active lanes' answer and predicate are in
flight; on a full queue it waits, or with .nb answers false. QPOP and QPEEK put the bound record's registers in
flight, or zeros where there is none or the strand has popped it; QPOP releases the record with the item's last live
strand (R241, R242). The orders of QPUSH and QPOP publish before and refresh after, whether or not a record moves, and
a .sc one that moves is stamped at its home slice (R126, R194, R203, R243). A queue that the stage has no such end of
raises QUEUE_ROLE. KEYOP and LAUNCH issue (R478, R395, R396): their status register is locked and their work is
planned, KEYOP once for the strand and LAUNCH once for the item; a KEYOP answers 0, or 3 for what it cannot do, and
decrements its counter. A zeroing of die scratchpad is done by its slices (R114).
Choices of the model that it rests on: log entries 40, 86, 101 and 125. -/
def Obligations.QueuesKeyopAndLaunchComplete : Prop :=
  (∀ (g : Guard) (la : BitVec 4) (scope : Scope) (ord : Order) (nb : Bool) (b : Opnd) (ps : BitVec 3) (q : BitVec 4)
      (s : State) (c : Issue),
      let push : Instr := .qpush g la scope ord nb b ps q
      let pop : Instr := .qpop g la scope ord b ps q
      let peek : Instr := .qpeek g la b ps q
      let published (i : Instr) : State := if i = peek then s else orderBefore c.it.tile c.key ord scope s
      let refreshed (i : Instr) (v : State) : State := if i = peek then v else orderAfter c.it.tile ord scope v
      let stamped (x : Queue) (n : Nat) (i : Instr) (v : State) : State := if i = peek then v else c.stampRecord x n ord v
      let answered (p : Pending) (ok : Bool) : Prop := p.preds = (lanesIn c.active).map fun l => (l, ps, ok)
      let fills (f : Nat → Nat → Word) : List RegWrite :=
        (lanesIn c.active).flatMap fun l => (upTo 4).map fun k => ⟨l, c.index b + k, f l k⟩
      (clear push s = some c →
        (c.queueOf (·.fromStage) q = none → exec push s = .next (trap c.key (c.raise 0x29) s))
        ∧ ∀ x, c.la.queues[q.toNat]? = some x → x.fromStage = c.it.stage →
          (c.active = 0 → Does push c {} s (refreshed push (published push)))
          ∧ (c.active ≠ 0 → c.awaitsToken = true → WaitsAt push c .token s)
          ∧ (c.active ≠ 0 → c.awaitsToken = false → x.depth ≤ x.live.length →
              (nb = true → ∃ p : Pending, Sends push c p s (refreshed push (published push)) ∧ Owes c .store [] p
                  ∧ answered p false)
              ∧ (nb = false → WaitsAt push c (.queueFull q.toNat) s))
          ∧ (c.active ≠ 0 → c.awaitsToken = false → x.live.length < x.depth → ∀ (v : State) (y : Bool),
              let record := (upTo 4).flatMap fun l => (upTo 4).flatMap fun k =>
                (leBytes 4 (if c.active.getLsbD l then c.regAt l b k else 0).toNat)
              (c.la.agent c.it.tile).write .global (x.qbase + 64 * (x.appended % x.depth)) record (published push) = (v, .ok y) →
              ∃ (u : State) (p : Pending) (lb : Launch), Sends push c p s u ∧ Owes c .store [] p ∧ answered p true
                ∧ u = { refreshed push (stamped x x.appended push v) with launches := u.launches, plan := u.plan }
                ∧ Map.find c.it.launch u.launches = some lb
                ∧ lb.queues = c.la.queues.set q.toNat { x with appended := x.appended + 1, live := x.live ++ [x.appended] }))
      ∧ (∀ i : Instr, i = pop ∨ i = peek → clear i s = some c →
        (c.queueOf (·.toStage) q = none → exec i s = .next (trap c.key (c.raise 0x29) s))
        ∧ ∀ x, c.la.queues[q.toNat]? = some x → x.toStage = c.it.stage →
          (c.active = 0 → Does i c {} s (refreshed i (published i)))
          ∧ (c.active ≠ 0 → c.it.record = none ∨ c.key ∈ c.it.popped →
              ∃ p : Pending, Sends i c p s (refreshed i (published i)) ∧ Owes c .load (fills fun _ _ => 0) p ∧ answered p false)
          ∧ ∀ (w n : Nat) (v : State) (parts : List (Nat × Bulk)), c.active ≠ 0 → c.it.record = some (w, n) → c.key ∉ c.it.popped →
              readRecord c x n (lanesIn c.active) (published i) = (v, .ok parts) → (∀ y ∈ parts, y.2.bad = false) →
              let writes := parts.flatMap fun y => (upTo 4).map fun k =>
                (⟨y.1, c.index b + k, BitVec.ofNat 32 (littleEndian 4 fun j => y.2.bytes.getD (4 * k + j) 0)⟩ : RegWrite)
              (i = peek → ∃ p : Pending, Sends i c p s v ∧ Owes c .load writes p ∧ answered p true)
              ∧ (i = pop → (∃ k ∈ liveStrands s c.it, k ≠ c.key ∧ k ∉ c.it.popped) →
                  ∃ (u : State) (p : Pending), Sends i c p s u ∧ Owes c .load writes p ∧ answered p true
                    ∧ u = { refreshed pop (stamped x n pop v) with items := u.items }
                    ∧ Map.find c.st.item u.items = some { c.it with popped := c.it.popped ++ [c.key] })
              ∧ (i = pop → (∀ k ∈ liveStrands s c.it, k = c.key ∨ k ∈ c.it.popped) →
                  ∃ (t : State) (it : Item) (lb : Launch), exec i s = .next t ∧ Map.find c.st.item t.items = some it ∧ it.record = none
                    ∧ Map.find c.it.launch t.launches = some lb
                    ∧ ∀ j z, c.la.queues[j]? = some z → lb.queues[j]? = some (if j = w then
                        { z with live := z.live.filter (· != n), bad := z.bad.filter fun y => y.1 != n } else z))))
  ∧ ((∀ (g : Guard) (d a : Opnd) (k : BitVec 6) (s : State) (c : Issue), clear (.keyopDestroy g d a k) s = some c →
      (c.first = none → Retires (.keyopDestroy g d a k) c {} s)
      ∧ ∀ l, c.first = some l → ∃ (t : State) (j : KeyJob), Engages (.keyopDestroy g d a k) c l (c.index d) 1 s t ∧ t.keyJobs = s.keyJobs ++ [j]
        ∧ j.id = s.nextId ∧ j.destroy = true ∧ j.key = (c.reg l a).toNat % 512 ∧ j.strand = c.key ∧ j.k = k.toNat
        ∧ j.item = c.st.item ∧ t.held = s.held ∧ t.launches = s.launches
        ∧ t.plan = s.plan
            ++ (if j.key = 0 then [] else (upTo 12).map fun die => Turn.event (.baseDieKeyDestroy die j.key))
            ++ [.event (.keyopCompletion s.nextId)])
    ∧ (∀ (g : Guard) (d a : Opnd) (k : BitVec 6) (key : BitVec 9) (logpg : BitVec 5) (s : State) (c : Issue),
      let i : Instr := .keyopBzero g d a k key logpg
      clear i s = some c →
      (c.first = none → Retires i c {} s)
      ∧ ∀ l, c.first = some l →
        let base := (c.pair l a).toNat
        let size := 4096 * 2 ^ logpg.toNat
        (base % size ≠ 0 → ∃ r : Raise, r.code = 0x27 ∧ r.info1 = base ∧ exec i s = .next (trap c.key r s))
        ∧ (base % size = 0 → ∃ (t : State) (j : KeyJob), Engages i c l (c.index d) 1 s t ∧ t.keyJobs = s.keyJobs ++ [j] ∧ j.id = s.nextId
            ∧ j.destroy = false ∧ j.arg = base ∧ j.size = size ∧ j.key = key.toNat ∧ j.strand = c.key ∧ j.k = k.toNat
            ∧ j.item = c.st.item ∧ t.held = s.held ∧ t.launches = s.launches
            ∧ t.plan = s.plan ++ (if zeroOk base size then [.event (.bulkZeroCommand base size key.toNat)] else [])
                ++ [.event (.keyopCompletion s.nextId)]))
    ∧ (∀ (id : Nat) (s : State) (j : KeyJob) (st : Strand) (p : Pending) (it : Item), s.keyJobs.find? (·.id == id) = some j →
      s.strand j.strand = some st → st.item = j.item → st.over = false → Map.find j.item s.items = some it →
      (∀ x ∈ it.deferred, x.id ≠ id) → st.pend = [p] → p.id = j.pend → p.kind = .engine → p.left = 0 → p.logged = false →
      p.poisoned = 0 → p.killed = 0 → p.causes = [] →
      (∀ i x, i ≠ j.strand → s.strand i = some x → ∀ y ∈ x.pend, y.logged = false) → (∀ l r, p.locks = [(l, r)] → l < 4 →
      (∀ h, Map.find (heldKey j.tile j.launch) s.held = some h →
        ∃ t, exec (.keyopCompletion id) s = .next t ∧ t.keyJobs = s.keyJobs.filter (fun x => x.id != id)
          ∧ (counterAt t j.tile j.launch j.k).toInt = max (-(2 ^ 31)) ((counterAt s j.tile j.launch j.k).toInt - 1)
          ∧ (∃ b, t.strand j.strand = some b ∧ b.pend = []
              ∧ ((st.lanes.get l).live = true → Table.get 0 r (b.lanes.get l).v = if j.ok then 0 else 3)))))
    ∧ (∀ (base size key : Nat) (s : State), base % 4096 = 0 → size % 4096 = 0 → size ≤ 2 ^ 34 → hbmEnd ≤ base →
      base + size ≤ dieEnd →
      ∃ t, exec (.bulkZeroCommand base size key) s = .next t
        ∧ t = { s with answer := ⟨0, [], 0⟩, dieScr := t.dieScr, dieScrBad := t.dieScrBad }
        ∧ (∀ w ∈ t.dieScrBad, w ∈ s.dieScrBad ∧ ¬(base ≤ hbmEnd + 8 * w ∧ hbmEnd + 8 * w < base + size))
        ∧ ∀ x, t.dieScr.read x = if base ≤ hbmEnd + x ∧ hbmEnd + x < base + size then 0 else s.dieScr.read x)
    ∧ ∀ (g : Guard) (d a : Opnd) (k : BitVec 6) (s : State) (c : Issue), clear (.launch g d a k) s = some c →
      let i : Instr := .launch g d a k
      let va := (c.pair c.elect a).toNat
      (c.once = false → Retires i c {} s)
      ∧ (c.once = true → canonical va = false → ∃ r : Raise, r.code = 0x22 ∧ exec i s = .next (trap c.key r s))
      ∧ (c.once = true → canonical va = true → va % 256 ≠ 0 → ∃ r : Raise, r.code = 0x27 ∧ r.info1 = va
          ∧ exec i s = .next (trap c.key r s))
      ∧ (c.once = true → canonical va = true → va % 256 = 0 → c.la.replay = none → ∀ v ps,
          (c.la.agent c.it.tile).places .load .global (lineParts va 2048) s = (v, .ok ps) →
          ∃ (t : State) (sub : Submission), Engages i c c.elect (c.index d) 1 s t ∧ t.subs = s.subs ++ [sub] ∧ sub.host = false
            ∧ sub.priv = false ∧ sub.bound = !c.la.priv ∧ sub.asid = c.la.asid ∧ sub.prio = c.la.prio ∧ sub.tile = c.it.tile
            ∧ sub.strand = c.key ∧ sub.pend = s.nextId ∧ sub.k = k.toNat ∧ sub.sheet = none
            ∧ t.plan = s.plan ++ [.event .validatorDone] ∧ t.held = s.held ∧ t.launches = s.launches))

/-- COPY, PLPACK, PLUNPK, FILL, BKOPEN, BKCLOSE, MLOOP, MZERO, MREAD, MWRITE and MSTAT run once for the item: checked, they
put their command at the end of the tile's copy queue or array queue, in a shared place or the floor of their stage,
wait while there is none (R144, R145, R304), and go on; BKOPEN's register and MSTAT's pair stay locked. Beyond queue and
strand the issue publishes the tile's dirty lines (R199). RTCOUNT, RTDISP and RTCOMB put theirs into the die's routing
queue; RTCOUNT opens the dispatch's context (R172).
Choices of the model that it rests on: log entries 32, 58 and 84. -/
def Obligations.EngineCommandsAreQueued : Prop :=
  (∀ (i : Instr) (s : State) (c : Issue) (check : Option Raise) (queue : Tile → List Command) (size : Nat)
    (floors : List (Nat × Nat)),
    clear i s = some c → commandQueue c s i = some (check, queue, size, floors) →
    let q := queue (s.tile c.it.tile)
    (c.once = false → Retires i c {} s)
    ∧ (∀ r, c.once = true → check = some r → exec i s = .next (trap c.key r s))
    ∧ (c.once = true → check = none → (∀ floor, ¬takesPlace q size floors c floor) → WaitsAt i c .engine s)
    ∧ ∀ floor, c.once = true → check = none → takesPlace q size floors c floor →
        ∃ (t : State) (e : Command), Engages i c c.elect (c.index (commandResult i).1) (commandResult i).2 s t
          ∧ e.pend = (if (commandResult i).2 = 0 then none else some s.nextId)
          ∧ queue (t.tile c.it.tile) = q ++ [e] ∧ Enqueued c s.nextId e ∧ e.floor = floor
          ∧ t.held = s.held ∧ t.launches = s.launches ∧ t.dies = s.dies ∧ t.convoys = s.convoys
          ∧ (c.la.det = false → t.items = s.items)
          ∧ (size = 64 → t.plan = s.plan ++ [.event (.copyEntryStart c.it.tile)])
          ∧ (size = 16 → (∀ x ∈ q, x.item ≠ c.st.item) → t.plan = s.plan ++
              [.event (if isLoop i then .mloopStep c.it.tile else .matrixCompletion c.it.tile)]))
  ∧ ∀ (i : Instr) (d : Opnd) (s : State) (c : Issue), clear i s = some c →
    routeResult i = some d →
    let die := dieOf c.it.tile
    (c.once = false → Retires i c {} s)
    ∧ (∀ r, c.once = true → c.source.checkRoute s = some r → exec i s = .next (trap c.key r s))
    ∧ (c.once = true → c.source.checkRoute s = none → isCount i = true → 4 ≤ (s.die die).ctxs.length → WaitsAt i c .engine s)
    ∧ (c.once = true → c.source.checkRoute s = none → (isCount i = true → (s.die die).ctxs.length < 4) →
        ∃ (t : State) (e : Command), Engages i c c.elect (c.index d) 1 s t ∧ (t.die die).routes = (s.die die).routes ++ [e]
          ∧ Enqueued c s.nextId e ∧ e.pend = some s.nextId ∧ (t.die die).mbox = (s.die die).mbox
          ∧ (∀ n, n ≠ die → isDisp i = false ∨ n ≠ die + 32 → t.die n = s.die n) ∧ t.held = s.held ∧ t.launches = s.launches
          ∧ t.plan = s.plan ++ [.event (.copyEntryStart (768 + die))]
          ∧ (isCount i = true → ∃ x : Dispatch, (t.die die).ctxs = (s.die die).ctxs ++ [x] ∧ x.launch = c.it.launch
              ∧ x.complete = false ∧ x.dispIssued = false ∧ x.vectors = [])
          ∧ (isCount i = false → isDisp i = false → (t.die die).ctxs = (s.die die).ctxs)
          ∧ (isDisp i = true → ∃ x, findCtx t die c.it.launch e.value.toNat = some x ∧ x.dispIssued = true
              ∧ findCtx s die c.it.launch e.value.toNat = some { x with dispIssued := false }))

/-! The engines at work. -/

/-- COPY_ENTRY_START takes up the first command that may start: a FILL of contiguous elements of the scratchpad writes
its value to each of them, and a COPY between contiguous parts of it that do not overlap moves the bytes (R144, R154,
R162); no other byte changes and the completion is planned. COPY_COMPLETION frees the entry and decrements the counter
(R147). A command that met a translation fault is HELD, and ENGINE_PAGE is charged to its item, ENGDETAIL describing
the oldest held one (R167). The entry of a bank that its base die closed leaves the tile's queue, and CPSTAT says
which and why (R164); an entry that holds the bank again stays.
Choices of the model that it rests on: log entries 55, 57, 61 and 85. -/
def Obligations.CopyEngineAndBanksRun : Prop :=
  ((∀ (tile : Nat) (s : State) (e : Command) (it : Item) (la : Launch) (h : TileLaunch), tile < 768 →
      (s.tile tile).copies = [e] → e.state = .queued → e.guardSlot = none → e.cursor = 0 → e.err = 0 →
      e.dropped = false → Map.find e.item s.items = some it → Map.find e.launch s.launches = some la → it.tile = tile → it.launch = e.launch →
      Map.find (heldKey tile e.launch) s.held = some h → h.bad = [] →
      let done (scr : Nat → Byte) : Prop := ∃ t : State, exec (.copyEntryStart tile) s = .next t
        ∧ t.strands = s.strands ∧ t.items = s.items ∧ t.launches = s.launches ∧ t.convoys = s.convoys ∧ t.mem = s.mem
        ∧ t.plan = s.plan ++ [.event (.copyCompletion tile e.no), .event (.copyEntryStart tile)]
        ∧ (t.heldAt tile e.launch) = { h with scr := (t.heldAt tile e.launch).scr }
        ∧ (∀ a, (t.heldAt tile e.launch).scr.read a = scr a)
        ∧ ∃ x : Command, (t.tile tile).copies = [x] ∧ x.id = e.id ∧ x.state = .active ∧ x.finished = true ∧ x.err = 0
      let flat (d : Nat) (x : Tensor) (base n : Nat) : Prop :=
        tensorOf ((e.descs.drop d |>.take 3).take (descRegs (e.descs.getD d 0).toNat)) = x ∧ x.base = base ∧ 0 < n
          ∧ x.lay = 0 ∧ x.stream = false ∧ x.dims = [⟨n, x.esz⟩]
      (∀ g d a k m peer x base n, e.op = .fill g d a k m peer → hereField s peer.toNat = true → m.dst = .scratch →
        flat 0 x base n →
        done fun y => if base ≤ y ∧ y < base + n * x.esz then BitVec.ofNat 8 (e.value.toNat / 256 ^ ((y - base) % x.esz))
          else h.scr.read y)
      ∧ (∀ g d a k m peer x y to' from' n p, e.op = .copy g d a k m peer → hereField s peer.toNat = true →
        m.dst = .scratch → m.src = .scratch → flat 0 x to' n → flat 3 y from' p → n * x.esz = p * y.esz →
        (to' + n * x.esz ≤ from' ∨ from' + n * x.esz ≤ to') →
        done fun z => if to' ≤ z ∧ z < to' + n * x.esz then h.scr.read (from' + (z - to')) else h.scr.read z))
    ∧ ∀ (tile no : Nat) (s : State) (e : Command) (it : Item) (h : TileLaunch), tile < 768 →
      (s.tile tile).copies.find? (fun e => e.no == no && e.finished && e.state == .active) = some e →
      (∀ g d a k m, e.op ≠ .bkopen g d a k m) → Map.find e.item s.items = some it → it.tile = tile →
      (∀ d ∈ it.deferred, d.id ≠ e.id) → Map.find (heldKey tile e.launch) s.held = some h →
      ∃ t : State, exec (.copyCompletion tile no) s = .next t
        ∧ (t.tile tile).copies = (s.tile tile).copies.filter (fun x => x.id != e.id)
        ∧ (counterAt t tile e.launch (commandCounter e)).toInt
            = max (-(2 ^ 31)) ((counterAt s tile e.launch (commandCounter e)).toInt - 1)
        ∧ (e.err ≠ 0 → ∃ x, Map.find e.item t.items = some x ∧ x.cpstat.getLsbD 28 = true
            ∧ (x.cpstat.toNat / 2 ^ 22 % 2 ^ 6 = e.err % 2 ^ 6)))
  ∧ ((∀ (tile no k : Nat) (s : State) (e : Command) (it : Item), tile < 768 →
      (s.tile tile).copies.find? (fun e => e.no == no && e.fault.isSome && e.state == .active) = some e →
      Map.find e.item s.items = some it → it.tile = tile → it.lost = false → electedKey s it = some k →
      heldCommands e.item s = [] →
      (∀ x ∈ (s.tile tile).copies, x.id = e.id → x = e) →
      ∃ t : State, exec (.engineTranslationFault tile no) s = .next t ∧ queuedFor t k 0x52
        ∧ (∀ x ∈ (t.tile tile).copies, x.id = e.id → x.state = .held)
        ∧ (∀ x ∈ (s.tile tile).copies, x.id ≠ e.id → x ∈ (t.tile tile).copies)
        ∧ (∃ it', Map.find e.item t.items = some it' ∧ it'.engdetail = BitVec.ofNat 64
            (e.cursor % 2 ^ 40 * 2 ^ 24 + (if e.endBit then 2 ^ 23 else 0) + e.no % 64 * 2 ^ 14 + e.err % 64 * 2 ^ 8))
        ∧ t.held = s.held ∧ t.mem = s.mem ∧ t.launches = s.launches)
    ∧ (∀ (tile h reason : Nat) (s : State) (e : Command) (it : Item),
      (s.tile tile).copies.find? (fun e => (e.state == .bank || e.opened) && e.handle == h && !holdsBank tile e s) = some e →
      Map.find e.item s.items = some it → e.state = .bank →
      ∃ t : State, exec (.closeEvent tile h reason) s = .next t
        ∧ (t.tile tile).copies = (s.tile tile).copies.filter (fun x => x.id != e.id)
        ∧ t = { s with tiles := t.tiles, items := t.items }
        ∧ ∃ x, Map.find e.item t.items = some x ∧ x = { it with cpstat := x.cpstat }
          ∧ x.cpstat.toNat / 2 ^ 32 % 2 ^ 16 = h % 2 ^ 16 ∧ x.cpstat.toNat / 2 ^ 30 % 4 = reason % 4
          ∧ x.cpstat.getLsbD 29 = true ∧ x.cpstat.toNat % 2 ^ 29 = it.cpstat.toNat % 2 ^ 29)
    ∧ ∀ (tile h reason : Nat) (s : State),
      (∀ e ∈ (s.tile tile).copies, e.handle = h → (e.state = .bank ∨ e.opened = true) →
        ∃ b, Map.find h s.mem.banks = some b ∧ b.tile = tile ∧ b.entry = e.no) →
      exec (.closeEvent tile h reason) s = .next s)

/-- MLOOP_STEP streams one step of the loop whose turn it is: in the integer formats each word of its rows gains the sum of
the 256 products, exactly where no group's sum leaves 36 bits (R303, R309), of B as the shadow plane set holds it, while the
set of the next step is loaded (R306); other words, scratchpad and strands stay, and the cursor moves on. MATRIX_COMPLETION runs MZERO and MSTAT whole, ends a loop after its last step, and decrements the
counter (R311, R316, R147).
Choices of the model that it rests on: log entries 55, 80 and 83. -/
def Obligations.PlaneArrayRuns : Prop :=
  ∀ (tile : Nat) (s : State) (e : Command) (it : Item) (la : Launch) (h : TileLaunch), tile < 768 →
    (s.tile tile).array = [e] → e.guardSlot = none → Map.find e.item s.items = some it →
    Map.find e.launch s.launches = some la → it.tile = tile → it.launch = e.launch →
    Map.find (heldKey tile e.launch) s.held = some h → (s.tile tile).mtestinj.getLsbD 63 = false → h.bad = [] →
    (s.tile tile).accBad = [] →
    let word (u : State) (row n : Nat) : BitVec 36 := Table.get 0 ((it.accBase + row) * 256 + n) (u.tile tile).acc
    (∀ g dn k fa fb a b sa na sb nb, e.op = .mloop g dn k fa fb → e.finished = false →
      loopSlots la fa.toNat fb.toNat = .ok (a, b) → a.efmt = .int sa na → b.efmt = .int sb nb →
      let d := loopOf (e.descs.getD 0 0)
      let at' (base : Nat) (step : Int) : Nat := ((base : Int) + e.cursor * step).toNat
      let row (m : Nat) : RowView := rowOf ⟨h.scr, [], 16⟩ (at' (d.aoff + m * rowPitch a.efmt) d.astep)
        (at' (d.asoff + m * scaleBytes a) d.sstep) a
      let load (n : Nat) : PlaneSet :=
        loadSet ⟨h.scr, [], 16⟩ ((d.boff : Int) + n * d.bstep).toNat b e.id n
      let set : PlaneSet :=
        ((s.tile tile).shadow.find? fun p => p.cmd == e.id && p.step == e.cursor).getD (load e.cursor)
      let stack : StackView := set.view b
      let sum (m n g : Nat) : Int :=
        ((upTo (32 * g)).map fun k => intA a.efmt ((row m).elem k) * intB b fun q => stack.plane q k n).sum
      (∀ p ∈ (s.tile tile).shadow, p.cmd = e.id → ∃ (mem : Memory) (base : Nat),
        p = loadSet ⟨mem, [], 16⟩ base b e.id p.step) →
      (0 ≤ (d.aoff : Int) + e.cursor * d.astep ∧ 0 ≤ (d.asoff : Int) + e.cursor * d.sstep
        ∧ 0 ≤ (d.boff : Int) + e.cursor * d.bstep) →
      (∀ m < d.m, ∀ n < 256, ∀ g ≤ 8, -(2 ^ 35) ≤ (word s (d.accrow + m) n).toInt + sum m n g
        ∧ (word s (d.accrow + m) n).toInt + sum m n g < 2 ^ 35) →
      ∃ t : State, exec (.mloopStep tile) s = .next t ∧ t.strands = s.strands ∧ t.held = s.held ∧ t.mem = s.mem
        ∧ (∀ m < d.m, ∀ n < 256, (word t (d.accrow + m) n).toInt = (word s (d.accrow + m) n).toInt + sum m n 8)
        ∧ (∀ j, (∀ m < d.m, ∀ n < 256, j ≠ (it.accBase + d.accrow + m) * 256 + n) →
            Table.get 0 j (t.tile tile).acc = Table.get 0 j (s.tile tile).acc)
        ∧ (t.tile tile).shadow = (s.tile tile).shadow.filter (fun p => p.cmd != e.id) ++
            (if e.cursor + 1 < d.steps then [load (e.cursor + 1)] else [])
        ∧ (t.tile tile).array = [{ e with state := .active, started := true, cursor := e.cursor + 1
                                          finished := decide (d.steps ≤ e.cursor + 1) }]
        ∧ t.plan = s.plan ++ [.event (if d.steps ≤ e.cursor + 1 then .matrixCompletion tile else .mloopStep tile)])
    ∧ ((isLoop e.op = false ∨ e.finished = true) → (∀ x ∈ it.deferred, x.id ≠ e.id) → e.err = 0 →
      ∃ t : State, exec (.matrixCompletion tile) s = .next t ∧ (t.tile tile).array = []
        ∧ (counterAt t tile e.launch (commandCounter e)).toInt
            = max (-(2 ^ 31)) ((counterAt s tile e.launch (commandCounter e)).toInt - 1)
        ∧ (∀ g k a, e.op = .mzero g k a → e.finished = false →
            let first := e.value.toNat % 2 ^ 9
            let count := e.value.toNat / 2 ^ 16 % 2 ^ 9 + 1
            ∀ j, Table.get 0 j (t.tile tile).acc =
              if (it.accBase + first) * 256 ≤ j ∧ j < (it.accBase + first + count) * 256 then 0
              else Table.get 0 j (s.tile tile).acc)
        ∧ (∀ g d k st l r p, e.op = .mstat g d k → s.strand e.strand = some st → st.item = e.item → st.pend = [p] →
            e.pend = some p.id → p.kind = .engine → p.locks = [(l, r), (l, r + 1)] → l < 4 → (st.lanes.get l).live = true →
            p.left = 0 → p.logged = false → p.poisoned = 0 → p.killed = 0 → p.causes = [] → e.finished = false →
            (∀ i x, i ≠ e.strand → s.strand i = some x → ∀ y ∈ x.pend, y.logged = true → y.id ≠ p.id + 1) →
            ∃ b, t.strand e.strand = some b ∧ b.pend = []
              ∧ (Table.get 0 (r + 1) (b.lanes.get l).v ++ Table.get 0 r (b.lanes.get l).v).toNat = mstatOf s it))

/-- RTDISP and RTCOMB complete (R181, R182): their entry leaves the die's queue, their counter is decremented, and RTDISP's
context closes; while a row is still to be written or acknowledged nothing happens. A participant's vector is kept
until the exchange uses it, and a row that arrives is noted as written (R180, R181).
Choices of the model that it rests on: log entries 55, 65 and 67. -/
def Obligations.RoutingEnginesComplete : Prop :=
  (∀ (die launch id : Nat) (s : State) (e : Command) (it : Item) (h : TileLaunch), Map.find e.item s.items = some it →
    tileDown s it.tile = false → it.launch = launch → (∀ d ∈ it.deferred, d.id ≠ e.id) →
    Map.find (heldKey it.tile launch) s.held = some h → e.launch = launch →
    let ended (i : Instr) (ctxs : List Dispatch) : Prop := ∃ t : State, exec i s = .next t
      ∧ (t.die die).routes = (s.die die).routes.filter (fun x => x.id != e.id) ∧ (t.die die).ctxs = ctxs
      ∧ (counterAt t it.tile launch (commandCounter e)).toInt
          = max (-(2 ^ 31)) ((counterAt s it.tile launch (commandCounter e)).toInt - 1)
    (dispCommand s die launch id = some e →
      (e.finished = true → e.wait = [] → homedDone s die launch id = true →
        ended (.rtdispCompletion die launch id) ((s.die die).ctxs.filter fun x => !(x.launch == launch && x.id == id)))
      ∧ (¬(e.finished = true ∧ e.wait = [] ∧ homedDone s die launch id = true) →
        exec (.rtdispCompletion die launch id) s = .next s))
    ∧ ((s.die die).routes = [e] → isCount e.op = false → isDisp e.op = false → e.value.toNat = id → e.finished = true →
        e.state = .active → ended (.rtcombCompletion die launch id) (s.die die).ctxs))
  ∧ (∀ (key id package : Nat) (sums : List Nat) (crc k nexp rowu h : Nat) (s : State) (la : Launch) (die : Nat) (c : Dispatch),
    s.launches.find? (fun x => x.2.lkey == key && bitOf x.2.pkgmask package) = some (h, la) →
    Map.find h s.launches = some la → dispatchCtxs s h id = [(die, c)] →
    c.ready = false → la.capture = false →
    ∃ t : State, exec (.countVectorArrival key id package sums crc k nexp rowu) s = .next t
      ∧ t = { s with launches := t.launches }
      ∧ Map.find h t.launches = some { la with vectors := la.vectors ++ [(id, ⟨package, sums, crc, k, nexp, rowu⟩)] }
      ∧ ∀ j, j ≠ h → Map.find j t.launches = Map.find j s.launches)
  ∧ ∀ (key id package rank token expert slot : Nat) (row : List Byte) (h : Nat) (s : State) (la : Launch) (die : Nat)
      (c : Dispatch),
    s.launches.find? (fun x => x.2.lkey == key && bitOf x.2.pkgmask package) = some (h, la) →
    Map.find h s.launches = some la → dispatchCtxs s h id = [(die, c)] → homeDie la.diemask (c.table.getD expert 0) = die →
    c.ready = true → la.capture = false →
    ∃ (t : State) (x : Dispatch), exec (.routingRowArrival key id package rank token expert slot row) s = .next t
      ∧ findCtx t die h id = some x ∧ x = { c with rows := x.rows }
      ∧ (∀ n, n ∈ x.rows ↔ n ∈ c.rows ∨ n = expert * 2 ^ 20 + slot)
      ∧ t.strands = s.strands ∧ t.held = s.held ∧ t.items = s.items

/-! Remote accesses and the debug family. -/

/-- RLD, RST and RATOM (R357, R358) complete for any peers of their lanes: where no check fails and the rings have
room, the strand goes on, with the instruction in flight. The checks are taken in the lowest failing lane, in their
order. An access to one other package is put into its small queue and in flight, its registers locked; a full ring, or
1,024 writes and atomics without an acknowledgement, makes it wait. An access to this package is performed and its
response comes. TIDEWAIT and VQSTAT complete (R360, R361). TIDEWAIT.peer writes 0 for this package, for no member and
after REMTO tides in which no live rail met the peer, the slot and rails where they meet outside the closing window,
and waits else; TIDEWAIT.tide waits for another tide and writes its number; in a replay both write what the contact
sheet holds next, and REPLAY_DIVERGE ends the launch where that is none of theirs. VQSTAT writes the depths of the
lanes' queues.
Choices of the model that it rests on: log entries 68, 69 and 70. -/
def Obligations.RemoteInstructionsComplete : Prop :=
  (∀ (i : Instr) (s : State) (c : Issue) (x : RemoteOp) (ls : List RemoteLane), clear i s = some c →
      remoteParts c i = some (x, ls) →
      let lost (l : RemoteLane) : Prop := isMember s l.peer = false
      let odd (l : RemoteLane) : Prop := canonical l.l.addr = false
      let askew (l : RemoteLane) : Prop := l.l.addr % x.n ≠ 0
      let unserved (l : RemoteLane) : Prop := x.op = 2 ∧ l.peer ≠ s.self ∧ (s.peer l.peer).mask.getLsbD x.arg = false
      let fails (l : RemoteLane) (code : Nat) : Prop := (code = 0x63 ∧ lost l) ∨ (code = 0x22 ∧ ¬lost l ∧ odd l)
        ∨ (code = 0x27 ∧ ¬lost l ∧ ¬odd l ∧ askew l) ∨ (code = 0x61 ∧ ¬lost l ∧ ¬odd l ∧ ¬askew l ∧ unserved l)
      let full (l : RemoteLane) : Prop :=
        l.peer ≠ s.self ∧ (ringRoom s l.peer true = false ∨ x.op ≠ 0 ∧ 1024 ≤ unacked s l.peer)
      let fresh : Prop := (∀ r ∈ s.fabric.remotes, r.pend < s.nextId ∧ r.id < s.nextId) ∧ ∀ p ∈ c.st.pend, p.id < s.nextId
      (∀ l ∈ ls, ∀ code, fails l code → (∀ m ∈ ls, m.l.lane < l.l.lane → ∀ d, ¬fails m d) →
        ∃ r : Raise, r.code = code ∧ r.pc = c.pc ∧ (∀ k < 4, r.mask.getLsbD k = true ↔ ∃ y ∈ ls, y.l.lane = k ∧ fails y code)
          ∧ exec i s = .next (trap c.key r s))
      ∧ ((∀ l ∈ ls, ¬lost l ∧ ¬odd l ∧ ¬askew l ∧ ¬unserved l) →
        ((∃ l ∈ ls, full l) → WaitsAt i c .remote s)
        ∧ ((∀ l ∈ ls, ¬full l) → fresh → (c.la.replay = none ∨ x.op = 1) →
            ∃ (t : State) (b : Strand), exec i s = .next t ∧ t.strand c.key = some b ∧ (∀ k, k ≠ c.key → t.strand k = s.strand k)
              ∧ (ls = [] ∨ c.la.replay ≠ none → Issued c [] b)
              ∧ (ls ≠ [] → c.la.replay = none → ∃ p : Pending, Issued c [p] b ∧ p.kind = .remote ∧ p.id = s.nextId ∧ p.ready = false))
        ∧ (ls = [] → ∃ u : State, Does i c {} s u ∧ MemoryAlone s u)
        ∧ (∀ q, (∀ l ∈ ls, ¬full l) → ls ≠ [] → q ≠ s.self → (∀ l ∈ ls, l.peer = q) → c.la.replay = none →
            ∃ (t : State) (b : Strand) (p : Pending) (r : Remote) (e : VqEntry) (m : Nat), exec i s = .next t
              ∧ t.strand c.key = some b ∧ (∀ k, k ≠ c.key → t.strand k = s.strand k) ∧ Issued c [p] b ∧ p.kind = .remote
              ∧ p.id = s.nextId ∧ p.writes = [] ∧ p.ready = false
              ∧ (∀ k n, (k, n) ∈ p.locks ↔ ∃ l ∈ ls, l.l.lane = k ∧ ∃ d, x.dest = some d
                  ∧ c.index d ≤ n ∧ n < c.index d + (if x.ty.isPair then 2 else 1))
              ∧ t.fabric.remotes = s.fabric.remotes ++ [r] ∧ r.peer = q ∧ r.pend = p.id ∧ r.strand = c.key
              ∧ r.lanes = ls.map (·.l) ∧ r.op = x.op ∧ r.arg = x.arg ∧ r.asid = c.la.asid ∧ r.small = true
              ∧ e ∈ (t.peer m).queue ∧ e.id = r.id ∧ e.final = q ∧ e.small = true
              ∧ t.plan = s.plan ∧ t.held = s.held ∧ t.items = s.items ∧ t.launches = s.launches)
        ∧ ((∀ l ∈ ls, l.peer = s.self) → ls ≠ [] → fresh → c.la.capture = false → c.la.replay = none →
            ∃ (t : State) (b : Strand) (p : Pending), exec i s = .next t ∧ t.strand c.key = some b ∧ Issued c [p] b
              ∧ p.kind = .remote ∧ p.id = s.nextId ∧ t.fabric.remotes = s.fabric.remotes
              ∧ t.plan = s.plan ++ [.event (.loadWriteback c.key p.id)])))
  ∧ (∀ (g : Guard) (d a : Opnd) (s : State) (c : Issue),
      let taken (v : Nat) := fabricInput (c.inputAt ((lowest c.active).getD 0)) 4 v s
      let puts (i : Instr) (w : Nat) (t : State) : Prop := exec i s = .next t ∧ (∀ k, k ≠ c.key → t.strand k = s.strand k)
        ∧ ∃ b : Strand, t.strand c.key = some b ∧ Moved c (c.writes fun _ => [(c.index d, BitVec.ofNat 32 w)]) c.st b
      let gives (i : Instr) (v : Nat) : Prop :=
        (c.la.replay = none → ∃ t : State, puts i v t ∧ (c.la.capture = false → t = { s with strands := t.strands }))
        ∧ (c.la.replay ≠ none → (∀ w, (taken v).2 = some w → ∃ t : State, puts i w t)
          ∧ ((taken v).2 = none → exec i s = .next (fatalTrap c.it.launch c.key c.diverge (taken v).1)))
      (∀ immp : Option (BitVec 7), let i : Instr := .tidewaitPeer g d a immp
        clear i s = some c →
        (c.first = none → Retires i c {} s)
        ∧ ∀ l, c.first = some l →
          let q := (immp.map (·.toNat)).getD ((c.reg l a).toNat % 128)
          let now := s.fabric.tidecnt.toNat
          let rails := if s.fabric.guard then 0 else railsTo s q s.fabric.slotno
          (c.la.replay ≠ none → gives i 0)
          ∧ (c.la.replay = none →
            (q = s.self ∨ isMember s q = false → gives i 0)
            ∧ (q ≠ s.self → isMember s q = true →
              (rails ≠ 0 → closing s = false → gives i (s.fabric.slotno * 2 ^ 16 + rails))
              ∧ (rails = 0 ∨ closing s = true → ∀ since,
                  (c.st.wait = .peer q since ∨ (∀ t, c.st.wait ≠ .peer q t) ∧ since = now) →
                  (max since (s.peer q).lastMet + remTo s ≤ now → gives i 0)
                  ∧ (now < max since (s.peer q).lastMet + remTo s → WaitsAt i c (.peer q since) s)))))
      ∧ (let i : Instr := .tidewaitTide g d
        clear i s = some c → let now := s.fabric.tidecnt.toNat
        (c.first = none → Retires i c {} s)
        ∧ (c.first ≠ none →
          (c.la.replay ≠ none → gives i 0)
          ∧ (c.la.replay = none →
            (∀ t, c.st.wait = .tide t → t ≠ now → gives i now)
            ∧ (c.st.wait = .tide now ∨ (∀ t, c.st.wait ≠ .tide t) → WaitsAt i c (.tide now) s))))
      ∧ (clear (.vqstat g d a) s = some c → ∃ v : Nat → Word, Retires (.vqstat g d a) c (c.writes fun l => [(c.index d, v l)]) s
        ∧ ∀ l, let q := (c.reg l a).toNat % 128
          (q = s.self → v l = 0)
          ∧ (q ≠ s.self → isMember s q = false → v l = 0x40000000)
          ∧ (q ≠ s.self → isMember s q = true →
            let th := s.fabric.vqcfg.toNat / 2 ^ 32 % 2 ^ 16
            (v l).toNat % 2 ^ 16 = min (ringDepth s q false) 0xFFFF
            ∧ (v l).toNat / 2 ^ 16 % 2 ^ 14 = min (ringDepth s q true) 0x3FFF
            ∧ ((v l).getLsbD 30 = true ↔ ∀ t < slotsOf s, railsTo s q t = 0)
            ∧ ((v l).getLsbD 31 = true ↔ th ≠ 0 ∧ (th ≤ ringDepth s q true ∨ th ≤ ringDepth s q false)))))

/-- HALTG, RESUMEG, STEP, WATCH, UNWATCH and MBOXW complete (R474 to R477): halts of groups are set and cleared, HALTED
is queued for every live strand a halt covers, a strand is armed for a step, watch slots are set and cleared, and a
mailbox register is written, MBOX63 with a notice. With no active lane nothing happens.
Choices of the model that it rests on: log entries 35 and 124. -/
def Obligations.DebugInstructionsComplete : Prop :=
  ∀ (g : Guard) (a : Opnd) (s : State) (c : Issue),
    (∀ i : Instr, (i = .haltg g a ∨ i = .resumeg g a ∨ i = .step g a ∨ (∃ sp k n len, i = .watch g sp k n a len)
        ∨ (∃ n, i = .mboxw g n a) ∨ ∃ n, i = .unwatch g n) → clear i s = some c → c.first = none → Retires i c {} s)
    ∧ ∀ l, c.first = some l →
      let n := (c.reg l a).toNat % 512
      let launch (la : Launch) : State := s.adjLaunch c.it.launch fun _ => la
      (∀ i : Instr, i = .haltg g a ∨ i = .resumeg g a → clear i s = some c → n ≠ 256 → c.la.groups.length ≤ n →
        exec i s = .next (trap c.key (c.raise 0x08 (1#4 <<< l)) s))
      ∧ (clear (.haltg g a) s = some c → (n = 256 ∨ n < c.la.groups.length) →
        ∃ (t : State) (la : Launch) (b : Strand), exec (.haltg g a) s = .next t
          ∧ Map.find c.it.launch t.launches = some la ∧ la = { c.la with halts := la.halts }
          ∧ (∀ m, Map.find m la.halts = if m = n then some c.w1.toNat else Map.find m c.la.halts)
          ∧ (∀ k ∈ haltStrands s c.it.launch c.la n, queuedFor t k 0x7A)
          ∧ t = { s with strands := t.strands, launches := t.launches } ∧ t.strand c.key = some b
          ∧ ∀ j < 4, b.flow j = if c.set.getLsbD j then { c.st.flow j with pc := (c.st.flow j).pc + c.size } else c.st.flow j)
      ∧ (clear (.resumeg g a) s = some c →
        (n = 256 → Does (.resumeg g a) c {} s (launch { c.la with halts := [] }))
        ∧ (n < c.la.groups.length → n ≠ 256 →
          Does (.resumeg g a) c {} s (launch { c.la with halts := Map.erase n c.la.halts })))
      ∧ (clear (.step g a) s = some c →
        let named := strandNamed s c.it.tile c.it.launch ((c.reg l a).toNat % 2 ^ 20)
        (named = none → exec (.step g a) s = .next (trap c.key (c.raise 0x08 (1#4 <<< l)) s))
        ∧ (named = some c.key → Retires (.step g a) { c with st := { c.st with stepArm := true } } {} s)
        ∧ (∀ k, named = some k → k ≠ c.key →
          Does (.step g a) c {} s (s.adjStrand k fun st => { st with stepArm := true })))
      ∧ (∀ sp k m len, let i : Instr := .watch g sp k m a len
        clear i s = some c → let ea := c.reaches sp a 0 l
        let fails (code : Nat) : Prop := ∃ r : Raise, r.code = code ∧ r.info1 = ea ∧ exec i s = .next (trap c.key r s)
        (sp = .acc → fails 0x28)
        ∧ (localSpace sp = true → ¬c.inBounds s sp (len.toNat + 1) ea → fails 0x26)
        ∧ ((localSpace sp = true ∧ c.inBounds s sp (len.toNat + 1) ea) ∨ sp = .global ∨ sp = .host →
          Does i c {} s (s.adjHeld c.it.tile c.it.launch fun h =>
            { h with watches := Map.insert m.toNat ⟨sp, k, ea, len.toNat + 1⟩ h.watches })))
      ∧ (∀ m, clear (.unwatch g m) s = some c →
        Does (.unwatch g m) c {} s (s.adjHeld c.it.tile c.it.launch fun h => { h with watches := Map.erase m.toNat h.watches }))
      ∧ ∀ m, clear (.mboxw g m a) s = some c →
        let v := wcDrainStrand c.it.tile c.key s
        let die := dieOf c.it.tile
        ∃ u w : State, Does (.mboxw g m a) c {} s w ∧ u = { v with dies := u.dies }
          ∧ u.die die = { v.die die with mbox := Table.put 0 m.toNat (c.pair l a) (v.die die).mbox }
          ∧ (∀ j, j ≠ die → u.die j = v.die j)
          ∧ (m ≠ 63 → w = u)
          ∧ (m = 63 → Noticed [BitVec.ofNat 64 (5 + c.it.launch % 2 ^ 16 * 2 ^ 16 + c.it.tile * 2 ^ 32 + 2 ^ 48), c.pair l a,
              0, 0, 0, 0, 0, 0] u w)

/-! Translations. -/

/-- TLBI removes, at every cluster and tile, the TLB entries, walk-cache entries and L1 lines that it names and no others, and
drains the write-combining entries that it names; it then waits for an answer to every message that it sent to the packages
that hold such translations, or is done (R82, R83). TLBI_DONE clears BUSY and counts. A
page walk fills its cluster's TLB, or changes nothing there.
Choices of the model that it rests on: log entries 18, 20 and 21. -/
def Obligations.TranslationsAreInvalidated : Prop :=
  (∀ (i : Instr) (s : State) (x : Shoot), shootOf i = some x →
    (s.tlbi.stat.getLsbD 63 = false → exec i s = .next s)
    ∧ (s.tlbi.stat.getLsbD 63 = true → ∃ t : State, exec i s = .next t
      ∧ (∀ c, Map.find c t.clusters = (Map.find c s.clusters).map fun k =>
          ⟨k.tlb.filter fun e => !x.hitsTlb e, k.walk.filter fun e => !x.hitsWalk e⟩)
      ∧ (∀ n, (t.tile n).l1 = (s.tile n).l1.filter fun y => !x.hitsLine y)
      ∧ (∀ n, (t.tile n).wc = (s.tile n).wc.filter fun y => !x.hitsStores y)
      ∧ (∀ n, t.tile n = { s.tile n with l1 := (t.tile n).l1, wc := (t.tile n).wc })
      ∧ t.strands = s.strands ∧ t.held = s.held ∧ t.launches = s.launches ∧ t.items = s.items
      ∧ (x.sentTo s = [] → t.plan = s.plan ++ [.event .tlbiDone] ∧ t.tlbi = { s.tlbi with waiting := [] })
      ∧ (x.sentTo s ≠ [] → t.plan = s.plan ∧ t.tlbi = { s.tlbi with waiting := (x.sentTo s).map (·.2) })))
  ∧ (∀ s : State,
    (s.tlbi.stat.getLsbD 63 = true → s.tlbi.waiting = [] → ∃ v : BitVec 64,
      exec .tlbiDone s = .next { s with tlbi := { s.tlbi with stat := v } } ∧ v.getLsbD 63 = false
        ∧ v.toNat % 2 ^ 32 = (s.tlbi.stat.toNat + 1) % 2 ^ 32
        ∧ ∀ k, 32 ≤ k → k < 63 → v.getLsbD k = s.tlbi.stat.getLsbD k)
    ∧ (s.tlbi.stat.getLsbD 63 = false ∨ s.tlbi.waiting ≠ [] → exec .tlbiDone s = .next s))
  ∧ (∀ (g : Guard) (a : Opnd) (s : State) (c : Issue) (l : Nat), clear (.sysw g a 0x1201) s = some c → c.first = some l →
    let v := c.pair l a
    let kept := { s.tlbi with cmd := v &&& 0x3F1FF007 }
    let type := v.toNat % 8
    v.getLsbD 63 = true →
    (s.tlbi.stat.getLsbD 63 = true → Does (.sysw g a 0x1201) c {} s
      { s with tlbi := { s.tlbi with stat := s.tlbi.stat ||| 0x4000000000000000 } })
    ∧ (s.tlbi.stat.getLsbD 63 = false → 4 ≤ type → Does (.sysw g a 0x1201) c {} s
      { s with tlbi := { kept with stat := s.tlbi.stat ||| 0x4000000000000000 } })
    ∧ (s.tlbi.stat.getLsbD 63 = false → type < 4 →
      let asid := v.toNat / 2 ^ 12 % 2 ^ 9
      let log2 := v.toNat / 2 ^ 24 % 2 ^ 6
      let va := s.tlbi.va.toNat
      Does (.sysw g a 0x1201) c {} s { s with
        tlbi := { kept with stat := s.tlbi.stat ||| 0x8000000000000000 }
        plan := s.plan ++ [.event (if type = 0 then .tlbiAll else if type = 1 then .tlbiAsid asid
          else if type = 2 then .tlbiVa asid va log2 else .tlbiPa (va / 2 ^ 12 % 2 ^ 40 * 2 ^ 12) log2)] }))
  ∧ ∀ (cluster asid va : Nat) (store : Bool) (s : State),
    (canonical va = false → exec (.pageWalk cluster asid va store) s = .next s)
    ∧ (canonical va = true →
        let go (sp : Space) := walk cluster asid true (if store then .store else .load) sp (va % 2 ^ 57) s
        (∀ sp t y, (sp = .global ∨ sp = .host ∨ sp = .dieScratch) → go sp = (t, .ok y) →
          exec (.pageWalk cluster asid va store) s = .next t ∧ t.strands = s.strands ∧ t.plan = s.plan ∧ t.held = s.held
          ∧ (tlbLookup (t.cluster cluster).tlb asid (va % 2 ^ 57)).isSome = true)
        ∧ ((∀ sp t y, (sp = .global ∨ sp = .host ∨ sp = .dieScratch) → go sp ≠ (t, .ok y)) →
          exec (.pageWalk cluster asid va store) s = .next s))

/-! Main memory and the banks on chip. -/

/-- Plain requests, block reads, packets and memory-side atomics are answered from main memory under their key (R47, R50 to
R55, R60): reads give the bytes, writes change them and no other byte, a request outside HBM or otherwise ill formed is
answered MALFORMED and does nothing, and an evicted line leaves its L2 home.
Choices of the model that it rests on: log entries 12, 13, 14 and 23. -/
def Obligations.MemoryRequestsAreServed : Prop :=
  (∀ (s : State) (addr key n : Nat) (src : SrcClass) (data : List Byte), quiet s →
    let inside (k : Nat) : Prop := 0 < k ∧ addr + k ≤ hbmEnd
    let refused (i : Instr) : Prop := exec i s = .next { s with answer := ⟨3, [], 0⟩ }
    (inside n → ∃ t : State, Answers (.memoryRequest addr key src (.read n)) s 0 (hbmBytes s.mem key addr n) 0 t)
    ∧ (¬inside n → refused (.memoryRequest addr key src (.read n)) ∧ ∀ e p w, refused (.blockRead addr 0 e p w n key))
    ∧ (inside n → ∀ e p w, ∃ t : State, Answers (.blockRead addr 0 e p w n key) s 0 (hbmBytes s.mem key addr n) 0 t)
    ∧ (inside data.length → ∃ t : State, Answers (.memoryRequest addr key src (.write data)) s 0 [] 0 t
        ∧ ∀ b, hbmByte t.mem key b =
          if addr ≤ b ∧ b < addr + data.length then data.getD (b - addr) 0 else hbmByte s.mem key b)
    ∧ (¬inside data.length → refused (.memoryRequest addr key src (.write data)))
    ∧ (addr < hbmEnd → ∃ t : State, exec (.memoryRequest addr key src .evictL2) s = .next t
        ∧ t = { s with mem := t.mem, l2 := t.l2 } ∧ Map.find (addr / 256) t.l2 = none
        ∧ ∀ j, j ≠ addr / 256 → Map.find j t.l2 = Map.find j s.l2)
    ∧ (∀ (lay e pln pitch : Nat), lay ≠ 0 → ∀ f : EFmt, EFmt.ofCode e = some f →
        let good : Prop := blockOk lay (some f) pln pitch = true ∧ addr % (4 * f.bits) = 0
          ∧ 0 < 31 * pitch + 4 * f.bits ∧ addr + (31 * pitch + 4 * f.bits) ≤ hbmEnd
        (good → ∃ t : State, Answers (.blockRead addr lay e pln pitch n key) s 0
          (blockConvert lay f pln ((upTo 32).map fun i => ofLeBytes (hbmBytes s.mem key (addr + i * pitch) (4 * f.bits)))) 0 t)
        ∧ (¬good → refused (.blockRead addr lay e pln pitch n key)))
    ∧ ∀ (op : AtomOp) (w : Bool) (steps : List (Nat × Nat)),
        let i : Instr := .memorySideAtomic addr key op w steps
        let k := if w then 8 else 4
        let good : Prop := ¬(w = true ∧ (op = .fadd ∨ op = .fmin ∨ op = .fmax)) ∧ addr % k = 0 ∧ addr + k ≤ hbmEnd
        let r := steps.foldl (fun (acc : Nat × List Nat) x => ((atomResult op (8 * k) acc.1 x.1 x.2).1, acc.2 ++ [acc.1]))
          (ofLeBytes (hbmBytes s.mem key addr k), [])
        (¬good → refused i)
        ∧ (good → ∃ t : State, Answers i s 0 (r.2.flatMap fun x => leBytes k x) 0 t
          ∧ ∀ b, hbmByte t.mem key b =
            if addr ≤ b ∧ b < addr + k then BitVec.ofNat 8 (r.1 / 256 ^ (b - addr)) else hbmByte s.mem key b))
  ∧ ∀ (s : State) (base width key : Nat) (entries : List (Nat × Nat)) (values : List Nat), quiet s →
    let wide : Prop := width = 1 ∨ width = 2 ∨ width = 4 ∨ width = 8
    (¬wide → exec (.gatherPacket base width key entries) s = .next { s with answer := ⟨3, [], 0⟩ }
      ∧ exec (.scatterPacket base width key entries values) s = .next { s with answer := ⟨3, [], 0⟩ })
    ∧ (wide → ∃ (t : State) (mask : Nat),
        let flat := entries.flatMap fun e =>
          if served base width e.2 then hbmBytes s.mem key (base + e.2) width else List.replicate width 0xFF
        Answers (.gatherPacket base width key entries) s (if (entries.any fun e => !served base width e.2) then 3 else 0)
          (flat ++ List.replicate ((32 - flat.length % 32) % 32) 0) mask t
        ∧ ∀ j, mask.testBit j = true ↔ ∃ e, entries[j]? = some e ∧ served base width e.2 = false)
    ∧ (wide → values.length = entries.length → ∃ t : State,
        Answers (.scatterPacket base width key entries values) s (if (entries.any fun e => !served base width e.2) then 3 else 0)
          [] 0 t
        ∧ ∀ b, hbmByte t.mem key b =
          match (entries.zip values).reverse.find? fun e => served base width e.1.2 &&
              decide (base + e.1.2 ≤ b ∧ b < base + e.1.2 + width) with
          | some e => BitVec.ofNat 8 (e.2 / 256 ^ (b - (base + e.1.2)))
          | none => hbmByte s.mem key b)

/-- A bank is reserved where it is free and its channel and stack have room, streamed while it is held, served to others
after 8 rows, and closed (R56 to R59). Keys are destroyed, ranges zeroed and counters written (R63, R64, R114, R67). A word of
another tile's scratchpad is read or written (R104), a write-combining entry drains, and starvation changes no value.
Choices of the model that it rests on: log entries 16, 61 and 125. -/
def Obligations.BanksAndRangesAreServed : Prop :=
  (∀ (s : State) (stack pc bank tile entry : Nat),
    let h := stack * 4096 + pc * 64 + bank
    let i : Instr := .bankReserveRequest stack pc bank tile entry
    let count (f : Nat → Nat) : Nat := (s.mem.banks.filter fun b => f b.1 == f h).length
    (¬(stack < 12 ∧ pc < 64 ∧ bank < 64) → exec i s = .next { s with answer := ⟨3, [], 0⟩ })
    ∧ (stack < 12 → pc < 64 → bank < 64 →
      (Map.find h s.mem.banks ≠ none → exec i s = .next { s with answer := ⟨4, [], 0⟩ })
      ∧ (Map.find h s.mem.banks = none → 2 ≤ count (· / 64) ∨ 32 ≤ count (· / 4096) →
          exec i s = .next { s with answer := ⟨5, [], 0⟩ })
      ∧ (Map.find h s.mem.banks = none → count (· / 64) < 2 → count (· / 4096) < 32 →
          ∃ t : State, Answers i s 0 [BitVec.ofNat 8 (h % 256), BitVec.ofNat 8 (h / 256)] 0 t
            ∧ t.mem = { s.mem with banks := t.mem.banks } ∧ Map.find h t.mem.banks = some ⟨tile, entry, 0, [], false⟩
            ∧ ∀ j, j ≠ h → Map.find j t.mem.banks = Map.find j s.mem.banks)))
  ∧ (∀ (s : State) (h row count key : Nat) (data : List Byte),
    (Map.find h s.mem.banks = none → ∀ w, exec (.streamRequest h w row count key data) s = .next { s with answer := ⟨6, [], 0⟩ })
    ∧ (∀ b, Map.find h s.mem.banks = some b →
      (¬(0 < count ∧ row + count ≤ 16384) → ∀ w,
        exec (.streamRequest h w row count key data) s = .next { s with answer := ⟨3, [], 0⟩ })
      ∧ (0 < count → row + count ≤ 16384 → quiet s → b.jobs = [] → b.closing = false → ∀ w, ∃ t : State,
          exec (.streamRequest h w row count key data) s = .next t
          ∧ Streamed h b ⟨w, row, count, key, if w then data else [], 0⟩ s t)
      ∧ (b.streamed < 8 → exec (.foreignWindow h) s = .next s)
      ∧ (8 ≤ b.streamed → b.jobs = [] → b.closing = false → ∃ t : State, exec (.foreignWindow h) s = .next t
        ∧ t = { s with mem := { s.mem with banks := t.mem.banks } }
        ∧ Map.find h t.mem.banks = some { b with streamed := 0 })
      ∧ (∀ j, 8 ≤ b.streamed → b.jobs = [j] → b.closing = false → 0 < j.left → quiet s → ∃ t : State,
          exec (.foreignWindow h) s = .next t ∧ Streamed h { b with streamed := 0 } j s t)
      ∧ (b.jobs = [] → ∃ t : State, exec (.bankCloseRequest h) s = .next t ∧ Map.find h t.mem.banks = none
        ∧ t = { s with mem := { s.mem with banks := t.mem.banks }, tiles := t.tiles }
        ∧ (t.tile b.tile).copies = (s.tile b.tile).copies.filter fun e => !(e.state == .bank && e.handle == h))
      ∧ (b.jobs = [] → ∃ t : State, exec (.bankIdleClose h) s = .next t ∧ Map.find h t.mem.banks = none
        ∧ t = { s with mem := { s.mem with banks := t.mem.banks }, plan := s.plan ++ [.event (.closeEvent b.tile h 1)] })))
  ∧ (∀ (s : State) (die key : Nat), ∃ t : State, exec (.baseDieKeyDestroy die key) s = .next t
    ∧ t = { s with mem := { s.mem with cache := t.mem.cache, keyGen := t.mem.keyGen } }
    ∧ (∀ x, x ∈ t.mem.cache ↔ x ∈ s.mem.cache ∧ ¬(x.2.key = key ∧ x.1 % 12 = die))
    ∧ ∀ k, Table.get 0 k t.mem.keyGen = Table.get 0 k s.mem.keyGen + if k = key + 512 * die then 1 else 0)
  ∧ (∀ (s : State) (base size key : Nat),
    let whole : Prop := base % 4096 = 0 ∧ size % 4096 = 0 ∧ size ≤ 2 ^ 34
    let good : Prop := whole ∧ base + size ≤ hbmEnd
    let dieGood : Prop := whole ∧ hbmEnd ≤ base ∧ base + size ≤ dieEnd
    (dieGood → ∃ t : State, exec (.bulkZeroCommand base size key) s = .next t
      ∧ t = { s with answer := ⟨0, [], 0⟩, dieScr := t.dieScr, dieScrBad := t.dieScrBad }
      ∧ (∀ a, t.dieScr.read a = if base ≤ hbmEnd + a ∧ hbmEnd + a < base + size then 0 else s.dieScr.read a)
      ∧ ∀ w, w ∈ t.dieScrBad ↔ w ∈ s.dieScrBad ∧ ¬(base ≤ hbmEnd + 8 * w ∧ hbmEnd + 8 * w < base + size))
    ∧ (¬good ∧ ¬dieGood → exec (.bulkZeroCommand base size key) s = .next { s with answer := ⟨3, [], 0⟩ })
    ∧ (good → ∃ t : State, Answers (.bulkZeroCommand base size key) s 0 [] 0 t
      ∧ (∀ b, base ≤ b → b < base + size → hbmByte t.mem key b = 0)
      ∧ ∀ b, b < base ∨ base + size ≤ b → hbmByte t.mem key b = hbmByte s.mem key b))
  ∧ (∀ (s : State) (v : BitVec 64), let q := s.mem.migidx.toNat % 2 ^ 24
    (q < 12582912 → ∃ t : State, exec (.migdataWrite v) s = .next t
      ∧ t = { s with mem := { s.mem with counts := t.mem.counts, queued := t.mem.queued } }
      ∧ (∀ k, Table.get 0 k t.mem.counts = if k = q then v.extractLsb' 0 16 else Table.get 0 k s.mem.counts)
      ∧ ∀ k, Table.get false k t.mem.queued = if k = q then v.getLsbD 16 else Table.get false k s.mem.queued)
    ∧ (12582912 ≤ q → exec (.migdataWrite v) s = .next s))
  ∧ (∀ (s : State) (tile offset width : Nat) (data : List Byte),
    let reads : Instr := .remoteScratchpadAccess tile offset width none
    let writes : Instr := .remoteScratchpadAccess tile offset width (some data)
    (regionOf s tile offset width = none → exec reads s = .next { s with answer := ⟨3, [], 0⟩ }
      ∧ exec writes s = .next { s with answer := ⟨3, [], 0⟩ })
    ∧ ∀ k h, regionOf s tile offset width = some (k, h) → Map.find k s.held = some h → h.bad = [] →
      (tileDown s tile = true → exec reads s = .next { s with answer := ⟨2, List.replicate width 0xFF, 0⟩ }
        ∧ exec writes s = .next { s with answer := ⟨2, [], 0⟩ })
      ∧ (tileDown s tile = false → exec reads s
          = .next { s with answer := ⟨0, (upTo width).map fun n => h.scr.read (offset - h.region + n), 0⟩ })
      ∧ (tileDown s tile = false → data.length = width → ∃ t x, exec writes s = .next t ∧ Map.find k t.held = some x
          ∧ x = { h with scr := x.scr } ∧ t = { s with held := t.held, answer := ⟨0, [], 0⟩ }
          ∧ (∀ j, j ≠ k → Map.find j t.held = Map.find j s.held)
          ∧ ∀ a, x.scr.read a = if offset - h.region ≤ a ∧ a < offset - h.region + width
              then data.getD (a - (offset - h.region)) 0 else h.scr.read a))
  ∧ ∀ (s : State) (tile bank requester : Nat), exec (.bankStarvePromote tile bank requester) s = .next s
    ∧ ((s.tile tile).wc = [] → exec (.wcDrainTimeout tile) s = .next s)
    ∧ ∀ e rest, (s.tile tile).wc = e :: rest → ∃ t : State, exec (.wcDrainTimeout tile) s = .next t
        ∧ (t.tile tile).wc = rest ∧ t.strands = s.strands ∧ t.plan = s.plan ∧ t.held = s.held ∧ t.launches = s.launches
        ∧ (inHost (256 * e.pline) = true → hostGone s = false → e.data < 256 ^ 256 → hostBase % 256 = 0 →
          ∀ k < 256, t.hostMem.read (256 * e.pline - hostBase + k) =
            if e.mask.testBit k then BitVec.ofNat 8 (e.data / 256 ^ k) else s.hostMem.read (256 * e.pline - hostBase + k))

/-! Beacons, votes, fences and appeals. -/

/-- Beacons are sent with their fields, the next SEQ counted, and votes and grants sent to the other neighbours (R438,
R442, R448); a good beacon, a bad or missed one and a babbling one move the judgement as R440 and R441 say; and a fenced
tile learns of it from the JUDGE bits of a majority (R447).
Choices of the model that it rests on: log entries 115 and 116. -/
def Obligations.BeaconsAreSentAndJudged : Prop :=
  (∀ (tile : Nat) (s : State), tile < 768 →
    let seq := Table.get 0 tile s.health.seqs
    ∃ t : State, exec (.beaconSend tile) s = .next t
      ∧ t = { s with plan := t.plan, fresh := t.fresh, health := { s.health with seqs := t.health.seqs } }
      ∧ (∀ n, Table.get 0 n t.health.seqs = if n = tile then (seq + 1) % 65536 else Table.get 0 n s.health.seqs)
      ∧ ∀ (d back about : Nat), d < 4 → back < 4 → neighbour tile d = some about → neighbour about back = some tile →
        (∃ b : BitVec 64, .event (.beaconReceive about back b false false) ∈ t.plan
          ∧ b.toNat / 2 ^ 54 = tile ∧ b.toNat / 2 ^ 38 % 65536 = seq % 65536
          ∧ b.toNat / 2 ^ 35 % 8 = Table.get 0 tile s.health.hstate % 8 ∧ b.toNat % 65536 = crc16 b.toNat
          ∧ ∀ e < 4, b.getLsbD (31 + dirBit e) = ((judgementAt s tile e).faulty || (judgementAt s tile e).closed))
        ∧ (tileDown s tile = false → ∀ n e, neighbour about e = some n → n ≠ tile →
          ((judgementAt s tile d).faulty = true → .event (.voteMessage n about tile) ∈ t.plan)
          ∧ ((judgementAt s tile d).state = 7 → .event (.grantMessage n about tile) ∈ t.plan)))
  ∧ ∀ (tile dir about : Nat) (s : State), tile < 768 → dir < 4 → neighbour tile dir = some about →
    let j := judgementAt s tile dir
    let short : Prop := tooFew s tile dir about (standing s j.votes + 1)
    let sound (b : BitVec 64) : Prop := b.toNat % 65536 = crc16 b.toNat ∧ b.toNat / 2 ^ 54 = about
    (∀ i, (i = .beaconMissed tile dir ∨ ∃ b e n, ¬sound b ∧ i = .beaconReceive tile dir b e n) →
      (j.state < 3 → Judges i tile dir { j with state := j.state + 1 } s)
      ∧ (j.state = 3 → (short → Judges i tile dir { j with state := 4, why := 1, good := 0 } s)
          ∧ (¬short → Fences i tile dir about s))
      ∧ (j.state = 4 → exec i s = .next s)
      ∧ (j.state = 5 ∨ j.state = 6 → Judges i tile dir { j with good := 0 } s)
      ∧ (j.state = 7 → ∃ t : State, exec i s = .next t ∧ (judgementAt t tile dir).state = 6
          ∧ (judgementAt t tile dir).good = 0))
    ∧ ∀ (b : BitVec 64) (early noCredit : Bool), sound b →
      let i : Instr := .beaconReceive tile dir b early noCredit
      let seq := b.toNat / 2 ^ 38 % 2 ^ 16
      let high : Bool := decide (s.health.beaconcfg.toNat % 2 ^ 16 < b.toNat / 2 ^ 16 % 2 ^ 15)
      let appeal : Prop := b.toNat / 2 ^ 35 % 8 = 2
      let babbling : Prop := j.seq = some seq ∨ early = true ∨ (high = true ∧ j.injHigh = true) ∨ noCredit = true
      ∃ accuses : Bool, (∀ back < 4, neighbour about back = some tile → accuses = b.getLsbD (31 + dirBit back))
        ∧ let k : Judgement := { j with seq := some seq, injHigh := high, accuses := accuses }
          (tileState s tile ≠ 1 → babbling → j.state ≤ 3 →
            (short → ∃ why, Judges i tile dir { k with state := 5, why := why, good := 0 } s)
            ∧ (¬short → Fences i tile dir about s))
          ∧ (tileState s tile ≠ 1 → ¬babbling →
            (j.state ≤ 3 → Judges i tile dir { k with state := 0 } s)
            ∧ (j.state = 4 ∨ j.state = 5 ∧ 15 ≤ j.good → ∃ t : State, exec i s = .next t
                ∧ (judgementAt t tile dir).state = 0
                ∧ ∀ n e, n < 768 → e < 4 → neighbour n e = some about → tile ∉ (judgementAt t n e).votes)
            ∧ (j.state = 5 → j.good < 15 → Judges i tile dir { k with good := j.good + 1 } s)
            ∧ (j.state = 6 → ¬appeal ∨ 4 ≤ fenceCount s about → Judges i tile dir { k with good := 0 } s)
            ∧ (j.state = 6 → appeal → fenceCount s about < 4 →
              (j.good < 63 → Judges i tile dir { k with good := j.good + 1 } s)
              ∧ (63 ≤ j.good →
                (tileDown s tile = true ∨ tileState s about ≠ 3 ∨ standing s j.grants + 1 < threshold s about →
                  ∃ t : State, exec i s = .next t ∧ judgementAt t tile dir = { k with state := 7, good := 64 }
                    ∧ ∀ n e, neighbour about e = some n → n ≠ tile → .event (.grantMessage n about tile) ∈ t.plan)
                ∧ (tileDown s tile = false → tileState s about = 3 → threshold s about ≤ standing s j.grants + 1 →
                  Reopens i tile dir about s))))
          ∧ (tileState s tile = 1 →
            threshold s tile ≤ ((upTo 4).filter fun d => if d = dir then accuses else (judgementAt s tile d).accuses).length →
            ∃ t : State, exec i s = .next t ∧ tileState t tile = 2 ∧ Table.get 0 tile t.health.hstate = 1)

/-- A vote that makes the count reach its threshold closes the port and fences the tile; one that does not is kept until it
expires; a FENCE message closes the port of whoever receives it (R442, R443). Grants that reach it reopen the ports of a
tile in appeal (R448). A test decides whether a tile appeals or is RETIRED (R447), and the host moves a tile between LIVE
and QUARANTINED alone (R450). A packet sent again is performed once (R445).
Choices of the model that it rests on: log entries 116 and 117. -/
def Obligations.VotesFenceAndGrantsReturn : Prop :=
  (∀ (tile dir about voter back : Nat) (s : State), tile < 768 → dir < 4 → neighbour tile dir = some about → voter < 768 →
    back < 4 → neighbour voter back = some about →
    let j := judgementAt s tile dir
    let vote : Instr := .voteMessage tile about voter
    let votes := (j.votes ++ [voter]).eraseDups
    let held := standing s votes + if j.faulty then 1 else 0
    let grant : Instr := .grantMessage tile about voter
    let grants := (j.grants ++ [voter]).eraseDups
    let granted := standing s grants + if j.state = 7 then 1 else 0
    let passed (faulty : Prop) : Prop := tileDown s voter = false ∧ tile ≠ voter ∧ faulty
    let cast : Prop := passed ((judgementAt s voter back).faulty = true)
    let given : Prop := passed ((judgementAt s voter back).state = 7)
    (¬cast → exec vote s = .next s)
    ∧ (cast → tooFew s tile dir about held → Judges vote tile dir { j with votes := votes } s)
    ∧ (cast → ¬tooFew s tile dir about held → Fences vote tile dir about s)
    ∧ Judges (.voteExpiry tile about voter) tile dir { j with votes := j.votes.filter (· != voter) } s
    ∧ (j.closed = true → exec (.fenceMessage tile about) s = .next s)
    ∧ (j.closed = false → Fences (.fenceMessage tile about) tile dir about s)
    ∧ (¬given → exec grant s = .next s)
    ∧ (given → tileDown s tile = true ∨ tileState s about ≠ 3 ∨ granted < threshold s about →
        Judges grant tile dir { j with grants := grants } s)
    ∧ (given → tileDown s tile = false → tileState s about = 3 → threshold s about ≤ granted → Reopens grant tile dir about s))
  ∧ (∀ (tile : Nat) (passed : Bool) (s : State),
    (tileState s tile ≠ 2 → exec (.selftestDone tile passed) s = .next s)
    ∧ (tileState s tile = 2 → ∃ t : State, exec (.selftestDone tile passed) s = .next t
      ∧ tileState t tile = (if passed = true ∧ fenceCount s tile < 4 then 3 else 5) ∧ t.tile tile = (s.tile tile).zeroed
      ∧ Table.get 0 tile t.health.hstate = (if passed then 2 else 3)
      ∧ (passed = true → Table.get 0 tile t.health.seqs = 0)
      ∧ t = { s with tiles := t.tiles, health := { s.health with
          tilehealth := t.health.tilehealth, hstate := t.health.hstate, seqs := t.health.seqs } }
      ∧ ∀ n, n ≠ tile → t.tile n = s.tile n ∧ tileState t n = tileState s n))
  ∧ (∀ (tile v : Nat) (s : State),
    let turns : Prop := tile < 768 ∧ (tileState s tile = 0 ∧ v % 8 = 4 ∨ tileState s tile = 4 ∧ v % 8 = 0)
    (¬turns → exec (.tileStateWrite tile v) s = .next s)
    ∧ (turns → ∃ t : State, exec (.tileStateWrite tile v) s = .next t ∧ tileState t tile = v % 8
      ∧ .event (.itemAdmission tile) ∈ t.plan
      ∧ t = { s with plan := t.plan, health := { s.health with tilehealth := t.health.tilehealth } }
      ∧ (∀ k, 3 ≤ k → k < 64 → (Table.get 0 tile t.health.tilehealth).getLsbD k = (Table.get 0 tile s.health.tilehealth).getLsbD k)
      ∧ ∀ n, n ≠ tile → Table.get 0 n t.health.tilehealth = Table.get 0 n s.health.tilehealth))
  ∧ ∀ (packet : Nat) (s : State), exec (.meshResend packet) s = .next s

/-! The host's side. -/

/-- The aperture reads and writes package memory and nothing beyond it (R460, R213). The link trains, is lost and comes back
with LINKSTAT, GONE and the held notices as R457, R460, R465 and R466 say; host reads in flight at a loss take their poison
and HOST_GONE. A wear threshold sends its notice once (R471), and an uncorrectable error marks what it met (R48, R433).
Choices of the model that it rests on: log entries 24, 114, 120, 122 and 123. -/
def Obligations.HostLinkAndApertureServed : Prop :=
  (∀ (offset len : Nat) (data : List Byte) (s : State),
    let base := s.host.aperbase.toNat / 2 ^ 36 % 2 ^ 16 * 2 ^ 36 + offset
    let reaches (n : Nat) : Prop := 0 < n ∧ offset + n ≤ 2 ^ 36 ∧ (base + n ≤ hbmEnd ∨ hbmEnd ≤ base ∧ base + n ≤ dieEnd)
    let refused := { s with host := { s.host with readData := [], readOk := false } }
    (¬reaches len → exec (.hostApertureAccess offset none len) s = .next refused)
    ∧ (¬reaches data.length → exec (.hostApertureAccess offset (some data) len) s = .next refused)
    ∧ (reaches len → base + len ≤ hbmEnd → quiet s → s.l2 = [] → ∃ t : State,
        exec (.hostApertureAccess offset none len) s = .next t ∧ t = { s with mem := t.mem, l2 := t.l2, host := t.host }
        ∧ t.host = { s.host with readData := hbmBytes s.mem 0 base len, readOk := true })
    ∧ (reaches len → hbmEnd ≤ base → s.dieScrBad = [] → exec (.hostApertureAccess offset none len) s
        = .next { s with host := { s.host with readOk := true
                                               readData := (upTo len).map fun i => s.dieScr.read (base - hbmEnd + i) } })
    ∧ (reaches data.length → (base < hbmEnd → quiet s ∧ s.l2 = []) → (hbmEnd ≤ base → s.dieScrBad = []) →
        ∃ t u : State, exec (.hostApertureAccess offset (some data) len) s = .next t
          ∧ t = { s with mem := t.mem, l2 := t.l2, dieScr := t.dieScr, host := { s.host with readData := [], readOk := true } }
          ∧ exec (.hostApertureAccess offset none data.length) t = .next u ∧ u.host.readData = data))
  ∧ (∀ s : State, exec .hostLinkDown s = .next { s with
      host := { s.host with hoststat := s.host.hoststat ||| 0x8000000000000000, linkstat := s.host.linkstat &&& 0xFFFFFFFFFFFF0000 }
      plan := if .event .hostGoneCompletion ∈ s.plan then s.plan else s.plan ++ [.event .hostGoneCompletion] })
  ∧ (∀ s : State,
    (hostGone s = false → exec .hostGoneCompletion s = .next s ∧ exec .hoststatGoneClear s = .next s)
    ∧ (hostGone s = true →
      (∃ t : State, exec .hostGoneCompletion s = .next t
        ∧ ∀ k b, t.strand k = some b → ∀ p ∈ b.pend, p.ready = false → p.ifGone = none)
      ∧ (∀ (k : Nat) (a : Strand) (p : Pending) (ws : List RegWrite) (r : Raise), s.strands = [(k, a)] → a.pend = [p] →
          p.ifGone = some (ws, r) → p.ready = false → p.logged = false → p.left = 0 → p.killed = 0 → a.seat = none →
          a.handler = none → a.over = false → (∀ w ∈ ws, w.lane < 4) →
          ∃ (t : State) (b : Strand), exec .hostGoneCompletion s = .next t ∧ t.strand k = some b ∧ b.pend = []
            ∧ ((∃ q ∈ b.queue, q.code = r.code) ∨ b.ovf = true)
            ∧ ∀ l < 4, ∀ n, Table.get 0 n (b.lanes.get l).v =
              if (a.lanes.get l).live then (((ws.filter fun w => w.lane == l && w.reg == n).getLast?).map (·.val)).getD
                (Table.get 0 n (a.lanes.get l).v) else Table.get 0 n (a.lanes.get l).v)
      ∧ ∃ (t : State) (back : HostIf), exec .hoststatGoneClear s = .next t
        ∧ back = { s.host with hoststat := s.host.hoststat &&& 0x7FFFFFFFFFFFFFFF, held := [], linkstat := back.linkstat }
        ∧ back.linkstat = (if s.host.linkstat.toNat / 2 ^ 8 % 2 ^ 8 = 0 then s.host.linkstat else s.host.linkstat ||| 8)
        ∧ (s.host.held = [] → t = { s with host := back })
        ∧ (∀ ws, s.host.held = [ws] → Noticed ws { s with host := back } t)
        ∧ t = { s with host := t.host, hostMem := t.hostMem }))
  ∧ (∀ (width rate : Nat) (flit : Bool) (s : State),
    let known : Prop := width ∈ [1, 2, 4, 8, 16] ∧ 0 < rate ∧ rate < 8
    let field (v : BitVec 64) (hi lo : Nat) : Nat := v.toNat / 2 ^ lo % 2 ^ (hi + 1 - lo)
    let before := field s.host.linkstat 47 32
    (¬known → exec (.linkTraining width rate flit) s = .next s)
    ∧ (known → ∃ v : BitVec 64, exec (.linkTraining width rate flit) s = .next { s with host := { s.host with linkstat := v } }
      ∧ field v 15 8 = width ∧ field v 7 5 = rate ∧ v.getLsbD 4 = flit ∧ v.getLsbD 3 = !hostGone s
      ∧ field v 47 32 = if field s.host.linkstat 15 8 ≠ 0 ∨ hostGone s = true then min 0xFFFF (before + 1) else before))
  ∧ (∀ (unit : Nat) (s : State),
    (36 ≤ unit ∨ unit ∈ s.host.wornSent → exec (.wearThreshold unit) s = .next s)
    ∧ (unit < 36 → unit ∉ s.host.wornSent → ∃ t : State, exec (.wearThreshold unit) s = .next t
      ∧ Noticed [4 + (1 <<< 48), BitVec.ofNat 64 unit, 0, 0, 0, 0, 0, 0]
          { s with host := { s.host with wornSent := s.host.wornSent ++ [unit] } } t))
  ∧ ∀ (s : State), (∀ u, (∀ a, u ≠ .dramBurst a) → exec (.softError u false) s = .next s)
    ∧ (∀ a, a < hbmEnd → ∃ t : State, exec (.softError (.dramBurst a) false) s = .next t
        ∧ t = { s with mem := { s.mem with weakBursts := t.mem.weakBursts } }
        ∧ ∀ x, x ∈ t.mem.weakBursts ↔ x ∈ s.mem.weakBursts ∨ x = a / 32)
    ∧ (∀ a, a < hbmEnd → ∃ t : State, exec (.softError (.dramBurst a) true) s = .next t
        ∧ t = { s with mem := { s.mem with badBursts := t.mem.badBursts } }
        ∧ ∀ x, x ∈ t.mem.badBursts ↔ x ∈ s.mem.badBursts ∨ x = a / 32)
    ∧ (∀ k lane n a, lane < 4 → s.strand k = some a → ∃ (t : State) (b : Strand), exec (.softError (.vreg k lane n) true) s = .next t
        ∧ t = s.setStrand k b ∧ ∀ x, x ∈ (b.lanes.get lane).badV ↔ x ∈ (a.lanes.get lane).badV ∨ x = n % 256)
    ∧ ∀ tile launch o h, Map.find (heldKey tile launch) s.held = some h → ∃ (t : State) (g : TileLaunch),
        exec (.softError (.scratchWord tile launch o) true) s = .next t ∧ Map.find (heldKey tile launch) t.held = some g
        ∧ t = { s with held := t.held } ∧ g = { h with bad := g.bad } ∧ ∀ x, x ∈ g.bad ↔ x ∈ h.bad ∨ x = o / 16

/-- Power-on and boot go through the checks of R467 in order; attestation reports the nonce that stood at the request
(R468); and writes of the register window do what each register's table says, while the window is open (R458, R459).
Choices of the model that it rests on: log entries 54, 118, 119 and 121. -/
def Obligations.BootAndRegisterWindowServed : Prop :=
  (∀ (signature rollback image : Bool) (s : State), ∃ t : State, exec (.powerOn signature rollback image) s = .next t
    ∧ t = { State.reset with plan := s.plan, cur := s.cur, tick := s.tick, fresh := s.fresh, hostMem := s.hostMem, host := t.host }
    ∧ t.host = { State.reset.host with bootstat := t.host.bootstat }
    ∧ t.host.bootstat.toNat % 16 = (if signature && rollback && image then 2 else 4)
    ∧ t.host.bootstat.toNat / 2 ^ 8 % 2 ^ 8 = if !signature then 1 else if !rollback then 2 else if !image then 3 else 0)
  ∧ (∀ (trained : Bool) (s : State),
    (s.host.bootstat.toNat % 16 ≠ 2 → exec (.bootReady trained) s = .next s)
    ∧ (s.host.bootstat.toNat % 16 = 2 → ∃ v : BitVec 64,
      exec (.bootReady trained) s = .next { s with host := { s.host with bootstat := v } }
      ∧ v.toNat % 16 = (if trained then 3 else 4) ∧ v.toNat / 2 ^ 16 = s.host.bootstat.toNat / 2 ^ 16
      ∧ v.toNat / 2 ^ 8 % 2 ^ 8 = if trained then s.host.bootstat.toNat / 2 ^ 8 % 2 ^ 8 else 4))
  ∧ (∀ s : State,
    (s.host.attcmd.getLsbD 62 = false → exec .attestationRequest s = .next s)
    ∧ (s.host.attcmd.getLsbD 62 = true → exec .attestationDone s = .next s
      ∧ exec .attestationRequest s = .next { s with
        host := { s.host with attcmd := 0, attheld := (upTo 4).map fun i => Table.get 0 i s.host.attnonce }
        plan := if .event .attestationDone ∈ s.plan then s.plan else s.plan ++ [.event .attestationDone] })
    ∧ (∀ n0 n1 n2 n3 : BitVec 64, s.host.attcmd.getLsbD 62 = false → s.host.attheld = [n0, n1, n2, n3] → ∃ t : State,
      exec .attestationDone s = .next t ∧ t = { s with host := { s.host with attcmd := t.host.attcmd, attheld := []
                                                                             attreport := t.host.attreport, reports := t.host.reports } }
      ∧ t.host.attcmd.getLsbD 62 = true
      ∧ (∀ j < 32, t.host.attreport.read (88 + j)
          = BitVec.ofNat 8 (([n0, n1, n2, n3].getD (j / 8) 0).toNat / 256 ^ (j % 8)))
      ∧ ∀ j < 8, t.host.attreport.read (248 + j) = 0))
  ∧ ∀ (s : State) (v : BitVec 64),
    let write (r : HostReg) : Instr := .registerWrite r none v
    (∀ r half, identityReg r = false → s.host.bootstat.toNat % 16 ≠ 3 → exec (.registerWrite r half v) s = .next s)
    ∧ (∀ r half n d, r ∈ [.linkstat, .railstat n, .pwrsum, .wear n, .mbox d n, .bootstat, .attreport n, .idcert n, .none] →
        exec (.registerWrite r half v) s = .next s)
    ∧ exec (write .attcmd) s = (if v.getLsbD 63 then exec .attestationRequest s else .next s)
    ∧ (s.host.bootstat.toNat % 16 = 3 →
      exec (write .hoststat) s = (if v.getLsbD 63 then exec .hoststatGoneClear s else .next s)
      ∧ exec (write .migdata) s = exec (.migdataWrite v) s
      ∧ (let kept := { s with host := { s.host with lrctl := v &&& 0x6000000000000000 } }
         exec (write .lrctl) s = if v.getLsbD 63 then exec (if v.getLsbD 61 then .replaySubmit else .launchSubmit) kept
           else .next kept)
      ∧ (∀ half, ∃ t : State, exec (.registerWrite .aperbase half v) s = .next t
          ∧ t = { s with host := { s.host with aperbase := t.host.aperbase } }
          ∧ ∀ k, t.host.aperbase.getLsbD k = (decide (36 ≤ k ∧ k < 52) &&
              if half = none ∨ half = some (decide (32 ≤ k)) then v.getLsbD k else s.host.aperbase.getLsbD k))
      ∧ (∃ t : State, exec (write .nqstat) s = .next t ∧ t = { s with host := { s.host with nqstat := t.host.nqstat } }
          ∧ ∀ k, t.host.nqstat.getLsbD k = if k < 24 then v.getLsbD k
              else if k = 63 then s.host.nqstat.getLsbD k && !v.getLsbD k else s.host.nqstat.getLsbD k)
      ∧ (s.fabric.inPod = true → ∀ half n, exec (.registerWrite .fabcfg half v) s = .next s
          ∧ exec (.registerWrite (.tidetab n) half v) s = .next s)
      ∧ (∃ t : State, exec (write .vqcfg) s = .next t ∧ t = { s with fabric := { s.fabric with vqcfg := t.fabric.vqcfg } }
          ∧ t.fabric.vqcfg.toNat % 2 ^ 8 = min 12 (max 2 (v.toNat % 2 ^ 8))
          ∧ t.fabric.vqcfg.toNat / 2 ^ 8 % 2 ^ 8 = min 14 (max 4 (v.toNat / 2 ^ 8 % 2 ^ 8))
          ∧ t.fabric.vqcfg.toNat / 2 ^ 16 % 2 ^ 8 = max 1 (v.toNat / 2 ^ 16 % 2 ^ 8)
          ∧ t.fabric.vqcfg.toNat / 2 ^ 24 = v.toNat / 2 ^ 24 % 2 ^ 24)
      ∧ exec (write .pwrcap) s = .next { s with host := { s.host with pwrcap := BitVec.ofNat 64 (min 3400 (max 1700 (v.toNat % 2 ^ 16))) } }
      ∧ ∀ n < 256,
        (s.host.lrstat.getLsbD 63 = true → exec (write (.lrbuf n)) s = .next s)
        ∧ (s.host.lrstat.getLsbD 63 = false → ∃ t : State, exec (write (.lrbuf n)) s = .next t
          ∧ t = { s with host := { s.host with lrbuf := t.host.lrbuf } }
          ∧ ∀ a, t.host.lrbuf.read a = if a / 8 = n then BitVec.ofNat 8 (v.toNat / 256 ^ (a % 8)) else s.host.lrbuf.read a))

/-! The fabric. -/

/-- Slots and tides turn (R329, R330, R348, R351, R352), the guard ages what is unacknowledged and judges lock, a port
engine sends one flit in its time under a fresh counter value (R339, R344, R347, R348), rails and lock come back (R330,
R350), and pods form and grow (R328, R352).
Choices of the model that it rests on: log entries 72, 73, 74 and 77. -/
def Obligations.FabricKeepsItsCalendar : Prop :=
  (∀ s : State, (s.fabric.inPod = false → exec .slotBoundary s = .next s)
    ∧ (s.fabric.inPod = true → ∃ t : State, exec .slotBoundary s = .next t
      ∧ t.fabric.slotno = (s.fabric.slotno + 1) % slotsOf s ∧ t.fabric.guard = false ∧ (∀ r, (t.rail r).used = 0)
      ∧ t.strands = s.strands ∧ t.mem = s.mem
      ∧ (t.fabric.slotno ≠ 0 → t.fabric.tidecnt = s.fabric.tidecnt ∧ t.fabric.master = s.fabric.master)
      ∧ (t.fabric.slotno = 0 → t.fabric.tidecnt = s.fabric.tidecnt + 1
        ∧ t.fabric.master = s.fabric.nextMaster.getD s.fabric.master
        ∧ t.fabric.locked = (s.fabric.locked || s.fabric.relock)
        ∧ (∀ q cap, (q, cap) ∈ s.fabric.joining → (t.peer q).member = true ∧ (t.peer q).removed = false)
        ∧ ∀ q p, Map.find q s.fabric.peers = some p → (∀ x ∈ s.fabric.joining, x.1 ≠ q) →
          let missed := if p.heard then 0 else if p.met then p.missed + 1 else p.missed
          (t.peer q).missed = missed ∧ (t.peer q).keySlot = (if p.keyNext then 1 - p.keySlot else p.keySlot)
          ∧ (p.member = true → p.removed = false → remTo s ≤ missed → .event (.peerRemoved q) ∈ t.plan))))
  ∧ (∀ s : State, (s.fabric.inPod = false ∨ s.fabric.guard = true → exec .slotGuard s = .next s)
    ∧ (s.fabric.inPod = true → s.fabric.guard = false → ∃ t : State, exec .slotGuard s = .next t
      ∧ t = { s with fabric := { s.fabric with guard := true, rails := t.fabric.rails, phaseBad := none
                                               lockErrs := t.fabric.lockErrs, locked := t.fabric.locked } }
      ∧ (s.fabric.phaseBad = none → t.fabric.lockErrs = s.fabric.lockErrs ∧ t.fabric.locked = s.fabric.locked)
      ∧ (s.fabric.phaseBad = some false → t.fabric.lockErrs = 0 ∧ t.fabric.locked = s.fabric.locked)
      ∧ (s.fabric.phaseBad = some true → t.fabric.lockErrs = s.fabric.lockErrs + 1
        ∧ t.fabric.locked = (s.fabric.locked && decide (s.fabric.lockErrs < 3))
        ∧ (3 ≤ s.fabric.lockErrs → s.fabric.locked = true → ∀ r, railUp s r = true → (t.rail r).state = 4))
      ∧ ∀ r q, livePeer s s.fabric.slotno r = some q → (t.rail r).retry = (s.rail r).retry.map fun f =>
          if f.peer = q ∧ f.age < 2 then { f with age := f.age + 1 } else f))
  ∧ (∀ (rail : Nat) (s : State),
    (joined s rail = none → exec (.portEngineSend rail) s = .next s)
    ∧ ∀ q, joined s rail = some q →
      let p := s.peer q
      let x := s.rail rail
      let ctr := Table.get 0 rail p.counters
      let may : Prop := flitFits s rail = true ∧ x.stall = false ∧ ctr < 2 ^ 40
      (¬may → exec (.portEngineSend rail) s = .next s)
      ∧ (may → ∃ t : State, exec (.portEngineSend rail) s = .next t ∧ Table.get 0 rail (t.peer q).counters = ctr + 1
        ∧ (t.rail rail).used = x.used + flitTime s ∧ t.strands = s.strands ∧ t.mem = s.mem
        ∧ (p.marked = [] → (∀ f ∈ x.retry, f.peer = q → f.age < 2) →
          (p.queue = [] → (t.rail rail).retry = x.retry)
          ∧ ∀ e, p.queue = [e] → x.retry.length < 512 → railClosing s rail = false → e.ready = true → e.sent = 0 →
            e.small = true → e.claimed = none → e.flit.type ≠ 0 →
            ∃ f : Flit, (t.rail rail).retry = x.retry ++ [⟨q, 0, e.id, f⟩] ∧ f.cookie = e.flit.cookie ∧ f.op = e.flit.op
              ∧ f.type = e.flit.type ∧ f.ctr = ctr ∧ f.ks = p.keySlot ∧ f.src = s.self ∧ f.dst = q ∧ f.final = if e.ferry then e.final else q)))
  ∧ (∀ (rail : Nat) (up : Bool) (s : State),
    ((s.rail rail).state ≠ 1 → exec (.railRetrainDone rail up) s = .next s)
    ∧ ((s.rail rail).state = 1 → ∃ t : State, exec (.railRetrainDone rail up) s = .next t
      ∧ (t.rail rail).state = (if !up then 0 else if (s.rail rail).stat.toNat / 2 ^ 8 % 2 ^ 5 = 31 then 2 else 3)
      ∧ t = { s with fabric := { s.fabric with rails := t.fabric.rails } } ∧ ∀ r, r ≠ rail → t.rail r = s.rail r))
  ∧ (∀ s : State, (s.fabric.locked = true → exec .lockReacquired s = .next s)
    ∧ (s.fabric.locked = false → exec .lockReacquired s = .next { s with fabric := { s.fabric with relock := true } }))
  ∧ ∀ (peer : Nat) (cap : Capability) (s : State),
    let forms (i : Instr) (tide : BitVec 64) : Prop := ∃ t : State, exec i s = .next t ∧ t.fabric.inPod = true
      ∧ t.fabric.slotno = 0 ∧ t.fabric.tidecnt = tide ∧ t.fabric.locked = true
      ∧ (∀ q < podSize s, isMember t q = true ↔ 1 < podSize s ∧ (q = s.self ∨ q ∉ s.fabric.distrusted))
      ∧ ∀ r < 16, (t.rail r).state = if s.fabric.fabcfg.getLsbD (48 + r) = true ∧ podSize s ≠ 1 then 2 else 0
    let can : Prop := s.fabric.inPod = false ∧ formable s = true
    (¬can → exec .podFormation s = .next s) ∧ (can → forms .podFormation 0)
    ∧ (¬can → exec (.podJoin s.self cap) s = .next s) ∧ (can → forms (.podJoin s.self cap) cap.mask)
    ∧ (peer ≠ s.self →
      (s.fabric.inPod = true → peer < podSize s → isMember s peer = false → peer ∉ s.fabric.distrusted → ∃ t : State,
        exec (.podJoin peer cap) s = .next t ∧ t = { s with fabric := { s.fabric with joining := t.fabric.joining } }
        ∧ ∀ x, x ∈ t.fabric.joining ↔ x ∈ s.fabric.joining ∧ x.1 ≠ peer ∨ x = (peer, cap))
      ∧ (s.fabric.inPod = false ∨ podSize s ≤ peer ∨ isMember s peer = true ∨ peer ∈ s.fabric.distrusted → exec (.podJoin peer cap) s = .next s))

/-- Flits do at their receiver what their TYPE says: each is acknowledged, one that does not authenticate is discarded and
counted (R344, R347); parts of an entry wait for each other, and what is ferried is passed on (R340, R341); a store is
performed and acknowledged (R338, R355); answers end their accesses (R351, R358); control messages take their effect.
Choices of the model that it rests on: log entries 71, 72, 73 and 76. -/
def Obligations.FlitsAreReceived : Prop :=
  ∀ (rail : Nat) (f : Flit) (s : State),
    (∀ x ∈ flitEvents rail f, s.fabric.inPod = false ∨ railUp s rail = false → exec x.1 s = .next s)
    ∧ (∀ x ∈ flitEvents rail f, s.fabric.inPod = true → railUp s rail = true → f.type = x.2 → f.dst = s.self →
        isMember s f.src = true → f.src ≠ s.self → f.authentic = false → ∃ t : State, exec x.1 s = .next t
          ∧ Map.find rail (t.peer f.src).nak = some ((Map.find rail (s.peer f.src).nak).getD [] ++ [f.ctr]) ∧ t.strands = s.strands ∧ t.mem = s.mem
          ∧ let fails := Table.get 0 f.src (s.rail rail).fails + 1
            (fails < 3 → Table.get 0 f.src (t.rail rail).fails = fails
              ∧ (t.rail rail).stat.toNat / 2 ^ 48 = min 0xFFFF ((s.rail rail).stat.toNat / 2 ^ 48 + 1)
              ∧ railUp t rail = true)
            ∧ (3 ≤ fails → (t.rail rail).state = 1))
    ∧ (∀ x ∈ [(Instr.idleFlit rail f, 0), (.markerFlit rail f, 6)], Takes s rail x.2 f → ∃ t : State, exec x.1 s = .next t
        ∧ t = { s with
            plan := t.plan
            fabric := { s.fabric with rails := t.fabric.rails, peers := t.fabric.peers, phaseBad := t.fabric.phaseBad } }
        ∧ (t.peer f.src).heard = true ∧ (t.peer f.src).missed = 0
        ∧ (f.ks = (s.peer f.src).rxSlot → let next := Table.get 0 rail (s.peer f.src).nextIn
            Table.get 0 rail (t.peer f.src).nextIn = max next (f.ctr + 1)
            ∧ ∀ n, next ≤ n → n < f.ctr → f.ctr ≤ n + 512 → ∃ ns, Map.find rail (t.peer f.src).nak = some ns ∧ n ∈ ns)
        ∧ (f.ks ≠ (s.peer f.src).rxSlot → (s.peer f.src).rxNext = true → (s.peer f.src).retire = none →
            (t.peer f.src).rxSlot = f.ks)
        ∧ (f.nak = false → ∀ y, y ∈ (t.rail rail).retry ↔ y ∈ (s.rail rail).retry ∧
            (y.peer = f.src → y.age = 3 ∨ 2 ^ 15 ≤ (f.ack + 2 ^ 16 - y.flit.ctr % 2 ^ 16) % 2 ^ 16))
        ∧ (f.nak = true → ∀ y ∈ (s.rail rail).retry, y.peer = f.src → (f.ack + 2 ^ 16 - y.flit.ctr % 2 ^ 16) % 2 ^ 16 = 0 →
            y.age = 3 ∨ { y with age := 3 } ∈ (t.rail rail).retry))
    ∧ (∀ x ∈ [(Instr.bulkHeaderFlit rail f, 1), (.bulkDataFlit rail f, 2)], Takes s rail x.2 f →
        (∀ y ∈ (s.peer f.src).partials, y.cookie ≠ f.cookie) → (x.2 = 1 → f.op ≠ 0 ∧ 0 < f.len) → ∃ t : State,
          exec x.1 s = .next t ∧ (t.peer f.src).partials = (s.peer f.src).partials ++ [f] ∧ t.mem = s.mem
          ∧ t.strands = s.strands ∧ t.fabric.remotes = s.fabric.remotes)
    ∧ (∀ h : Flit, Takes s rail 2 f → (s.peer f.src).partials = [h] → h.cookie = f.cookie → h.type = 1 → h.op ≠ 0 →
        0 < h.len → h.len ≤ 224 → h.ferry = true → h.final ≠ s.self → Map.find h.final s.fabric.peers ≠ none →
        ∃ t : State, exec (.bulkDataFlit rail f) s = .next t ∧ (t.peer f.src).partials = []
          ∧ Outbound t h.final fun g => g = { h with data := f.data.take h.len, ferry := false })
    ∧ (Takes s rail 3 f → f.ferry = true → f.final ≠ s.self → Map.find f.final s.fabric.peers ≠ none →
        ∃ t : State, exec (.smallFlit rail f) s = .next t ∧ Outbound t f.final fun g => g = { f with ferry := false })
    ∧ (∀ r : LaneRec, Takes s rail 3 f → f.ferry = false → f.op = 1 → f.arg = 2 → f.dseq = none → f.ts = 0 → f.recs = [r] →
        leafMT r.leaf ≠ 0 → quiet s → s.l2 = [] → (∀ la ∈ s.launches, la.2.capture = false) →
        isMember s (flitOrigin f) = true → flitOrigin f ≠ s.self → (s.peer (flitOrigin f)).performed f.small f.seq = false →
        let pa := (f.addr + r.offset) % 2 ^ 64
        let key := if leafKS r.leaf then 0 else f.asid
        f.small = true → pa % 4 = 0 → pa < hbmEnd → ∃ t : State, exec (.smallFlit rail f) s = .next t
          ∧ (∀ b, hbmByte t.mem key b = if pa ≤ b ∧ b < pa + 4 then BitVec.ofNat 8 (r.data / 256 ^ (b - pa)) else hbmByte s.mem key b)
          ∧ Outbound t (flitOrigin f) fun g => g.type = 5 ∧ g.cookie = f.cookie ∧ g.seq = f.seq)
    ∧ (∀ (r : Remote) (l : LogLane) (a : Strand) (p : Pending), Awaits s r l a p → f.ferry = false →
        flitOrigin f = s.self → f.cookie % 2 ^ 32 = r.id → (∀ g, Map.find l.lane r.homes = some g → g ≠ none) →
        (∀ (d v : Nat), Takes s rail 4 f → f.small = true → f.op = 4 → r.op = 0 → r.ty = .n32 → r.dests = [(l.lane, d)] →
          f.recs = [{ lane := l.lane, offset := 0, data := v }] → ∃ t : State, exec (.responseFlit rail f) s = .next t
            ∧ Ended r { p with writes := p.writes ++ [⟨l.lane, d, BitVec.ofNat 32 v⟩]
                               flags := p.flags ||| BitVec.ofNat _ f.arg } t)
        ∧ (Takes s rail 5 f → r.op = 1 → f.recs = [] → ∃ t : State, exec (.endToEndAck rail f) s = .next t
            ∧ Ended r { p with flags := p.flags ||| BitVec.ofNat _ f.arg } t))
    ∧ (Takes s rail 7 f → f.ferry = false → isMember s (flitOrigin f) = true → flitOrigin f ≠ s.self →
        ∃ t : State, exec (.controlFlit rail f) s = .next t
          ∧ (f.arg = 1 → (t.peer (flitOrigin f)).mask = BitVec.ofNat 64 f.ts)
          ∧ (f.arg = 2 → (t.peer (flitOrigin f)).keyNext = true)
          ∧ (f.arg = 3 → (t.peer (flitOrigin f)).rxNext = true ∧ Outbound t (flitOrigin f) fun g => g.type = 7 ∧ g.arg = 2)
          ∧ (f.arg = 4 → t.tlbi.waiting = s.tlbi.waiting.erase (flitOrigin f)
              ∧ (t.tlbi.waiting = [] → .event .tlbiDone ∈ t.plan))
          ∧ (f.arg = 5 → .event (.translationRequest (flitOrigin f) f.asid f.addr f.lanes) ∈ t.plan)
          ∧ (f.arg = 6 → .event (.fabricInvalidation (flitOrigin f) f.asid f.addr f.len) ∈ t.plan)
          ∧ (f.arg = 7 → ∃ ws, .event (.countVectorArrival f.addr f.ord (flitOrigin f) ws f.ts f.lanes f.len f.seq) ∈ t.plan))

/-- A request that waited for its predecessor is performed and answered (R342). A target answers a request for a
translation with the leaf, with A and D set as the access needs, or with none (R353), and an invalidation takes matching
entries away once no access uses them (R354). A removed peer is no member, and accesses to it, like those that time out,
complete with poison and FABRIC_TIMEOUT (R351).
Choices of the model that it rests on: log entries 22, 68 and 75. -/
def Obligations.PeersAskAndLeave : Prop :=
  (∀ (peer : Nat) (small : Bool) (s : State), let p := s.peer peer
    ((∀ h ∈ p.held, ¬(h.small = small ∧ h.dseq = some (p.dseqNext small))) → exec (.dseqGateRelease peer small) s = .next s)
    ∧ ∀ f, p.held = [f] → f.small = small → f.dseq = some (p.dseqNext small) → flitOrigin f = peer → isMember s peer = true →
        peer ≠ s.self → ∃ t : State, exec (.dseqGateRelease peer small) s = .next t ∧ (t.peer peer).held = []
          ∧ (t.peer peer).dseqNext small = (p.dseqNext small + 1) % 2 ^ 32 ∧ Outbound t peer fun g => g.cookie = f.cookie)
  ∧ (∀ (peer asid va kind : Nat) (s : State), isMember s peer = true → peer ≠ s.self →
    let i : Instr := .translationRequest peer asid va kind
    let answers (t : State) (cause : Nat) (recs : List LaneRec) : Prop := exec i s = .next t ∧ Outbound t peer fun g =>
      g.type = 7 ∧ g.arg = 0 ∧ g.addr = va ∧ g.asid = asid ∧ g.lanes = kind ∧ g.len = cause ∧ g.recs = recs
    let ctx := (Table.get 0 asid s.asidctx).toNat
    let w := (walkFrom s va 4 (ctx / 2 ^ 12 % 2 ^ 40 * 4096) []).2
    (ctx % 2 = 0 → ∃ t : State, answers t 0x20 [])
    ∧ (∀ e, ctx % 2 = 1 → w = .error e → ∃ t : State, answers t e.cause [])
    ∧ ∀ leaf a l, ctx % 2 = 1 → w = .ok (leaf, a, l) →
      let blocked := checkAccess leaf (kind.testBit 2) (kindOf kind) .global (xlatOf asid va leaf).pa
      (∀ cause, blocked = some cause → ∃ t : State, answers t cause [])
      ∧ (blocked = none → ∃ t : State,
        answers t 0 [{ lane := 0, offset := 0, data := leaf ||| (if (kindOf kind).writes then 0x60 else 0x20) }]
        ∧ (peer < 128 → (Table.get 0 asid t.fabric.sentMask).testBit peer = true)))
  ∧ (∀ (peer asid va log2 : Nat) (s : State), isMember s peer = true → peer ≠ s.self → s.fabric.invals = [] →
    s.fabric.remotes = [] → ∃ t : State, exec (.fabricInvalidation peer asid va log2) s = .next t
      ∧ (∀ e, e ∈ t.fabric.tcache ↔ e ∈ s.fabric.tcache ∧ ¬(e.asid = peer * 512 + asid ∧
          (log2 = 64 ∨ e.vbase / 2 ^ log2 = va / 2 ^ log2
            ∨ log2 < szLog e.sz ∧ e.vbase / 2 ^ szLog e.sz = va / 2 ^ szLog e.sz)))
      ∧ t.fabric.invals = [] ∧ t.strands = s.strands ∧ Outbound t peer fun g => g.type = 7 ∧ g.arg = 4 ∧ g.asid = asid)
  ∧ (∀ (peer : Nat) (s : State), let p := s.peer peer
    let goes : Prop := p.member = true ∧ p.removed = false ∧ remTo s ≤ p.missed
    (¬goes → exec (.peerRemoved peer) s = .next s)
    ∧ (goes → s.fabric.remotes = [] → (∀ d ∈ s.dies, d.2.ctxs = []) → ∃ t : State, exec (.peerRemoved peer) s = .next t
      ∧ (t.peer peer).removed = true ∧ (peer ≠ s.self → isMember t peer = false)
      ∧ (∀ q e, e ∈ (t.peer q).queue → q ≠ peer ∧ e.final ≠ peer)
      ∧ (∀ q, q ≠ peer → (t.peer q).member = (s.peer q).member) ∧ t.strands = s.strands ∧ t.mem = s.mem
      ∧ ∀ e, (p.queue.filter fun e => e.final != peer) = [e] → e.ferry = true → Map.find e.final s.fabric.peers ≠ none →
          ∃ q y, y ∈ (t.peer q).queue ∧ y.id = e.id ∧ y.final = e.final))
  ∧ ∀ (id : Nat) (s : State),
    (findRemote s id = none → exec (.remoteTimeout id) s = .next s)
    ∧ ∀ r, findRemote s id = some r →
      let lost : Prop := (s.peer r.peer).removed = true ∨ ∃ t, r.since = some t ∧ t + remTo s ≤ s.fabric.tidecnt.toNat
      (¬lost → exec (.remoteTimeout id) s = .next s)
      ∧ ∀ (l : LogLane) (a : Strand) (p : Pending), lost → Awaits s r l a p → Map.find l.lane r.homes ≠ some none →
        r.op ≠ 1 → r.ty = .n32 → r.n = 4 → l.lane < 4 →
        ∀ d, r.dests = [(l.lane, d)] → p.causes = [] → ∃ (t : State) (p' : Pending), exec (.remoteTimeout id) s = .next t
          ∧ Ended r p' t ∧ p'.writes = p.writes ++ [⟨l.lane, d, 0xFFFFFFFF⟩] ∧ p'.causes.map (·.code) = [0x60]
          ∧ p'.poisoned.getLsbD l.lane = true
          ∧ ∀ la, Map.find r.launch s.launches = some la → ∃ lb, Map.find r.launch t.launches = some lb ∧ lb.lostrem = true
            ∧ (la.strict = true → .event (.launchFatal r.launch 0x60 r.strand) ∈ t.plan)

/-! Launches: submission, admission, retirement, ends, pre-emption. -/

/-- GO hands the record that stands in LRBUF to the validator, or is discarded while BUSY (R461, R462); the validator's
verdict stands in LRSTAT, and a launch that it takes is live and its tiles look for items (R371, R461). A launch with
nothing left to do, or with a fatal cause, leaves its completion record and is gone (R372, R422). A merge window that
closes posts its notice (R423, R463).
Choices of the model that it rests on: log entries 91, 102 and 103. -/
def Obligations.LaunchesComeAndGo : Prop :=
  (∀ (s : State) (replay : Bool),
    let i : Instr := if replay then .replaySubmit else .launchSubmit
    (s.host.lrstat.getLsbD 63 = true → exec i s =
      .next { s with host := { s.host with lrstat := s.host.lrstat ||| 0x4000000000000000 } })
    ∧ (s.host.lrstat.getLsbD 63 = false → ∃ u : Submission, u.record = s.host.lrbuf ∧ u.host = true
      ∧ u.priv = s.host.lrctl.getLsbD 62 ∧ u.sheet = (if replay then some s.host.lrsheet.toNat else none)
      ∧ exec i s = .next { s with host := { s.host with lrstat := s.host.lrstat ||| 0x8000000000000000 }
                                  subs := s.subs ++ [u], plan := s.plan ++ [.event .validatorDone] }))
  ∧ (∀ s : State, (s.subs = [] → exec .validatorDone s = .next s)
    ∧ ∀ (sub : Submission) (rest : List Submission), s.subs = sub :: rest → sub.host = true →
      (∀ u x, validate sub none { s with subs := rest } = (u, .error x) → ∃ t : State, exec .validatorDone s = .next t
        ∧ t.host.lrstat.getLsbD 63 = false
        ∧ t.host.lrstat.toNat % 2 ^ 32 = (2 ^ 31 + x.reason * 2 ^ 16 + x.offset % 2 ^ 16) % 2 ^ 32)
      ∧ ∀ u la, validate sub none { s with subs := rest } = (u, .ok la) → sub.sheet = none → la.capture = false →
        u.subs = rest ∧ ∃ (t : State) (h : Nat), exec .validatorDone s = .next t ∧ t.subs = rest
          ∧ Map.find h t.launches = some { la with home := none }
          ∧ t.host.lrstat.getLsbD 63 = false ∧ t.host.lrstat.toNat % 2 ^ 32 = h % 2 ^ 32
          ∧ (0 < u.nextHandle → u.nextHandle < 65536 → Map.find u.nextHandle u.launches = none → h = u.nextHandle)
          ∧ ∀ tile < 768, la.clbase ≤ clusterOf tile → clusterOf tile < la.clbase + la.clcount →
            .event (.itemAdmission tile) ∈ t.plan)
  ∧ (∀ (launch : Nat) (s : State),
    (Map.find launch s.launches = none → exec (.launchEnd launch) s = .next s
      ∧ ∀ c k, exec (.launchFatal launch c k) s = .next s)
    ∧ ∀ la, Map.find launch s.launches = some la →
      (launchOver s launch la = false → exec (.launchEnd launch) s = .next s)
      ∧ (launchOver s launch la = true → ∃ t : State, exec (.launchEnd launch) s = .next t ∧ LaunchGone launch t
        ∧ let u := writeRecord launch (tileAt la.clbase 0) la 0 0 0 0 (closeBanks 3 launch s)
          t.mem = u.mem ∧ t.hostMem = u.hostMem ∧ t.host = u.host)
      ∧ ∀ cause k, ∃ t : State, exec (.launchFatal launch cause k) s = .next t ∧ LaunchGone launch t
        ∧ (∀ x ∈ t.items, x.2.launch ≠ launch)
        ∧ (∀ x ∈ t.strands, ∀ it, Map.find x.2.item s.items = some it → it.launch ≠ launch)
        ∧ ((∀ c j, .event (.launchFatal launch c j) ∉ s.plan) →
          let u := writeRecord launch (tileAt la.clbase 0) la 2 cause 0 (logicalAt s k) (closeBanks 3 launch (stopLaunch launch s))
          t.mem = u.mem ∧ t.hostMem = u.hostMem ∧ t.host = u.host))
  ∧ (∀ (la : Launch) (status code index : Nat), status < 256 → code < 256 → index < 2 ^ 32 →
    recordWords la status code 0 index = [status + code * 2 ^ 8 + index * 2 ^ 32, la.retired,
      (if la.detbreak then 1 else 0) + (if la.lostrem then 2 else 0) + (if la.loststr then 4 else 0), la.lkey])
  ∧ ∀ (tile launch cause : Nat) (s : State),
    let mine (m : Merge) : Prop := m.tile = tile ∧ m.launch = launch ∧ m.cause = cause
    ((∀ m ∈ s.merges, ¬mine m) → exec (.reportMergeExpiry tile launch cause) s = .next s)
    ∧ ∀ m rest, s.merges = m :: rest → mine m → ∃ t : State, exec (.reportMergeExpiry tile launch cause) s = .next t
      ∧ Noticed [BitVec.ofNat 64 (1 + cause * 2 ^ 8 + launch % 2 ^ 16 * 2 ^ 16 + tile * 2 ^ 32 + m.count % 2 ^ 16 * 2 ^ 48),
          BitVec.ofNat 64 m.strand, m.record.rec0, m.record.rec1, m.record.rec2, m.record.rec3, 0, 0]
          { s with merges := rest } t

/-- Items are admitted in order with all they need at once, their strands at the entry with everything 0 (R112, R374, R399);
they retire when nothing of them is left (R147, R382); what waits grows older (R401). Pre-emption saves a launch that has
stopped, and a restore brings it back where it fits (R403 to R406).
Choices of the model that it rests on: log entries 95, 96, 98, 107, 108 and 109. -/
def Obligations.ItemsAndImagesComeAndGo : Prop :=
  (∀ (tile : Nat) (s : State), (candidates s tile = [] → exec (.itemAdmission tile) s = .next s)
    ∧ (∀ w la, candidates s tile = [w] → admitWaiting tile w s = none → Map.find w.launch s.launches = some la →
        let cs := neededCrews tile (effectivePrio la w) w s
        (∀ c ∈ cs, c ∈ lesserCrews s tile (effectivePrio la w)) ∧ (cs ≠ [] → fitsWithout tile w cs s = true)
        ∧ ∃ t : State, exec (.itemAdmission tile) s = .next t ∧ t = { s with plan := t.plan }
          ∧ ∀ c, .event (.crewForcedRelease c) ∈ t.plan ↔ .event (.crewForcedRelease c) ∈ s.plan ∨ c ∈ cs)
    ∧ ∀ w ws u, candidates s tile = w :: ws → admitWaiting tile w s = some u →
      ∃ t : State, exec (.itemAdmission tile) s = .next t ∧ .event (.itemAdmission tile) ∈ t.plan
        ∧ t = { u with plan := t.plan }
        ∧ ∀ la, Map.find w.launch s.launches = some la → la.det = false → la.capture = false → w.group = none →
          ∃ (id : Nat) (it : Item), Map.find id t.items = some it ∧ it.launch = w.launch ∧ it.stage = w.stage ∧ it.num = w.item
            ∧ it.tile = tile ∧ it.strands.length = (la.stages.getD w.stage default).width ∧ it.strands.Nodup
            ∧ ∀ (n k : Nat), it.strands[n]? = some k → ∃ b, t.strand k = some b
              ∧ Fresh id n ((la.stages.getD w.stage default).eseg * 4096 + (la.stages.getD w.stage default).eoff) b)
  ∧ (∀ (item : Nat) (s : State), (Map.find item s.items = none → exec (.itemRetire item) s = .next s)
    ∧ ∀ it, Map.find item s.items = some it →
      (itemOver s it = false → exec (.itemRetire item) s = .next s)
      ∧ ∀ la, Map.find it.launch s.launches = some la → itemOver s it = true → la.det = false → la.state = .live →
        it.lost = false → (s.tile it.tile).copies = [] → (s.tile it.tile).array = [] → (s.die (dieOf it.tile)).routes = [] →
        it.progs = [] → s.keyJobs = [] → (∀ g ∈ (s.heldAt it.tile it.launch).segs, g.2.k = none) →
        ∃ (t : State) (lb : Launch), exec (.itemRetire item) s = .next t ∧ Map.find item t.items = none
          ∧ (∀ j, j ≠ item → Map.find j t.items = Map.find j s.items) ∧ (∀ x ∈ t.strands, x.2.item ≠ item)
          ∧ Map.find it.launch t.launches = some lb ∧ lb.retired = la.retired + 1
          ∧ .event (.itemAdmission it.tile) ∈ t.plan)
  ∧ (∀ (launch stage item : Nat) (s : State), (Map.find launch s.launches = none → exec (.priorityAging launch stage item) s = .next s)
    ∧ ∀ la, Map.find launch s.launches = some la →
      let listed : Prop := ∃ w ∈ waitingIn launch la, w.stage = stage ∧ w.item = item
      let inRange : Prop := ∃ st, la.stages[stage]? = some st ∧ st.inq = false ∧ st.rbase + Table.get 0 stage la.cursors ≤ item
        ∧ item < st.rbase + st.count ∧ item - st.rbase ∉ skippedOffsets la stage
      let inQueue : Prop := ∃ st q i, la.stages[stage]? = some st ∧ st.inq = true ∧ la.queues[st.qin]? = some q
        ∧ i < q.appended - q.bound ∧ (q.bound + i) % 2 ^ 32 = item
      let waits : Prop := listed ∨ inRange ∨ inQueue
      let top : Prop := 7 ≤ la.prio + Table.get 0 (stage * 2 ^ 32 + item) la.ages
      (¬waits ∨ la.state ≠ .live ∨ top → exec (.priorityAging launch stage item) s = .next s)
      ∧ (waits → la.state = .live → ¬top → ∃ (t : State) (lb : Launch), exec (.priorityAging launch stage item) s = .next t
        ∧ Map.find launch t.launches = some lb ∧ t = { s with launches := t.launches, plan := t.plan }
        ∧ lb = { la with ages := lb.ages }
        ∧ Table.get 0 (stage * 2 ^ 32 + item) lb.ages = Table.get 0 (stage * 2 ^ 32 + item) la.ages + 1))
  ∧ ∀ s : State,
    let h := s.pre.goCmd.toNat % 2 ^ 16
    (preBusy s 0 h = false → exec .preempt s = .next s ∧ exec .saveComplete s = .next s)
    ∧ (preBusy s 1 h = false → exec .restore s = .next s ∧ exec .restoreFill s = .next s)
    ∧ (Map.find h s.launches = none → ∀ i, (preBusy s 0 h = true ∧ (i = .preempt ∨ i = .saveComplete)) ∨
        (preBusy s 1 h = true ∧ (i = .restore ∨ i = .restoreFill)) →
        ∃ t : State, exec i s = .next t ∧ t = { s with pre := t.pre } ∧ PreEnded (some 1) s t)
    ∧ ∀ la, Map.find h s.launches = some la →
      (preBusy s 0 h = true →
        let stops : Prop := la.state = .preempting ∧ launchStopped s h la = true
        (¬stops → exec .preempt s = .next s ∧ exec .saveComplete s = .next s)
        ∧ (stops → (∃ t : State, exec .preempt s = .next t ∧ .event .saveComplete ∈ t.plan ∧ t.launches = s.launches
              ∧ ∀ id it, Map.find id s.items = some it →
                ∃ x, Map.find id t.items = some x ∧ x = { it with cpstat := x.cpstat })
          ∧ ∃ (t : State) (lb : Launch), exec .saveComplete s = .next t ∧ PreEnded none s t
            ∧ Map.find h t.launches = some lb ∧ lb.state = .preempted
            ∧ lb.image = some ⟨s.pre.goBase.toNat / 2 ^ 12 % 2 ^ 40 * 4096, s.pre.stat.toNat % 2 ^ 32⟩
            ∧ ∀ (id : Nat) (it : Item), Map.find id s.items = some it → it.launch = h → it.tile < 768 →
              ∃ kept, Map.find id t.items = some kept ∧ kept.tile = shadowTile it.tile ∧ kept.num = it.num
                ∧ kept.stage = it.stage ∧ kept.record = it.record))
      ∧ (preBusy s 1 h = true →
        let new := if s.pre.goCmd.getLsbD 57 then s.pre.goCmd.toNat / 2 ^ 40 % 2 ^ 8 else la.clbase
        let shift : Int := (new : Int) - la.clbase
        let moved : Launch := { la with
          clbase := new, state := .restoring, shape := la.shape.map fun x => (((x.1 : Int) + shift).toNat, x.2) }
        let back := restoreAll h moved shift { s with launches := Map.insert h moved s.launches }
        (la.state ≠ .preempted ∨ back = none → exec .restore s = .next s)
        ∧ (∀ u, la.state = .preempted → back = some u → ∃ t : State, exec .restore s = .next t
          ∧ t = { u with plan := u.plan ++ [.event .restoreFill] }
          ∧ (Map.find h t.launches).map (·.state) = some .restoring)
        ∧ (la.state ≠ .restoring → exec .restoreFill s = .next s)
        ∧ (la.state = .restoring → ∃ (t : State) (lb : Launch), exec .restoreFill s = .next t ∧ PreEnded none s t
          ∧ Map.find h t.launches = some lb ∧ lb.state = .live ∧ lb.image = none
          ∧ ∀ tile ∈ heldTiles s h, .event (.itemAdmission tile) ∈ t.plan))

/-! Reset. -/

/-- The machine right after reset: the values that the register tables give (R67, R82, R332 to R336, R403, R450, R460,
R461, R463, R465, R470, R471), nothing resident, no step taken, and the memories in their canonical form. That no strand,
launch or peer is there, that memory lists nothing and that ATTCMD.DONE is 1 are the model's choices (log
entries 5, 11, 118, 119 and 127). -/
def Obligations.ResetLeavesTheStatedValues : Prop :=
  let s := State.reset
  s.tick = 0 ∧ s.clock = BitVec.ofNat 64 (clockSum s.tick) ∧ memoriesOk s ∧ s.plan = []
  ∧ s.strands = [] ∧ s.items = [] ∧ s.launches = []
  ∧ s.mem.migctl = 0x06000400 ∧ s.mem.migqbase = 0 ∧ s.mem.migqstat = 0 ∧ s.mem.migidx = 0
  ∧ (∀ q, Table.get 0 q s.mem.counts = 0 ∧ Table.get false q s.mem.queued = false) ∧ (∀ n, Table.get 0 n s.asidctx = 0)
  ∧ s.tlbi.va = 0 ∧ s.tlbi.cmd = 0x0C000000 ∧ s.tlbi.stat = 0
  ∧ s.fabric.fabcfg = 0xFFFF000000000019 ∧ (∀ n, Table.get 0x80 n s.fabric.tidetab = 0x80) ∧ s.fabric.vqbase = 0
  ∧ s.fabric.vqcfg = 0x0000003010080A06 ∧ s.fabric.rekeyat = 0xFFFFF00000 ∧ (∀ r, (s.rail r).stat = 0x1F00)
  ∧ s.pre.cmd = 0 ∧ s.pre.base = 0 ∧ s.pre.len = 0 ∧ s.pre.stat = 0
  ∧ (∀ n, Table.get 0 n s.health.tilehealth = 0 ∧ Table.get 0 n s.health.lanefail = 0) ∧ s.health.beaconcfg = 0x10900
  ∧ s.host.lrctl = 0 ∧ s.host.lrsheet = 0 ∧ s.host.lrstat = 0 ∧ s.host.nqbase = 0 ∧ s.host.nqstat = 0 ∧ s.host.hoststat = 0
  ∧ s.host.linkstat = 0 ∧ s.host.aperbase = 0 ∧ (∀ b, hostRead { s with host := { s.host with bootstat := b } } .pwrsum = 0) ∧ s.host.pwrcap = 0xD48 ∧ s.host.wearth = 8760
  ∧ (∀ d n, Table.get 0 n (s.die d).mbox = 0) ∧ (∀ t, (s.tile t).mtestinj = 0)
end

