-- ==== Sys2Proof/Laws/State.lean ====
section
/-! SUPPORT. What each named update of the state, of a strand and of a lane does to every field, by definition. -/

namespace Sys2Proof.Machine

@[simp] theorem State.setStrand_plan (k : Nat) (x : Strand) (s : State) : (s.setStrand k x).plan = s.plan := rfl
@[simp] theorem State.setStrand_cur (k : Nat) (x : Strand) (s : State) : (s.setStrand k x).cur = s.cur := rfl
@[simp] theorem State.setStrand_idle (k : Nat) (x : Strand) (s : State) : (s.setStrand k x).idle = s.idle := rfl
@[simp] theorem State.setStrand_rotor (k : Nat) (x : Strand) (s : State) : (s.setStrand k x).rotor = s.rotor := rfl
@[simp] theorem State.setStrand_yields (k : Nat) (x : Strand) (s : State) : (s.setStrand k x).yields = s.yields := rfl
@[simp] theorem State.setStrand_tick (k : Nat) (x : Strand) (s : State) : (s.setStrand k x).tick = s.tick := rfl
@[simp] theorem State.setStrand_fresh (k : Nat) (x : Strand) (s : State) : (s.setStrand k x).fresh = s.fresh := rfl
@[simp] theorem State.setStrand_clock (k : Nat) (x : Strand) (s : State) : (s.setStrand k x).clock = s.clock := rfl
@[simp] theorem State.setStrand_strands (k : Nat) (x : Strand) (s : State) : (s.setStrand k x).strands = Map.insert k x s.strands := rfl
@[simp] theorem State.setStrand_items (k : Nat) (x : Strand) (s : State) : (s.setStrand k x).items = s.items := rfl
@[simp] theorem State.setStrand_convoys (k : Nat) (x : Strand) (s : State) : (s.setStrand k x).convoys = s.convoys := rfl
@[simp] theorem State.setStrand_launches (k : Nat) (x : Strand) (s : State) : (s.setStrand k x).launches = s.launches := rfl
@[simp] theorem State.setStrand_held (k : Nat) (x : Strand) (s : State) : (s.setStrand k x).held = s.held := rfl
@[simp] theorem State.setStrand_tiles (k : Nat) (x : Strand) (s : State) : (s.setStrand k x).tiles = s.tiles := rfl
@[simp] theorem State.setStrand_clusters (k : Nat) (x : Strand) (s : State) : (s.setStrand k x).clusters = s.clusters := rfl
@[simp] theorem State.setStrand_dies (k : Nat) (x : Strand) (s : State) : (s.setStrand k x).dies = s.dies := rfl
@[simp] theorem State.setStrand_crews (k : Nat) (x : Strand) (s : State) : (s.setStrand k x).crews = s.crews := rfl
@[simp] theorem State.setStrand_mem (k : Nat) (x : Strand) (s : State) : (s.setStrand k x).mem = s.mem := rfl
@[simp] theorem State.setStrand_answer (k : Nat) (x : Strand) (s : State) : (s.setStrand k x).answer = s.answer := rfl
@[simp] theorem State.setStrand_l2 (k : Nat) (x : Strand) (s : State) : (s.setStrand k x).l2 = s.l2 := rfl
@[simp] theorem State.setStrand_l2units (k : Nat) (x : Strand) (s : State) : (s.setStrand k x).l2units = s.l2units := rfl
@[simp] theorem State.setStrand_dieScr (k : Nat) (x : Strand) (s : State) : (s.setStrand k x).dieScr = s.dieScr := rfl
@[simp] theorem State.setStrand_dieScrBad (k : Nat) (x : Strand) (s : State) : (s.setStrand k x).dieScrBad = s.dieScrBad := rfl
@[simp] theorem State.setStrand_hostMem (k : Nat) (x : Strand) (s : State) : (s.setStrand k x).hostMem = s.hostMem := rfl
@[simp] theorem State.setStrand_asidctx (k : Nat) (x : Strand) (s : State) : (s.setStrand k x).asidctx = s.asidctx := rfl
@[simp] theorem State.setStrand_tlbi (k : Nat) (x : Strand) (s : State) : (s.setStrand k x).tlbi = s.tlbi := rfl
@[simp] theorem State.setStrand_fabric (k : Nat) (x : Strand) (s : State) : (s.setStrand k x).fabric = s.fabric := rfl
@[simp] theorem State.setStrand_health (k : Nat) (x : Strand) (s : State) : (s.setStrand k x).health = s.health := rfl
@[simp] theorem State.setStrand_host (k : Nat) (x : Strand) (s : State) : (s.setStrand k x).host = s.host := rfl
@[simp] theorem State.setStrand_pre (k : Nat) (x : Strand) (s : State) : (s.setStrand k x).pre = s.pre := rfl
@[simp] theorem State.setStrand_subs (k : Nat) (x : Strand) (s : State) : (s.setStrand k x).subs = s.subs := rfl
@[simp] theorem State.setStrand_merges (k : Nat) (x : Strand) (s : State) : (s.setStrand k x).merges = s.merges := rfl
@[simp] theorem State.setStrand_keyJobs (k : Nat) (x : Strand) (s : State) : (s.setStrand k x).keyJobs = s.keyJobs := rfl
@[simp] theorem State.setStrand_upsets (k : Nat) (x : Strand) (s : State) : (s.setStrand k x).upsets = s.upsets := rfl
@[simp] theorem State.setStrand_nextHandle (k : Nat) (x : Strand) (s : State) : (s.setStrand k x).nextHandle = s.nextHandle := rfl
@[simp] theorem State.setStrand_nextId (k : Nat) (x : Strand) (s : State) : (s.setStrand k x).nextId = s.nextId := rfl

@[simp] theorem State.adjStrand_plan (k : Nat) (f : Strand → Strand) (s : State) : (s.adjStrand k f).plan = s.plan := rfl
@[simp] theorem State.adjStrand_cur (k : Nat) (f : Strand → Strand) (s : State) : (s.adjStrand k f).cur = s.cur := rfl
@[simp] theorem State.adjStrand_idle (k : Nat) (f : Strand → Strand) (s : State) : (s.adjStrand k f).idle = s.idle := rfl
@[simp] theorem State.adjStrand_rotor (k : Nat) (f : Strand → Strand) (s : State) : (s.adjStrand k f).rotor = s.rotor := rfl
@[simp] theorem State.adjStrand_yields (k : Nat) (f : Strand → Strand) (s : State) : (s.adjStrand k f).yields = s.yields := rfl
@[simp] theorem State.adjStrand_tick (k : Nat) (f : Strand → Strand) (s : State) : (s.adjStrand k f).tick = s.tick := rfl
@[simp] theorem State.adjStrand_fresh (k : Nat) (f : Strand → Strand) (s : State) : (s.adjStrand k f).fresh = s.fresh := rfl
@[simp] theorem State.adjStrand_clock (k : Nat) (f : Strand → Strand) (s : State) : (s.adjStrand k f).clock = s.clock := rfl
@[simp] theorem State.adjStrand_strands (k : Nat) (f : Strand → Strand) (s : State) : (s.adjStrand k f).strands = Map.adjust k f s.strands := rfl
@[simp] theorem State.adjStrand_items (k : Nat) (f : Strand → Strand) (s : State) : (s.adjStrand k f).items = s.items := rfl
@[simp] theorem State.adjStrand_convoys (k : Nat) (f : Strand → Strand) (s : State) : (s.adjStrand k f).convoys = s.convoys := rfl
@[simp] theorem State.adjStrand_launches (k : Nat) (f : Strand → Strand) (s : State) : (s.adjStrand k f).launches = s.launches := rfl
@[simp] theorem State.adjStrand_held (k : Nat) (f : Strand → Strand) (s : State) : (s.adjStrand k f).held = s.held := rfl
@[simp] theorem State.adjStrand_tiles (k : Nat) (f : Strand → Strand) (s : State) : (s.adjStrand k f).tiles = s.tiles := rfl
@[simp] theorem State.adjStrand_clusters (k : Nat) (f : Strand → Strand) (s : State) : (s.adjStrand k f).clusters = s.clusters := rfl
@[simp] theorem State.adjStrand_dies (k : Nat) (f : Strand → Strand) (s : State) : (s.adjStrand k f).dies = s.dies := rfl
@[simp] theorem State.adjStrand_crews (k : Nat) (f : Strand → Strand) (s : State) : (s.adjStrand k f).crews = s.crews := rfl
@[simp] theorem State.adjStrand_mem (k : Nat) (f : Strand → Strand) (s : State) : (s.adjStrand k f).mem = s.mem := rfl
@[simp] theorem State.adjStrand_answer (k : Nat) (f : Strand → Strand) (s : State) : (s.adjStrand k f).answer = s.answer := rfl
@[simp] theorem State.adjStrand_l2 (k : Nat) (f : Strand → Strand) (s : State) : (s.adjStrand k f).l2 = s.l2 := rfl
@[simp] theorem State.adjStrand_l2units (k : Nat) (f : Strand → Strand) (s : State) : (s.adjStrand k f).l2units = s.l2units := rfl
@[simp] theorem State.adjStrand_dieScr (k : Nat) (f : Strand → Strand) (s : State) : (s.adjStrand k f).dieScr = s.dieScr := rfl
@[simp] theorem State.adjStrand_dieScrBad (k : Nat) (f : Strand → Strand) (s : State) : (s.adjStrand k f).dieScrBad = s.dieScrBad := rfl
@[simp] theorem State.adjStrand_hostMem (k : Nat) (f : Strand → Strand) (s : State) : (s.adjStrand k f).hostMem = s.hostMem := rfl
@[simp] theorem State.adjStrand_asidctx (k : Nat) (f : Strand → Strand) (s : State) : (s.adjStrand k f).asidctx = s.asidctx := rfl
@[simp] theorem State.adjStrand_tlbi (k : Nat) (f : Strand → Strand) (s : State) : (s.adjStrand k f).tlbi = s.tlbi := rfl
@[simp] theorem State.adjStrand_fabric (k : Nat) (f : Strand → Strand) (s : State) : (s.adjStrand k f).fabric = s.fabric := rfl
@[simp] theorem State.adjStrand_health (k : Nat) (f : Strand → Strand) (s : State) : (s.adjStrand k f).health = s.health := rfl
@[simp] theorem State.adjStrand_host (k : Nat) (f : Strand → Strand) (s : State) : (s.adjStrand k f).host = s.host := rfl
@[simp] theorem State.adjStrand_pre (k : Nat) (f : Strand → Strand) (s : State) : (s.adjStrand k f).pre = s.pre := rfl
@[simp] theorem State.adjStrand_subs (k : Nat) (f : Strand → Strand) (s : State) : (s.adjStrand k f).subs = s.subs := rfl
@[simp] theorem State.adjStrand_merges (k : Nat) (f : Strand → Strand) (s : State) : (s.adjStrand k f).merges = s.merges := rfl
@[simp] theorem State.adjStrand_keyJobs (k : Nat) (f : Strand → Strand) (s : State) : (s.adjStrand k f).keyJobs = s.keyJobs := rfl
@[simp] theorem State.adjStrand_upsets (k : Nat) (f : Strand → Strand) (s : State) : (s.adjStrand k f).upsets = s.upsets := rfl
@[simp] theorem State.adjStrand_nextHandle (k : Nat) (f : Strand → Strand) (s : State) : (s.adjStrand k f).nextHandle = s.nextHandle := rfl
@[simp] theorem State.adjStrand_nextId (k : Nat) (f : Strand → Strand) (s : State) : (s.adjStrand k f).nextId = s.nextId := rfl

@[simp] theorem State.adjItem_plan (k : Nat) (f : Item → Item) (s : State) : (s.adjItem k f).plan = s.plan := rfl
@[simp] theorem State.adjItem_cur (k : Nat) (f : Item → Item) (s : State) : (s.adjItem k f).cur = s.cur := rfl
@[simp] theorem State.adjItem_idle (k : Nat) (f : Item → Item) (s : State) : (s.adjItem k f).idle = s.idle := rfl
@[simp] theorem State.adjItem_rotor (k : Nat) (f : Item → Item) (s : State) : (s.adjItem k f).rotor = s.rotor := rfl
@[simp] theorem State.adjItem_yields (k : Nat) (f : Item → Item) (s : State) : (s.adjItem k f).yields = s.yields := rfl
@[simp] theorem State.adjItem_tick (k : Nat) (f : Item → Item) (s : State) : (s.adjItem k f).tick = s.tick := rfl
@[simp] theorem State.adjItem_fresh (k : Nat) (f : Item → Item) (s : State) : (s.adjItem k f).fresh = s.fresh := rfl
@[simp] theorem State.adjItem_clock (k : Nat) (f : Item → Item) (s : State) : (s.adjItem k f).clock = s.clock := rfl
@[simp] theorem State.adjItem_strands (k : Nat) (f : Item → Item) (s : State) : (s.adjItem k f).strands = s.strands := rfl
@[simp] theorem State.adjItem_items (k : Nat) (f : Item → Item) (s : State) : (s.adjItem k f).items = Map.adjust k f s.items := rfl
@[simp] theorem State.adjItem_convoys (k : Nat) (f : Item → Item) (s : State) : (s.adjItem k f).convoys = s.convoys := rfl
@[simp] theorem State.adjItem_launches (k : Nat) (f : Item → Item) (s : State) : (s.adjItem k f).launches = s.launches := rfl
@[simp] theorem State.adjItem_held (k : Nat) (f : Item → Item) (s : State) : (s.adjItem k f).held = s.held := rfl
@[simp] theorem State.adjItem_tiles (k : Nat) (f : Item → Item) (s : State) : (s.adjItem k f).tiles = s.tiles := rfl
@[simp] theorem State.adjItem_clusters (k : Nat) (f : Item → Item) (s : State) : (s.adjItem k f).clusters = s.clusters := rfl
@[simp] theorem State.adjItem_dies (k : Nat) (f : Item → Item) (s : State) : (s.adjItem k f).dies = s.dies := rfl
@[simp] theorem State.adjItem_crews (k : Nat) (f : Item → Item) (s : State) : (s.adjItem k f).crews = s.crews := rfl
@[simp] theorem State.adjItem_mem (k : Nat) (f : Item → Item) (s : State) : (s.adjItem k f).mem = s.mem := rfl
@[simp] theorem State.adjItem_answer (k : Nat) (f : Item → Item) (s : State) : (s.adjItem k f).answer = s.answer := rfl
@[simp] theorem State.adjItem_l2 (k : Nat) (f : Item → Item) (s : State) : (s.adjItem k f).l2 = s.l2 := rfl
@[simp] theorem State.adjItem_l2units (k : Nat) (f : Item → Item) (s : State) : (s.adjItem k f).l2units = s.l2units := rfl
@[simp] theorem State.adjItem_dieScr (k : Nat) (f : Item → Item) (s : State) : (s.adjItem k f).dieScr = s.dieScr := rfl
@[simp] theorem State.adjItem_dieScrBad (k : Nat) (f : Item → Item) (s : State) : (s.adjItem k f).dieScrBad = s.dieScrBad := rfl
@[simp] theorem State.adjItem_hostMem (k : Nat) (f : Item → Item) (s : State) : (s.adjItem k f).hostMem = s.hostMem := rfl
@[simp] theorem State.adjItem_asidctx (k : Nat) (f : Item → Item) (s : State) : (s.adjItem k f).asidctx = s.asidctx := rfl
@[simp] theorem State.adjItem_tlbi (k : Nat) (f : Item → Item) (s : State) : (s.adjItem k f).tlbi = s.tlbi := rfl
@[simp] theorem State.adjItem_fabric (k : Nat) (f : Item → Item) (s : State) : (s.adjItem k f).fabric = s.fabric := rfl
@[simp] theorem State.adjItem_health (k : Nat) (f : Item → Item) (s : State) : (s.adjItem k f).health = s.health := rfl
@[simp] theorem State.adjItem_host (k : Nat) (f : Item → Item) (s : State) : (s.adjItem k f).host = s.host := rfl
@[simp] theorem State.adjItem_pre (k : Nat) (f : Item → Item) (s : State) : (s.adjItem k f).pre = s.pre := rfl
@[simp] theorem State.adjItem_subs (k : Nat) (f : Item → Item) (s : State) : (s.adjItem k f).subs = s.subs := rfl
@[simp] theorem State.adjItem_merges (k : Nat) (f : Item → Item) (s : State) : (s.adjItem k f).merges = s.merges := rfl
@[simp] theorem State.adjItem_keyJobs (k : Nat) (f : Item → Item) (s : State) : (s.adjItem k f).keyJobs = s.keyJobs := rfl
@[simp] theorem State.adjItem_upsets (k : Nat) (f : Item → Item) (s : State) : (s.adjItem k f).upsets = s.upsets := rfl
@[simp] theorem State.adjItem_nextHandle (k : Nat) (f : Item → Item) (s : State) : (s.adjItem k f).nextHandle = s.nextHandle := rfl
@[simp] theorem State.adjItem_nextId (k : Nat) (f : Item → Item) (s : State) : (s.adjItem k f).nextId = s.nextId := rfl

@[simp] theorem State.adjLaunch_plan (k : Nat) (f : Launch → Launch) (s : State) : (s.adjLaunch k f).plan = s.plan := rfl
@[simp] theorem State.adjLaunch_cur (k : Nat) (f : Launch → Launch) (s : State) : (s.adjLaunch k f).cur = s.cur := rfl
@[simp] theorem State.adjLaunch_idle (k : Nat) (f : Launch → Launch) (s : State) : (s.adjLaunch k f).idle = s.idle := rfl
@[simp] theorem State.adjLaunch_rotor (k : Nat) (f : Launch → Launch) (s : State) : (s.adjLaunch k f).rotor = s.rotor := rfl
@[simp] theorem State.adjLaunch_yields (k : Nat) (f : Launch → Launch) (s : State) : (s.adjLaunch k f).yields = s.yields := rfl
@[simp] theorem State.adjLaunch_tick (k : Nat) (f : Launch → Launch) (s : State) : (s.adjLaunch k f).tick = s.tick := rfl
@[simp] theorem State.adjLaunch_fresh (k : Nat) (f : Launch → Launch) (s : State) : (s.adjLaunch k f).fresh = s.fresh := rfl
@[simp] theorem State.adjLaunch_clock (k : Nat) (f : Launch → Launch) (s : State) : (s.adjLaunch k f).clock = s.clock := rfl
@[simp] theorem State.adjLaunch_strands (k : Nat) (f : Launch → Launch) (s : State) : (s.adjLaunch k f).strands = s.strands := rfl
@[simp] theorem State.adjLaunch_items (k : Nat) (f : Launch → Launch) (s : State) : (s.adjLaunch k f).items = s.items := rfl
@[simp] theorem State.adjLaunch_convoys (k : Nat) (f : Launch → Launch) (s : State) : (s.adjLaunch k f).convoys = s.convoys := rfl
@[simp] theorem State.adjLaunch_launches (k : Nat) (f : Launch → Launch) (s : State) : (s.adjLaunch k f).launches = Map.adjust k f s.launches := rfl
@[simp] theorem State.adjLaunch_held (k : Nat) (f : Launch → Launch) (s : State) : (s.adjLaunch k f).held = s.held := rfl
@[simp] theorem State.adjLaunch_tiles (k : Nat) (f : Launch → Launch) (s : State) : (s.adjLaunch k f).tiles = s.tiles := rfl
@[simp] theorem State.adjLaunch_clusters (k : Nat) (f : Launch → Launch) (s : State) : (s.adjLaunch k f).clusters = s.clusters := rfl
@[simp] theorem State.adjLaunch_dies (k : Nat) (f : Launch → Launch) (s : State) : (s.adjLaunch k f).dies = s.dies := rfl
@[simp] theorem State.adjLaunch_crews (k : Nat) (f : Launch → Launch) (s : State) : (s.adjLaunch k f).crews = s.crews := rfl
@[simp] theorem State.adjLaunch_mem (k : Nat) (f : Launch → Launch) (s : State) : (s.adjLaunch k f).mem = s.mem := rfl
@[simp] theorem State.adjLaunch_answer (k : Nat) (f : Launch → Launch) (s : State) : (s.adjLaunch k f).answer = s.answer := rfl
@[simp] theorem State.adjLaunch_l2 (k : Nat) (f : Launch → Launch) (s : State) : (s.adjLaunch k f).l2 = s.l2 := rfl
@[simp] theorem State.adjLaunch_l2units (k : Nat) (f : Launch → Launch) (s : State) : (s.adjLaunch k f).l2units = s.l2units := rfl
@[simp] theorem State.adjLaunch_dieScr (k : Nat) (f : Launch → Launch) (s : State) : (s.adjLaunch k f).dieScr = s.dieScr := rfl
@[simp] theorem State.adjLaunch_dieScrBad (k : Nat) (f : Launch → Launch) (s : State) : (s.adjLaunch k f).dieScrBad = s.dieScrBad := rfl
@[simp] theorem State.adjLaunch_hostMem (k : Nat) (f : Launch → Launch) (s : State) : (s.adjLaunch k f).hostMem = s.hostMem := rfl
@[simp] theorem State.adjLaunch_asidctx (k : Nat) (f : Launch → Launch) (s : State) : (s.adjLaunch k f).asidctx = s.asidctx := rfl
@[simp] theorem State.adjLaunch_tlbi (k : Nat) (f : Launch → Launch) (s : State) : (s.adjLaunch k f).tlbi = s.tlbi := rfl
@[simp] theorem State.adjLaunch_fabric (k : Nat) (f : Launch → Launch) (s : State) : (s.adjLaunch k f).fabric = s.fabric := rfl
@[simp] theorem State.adjLaunch_health (k : Nat) (f : Launch → Launch) (s : State) : (s.adjLaunch k f).health = s.health := rfl
@[simp] theorem State.adjLaunch_host (k : Nat) (f : Launch → Launch) (s : State) : (s.adjLaunch k f).host = s.host := rfl
@[simp] theorem State.adjLaunch_pre (k : Nat) (f : Launch → Launch) (s : State) : (s.adjLaunch k f).pre = s.pre := rfl
@[simp] theorem State.adjLaunch_subs (k : Nat) (f : Launch → Launch) (s : State) : (s.adjLaunch k f).subs = s.subs := rfl
@[simp] theorem State.adjLaunch_merges (k : Nat) (f : Launch → Launch) (s : State) : (s.adjLaunch k f).merges = s.merges := rfl
@[simp] theorem State.adjLaunch_keyJobs (k : Nat) (f : Launch → Launch) (s : State) : (s.adjLaunch k f).keyJobs = s.keyJobs := rfl
@[simp] theorem State.adjLaunch_upsets (k : Nat) (f : Launch → Launch) (s : State) : (s.adjLaunch k f).upsets = s.upsets := rfl
@[simp] theorem State.adjLaunch_nextHandle (k : Nat) (f : Launch → Launch) (s : State) : (s.adjLaunch k f).nextHandle = s.nextHandle := rfl
@[simp] theorem State.adjLaunch_nextId (k : Nat) (f : Launch → Launch) (s : State) : (s.adjLaunch k f).nextId = s.nextId := rfl

@[simp] theorem State.adjHeld_plan (t l : Nat) (f : TileLaunch → TileLaunch) (s : State) : (s.adjHeld t l f).plan = s.plan := rfl
@[simp] theorem State.adjHeld_cur (t l : Nat) (f : TileLaunch → TileLaunch) (s : State) : (s.adjHeld t l f).cur = s.cur := rfl
@[simp] theorem State.adjHeld_idle (t l : Nat) (f : TileLaunch → TileLaunch) (s : State) : (s.adjHeld t l f).idle = s.idle := rfl
@[simp] theorem State.adjHeld_rotor (t l : Nat) (f : TileLaunch → TileLaunch) (s : State) : (s.adjHeld t l f).rotor = s.rotor := rfl
@[simp] theorem State.adjHeld_yields (t l : Nat) (f : TileLaunch → TileLaunch) (s : State) : (s.adjHeld t l f).yields = s.yields := rfl
@[simp] theorem State.adjHeld_tick (t l : Nat) (f : TileLaunch → TileLaunch) (s : State) : (s.adjHeld t l f).tick = s.tick := rfl
@[simp] theorem State.adjHeld_fresh (t l : Nat) (f : TileLaunch → TileLaunch) (s : State) : (s.adjHeld t l f).fresh = s.fresh := rfl
@[simp] theorem State.adjHeld_clock (t l : Nat) (f : TileLaunch → TileLaunch) (s : State) : (s.adjHeld t l f).clock = s.clock := rfl
@[simp] theorem State.adjHeld_strands (t l : Nat) (f : TileLaunch → TileLaunch) (s : State) : (s.adjHeld t l f).strands = s.strands := rfl
@[simp] theorem State.adjHeld_items (t l : Nat) (f : TileLaunch → TileLaunch) (s : State) : (s.adjHeld t l f).items = s.items := rfl
@[simp] theorem State.adjHeld_convoys (t l : Nat) (f : TileLaunch → TileLaunch) (s : State) : (s.adjHeld t l f).convoys = s.convoys := rfl
@[simp] theorem State.adjHeld_launches (t l : Nat) (f : TileLaunch → TileLaunch) (s : State) : (s.adjHeld t l f).launches = s.launches := rfl
@[simp] theorem State.adjHeld_held (t l : Nat) (f : TileLaunch → TileLaunch) (s : State) : (s.adjHeld t l f).held = Map.adjust (heldKey t l) f s.held := rfl
@[simp] theorem State.adjHeld_tiles (t l : Nat) (f : TileLaunch → TileLaunch) (s : State) : (s.adjHeld t l f).tiles = s.tiles := rfl
@[simp] theorem State.adjHeld_clusters (t l : Nat) (f : TileLaunch → TileLaunch) (s : State) : (s.adjHeld t l f).clusters = s.clusters := rfl
@[simp] theorem State.adjHeld_dies (t l : Nat) (f : TileLaunch → TileLaunch) (s : State) : (s.adjHeld t l f).dies = s.dies := rfl
@[simp] theorem State.adjHeld_crews (t l : Nat) (f : TileLaunch → TileLaunch) (s : State) : (s.adjHeld t l f).crews = s.crews := rfl
@[simp] theorem State.adjHeld_mem (t l : Nat) (f : TileLaunch → TileLaunch) (s : State) : (s.adjHeld t l f).mem = s.mem := rfl
@[simp] theorem State.adjHeld_answer (t l : Nat) (f : TileLaunch → TileLaunch) (s : State) : (s.adjHeld t l f).answer = s.answer := rfl
@[simp] theorem State.adjHeld_l2 (t l : Nat) (f : TileLaunch → TileLaunch) (s : State) : (s.adjHeld t l f).l2 = s.l2 := rfl
@[simp] theorem State.adjHeld_l2units (t l : Nat) (f : TileLaunch → TileLaunch) (s : State) : (s.adjHeld t l f).l2units = s.l2units := rfl
@[simp] theorem State.adjHeld_dieScr (t l : Nat) (f : TileLaunch → TileLaunch) (s : State) : (s.adjHeld t l f).dieScr = s.dieScr := rfl
@[simp] theorem State.adjHeld_dieScrBad (t l : Nat) (f : TileLaunch → TileLaunch) (s : State) : (s.adjHeld t l f).dieScrBad = s.dieScrBad := rfl
@[simp] theorem State.adjHeld_hostMem (t l : Nat) (f : TileLaunch → TileLaunch) (s : State) : (s.adjHeld t l f).hostMem = s.hostMem := rfl
@[simp] theorem State.adjHeld_asidctx (t l : Nat) (f : TileLaunch → TileLaunch) (s : State) : (s.adjHeld t l f).asidctx = s.asidctx := rfl
@[simp] theorem State.adjHeld_tlbi (t l : Nat) (f : TileLaunch → TileLaunch) (s : State) : (s.adjHeld t l f).tlbi = s.tlbi := rfl
@[simp] theorem State.adjHeld_fabric (t l : Nat) (f : TileLaunch → TileLaunch) (s : State) : (s.adjHeld t l f).fabric = s.fabric := rfl
@[simp] theorem State.adjHeld_health (t l : Nat) (f : TileLaunch → TileLaunch) (s : State) : (s.adjHeld t l f).health = s.health := rfl
@[simp] theorem State.adjHeld_host (t l : Nat) (f : TileLaunch → TileLaunch) (s : State) : (s.adjHeld t l f).host = s.host := rfl
@[simp] theorem State.adjHeld_pre (t l : Nat) (f : TileLaunch → TileLaunch) (s : State) : (s.adjHeld t l f).pre = s.pre := rfl
@[simp] theorem State.adjHeld_subs (t l : Nat) (f : TileLaunch → TileLaunch) (s : State) : (s.adjHeld t l f).subs = s.subs := rfl
@[simp] theorem State.adjHeld_merges (t l : Nat) (f : TileLaunch → TileLaunch) (s : State) : (s.adjHeld t l f).merges = s.merges := rfl
@[simp] theorem State.adjHeld_keyJobs (t l : Nat) (f : TileLaunch → TileLaunch) (s : State) : (s.adjHeld t l f).keyJobs = s.keyJobs := rfl
@[simp] theorem State.adjHeld_upsets (t l : Nat) (f : TileLaunch → TileLaunch) (s : State) : (s.adjHeld t l f).upsets = s.upsets := rfl
@[simp] theorem State.adjHeld_nextHandle (t l : Nat) (f : TileLaunch → TileLaunch) (s : State) : (s.adjHeld t l f).nextHandle = s.nextHandle := rfl
@[simp] theorem State.adjHeld_nextId (t l : Nat) (f : TileLaunch → TileLaunch) (s : State) : (s.adjHeld t l f).nextId = s.nextId := rfl

@[simp] theorem State.setDie_plan (k : Nat) (x : Die) (s : State) : (s.setDie k x).plan = s.plan := rfl
@[simp] theorem State.setDie_cur (k : Nat) (x : Die) (s : State) : (s.setDie k x).cur = s.cur := rfl
@[simp] theorem State.setDie_idle (k : Nat) (x : Die) (s : State) : (s.setDie k x).idle = s.idle := rfl
@[simp] theorem State.setDie_rotor (k : Nat) (x : Die) (s : State) : (s.setDie k x).rotor = s.rotor := rfl
@[simp] theorem State.setDie_yields (k : Nat) (x : Die) (s : State) : (s.setDie k x).yields = s.yields := rfl
@[simp] theorem State.setDie_tick (k : Nat) (x : Die) (s : State) : (s.setDie k x).tick = s.tick := rfl
@[simp] theorem State.setDie_fresh (k : Nat) (x : Die) (s : State) : (s.setDie k x).fresh = s.fresh := rfl
@[simp] theorem State.setDie_clock (k : Nat) (x : Die) (s : State) : (s.setDie k x).clock = s.clock := rfl
@[simp] theorem State.setDie_strands (k : Nat) (x : Die) (s : State) : (s.setDie k x).strands = s.strands := rfl
@[simp] theorem State.setDie_items (k : Nat) (x : Die) (s : State) : (s.setDie k x).items = s.items := rfl
@[simp] theorem State.setDie_convoys (k : Nat) (x : Die) (s : State) : (s.setDie k x).convoys = s.convoys := rfl
@[simp] theorem State.setDie_launches (k : Nat) (x : Die) (s : State) : (s.setDie k x).launches = s.launches := rfl
@[simp] theorem State.setDie_held (k : Nat) (x : Die) (s : State) : (s.setDie k x).held = s.held := rfl
@[simp] theorem State.setDie_tiles (k : Nat) (x : Die) (s : State) : (s.setDie k x).tiles = s.tiles := rfl
@[simp] theorem State.setDie_clusters (k : Nat) (x : Die) (s : State) : (s.setDie k x).clusters = s.clusters := rfl
@[simp] theorem State.setDie_dies (k : Nat) (x : Die) (s : State) : (s.setDie k x).dies = Map.insert k x s.dies := rfl
@[simp] theorem State.setDie_crews (k : Nat) (x : Die) (s : State) : (s.setDie k x).crews = s.crews := rfl
@[simp] theorem State.setDie_mem (k : Nat) (x : Die) (s : State) : (s.setDie k x).mem = s.mem := rfl
@[simp] theorem State.setDie_answer (k : Nat) (x : Die) (s : State) : (s.setDie k x).answer = s.answer := rfl
@[simp] theorem State.setDie_l2 (k : Nat) (x : Die) (s : State) : (s.setDie k x).l2 = s.l2 := rfl
@[simp] theorem State.setDie_l2units (k : Nat) (x : Die) (s : State) : (s.setDie k x).l2units = s.l2units := rfl
@[simp] theorem State.setDie_dieScr (k : Nat) (x : Die) (s : State) : (s.setDie k x).dieScr = s.dieScr := rfl
@[simp] theorem State.setDie_dieScrBad (k : Nat) (x : Die) (s : State) : (s.setDie k x).dieScrBad = s.dieScrBad := rfl
@[simp] theorem State.setDie_hostMem (k : Nat) (x : Die) (s : State) : (s.setDie k x).hostMem = s.hostMem := rfl
@[simp] theorem State.setDie_asidctx (k : Nat) (x : Die) (s : State) : (s.setDie k x).asidctx = s.asidctx := rfl
@[simp] theorem State.setDie_tlbi (k : Nat) (x : Die) (s : State) : (s.setDie k x).tlbi = s.tlbi := rfl
@[simp] theorem State.setDie_fabric (k : Nat) (x : Die) (s : State) : (s.setDie k x).fabric = s.fabric := rfl
@[simp] theorem State.setDie_health (k : Nat) (x : Die) (s : State) : (s.setDie k x).health = s.health := rfl
@[simp] theorem State.setDie_host (k : Nat) (x : Die) (s : State) : (s.setDie k x).host = s.host := rfl
@[simp] theorem State.setDie_pre (k : Nat) (x : Die) (s : State) : (s.setDie k x).pre = s.pre := rfl
@[simp] theorem State.setDie_subs (k : Nat) (x : Die) (s : State) : (s.setDie k x).subs = s.subs := rfl
@[simp] theorem State.setDie_merges (k : Nat) (x : Die) (s : State) : (s.setDie k x).merges = s.merges := rfl
@[simp] theorem State.setDie_keyJobs (k : Nat) (x : Die) (s : State) : (s.setDie k x).keyJobs = s.keyJobs := rfl
@[simp] theorem State.setDie_upsets (k : Nat) (x : Die) (s : State) : (s.setDie k x).upsets = s.upsets := rfl
@[simp] theorem State.setDie_nextHandle (k : Nat) (x : Die) (s : State) : (s.setDie k x).nextHandle = s.nextHandle := rfl
@[simp] theorem State.setDie_nextId (k : Nat) (x : Die) (s : State) : (s.setDie k x).nextId = s.nextId := rfl

@[simp] theorem State.setTile_plan (k : Nat) (x : Tile) (s : State) : (s.setTile k x).plan = s.plan := rfl
@[simp] theorem State.setTile_cur (k : Nat) (x : Tile) (s : State) : (s.setTile k x).cur = s.cur := rfl
@[simp] theorem State.setTile_idle (k : Nat) (x : Tile) (s : State) : (s.setTile k x).idle = s.idle := rfl
@[simp] theorem State.setTile_rotor (k : Nat) (x : Tile) (s : State) : (s.setTile k x).rotor = s.rotor := rfl
@[simp] theorem State.setTile_yields (k : Nat) (x : Tile) (s : State) : (s.setTile k x).yields = s.yields := rfl
@[simp] theorem State.setTile_tick (k : Nat) (x : Tile) (s : State) : (s.setTile k x).tick = s.tick := rfl
@[simp] theorem State.setTile_fresh (k : Nat) (x : Tile) (s : State) : (s.setTile k x).fresh = s.fresh := rfl
@[simp] theorem State.setTile_clock (k : Nat) (x : Tile) (s : State) : (s.setTile k x).clock = s.clock := rfl
@[simp] theorem State.setTile_strands (k : Nat) (x : Tile) (s : State) : (s.setTile k x).strands = s.strands := rfl
@[simp] theorem State.setTile_items (k : Nat) (x : Tile) (s : State) : (s.setTile k x).items = s.items := rfl
@[simp] theorem State.setTile_convoys (k : Nat) (x : Tile) (s : State) : (s.setTile k x).convoys = s.convoys := rfl
@[simp] theorem State.setTile_launches (k : Nat) (x : Tile) (s : State) : (s.setTile k x).launches = s.launches := rfl
@[simp] theorem State.setTile_held (k : Nat) (x : Tile) (s : State) : (s.setTile k x).held = s.held := rfl
@[simp] theorem State.setTile_tiles (k : Nat) (x : Tile) (s : State) : (s.setTile k x).tiles = Map.insert k x s.tiles := rfl
@[simp] theorem State.setTile_clusters (k : Nat) (x : Tile) (s : State) : (s.setTile k x).clusters = s.clusters := rfl
@[simp] theorem State.setTile_dies (k : Nat) (x : Tile) (s : State) : (s.setTile k x).dies = s.dies := rfl
@[simp] theorem State.setTile_crews (k : Nat) (x : Tile) (s : State) : (s.setTile k x).crews = s.crews := rfl
@[simp] theorem State.setTile_mem (k : Nat) (x : Tile) (s : State) : (s.setTile k x).mem = s.mem := rfl
@[simp] theorem State.setTile_answer (k : Nat) (x : Tile) (s : State) : (s.setTile k x).answer = s.answer := rfl
@[simp] theorem State.setTile_l2 (k : Nat) (x : Tile) (s : State) : (s.setTile k x).l2 = s.l2 := rfl
@[simp] theorem State.setTile_l2units (k : Nat) (x : Tile) (s : State) : (s.setTile k x).l2units = s.l2units := rfl
@[simp] theorem State.setTile_dieScr (k : Nat) (x : Tile) (s : State) : (s.setTile k x).dieScr = s.dieScr := rfl
@[simp] theorem State.setTile_dieScrBad (k : Nat) (x : Tile) (s : State) : (s.setTile k x).dieScrBad = s.dieScrBad := rfl
@[simp] theorem State.setTile_hostMem (k : Nat) (x : Tile) (s : State) : (s.setTile k x).hostMem = s.hostMem := rfl
@[simp] theorem State.setTile_asidctx (k : Nat) (x : Tile) (s : State) : (s.setTile k x).asidctx = s.asidctx := rfl
@[simp] theorem State.setTile_tlbi (k : Nat) (x : Tile) (s : State) : (s.setTile k x).tlbi = s.tlbi := rfl
@[simp] theorem State.setTile_fabric (k : Nat) (x : Tile) (s : State) : (s.setTile k x).fabric = s.fabric := rfl
@[simp] theorem State.setTile_health (k : Nat) (x : Tile) (s : State) : (s.setTile k x).health = s.health := rfl
@[simp] theorem State.setTile_host (k : Nat) (x : Tile) (s : State) : (s.setTile k x).host = s.host := rfl
@[simp] theorem State.setTile_pre (k : Nat) (x : Tile) (s : State) : (s.setTile k x).pre = s.pre := rfl
@[simp] theorem State.setTile_subs (k : Nat) (x : Tile) (s : State) : (s.setTile k x).subs = s.subs := rfl
@[simp] theorem State.setTile_merges (k : Nat) (x : Tile) (s : State) : (s.setTile k x).merges = s.merges := rfl
@[simp] theorem State.setTile_keyJobs (k : Nat) (x : Tile) (s : State) : (s.setTile k x).keyJobs = s.keyJobs := rfl
@[simp] theorem State.setTile_upsets (k : Nat) (x : Tile) (s : State) : (s.setTile k x).upsets = s.upsets := rfl
@[simp] theorem State.setTile_nextHandle (k : Nat) (x : Tile) (s : State) : (s.setTile k x).nextHandle = s.nextHandle := rfl
@[simp] theorem State.setTile_nextId (k : Nat) (x : Tile) (s : State) : (s.setTile k x).nextId = s.nextId := rfl

@[simp] theorem State.setCluster_plan (k : Nat) (x : Cluster) (s : State) : (s.setCluster k x).plan = s.plan := rfl
@[simp] theorem State.setCluster_cur (k : Nat) (x : Cluster) (s : State) : (s.setCluster k x).cur = s.cur := rfl
@[simp] theorem State.setCluster_idle (k : Nat) (x : Cluster) (s : State) : (s.setCluster k x).idle = s.idle := rfl
@[simp] theorem State.setCluster_rotor (k : Nat) (x : Cluster) (s : State) : (s.setCluster k x).rotor = s.rotor := rfl
@[simp] theorem State.setCluster_yields (k : Nat) (x : Cluster) (s : State) : (s.setCluster k x).yields = s.yields := rfl
@[simp] theorem State.setCluster_tick (k : Nat) (x : Cluster) (s : State) : (s.setCluster k x).tick = s.tick := rfl
@[simp] theorem State.setCluster_fresh (k : Nat) (x : Cluster) (s : State) : (s.setCluster k x).fresh = s.fresh := rfl
@[simp] theorem State.setCluster_clock (k : Nat) (x : Cluster) (s : State) : (s.setCluster k x).clock = s.clock := rfl
@[simp] theorem State.setCluster_strands (k : Nat) (x : Cluster) (s : State) : (s.setCluster k x).strands = s.strands := rfl
@[simp] theorem State.setCluster_items (k : Nat) (x : Cluster) (s : State) : (s.setCluster k x).items = s.items := rfl
@[simp] theorem State.setCluster_convoys (k : Nat) (x : Cluster) (s : State) : (s.setCluster k x).convoys = s.convoys := rfl
@[simp] theorem State.setCluster_launches (k : Nat) (x : Cluster) (s : State) : (s.setCluster k x).launches = s.launches := rfl
@[simp] theorem State.setCluster_held (k : Nat) (x : Cluster) (s : State) : (s.setCluster k x).held = s.held := rfl
@[simp] theorem State.setCluster_tiles (k : Nat) (x : Cluster) (s : State) : (s.setCluster k x).tiles = s.tiles := rfl
@[simp] theorem State.setCluster_clusters (k : Nat) (x : Cluster) (s : State) : (s.setCluster k x).clusters = Map.insert k x s.clusters := rfl
@[simp] theorem State.setCluster_dies (k : Nat) (x : Cluster) (s : State) : (s.setCluster k x).dies = s.dies := rfl
@[simp] theorem State.setCluster_crews (k : Nat) (x : Cluster) (s : State) : (s.setCluster k x).crews = s.crews := rfl
@[simp] theorem State.setCluster_mem (k : Nat) (x : Cluster) (s : State) : (s.setCluster k x).mem = s.mem := rfl
@[simp] theorem State.setCluster_answer (k : Nat) (x : Cluster) (s : State) : (s.setCluster k x).answer = s.answer := rfl
@[simp] theorem State.setCluster_l2 (k : Nat) (x : Cluster) (s : State) : (s.setCluster k x).l2 = s.l2 := rfl
@[simp] theorem State.setCluster_l2units (k : Nat) (x : Cluster) (s : State) : (s.setCluster k x).l2units = s.l2units := rfl
@[simp] theorem State.setCluster_dieScr (k : Nat) (x : Cluster) (s : State) : (s.setCluster k x).dieScr = s.dieScr := rfl
@[simp] theorem State.setCluster_dieScrBad (k : Nat) (x : Cluster) (s : State) : (s.setCluster k x).dieScrBad = s.dieScrBad := rfl
@[simp] theorem State.setCluster_hostMem (k : Nat) (x : Cluster) (s : State) : (s.setCluster k x).hostMem = s.hostMem := rfl
@[simp] theorem State.setCluster_asidctx (k : Nat) (x : Cluster) (s : State) : (s.setCluster k x).asidctx = s.asidctx := rfl
@[simp] theorem State.setCluster_tlbi (k : Nat) (x : Cluster) (s : State) : (s.setCluster k x).tlbi = s.tlbi := rfl
@[simp] theorem State.setCluster_fabric (k : Nat) (x : Cluster) (s : State) : (s.setCluster k x).fabric = s.fabric := rfl
@[simp] theorem State.setCluster_health (k : Nat) (x : Cluster) (s : State) : (s.setCluster k x).health = s.health := rfl
@[simp] theorem State.setCluster_host (k : Nat) (x : Cluster) (s : State) : (s.setCluster k x).host = s.host := rfl
@[simp] theorem State.setCluster_pre (k : Nat) (x : Cluster) (s : State) : (s.setCluster k x).pre = s.pre := rfl
@[simp] theorem State.setCluster_subs (k : Nat) (x : Cluster) (s : State) : (s.setCluster k x).subs = s.subs := rfl
@[simp] theorem State.setCluster_merges (k : Nat) (x : Cluster) (s : State) : (s.setCluster k x).merges = s.merges := rfl
@[simp] theorem State.setCluster_keyJobs (k : Nat) (x : Cluster) (s : State) : (s.setCluster k x).keyJobs = s.keyJobs := rfl
@[simp] theorem State.setCluster_upsets (k : Nat) (x : Cluster) (s : State) : (s.setCluster k x).upsets = s.upsets := rfl
@[simp] theorem State.setCluster_nextHandle (k : Nat) (x : Cluster) (s : State) : (s.setCluster k x).nextHandle = s.nextHandle := rfl
@[simp] theorem State.setCluster_nextId (k : Nat) (x : Cluster) (s : State) : (s.setCluster k x).nextId = s.nextId := rfl

@[simp] theorem State.later_plan (i : Instr) (s : State) : (s.later i).plan = s.plan ++ [.event i] := rfl
@[simp] theorem State.later_cur (i : Instr) (s : State) : (s.later i).cur = s.cur := rfl
@[simp] theorem State.later_idle (i : Instr) (s : State) : (s.later i).idle = s.idle := rfl
@[simp] theorem State.later_rotor (i : Instr) (s : State) : (s.later i).rotor = s.rotor := rfl
@[simp] theorem State.later_yields (i : Instr) (s : State) : (s.later i).yields = s.yields := rfl
@[simp] theorem State.later_tick (i : Instr) (s : State) : (s.later i).tick = s.tick := rfl
@[simp] theorem State.later_fresh (i : Instr) (s : State) : (s.later i).fresh = s.fresh := rfl
@[simp] theorem State.later_clock (i : Instr) (s : State) : (s.later i).clock = s.clock := rfl
@[simp] theorem State.later_strands (i : Instr) (s : State) : (s.later i).strands = s.strands := rfl
@[simp] theorem State.later_items (i : Instr) (s : State) : (s.later i).items = s.items := rfl
@[simp] theorem State.later_convoys (i : Instr) (s : State) : (s.later i).convoys = s.convoys := rfl
@[simp] theorem State.later_launches (i : Instr) (s : State) : (s.later i).launches = s.launches := rfl
@[simp] theorem State.later_held (i : Instr) (s : State) : (s.later i).held = s.held := rfl
@[simp] theorem State.later_tiles (i : Instr) (s : State) : (s.later i).tiles = s.tiles := rfl
@[simp] theorem State.later_clusters (i : Instr) (s : State) : (s.later i).clusters = s.clusters := rfl
@[simp] theorem State.later_dies (i : Instr) (s : State) : (s.later i).dies = s.dies := rfl
@[simp] theorem State.later_crews (i : Instr) (s : State) : (s.later i).crews = s.crews := rfl
@[simp] theorem State.later_mem (i : Instr) (s : State) : (s.later i).mem = s.mem := rfl
@[simp] theorem State.later_answer (i : Instr) (s : State) : (s.later i).answer = s.answer := rfl
@[simp] theorem State.later_l2 (i : Instr) (s : State) : (s.later i).l2 = s.l2 := rfl
@[simp] theorem State.later_l2units (i : Instr) (s : State) : (s.later i).l2units = s.l2units := rfl
@[simp] theorem State.later_dieScr (i : Instr) (s : State) : (s.later i).dieScr = s.dieScr := rfl
@[simp] theorem State.later_dieScrBad (i : Instr) (s : State) : (s.later i).dieScrBad = s.dieScrBad := rfl
@[simp] theorem State.later_hostMem (i : Instr) (s : State) : (s.later i).hostMem = s.hostMem := rfl
@[simp] theorem State.later_asidctx (i : Instr) (s : State) : (s.later i).asidctx = s.asidctx := rfl
@[simp] theorem State.later_tlbi (i : Instr) (s : State) : (s.later i).tlbi = s.tlbi := rfl
@[simp] theorem State.later_fabric (i : Instr) (s : State) : (s.later i).fabric = s.fabric := rfl
@[simp] theorem State.later_health (i : Instr) (s : State) : (s.later i).health = s.health := rfl
@[simp] theorem State.later_host (i : Instr) (s : State) : (s.later i).host = s.host := rfl
@[simp] theorem State.later_pre (i : Instr) (s : State) : (s.later i).pre = s.pre := rfl
@[simp] theorem State.later_subs (i : Instr) (s : State) : (s.later i).subs = s.subs := rfl
@[simp] theorem State.later_merges (i : Instr) (s : State) : (s.later i).merges = s.merges := rfl
@[simp] theorem State.later_keyJobs (i : Instr) (s : State) : (s.later i).keyJobs = s.keyJobs := rfl
@[simp] theorem State.later_upsets (i : Instr) (s : State) : (s.later i).upsets = s.upsets := rfl
@[simp] theorem State.later_nextHandle (i : Instr) (s : State) : (s.later i).nextHandle = s.nextHandle := rfl
@[simp] theorem State.later_nextId (i : Instr) (s : State) : (s.later i).nextId = s.nextId := rfl

@[simp] theorem State.soon_plan (i : Instr) (s : State) : (s.soon i).plan = .event i :: s.plan := rfl
@[simp] theorem State.soon_cur (i : Instr) (s : State) : (s.soon i).cur = s.cur := rfl
@[simp] theorem State.soon_idle (i : Instr) (s : State) : (s.soon i).idle = s.idle := rfl
@[simp] theorem State.soon_rotor (i : Instr) (s : State) : (s.soon i).rotor = s.rotor := rfl
@[simp] theorem State.soon_yields (i : Instr) (s : State) : (s.soon i).yields = s.yields := rfl
@[simp] theorem State.soon_tick (i : Instr) (s : State) : (s.soon i).tick = s.tick := rfl
@[simp] theorem State.soon_fresh (i : Instr) (s : State) : (s.soon i).fresh = s.fresh := rfl
@[simp] theorem State.soon_clock (i : Instr) (s : State) : (s.soon i).clock = s.clock := rfl
@[simp] theorem State.soon_strands (i : Instr) (s : State) : (s.soon i).strands = s.strands := rfl
@[simp] theorem State.soon_items (i : Instr) (s : State) : (s.soon i).items = s.items := rfl
@[simp] theorem State.soon_convoys (i : Instr) (s : State) : (s.soon i).convoys = s.convoys := rfl
@[simp] theorem State.soon_launches (i : Instr) (s : State) : (s.soon i).launches = s.launches := rfl
@[simp] theorem State.soon_held (i : Instr) (s : State) : (s.soon i).held = s.held := rfl
@[simp] theorem State.soon_tiles (i : Instr) (s : State) : (s.soon i).tiles = s.tiles := rfl
@[simp] theorem State.soon_clusters (i : Instr) (s : State) : (s.soon i).clusters = s.clusters := rfl
@[simp] theorem State.soon_dies (i : Instr) (s : State) : (s.soon i).dies = s.dies := rfl
@[simp] theorem State.soon_crews (i : Instr) (s : State) : (s.soon i).crews = s.crews := rfl
@[simp] theorem State.soon_mem (i : Instr) (s : State) : (s.soon i).mem = s.mem := rfl
@[simp] theorem State.soon_answer (i : Instr) (s : State) : (s.soon i).answer = s.answer := rfl
@[simp] theorem State.soon_l2 (i : Instr) (s : State) : (s.soon i).l2 = s.l2 := rfl
@[simp] theorem State.soon_l2units (i : Instr) (s : State) : (s.soon i).l2units = s.l2units := rfl
@[simp] theorem State.soon_dieScr (i : Instr) (s : State) : (s.soon i).dieScr = s.dieScr := rfl
@[simp] theorem State.soon_dieScrBad (i : Instr) (s : State) : (s.soon i).dieScrBad = s.dieScrBad := rfl
@[simp] theorem State.soon_hostMem (i : Instr) (s : State) : (s.soon i).hostMem = s.hostMem := rfl
@[simp] theorem State.soon_asidctx (i : Instr) (s : State) : (s.soon i).asidctx = s.asidctx := rfl
@[simp] theorem State.soon_tlbi (i : Instr) (s : State) : (s.soon i).tlbi = s.tlbi := rfl
@[simp] theorem State.soon_fabric (i : Instr) (s : State) : (s.soon i).fabric = s.fabric := rfl
@[simp] theorem State.soon_health (i : Instr) (s : State) : (s.soon i).health = s.health := rfl
@[simp] theorem State.soon_host (i : Instr) (s : State) : (s.soon i).host = s.host := rfl
@[simp] theorem State.soon_pre (i : Instr) (s : State) : (s.soon i).pre = s.pre := rfl
@[simp] theorem State.soon_subs (i : Instr) (s : State) : (s.soon i).subs = s.subs := rfl
@[simp] theorem State.soon_merges (i : Instr) (s : State) : (s.soon i).merges = s.merges := rfl
@[simp] theorem State.soon_keyJobs (i : Instr) (s : State) : (s.soon i).keyJobs = s.keyJobs := rfl
@[simp] theorem State.soon_upsets (i : Instr) (s : State) : (s.soon i).upsets = s.upsets := rfl
@[simp] theorem State.soon_nextHandle (i : Instr) (s : State) : (s.soon i).nextHandle = s.nextHandle := rfl
@[simp] theorem State.soon_nextId (i : Instr) (s : State) : (s.soon i).nextId = s.nextId := rfl

@[simp] theorem State.adjHost_plan (f : HostIf → HostIf) (s : State) : (s.adjHost f).plan = s.plan := rfl
@[simp] theorem State.adjHost_cur (f : HostIf → HostIf) (s : State) : (s.adjHost f).cur = s.cur := rfl
@[simp] theorem State.adjHost_idle (f : HostIf → HostIf) (s : State) : (s.adjHost f).idle = s.idle := rfl
@[simp] theorem State.adjHost_rotor (f : HostIf → HostIf) (s : State) : (s.adjHost f).rotor = s.rotor := rfl
@[simp] theorem State.adjHost_yields (f : HostIf → HostIf) (s : State) : (s.adjHost f).yields = s.yields := rfl
@[simp] theorem State.adjHost_tick (f : HostIf → HostIf) (s : State) : (s.adjHost f).tick = s.tick := rfl
@[simp] theorem State.adjHost_fresh (f : HostIf → HostIf) (s : State) : (s.adjHost f).fresh = s.fresh := rfl
@[simp] theorem State.adjHost_clock (f : HostIf → HostIf) (s : State) : (s.adjHost f).clock = s.clock := rfl
@[simp] theorem State.adjHost_strands (f : HostIf → HostIf) (s : State) : (s.adjHost f).strands = s.strands := rfl
@[simp] theorem State.adjHost_items (f : HostIf → HostIf) (s : State) : (s.adjHost f).items = s.items := rfl
@[simp] theorem State.adjHost_convoys (f : HostIf → HostIf) (s : State) : (s.adjHost f).convoys = s.convoys := rfl
@[simp] theorem State.adjHost_launches (f : HostIf → HostIf) (s : State) : (s.adjHost f).launches = s.launches := rfl
@[simp] theorem State.adjHost_held (f : HostIf → HostIf) (s : State) : (s.adjHost f).held = s.held := rfl
@[simp] theorem State.adjHost_tiles (f : HostIf → HostIf) (s : State) : (s.adjHost f).tiles = s.tiles := rfl
@[simp] theorem State.adjHost_clusters (f : HostIf → HostIf) (s : State) : (s.adjHost f).clusters = s.clusters := rfl
@[simp] theorem State.adjHost_dies (f : HostIf → HostIf) (s : State) : (s.adjHost f).dies = s.dies := rfl
@[simp] theorem State.adjHost_crews (f : HostIf → HostIf) (s : State) : (s.adjHost f).crews = s.crews := rfl
@[simp] theorem State.adjHost_mem (f : HostIf → HostIf) (s : State) : (s.adjHost f).mem = s.mem := rfl
@[simp] theorem State.adjHost_answer (f : HostIf → HostIf) (s : State) : (s.adjHost f).answer = s.answer := rfl
@[simp] theorem State.adjHost_l2 (f : HostIf → HostIf) (s : State) : (s.adjHost f).l2 = s.l2 := rfl
@[simp] theorem State.adjHost_l2units (f : HostIf → HostIf) (s : State) : (s.adjHost f).l2units = s.l2units := rfl
@[simp] theorem State.adjHost_dieScr (f : HostIf → HostIf) (s : State) : (s.adjHost f).dieScr = s.dieScr := rfl
@[simp] theorem State.adjHost_dieScrBad (f : HostIf → HostIf) (s : State) : (s.adjHost f).dieScrBad = s.dieScrBad := rfl
@[simp] theorem State.adjHost_hostMem (f : HostIf → HostIf) (s : State) : (s.adjHost f).hostMem = s.hostMem := rfl
@[simp] theorem State.adjHost_asidctx (f : HostIf → HostIf) (s : State) : (s.adjHost f).asidctx = s.asidctx := rfl
@[simp] theorem State.adjHost_tlbi (f : HostIf → HostIf) (s : State) : (s.adjHost f).tlbi = s.tlbi := rfl
@[simp] theorem State.adjHost_fabric (f : HostIf → HostIf) (s : State) : (s.adjHost f).fabric = s.fabric := rfl
@[simp] theorem State.adjHost_health (f : HostIf → HostIf) (s : State) : (s.adjHost f).health = s.health := rfl
@[simp] theorem State.adjHost_host (f : HostIf → HostIf) (s : State) : (s.adjHost f).host = f s.host := rfl
@[simp] theorem State.adjHost_pre (f : HostIf → HostIf) (s : State) : (s.adjHost f).pre = s.pre := rfl
@[simp] theorem State.adjHost_subs (f : HostIf → HostIf) (s : State) : (s.adjHost f).subs = s.subs := rfl
@[simp] theorem State.adjHost_merges (f : HostIf → HostIf) (s : State) : (s.adjHost f).merges = s.merges := rfl
@[simp] theorem State.adjHost_keyJobs (f : HostIf → HostIf) (s : State) : (s.adjHost f).keyJobs = s.keyJobs := rfl
@[simp] theorem State.adjHost_upsets (f : HostIf → HostIf) (s : State) : (s.adjHost f).upsets = s.upsets := rfl
@[simp] theorem State.adjHost_nextHandle (f : HostIf → HostIf) (s : State) : (s.adjHost f).nextHandle = s.nextHandle := rfl
@[simp] theorem State.adjHost_nextId (f : HostIf → HostIf) (s : State) : (s.adjHost f).nextId = s.nextId := rfl

@[simp] theorem State.answered_plan (c : Nat) (d : List Byte) (m : Nat) (s : State) : (s.answered c d m).plan = s.plan := rfl
@[simp] theorem State.answered_cur (c : Nat) (d : List Byte) (m : Nat) (s : State) : (s.answered c d m).cur = s.cur := rfl
@[simp] theorem State.answered_idle (c : Nat) (d : List Byte) (m : Nat) (s : State) : (s.answered c d m).idle = s.idle := rfl
@[simp] theorem State.answered_rotor (c : Nat) (d : List Byte) (m : Nat) (s : State) : (s.answered c d m).rotor = s.rotor := rfl
@[simp] theorem State.answered_yields (c : Nat) (d : List Byte) (m : Nat) (s : State) : (s.answered c d m).yields = s.yields := rfl
@[simp] theorem State.answered_tick (c : Nat) (d : List Byte) (m : Nat) (s : State) : (s.answered c d m).tick = s.tick := rfl
@[simp] theorem State.answered_fresh (c : Nat) (d : List Byte) (m : Nat) (s : State) : (s.answered c d m).fresh = s.fresh := rfl
@[simp] theorem State.answered_clock (c : Nat) (d : List Byte) (m : Nat) (s : State) : (s.answered c d m).clock = s.clock := rfl
@[simp] theorem State.answered_strands (c : Nat) (d : List Byte) (m : Nat) (s : State) : (s.answered c d m).strands = s.strands := rfl
@[simp] theorem State.answered_items (c : Nat) (d : List Byte) (m : Nat) (s : State) : (s.answered c d m).items = s.items := rfl
@[simp] theorem State.answered_convoys (c : Nat) (d : List Byte) (m : Nat) (s : State) : (s.answered c d m).convoys = s.convoys := rfl
@[simp] theorem State.answered_launches (c : Nat) (d : List Byte) (m : Nat) (s : State) : (s.answered c d m).launches = s.launches := rfl
@[simp] theorem State.answered_held (c : Nat) (d : List Byte) (m : Nat) (s : State) : (s.answered c d m).held = s.held := rfl
@[simp] theorem State.answered_tiles (c : Nat) (d : List Byte) (m : Nat) (s : State) : (s.answered c d m).tiles = s.tiles := rfl
@[simp] theorem State.answered_clusters (c : Nat) (d : List Byte) (m : Nat) (s : State) : (s.answered c d m).clusters = s.clusters := rfl
@[simp] theorem State.answered_dies (c : Nat) (d : List Byte) (m : Nat) (s : State) : (s.answered c d m).dies = s.dies := rfl
@[simp] theorem State.answered_crews (c : Nat) (d : List Byte) (m : Nat) (s : State) : (s.answered c d m).crews = s.crews := rfl
@[simp] theorem State.answered_mem (c : Nat) (d : List Byte) (m : Nat) (s : State) : (s.answered c d m).mem = s.mem := rfl
@[simp] theorem State.answered_answer (c : Nat) (d : List Byte) (m : Nat) (s : State) : (s.answered c d m).answer = ⟨c, d, m⟩ := rfl
@[simp] theorem State.answered_l2 (c : Nat) (d : List Byte) (m : Nat) (s : State) : (s.answered c d m).l2 = s.l2 := rfl
@[simp] theorem State.answered_l2units (c : Nat) (d : List Byte) (m : Nat) (s : State) : (s.answered c d m).l2units = s.l2units := rfl
@[simp] theorem State.answered_dieScr (c : Nat) (d : List Byte) (m : Nat) (s : State) : (s.answered c d m).dieScr = s.dieScr := rfl
@[simp] theorem State.answered_dieScrBad (c : Nat) (d : List Byte) (m : Nat) (s : State) : (s.answered c d m).dieScrBad = s.dieScrBad := rfl
@[simp] theorem State.answered_hostMem (c : Nat) (d : List Byte) (m : Nat) (s : State) : (s.answered c d m).hostMem = s.hostMem := rfl
@[simp] theorem State.answered_asidctx (c : Nat) (d : List Byte) (m : Nat) (s : State) : (s.answered c d m).asidctx = s.asidctx := rfl
@[simp] theorem State.answered_tlbi (c : Nat) (d : List Byte) (m : Nat) (s : State) : (s.answered c d m).tlbi = s.tlbi := rfl
@[simp] theorem State.answered_fabric (c : Nat) (d : List Byte) (m : Nat) (s : State) : (s.answered c d m).fabric = s.fabric := rfl
@[simp] theorem State.answered_health (c : Nat) (d : List Byte) (m : Nat) (s : State) : (s.answered c d m).health = s.health := rfl
@[simp] theorem State.answered_host (c : Nat) (d : List Byte) (m : Nat) (s : State) : (s.answered c d m).host = s.host := rfl
@[simp] theorem State.answered_pre (c : Nat) (d : List Byte) (m : Nat) (s : State) : (s.answered c d m).pre = s.pre := rfl
@[simp] theorem State.answered_subs (c : Nat) (d : List Byte) (m : Nat) (s : State) : (s.answered c d m).subs = s.subs := rfl
@[simp] theorem State.answered_merges (c : Nat) (d : List Byte) (m : Nat) (s : State) : (s.answered c d m).merges = s.merges := rfl
@[simp] theorem State.answered_keyJobs (c : Nat) (d : List Byte) (m : Nat) (s : State) : (s.answered c d m).keyJobs = s.keyJobs := rfl
@[simp] theorem State.answered_upsets (c : Nat) (d : List Byte) (m : Nat) (s : State) : (s.answered c d m).upsets = s.upsets := rfl
@[simp] theorem State.answered_nextHandle (c : Nat) (d : List Byte) (m : Nat) (s : State) : (s.answered c d m).nextHandle = s.nextHandle := rfl
@[simp] theorem State.answered_nextId (c : Nat) (d : List Byte) (m : Nat) (s : State) : (s.answered c d m).nextId = s.nextId := rfl

@[simp] theorem State.newId_plan (s : State) : (s.newId.2).plan = s.plan := rfl
@[simp] theorem State.newId_cur (s : State) : (s.newId.2).cur = s.cur := rfl
@[simp] theorem State.newId_idle (s : State) : (s.newId.2).idle = s.idle := rfl
@[simp] theorem State.newId_rotor (s : State) : (s.newId.2).rotor = s.rotor := rfl
@[simp] theorem State.newId_yields (s : State) : (s.newId.2).yields = s.yields := rfl
@[simp] theorem State.newId_tick (s : State) : (s.newId.2).tick = s.tick := rfl
@[simp] theorem State.newId_fresh (s : State) : (s.newId.2).fresh = s.fresh := rfl
@[simp] theorem State.newId_clock (s : State) : (s.newId.2).clock = s.clock := rfl
@[simp] theorem State.newId_strands (s : State) : (s.newId.2).strands = s.strands := rfl
@[simp] theorem State.newId_items (s : State) : (s.newId.2).items = s.items := rfl
@[simp] theorem State.newId_convoys (s : State) : (s.newId.2).convoys = s.convoys := rfl
@[simp] theorem State.newId_launches (s : State) : (s.newId.2).launches = s.launches := rfl
@[simp] theorem State.newId_held (s : State) : (s.newId.2).held = s.held := rfl
@[simp] theorem State.newId_tiles (s : State) : (s.newId.2).tiles = s.tiles := rfl
@[simp] theorem State.newId_clusters (s : State) : (s.newId.2).clusters = s.clusters := rfl
@[simp] theorem State.newId_dies (s : State) : (s.newId.2).dies = s.dies := rfl
@[simp] theorem State.newId_crews (s : State) : (s.newId.2).crews = s.crews := rfl
@[simp] theorem State.newId_mem (s : State) : (s.newId.2).mem = s.mem := rfl
@[simp] theorem State.newId_answer (s : State) : (s.newId.2).answer = s.answer := rfl
@[simp] theorem State.newId_l2 (s : State) : (s.newId.2).l2 = s.l2 := rfl
@[simp] theorem State.newId_l2units (s : State) : (s.newId.2).l2units = s.l2units := rfl
@[simp] theorem State.newId_dieScr (s : State) : (s.newId.2).dieScr = s.dieScr := rfl
@[simp] theorem State.newId_dieScrBad (s : State) : (s.newId.2).dieScrBad = s.dieScrBad := rfl
@[simp] theorem State.newId_hostMem (s : State) : (s.newId.2).hostMem = s.hostMem := rfl
@[simp] theorem State.newId_asidctx (s : State) : (s.newId.2).asidctx = s.asidctx := rfl
@[simp] theorem State.newId_tlbi (s : State) : (s.newId.2).tlbi = s.tlbi := rfl
@[simp] theorem State.newId_fabric (s : State) : (s.newId.2).fabric = s.fabric := rfl
@[simp] theorem State.newId_health (s : State) : (s.newId.2).health = s.health := rfl
@[simp] theorem State.newId_host (s : State) : (s.newId.2).host = s.host := rfl
@[simp] theorem State.newId_pre (s : State) : (s.newId.2).pre = s.pre := rfl
@[simp] theorem State.newId_subs (s : State) : (s.newId.2).subs = s.subs := rfl
@[simp] theorem State.newId_merges (s : State) : (s.newId.2).merges = s.merges := rfl
@[simp] theorem State.newId_keyJobs (s : State) : (s.newId.2).keyJobs = s.keyJobs := rfl
@[simp] theorem State.newId_upsets (s : State) : (s.newId.2).upsets = s.upsets := rfl
@[simp] theorem State.newId_nextHandle (s : State) : (s.newId.2).nextHandle = s.nextHandle := rfl
@[simp] theorem State.newId_nextId (s : State) : (s.newId.2).nextId = s.nextId + 1 := rfl

@[simp] theorem State.free_plan (s : State) : (s.free.2).plan = s.plan := rfl
@[simp] theorem State.free_cur (s : State) : (s.free.2).cur = s.cur := rfl
@[simp] theorem State.free_idle (s : State) : (s.free.2).idle = s.idle := rfl
@[simp] theorem State.free_rotor (s : State) : (s.free.2).rotor = s.rotor := rfl
@[simp] theorem State.free_yields (s : State) : (s.free.2).yields = s.yields := rfl
@[simp] theorem State.free_tick (s : State) : (s.free.2).tick = s.tick := rfl
@[simp] theorem State.free_fresh (s : State) : (s.free.2).fresh = s.fresh + 1 := rfl
@[simp] theorem State.free_clock (s : State) : (s.free.2).clock = s.clock := rfl
@[simp] theorem State.free_strands (s : State) : (s.free.2).strands = s.strands := rfl
@[simp] theorem State.free_items (s : State) : (s.free.2).items = s.items := rfl
@[simp] theorem State.free_convoys (s : State) : (s.free.2).convoys = s.convoys := rfl
@[simp] theorem State.free_launches (s : State) : (s.free.2).launches = s.launches := rfl
@[simp] theorem State.free_held (s : State) : (s.free.2).held = s.held := rfl
@[simp] theorem State.free_tiles (s : State) : (s.free.2).tiles = s.tiles := rfl
@[simp] theorem State.free_clusters (s : State) : (s.free.2).clusters = s.clusters := rfl
@[simp] theorem State.free_dies (s : State) : (s.free.2).dies = s.dies := rfl
@[simp] theorem State.free_crews (s : State) : (s.free.2).crews = s.crews := rfl
@[simp] theorem State.free_mem (s : State) : (s.free.2).mem = s.mem := rfl
@[simp] theorem State.free_answer (s : State) : (s.free.2).answer = s.answer := rfl
@[simp] theorem State.free_l2 (s : State) : (s.free.2).l2 = s.l2 := rfl
@[simp] theorem State.free_l2units (s : State) : (s.free.2).l2units = s.l2units := rfl
@[simp] theorem State.free_dieScr (s : State) : (s.free.2).dieScr = s.dieScr := rfl
@[simp] theorem State.free_dieScrBad (s : State) : (s.free.2).dieScrBad = s.dieScrBad := rfl
@[simp] theorem State.free_hostMem (s : State) : (s.free.2).hostMem = s.hostMem := rfl
@[simp] theorem State.free_asidctx (s : State) : (s.free.2).asidctx = s.asidctx := rfl
@[simp] theorem State.free_tlbi (s : State) : (s.free.2).tlbi = s.tlbi := rfl
@[simp] theorem State.free_fabric (s : State) : (s.free.2).fabric = s.fabric := rfl
@[simp] theorem State.free_health (s : State) : (s.free.2).health = s.health := rfl
@[simp] theorem State.free_host (s : State) : (s.free.2).host = s.host := rfl
@[simp] theorem State.free_pre (s : State) : (s.free.2).pre = s.pre := rfl
@[simp] theorem State.free_subs (s : State) : (s.free.2).subs = s.subs := rfl
@[simp] theorem State.free_merges (s : State) : (s.free.2).merges = s.merges := rfl
@[simp] theorem State.free_keyJobs (s : State) : (s.free.2).keyJobs = s.keyJobs := rfl
@[simp] theorem State.free_upsets (s : State) : (s.free.2).upsets = s.upsets := rfl
@[simp] theorem State.free_nextHandle (s : State) : (s.free.2).nextHandle = s.nextHandle := rfl
@[simp] theorem State.free_nextId (s : State) : (s.free.2).nextId = s.nextId := rfl

@[simp] theorem Strand.adjLane_item (i : Nat) (f : Lane → Lane) (s : Strand) : (s.adjLane i f).item = s.item := rfl
@[simp] theorem Strand.adjLane_inItem (i : Nat) (f : Lane → Lane) (s : Strand) : (s.adjLane i f).inItem = s.inItem := rfl
@[simp] theorem Strand.adjLane_context (i : Nat) (f : Lane → Lane) (s : Strand) : (s.adjLane i f).context = s.context := rfl
@[simp] theorem Strand.adjLane_lpBase (i : Nat) (f : Lane → Lane) (s : Strand) : (s.adjLane i f).lpBase = s.lpBase := rfl
@[simp] theorem Strand.adjLane_lanes (i : Nat) (f : Lane → Lane) (s : Strand) : (s.adjLane i f).lanes = s.lanes.set i (f (s.lanes.get i)) := rfl
@[simp] theorem Strand.adjLane_cur (i : Nat) (f : Lane → Lane) (s : Strand) : (s.adjLane i f).cur = s.cur := rfl
@[simp] theorem Strand.adjLane_s (i : Nat) (f : Lane → Lane) (s : Strand) : (s.adjLane i f).s = s.s := rfl
@[simp] theorem Strand.adjLane_d (i : Nat) (f : Lane → Lane) (s : Strand) : (s.adjLane i f).d = s.d := rfl
@[simp] theorem Strand.adjLane_xi (i : Nat) (f : Lane → Lane) (s : Strand) : (s.adjLane i f).xi = s.xi := rfl
@[simp] theorem Strand.adjLane_badS (i : Nat) (f : Lane → Lane) (s : Strand) : (s.adjLane i f).badS = s.badS := rfl
@[simp] theorem Strand.adjLane_fstat (i : Nat) (f : Lane → Lane) (s : Strand) : (s.adjLane i f).fstat = s.fstat := rfl
@[simp] theorem Strand.adjLane_retcnt (i : Nat) (f : Lane → Lane) (s : Strand) : (s.adjLane i f).retcnt = s.retcnt := rfl
@[simp] theorem Strand.adjLane_pend (i : Nat) (f : Lane → Lane) (s : Strand) : (s.adjLane i f).pend = s.pend := rfl
@[simp] theorem Strand.adjLane_handler (i : Nat) (f : Lane → Lane) (s : Strand) : (s.adjLane i f).handler = s.handler := rfl
@[simp] theorem Strand.adjLane_trapping (i : Nat) (f : Lane → Lane) (s : Strand) : (s.adjLane i f).trapping = s.trapping := rfl
@[simp] theorem Strand.adjLane_fault (i : Nat) (f : Lane → Lane) (s : Strand) : (s.adjLane i f).fault = s.fault := rfl
@[simp] theorem Strand.adjLane_trdetail (i : Nat) (f : Lane → Lane) (s : Strand) : (s.adjLane i f).trdetail = s.trdetail := rfl
@[simp] theorem Strand.adjLane_oplog (i : Nat) (f : Lane → Lane) (s : Strand) : (s.adjLane i f).oplog = s.oplog := rfl
@[simp] theorem Strand.adjLane_drop (i : Nat) (f : Lane → Lane) (s : Strand) : (s.adjLane i f).drop = s.drop := rfl
@[simp] theorem Strand.adjLane_queue (i : Nat) (f : Lane → Lane) (s : Strand) : (s.adjLane i f).queue = s.queue := rfl
@[simp] theorem Strand.adjLane_ovf (i : Nat) (f : Lane → Lane) (s : Strand) : (s.adjLane i f).ovf = s.ovf := rfl
@[simp] theorem Strand.adjLane_wait (i : Nat) (f : Lane → Lane) (s : Strand) : (s.adjLane i f).wait = s.wait := rfl
@[simp] theorem Strand.adjLane_stepArm (i : Nat) (f : Lane → Lane) (s : Strand) : (s.adjLane i f).stepArm = s.stepArm := rfl
@[simp] theorem Strand.adjLane_stepHeld (i : Nat) (f : Lane → Lane) (s : Strand) : (s.adjLane i f).stepHeld = s.stepHeld := rfl
@[simp] theorem Strand.adjLane_crewWord (i : Nat) (f : Lane → Lane) (s : Strand) : (s.adjLane i f).crewWord = s.crewWord := rfl
@[simp] theorem Strand.adjLane_crew (i : Nat) (f : Lane → Lane) (s : Strand) : (s.adjLane i f).crew = s.crew := rfl
@[simp] theorem Strand.adjLane_seat (i : Nat) (f : Lane → Lane) (s : Strand) : (s.adjLane i f).seat = s.seat := rfl
@[simp] theorem Strand.adjLane_lost (i : Nat) (f : Lane → Lane) (s : Strand) : (s.adjLane i f).lost = s.lost := rfl

@[simp] theorem Strand.raiseFlags_item (f : Flags) (s : Strand) : (s.raiseFlags f).item = s.item := rfl
@[simp] theorem Strand.raiseFlags_inItem (f : Flags) (s : Strand) : (s.raiseFlags f).inItem = s.inItem := rfl
@[simp] theorem Strand.raiseFlags_context (f : Flags) (s : Strand) : (s.raiseFlags f).context = s.context := rfl
@[simp] theorem Strand.raiseFlags_lpBase (f : Flags) (s : Strand) : (s.raiseFlags f).lpBase = s.lpBase := rfl
@[simp] theorem Strand.raiseFlags_lanes (f : Flags) (s : Strand) : (s.raiseFlags f).lanes = s.lanes := rfl
@[simp] theorem Strand.raiseFlags_cur (f : Flags) (s : Strand) : (s.raiseFlags f).cur = s.cur := rfl
@[simp] theorem Strand.raiseFlags_s (f : Flags) (s : Strand) : (s.raiseFlags f).s = s.s := rfl
@[simp] theorem Strand.raiseFlags_d (f : Flags) (s : Strand) : (s.raiseFlags f).d = s.d := rfl
@[simp] theorem Strand.raiseFlags_xi (f : Flags) (s : Strand) : (s.raiseFlags f).xi = s.xi := rfl
@[simp] theorem Strand.raiseFlags_badS (f : Flags) (s : Strand) : (s.raiseFlags f).badS = s.badS := rfl
@[simp] theorem Strand.raiseFlags_fstat (f : Flags) (s : Strand) : (s.raiseFlags f).fstat = s.fstat ||| f := rfl
@[simp] theorem Strand.raiseFlags_retcnt (f : Flags) (s : Strand) : (s.raiseFlags f).retcnt = s.retcnt := rfl
@[simp] theorem Strand.raiseFlags_pend (f : Flags) (s : Strand) : (s.raiseFlags f).pend = s.pend := rfl
@[simp] theorem Strand.raiseFlags_handler (f : Flags) (s : Strand) : (s.raiseFlags f).handler = s.handler := rfl
@[simp] theorem Strand.raiseFlags_trapping (f : Flags) (s : Strand) : (s.raiseFlags f).trapping = s.trapping := rfl
@[simp] theorem Strand.raiseFlags_fault (f : Flags) (s : Strand) : (s.raiseFlags f).fault = s.fault := rfl
@[simp] theorem Strand.raiseFlags_trdetail (f : Flags) (s : Strand) : (s.raiseFlags f).trdetail = s.trdetail := rfl
@[simp] theorem Strand.raiseFlags_oplog (f : Flags) (s : Strand) : (s.raiseFlags f).oplog = s.oplog := rfl
@[simp] theorem Strand.raiseFlags_drop (f : Flags) (s : Strand) : (s.raiseFlags f).drop = s.drop := rfl
@[simp] theorem Strand.raiseFlags_queue (f : Flags) (s : Strand) : (s.raiseFlags f).queue = s.queue := rfl
@[simp] theorem Strand.raiseFlags_ovf (f : Flags) (s : Strand) : (s.raiseFlags f).ovf = s.ovf := rfl
@[simp] theorem Strand.raiseFlags_wait (f : Flags) (s : Strand) : (s.raiseFlags f).wait = s.wait := rfl
@[simp] theorem Strand.raiseFlags_stepArm (f : Flags) (s : Strand) : (s.raiseFlags f).stepArm = s.stepArm := rfl
@[simp] theorem Strand.raiseFlags_stepHeld (f : Flags) (s : Strand) : (s.raiseFlags f).stepHeld = s.stepHeld := rfl
@[simp] theorem Strand.raiseFlags_crewWord (f : Flags) (s : Strand) : (s.raiseFlags f).crewWord = s.crewWord := rfl
@[simp] theorem Strand.raiseFlags_crew (f : Flags) (s : Strand) : (s.raiseFlags f).crew = s.crew := rfl
@[simp] theorem Strand.raiseFlags_seat (f : Flags) (s : Strand) : (s.raiseFlags f).seat = s.seat := rfl
@[simp] theorem Strand.raiseFlags_lost (f : Flags) (s : Strand) : (s.raiseFlags f).lost = s.lost := rfl

@[simp] theorem Strand.setS_item (n : Nat) (x : Word) (s : Strand) : (s.setS n x).item = s.item := rfl
@[simp] theorem Strand.setS_inItem (n : Nat) (x : Word) (s : Strand) : (s.setS n x).inItem = s.inItem := rfl
@[simp] theorem Strand.setS_context (n : Nat) (x : Word) (s : Strand) : (s.setS n x).context = s.context := rfl
@[simp] theorem Strand.setS_lpBase (n : Nat) (x : Word) (s : Strand) : (s.setS n x).lpBase = s.lpBase := rfl
@[simp] theorem Strand.setS_lanes (n : Nat) (x : Word) (s : Strand) : (s.setS n x).lanes = s.lanes := rfl
@[simp] theorem Strand.setS_cur (n : Nat) (x : Word) (s : Strand) : (s.setS n x).cur = s.cur := rfl
@[simp] theorem Strand.setS_s (n : Nat) (x : Word) (s : Strand) : (s.setS n x).s = Table.put 0 n x s.s := rfl
@[simp] theorem Strand.setS_d (n : Nat) (x : Word) (s : Strand) : (s.setS n x).d = s.d := rfl
@[simp] theorem Strand.setS_xi (n : Nat) (x : Word) (s : Strand) : (s.setS n x).xi = s.xi := rfl
@[simp] theorem Strand.setS_badS (n : Nat) (x : Word) (s : Strand) : (s.setS n x).badS = s.badS.filter (· != n) := rfl
@[simp] theorem Strand.setS_fstat (n : Nat) (x : Word) (s : Strand) : (s.setS n x).fstat = s.fstat := rfl
@[simp] theorem Strand.setS_retcnt (n : Nat) (x : Word) (s : Strand) : (s.setS n x).retcnt = s.retcnt := rfl
@[simp] theorem Strand.setS_pend (n : Nat) (x : Word) (s : Strand) : (s.setS n x).pend = s.pend := rfl
@[simp] theorem Strand.setS_handler (n : Nat) (x : Word) (s : Strand) : (s.setS n x).handler = s.handler := rfl
@[simp] theorem Strand.setS_trapping (n : Nat) (x : Word) (s : Strand) : (s.setS n x).trapping = s.trapping := rfl
@[simp] theorem Strand.setS_fault (n : Nat) (x : Word) (s : Strand) : (s.setS n x).fault = s.fault := rfl
@[simp] theorem Strand.setS_trdetail (n : Nat) (x : Word) (s : Strand) : (s.setS n x).trdetail = s.trdetail := rfl
@[simp] theorem Strand.setS_oplog (n : Nat) (x : Word) (s : Strand) : (s.setS n x).oplog = s.oplog := rfl
@[simp] theorem Strand.setS_drop (n : Nat) (x : Word) (s : Strand) : (s.setS n x).drop = s.drop := rfl
@[simp] theorem Strand.setS_queue (n : Nat) (x : Word) (s : Strand) : (s.setS n x).queue = s.queue := rfl
@[simp] theorem Strand.setS_ovf (n : Nat) (x : Word) (s : Strand) : (s.setS n x).ovf = s.ovf := rfl
@[simp] theorem Strand.setS_wait (n : Nat) (x : Word) (s : Strand) : (s.setS n x).wait = s.wait := rfl
@[simp] theorem Strand.setS_stepArm (n : Nat) (x : Word) (s : Strand) : (s.setS n x).stepArm = s.stepArm := rfl
@[simp] theorem Strand.setS_stepHeld (n : Nat) (x : Word) (s : Strand) : (s.setS n x).stepHeld = s.stepHeld := rfl
@[simp] theorem Strand.setS_crewWord (n : Nat) (x : Word) (s : Strand) : (s.setS n x).crewWord = s.crewWord := rfl
@[simp] theorem Strand.setS_crew (n : Nat) (x : Word) (s : Strand) : (s.setS n x).crew = s.crew := rfl
@[simp] theorem Strand.setS_seat (n : Nat) (x : Word) (s : Strand) : (s.setS n x).seat = s.seat := rfl
@[simp] theorem Strand.setS_lost (n : Nat) (x : Word) (s : Strand) : (s.setS n x).lost = s.lost := rfl

@[simp] theorem Strand.mapLanes_item (m : BitVec 4) (f : Lane → Lane) (s : Strand) : (s.mapLanes m f).item = s.item := rfl
@[simp] theorem Strand.mapLanes_inItem (m : BitVec 4) (f : Lane → Lane) (s : Strand) : (s.mapLanes m f).inItem = s.inItem := rfl
@[simp] theorem Strand.mapLanes_context (m : BitVec 4) (f : Lane → Lane) (s : Strand) : (s.mapLanes m f).context = s.context := rfl
@[simp] theorem Strand.mapLanes_lpBase (m : BitVec 4) (f : Lane → Lane) (s : Strand) : (s.mapLanes m f).lpBase = s.lpBase := rfl
@[simp] theorem Strand.mapLanes_lanes (m : BitVec 4) (f : Lane → Lane) (s : Strand) : (s.mapLanes m f).lanes = (lanesIn m).foldl (fun q i => q.set i (f (q.get i))) s.lanes := rfl
@[simp] theorem Strand.mapLanes_cur (m : BitVec 4) (f : Lane → Lane) (s : Strand) : (s.mapLanes m f).cur = s.cur := rfl
@[simp] theorem Strand.mapLanes_s (m : BitVec 4) (f : Lane → Lane) (s : Strand) : (s.mapLanes m f).s = s.s := rfl
@[simp] theorem Strand.mapLanes_d (m : BitVec 4) (f : Lane → Lane) (s : Strand) : (s.mapLanes m f).d = s.d := rfl
@[simp] theorem Strand.mapLanes_xi (m : BitVec 4) (f : Lane → Lane) (s : Strand) : (s.mapLanes m f).xi = s.xi := rfl
@[simp] theorem Strand.mapLanes_badS (m : BitVec 4) (f : Lane → Lane) (s : Strand) : (s.mapLanes m f).badS = s.badS := rfl
@[simp] theorem Strand.mapLanes_fstat (m : BitVec 4) (f : Lane → Lane) (s : Strand) : (s.mapLanes m f).fstat = s.fstat := rfl
@[simp] theorem Strand.mapLanes_retcnt (m : BitVec 4) (f : Lane → Lane) (s : Strand) : (s.mapLanes m f).retcnt = s.retcnt := rfl
@[simp] theorem Strand.mapLanes_pend (m : BitVec 4) (f : Lane → Lane) (s : Strand) : (s.mapLanes m f).pend = s.pend := rfl
@[simp] theorem Strand.mapLanes_handler (m : BitVec 4) (f : Lane → Lane) (s : Strand) : (s.mapLanes m f).handler = s.handler := rfl
@[simp] theorem Strand.mapLanes_trapping (m : BitVec 4) (f : Lane → Lane) (s : Strand) : (s.mapLanes m f).trapping = s.trapping := rfl
@[simp] theorem Strand.mapLanes_fault (m : BitVec 4) (f : Lane → Lane) (s : Strand) : (s.mapLanes m f).fault = s.fault := rfl
@[simp] theorem Strand.mapLanes_trdetail (m : BitVec 4) (f : Lane → Lane) (s : Strand) : (s.mapLanes m f).trdetail = s.trdetail := rfl
@[simp] theorem Strand.mapLanes_oplog (m : BitVec 4) (f : Lane → Lane) (s : Strand) : (s.mapLanes m f).oplog = s.oplog := rfl
@[simp] theorem Strand.mapLanes_drop (m : BitVec 4) (f : Lane → Lane) (s : Strand) : (s.mapLanes m f).drop = s.drop := rfl
@[simp] theorem Strand.mapLanes_queue (m : BitVec 4) (f : Lane → Lane) (s : Strand) : (s.mapLanes m f).queue = s.queue := rfl
@[simp] theorem Strand.mapLanes_ovf (m : BitVec 4) (f : Lane → Lane) (s : Strand) : (s.mapLanes m f).ovf = s.ovf := rfl
@[simp] theorem Strand.mapLanes_wait (m : BitVec 4) (f : Lane → Lane) (s : Strand) : (s.mapLanes m f).wait = s.wait := rfl
@[simp] theorem Strand.mapLanes_stepArm (m : BitVec 4) (f : Lane → Lane) (s : Strand) : (s.mapLanes m f).stepArm = s.stepArm := rfl
@[simp] theorem Strand.mapLanes_stepHeld (m : BitVec 4) (f : Lane → Lane) (s : Strand) : (s.mapLanes m f).stepHeld = s.stepHeld := rfl
@[simp] theorem Strand.mapLanes_crewWord (m : BitVec 4) (f : Lane → Lane) (s : Strand) : (s.mapLanes m f).crewWord = s.crewWord := rfl
@[simp] theorem Strand.mapLanes_crew (m : BitVec 4) (f : Lane → Lane) (s : Strand) : (s.mapLanes m f).crew = s.crew := rfl
@[simp] theorem Strand.mapLanes_seat (m : BitVec 4) (f : Lane → Lane) (s : Strand) : (s.mapLanes m f).seat = s.seat := rfl
@[simp] theorem Strand.mapLanes_lost (m : BitVec 4) (f : Lane → Lane) (s : Strand) : (s.mapLanes m f).lost = s.lost := rfl

@[simp] theorem Lane.setV_v (s : Lane) (n : Nat) (x : Word) : (s.setV n x).v = Table.put 0 n x s.v := rfl
@[simp] theorem Lane.setV_p (s : Lane) (n : Nat) (x : Word) : (s.setV n x).p = s.p := rfl
@[simp] theorem Lane.setV_flow (s : Lane) (n : Nat) (x : Word) : (s.setV n x).flow = s.flow := rfl
@[simp] theorem Lane.setV_exited (s : Lane) (n : Nat) (x : Word) : (s.setV n x).exited = s.exited := rfl
@[simp] theorem Lane.setV_dead (s : Lane) (n : Nat) (x : Word) : (s.setV n x).dead = s.dead := rfl
@[simp] theorem Lane.setV_draw (s : Lane) (n : Nat) (x : Word) : (s.setV n x).draw = s.draw := rfl
@[simp] theorem Lane.setV_lp (s : Lane) (n : Nat) (x : Word) : (s.setV n x).lp = s.lp := rfl
@[simp] theorem Lane.setV_bad (s : Lane) (n : Nat) (x : Word) : (s.setV n x).bad = s.bad := rfl
@[simp] theorem Lane.setV_badV (s : Lane) (n : Nat) (x : Word) : (s.setV n x).badV = s.badV.filter (· != n) := rfl
@[simp] theorem Lane.setV_iter (s : Lane) (n : Nat) (x : Word) : (s.setV n x).iter = s.iter := rfl
@[simp] theorem Lane.setV_drawn (s : Lane) (n : Nat) (x : Word) : (s.setV n x).drawn = s.drawn := rfl
@[simp] theorem Lane.setV_atOp (s : Lane) (n : Nat) (x : Word) : (s.setV n x).atOp = s.atOp := rfl

end Sys2Proof.Machine
end

