-- ==== Sys2Proof/Laws/Table.lean ====
section
/-! SUPPORT. Laws of maps, tables and memories: reading after writing, and the canonical form, which every operation
keeps. -/

namespace Sys2Proof.Machine

/-! Maps. -/

@[simp] theorem Map.find_nil {α : Type} (k : Nat) : Map.find k ([] : Map α) = none := rfl

/-- What was inserted is found; every other number is as it was. -/
theorem Map.find_insert {α : Type} (m : Map α) (k j : Nat) (v : α) :
    Map.find j (Map.insert k v m) = if j = k then some v else Map.find j m := by
  induction m with
  | nil => by_cases h : k = j <;> simp_all [Map.insert, Map.find, eq_comm]
  | cons x m ih =>
    obtain ⟨i, w⟩ := x
    simp only [Map.insert]
    split
    · by_cases h : k = j <;> simp_all [Map.find, eq_comm]
    · split
      · rename_i h
        subst h
        by_cases h : i = j <;> simp_all [Map.find, eq_comm]
      · by_cases h : i = j
        · subst h; simp_all [Map.find]
        · simp_all [Map.find]

@[simp] theorem Map.find_insert_self {α : Type} (m : Map α) (k : Nat) (v : α) :
    Map.find k (Map.insert k v m) = some v := by simp [Map.find_insert]

theorem Map.find_insert_ne {α : Type} (m : Map α) {k j : Nat} (v : α) (h : j ≠ k) :
    Map.find j (Map.insert k v m) = Map.find j m := by simp [Map.find_insert, h]

/-- A number that is adjusted keeps being there or absent; every other number is as it was. -/
theorem Map.find_adjust {α : Type} (m : Map α) (k j : Nat) (f : α → α) :
    Map.find j (Map.adjust k f m) = if j = k then (Map.find k m).map f else Map.find j m := by
  simp only [Map.adjust]
  split
  · rename_i v h
    simp [Map.find_insert, h]
  · rename_i h
    by_cases e : j = k <;> simp_all

@[simp] theorem Map.find_adjust_self {α : Type} (m : Map α) (k : Nat) (f : α → α) :
    Map.find k (Map.adjust k f m) = (Map.find k m).map f := by simp [Map.find_adjust]

theorem Map.find_adjust_ne {α : Type} (m : Map α) {k j : Nat} (f : α → α) (h : j ≠ k) :
    Map.find j (Map.adjust k f m) = Map.find j m := by simp [Map.find_adjust, h]

/-! Rising order. -/

theorem Map.risingFrom_mono {α : Type} (m : Map α) {a b : Nat} (h : a ≤ b) (hb : Map.risingFrom b m = true) :
    Map.risingFrom a m = true := by
  cases m with
  | nil => rfl
  | cons x m => simp_all [Map.risingFrom]; omega

theorem Map.find_of_rising {α : Type} (m : Map α) (lo k : Nat) (h : Map.risingFrom lo m = true) (hk : k < lo) :
    Map.find k m = none := by
  induction m generalizing lo with
  | nil => rfl
  | cons x m ih =>
    simp [Map.risingFrom] at h
    have : x.1 ≠ k := by omega
    simp [Map.find, this]
    exact ih _ h.2 (by omega)

theorem Map.rising_insert {α : Type} (m : Map α) (lo k : Nat) (v : α) (h : Map.risingFrom lo m = true) (hk : lo ≤ k) :
    Map.risingFrom lo (Map.insert k v m) = true := by
  induction m generalizing lo with
  | nil => simp [Map.insert, Map.risingFrom, hk]
  | cons x m ih =>
    obtain ⟨j, w⟩ := x
    simp [Map.risingFrom] at h
    simp only [Map.insert]
    split
    · simp [Map.risingFrom, hk, h]; omega
    · split
      · rename_i e; subst e; simp [Map.risingFrom, h]
      · simp [Map.risingFrom, h.1]; exact ih _ h.2 (by omega)

theorem Map.rising_filter {α : Type} (f : Nat × α → Bool) (m : Map α) (lo : Nat) (h : Map.risingFrom lo m = true) :
    Map.risingFrom lo (m.filter f) = true := by
  induction m generalizing lo with
  | nil => rfl
  | cons x m ih =>
    simp [Map.risingFrom] at h
    rw [List.filter_cons]
    split
    · simp [Map.risingFrom, h.1]; exact ih _ h.2
    · exact ih _ (Map.risingFrom_mono m (by omega) h.2)

theorem Map.rising_erase {α : Type} (m : Map α) (lo k : Nat) (h : Map.risingFrom lo m = true) :
    Map.risingFrom lo (Map.erase k m) = true := Map.rising_filter _ m lo h

/-- What was erased is absent; every other number is as it was. -/
theorem Map.find_erase {α : Type} (m : Map α) (k j : Nat) :
    Map.find j (Map.erase k m) = if j = k then none else Map.find j m := by
  simp only [Map.erase]
  induction m with
  | nil => simp
  | cons x m ih =>
    obtain ⟨i, w⟩ := x
    rw [List.filter_cons]
    by_cases e : i = k
    · subst e
      simp only [bne_self_eq_false, Bool.false_eq_true, if_false, ih, Map.find]
      by_cases hj : j = i
      · simp [hj]
      · have : ¬ i = j := fun e => hj e.symm
        simp [hj, this]
    · have : (i != k) = true := by simp [e]
      simp only [this, if_true, Map.find, ih]
      by_cases hj : i = j
      · subst hj; simp [e]
      · simp [hj]

/-! Tables. -/

@[simp] theorem Table.get_nil {α : Type} (d : α) (k : Nat) : Table.get d k ([] : Table α) = d := rfl

/-- Putting a value keeps the canonical form. -/
theorem Table.wf_put {α : Type} [DecidableEq α] (d : α) (k : Nat) (v : α) (t : Table α) (h : Table.wf d t = true) :
    Table.wf d (Table.put d k v t) = true := by
  simp only [Table.wf, Bool.and_eq_true] at h ⊢
  simp only [Table.put]
  split
  · refine ⟨Map.rising_erase _ _ _ h.1, ?_⟩
    rw [List.all_eq_true] at h ⊢
    exact fun x hx => h.2 x (List.mem_filter.1 hx).1
  · rename_i hv
    refine ⟨Map.rising_insert _ _ _ _ h.1 (Nat.zero_le _), ?_⟩
    have : ∀ m : Map α, m.all (fun x => x.2 != d) = true → (Map.insert k v m).all (fun x => x.2 != d) = true := by
      intro m
      induction m with
      | nil => intro _; simp [Map.insert, hv]
      | cons x m ih =>
        obtain ⟨j, w⟩ := x
        intro hm
        simp only [List.all_cons, Bool.and_eq_true] at hm
        simp only [Map.insert]
        split
        · simp only [List.all_cons, Bool.and_eq_true]; exact ⟨by simp [hv], hm⟩
        · split
          · simp only [List.all_cons, Bool.and_eq_true]; exact ⟨by simp [hv], hm.2⟩
          · simp only [List.all_cons, Bool.and_eq_true]; exact ⟨hm.1, ih hm.2⟩
    exact this _ h.2

/-- What was put is read; every other number is as it was. -/
theorem Table.get_put {α : Type} [DecidableEq α] (d : α) (k j : Nat) (v : α) (t : Table α) :
    Table.get d j (Table.put d k v t) = if j = k then v else Table.get d j t := by
  simp only [Table.put]
  split
  · rename_i e
    subst e
    simp only [Table.get, Map.find_erase]
    by_cases hj : j = k <;> simp [hj]
  · simp only [Table.get, Map.find_insert]
    by_cases hj : j = k <;> simp [hj]

theorem Table.rising_put {α : Type} [DecidableEq α] (d : α) (k : Nat) (v : α) (t : Table α)
    (h : Map.risingFrom 0 t = true) : Map.risingFrom 0 (Table.put d k v t) = true := by
  simp only [Table.put]
  split
  · exact Map.rising_erase _ _ _ h
  · exact Map.rising_insert _ _ _ _ h (Nat.zero_le _)

/-! Memories. -/

@[simp] theorem Memory.wf_nil : Memory.wf [] = true := rfl

/-- A write keeps the canonical form. -/
theorem Memory.wf_write (m : Memory) (a : Nat) (b : Byte) (h : m.wf = true) : (m.write a b).wf = true :=
  Table.wf_put _ _ _ _ h

/-- A write of several bytes keeps the canonical form. -/
theorem Memory.wf_writeBytes (bs : List Byte) : ∀ (m : Memory) (a : Nat), m.wf = true → (m.writeBytes a bs).wf = true := by
  induction bs with
  | nil => exact fun m a h => h
  | cons b bs ih => exact fun m a h => ih _ _ (Memory.wf_write m a b h)

/-- Zeroing a range keeps the canonical form. -/
theorem Memory.wf_zero (m : Memory) (lo hi : Nat) (h : m.wf = true) : (m.zero lo hi).wf = true := by
  simp only [Memory.wf, Table.wf, Bool.and_eq_true, Memory.zero] at h ⊢
  refine ⟨Map.rising_filter _ m 0 h.1, ?_⟩
  rw [List.all_eq_true] at h ⊢
  exact fun x hx => h.2 x (List.mem_filter.1 hx).1

/-- A byte read after a write of one byte. -/
theorem Memory.read_write (m : Memory) (a b : Nat) (x : Byte) : (m.write a x).read b = if b = a then x else m.read b :=
  Table.get_put _ _ _ _ _

/-- A byte outside those written reads as before. -/
theorem Memory.read_writeBytes_outside (bs : List Byte) : ∀ (m : Memory) (a b : Nat), (b < a ∨ a + bs.length ≤ b) →
    (m.writeBytes a bs).read b = m.read b := by
  induction bs with
  | nil => intro m a b _; rfl
  | cons x bs ih =>
    intro m a b hb
    simp only [List.length_cons] at hb
    show ((m.write a x).writeBytes (a + 1) bs).read b = _
    rw [ih _ _ _ (by omega), Memory.read_write, if_neg (by omega)]

/-- A byte among those written reads as written. -/
theorem Memory.read_writeBytes_inside (bs : List Byte) : ∀ (m : Memory) (a i : Nat), (hi : i < bs.length) →
    (m.writeBytes a bs).read (a + i) = bs[i] := by
  induction bs with
  | nil => intro m a i hi; simp at hi
  | cons x bs ih =>
    intro m a i hi
    show ((m.write a x).writeBytes (a + 1) bs).read (a + i) = _
    cases i with
    | zero =>
      rw [Memory.read_writeBytes_outside bs _ _ _ (by omega)]
      simp [Memory.read_write]
    | succ i =>
      have := ih (m.write a x) (a + 1) i (by simpa using hi)
      rw [show a + (i + 1) = a + 1 + i by omega, this]
      simp

end Sys2Proof.Machine
end

