-- ==== Sys2Proof/Laws/Frame.lean ====
section
/-! SUPPORT. What the shared memory operations leave alone: main memory, caches, translations and the host's memory apart, a
load, a store, a walk, a publish or a refresh changes nothing. -/

namespace Sys2Proof.Machine

/-! Composition. -/

theorem MemoryAlone.refl (s : State) : MemoryAlone s s := ⟨⟨rfl, fun _ => rfl⟩, rfl, fun _ => ⟨rfl, rfl⟩⟩

theorem Touched.refl (s : State) : Touched s s := ⟨rfl, fun _ => rfl⟩

theorem Touched.trans {s t u : State} (h : Touched s t) (k : Touched t u) : Touched s u := by
  constructor
  · have a := h.rest; have b := k.rest
    cases s; cases t; cases u
    simp only [State.mk.injEq, true_and] at a b ⊢
    simp_all
  · intro n
    have a := h.tiles n; have b := k.tiles n
    generalize s.tile n = x at *; generalize t.tile n = y at *; generalize u.tile n = z at *
    cases x; cases y; cases z
    simp only [Tile.mk.injEq, true_and] at a b ⊢
    simp_all

theorem MemoryAlone.trans {s t u : State} (h : MemoryAlone s t) (k : MemoryAlone t u) : MemoryAlone s u :=
  ⟨h.touched.trans k.touched, k.units.trans h.units,
    fun n => ⟨(k.clocks n).1.trans (h.clocks n).1, (k.clocks n).2.trans (h.clocks n).2⟩⟩

/-- A chain of steps each of which leaves the rest alone. -/
theorem MemoryAlone.foldl {α : Type} (f : State → α → State) (h : ∀ s x, MemoryAlone s (f s x)) :
    ∀ (l : List α) (s : State), MemoryAlone s (l.foldl f s)
  | [], s => .refl s
  | x :: l, s => (h s x).trans (MemoryAlone.foldl f h l (f s x))

/-! Fields that memory accesses may write. -/

/-- Tiles as they were, and only memory and the host's side written. -/
theorem MemoryAlone.of_home {s t : State} (h : t = { s with
      mem := t.mem, l2 := t.l2, host := t.host, hostMem := t.hostMem, dieScr := t.dieScr, dieScrBad := t.dieScrBad }) :
    MemoryAlone s t := by
  have ht : t.tiles = s.tiles := by rw [h]
  have hu : t.l2units = s.l2units := by rw [h]
  have hc : t.clusters = s.clusters := by rw [h]
  have tile n : t.tile n = s.tile n := by unfold State.tile; rw [ht]
  refine ⟨⟨?_, fun n => ?_⟩, hu, fun n => ?_⟩
  · conv_lhs => rw [h]
    rw [ht, hu, hc]
  · rw [tile n]
  · rw [tile n]; exact ⟨rfl, rfl⟩

theorem MemoryAlone.mem (s : State) (m : MainMem) : MemoryAlone s { s with mem := m } := .of_home rfl

theorem MemoryAlone.l2 (s : State) (m : Map L2Line) : MemoryAlone s { s with l2 := m } := .of_home rfl

theorem tile_setTile (s : State) (k n : Nat) (x : Tile) : (s.setTile k x).tile n = if n = k then x else s.tile n := by
  unfold State.setTile State.tile
  simp only [Map.find_insert]
  split <;> rfl

/-- A tile whose caches and refresh time alone are changed. -/
theorem MemoryAlone.setTile (s : State) (k : Nat) (x : Tile)
    (h : x = { s.tile k with l1 := x.l1, wc := x.wc, refreshed := x.refreshed }) : MemoryAlone s (s.setTile k x) := by
  refine ⟨⟨rfl, fun n => ?_⟩, rfl, fun n => ?_⟩
  · rw [tile_setTile]
    split
    · subst n; conv_lhs => rw [h]
      rw [show x.lclock = (s.tile k).lclock by rw [h], show x.scUnits = (s.tile k).scUnits by rw [h]]
    · rfl
  · rw [tile_setTile]
    split
    · subst n; exact ⟨by rw [h], by rw [h]⟩
    · exact ⟨rfl, rfl⟩

theorem MemoryAlone.setCluster (s : State) (k : Nat) (x : Cluster) : MemoryAlone s (s.setCluster k x) :=
  ⟨⟨rfl, fun _ => rfl⟩, rfl, fun _ => ⟨rfl, rfl⟩⟩

theorem MemoryAlone.setL1 (s : State) (k : Nat) (x : List L1Line) : MemoryAlone s (s.setL1 k x) := .setTile _ _ _ rfl

/-! Homes. -/

theorem dropHostWrite_alone (s : State) : MemoryAlone s (dropHostWrite s) := .of_home rfl

theorem hostWriteLine_alone (s : State) (line data mask : Nat) : MemoryAlone s (hostWriteLine s line data mask) := by
  unfold hostWriteLine
  split
  · exact dropHostWrite_alone s
  · generalize List.foldl _ _ _ = m; exact .of_home rfl

theorem l2Evict_alone (line : Nat) (s : State) : MemoryAlone s (l2Evict line s) := by
  unfold l2Evict
  split
  · dsimp only; split
    · exact .l2 _ _
    · exact .of_home rfl
  · exact .refl s

theorem l2Room_alone (line : Nat) (s : State) : MemoryAlone s (l2Room line s) := by
  unfold l2Room
  split
  · exact .refl s
  · dsimp only; split
    · exact .refl s
    · split
      · exact MemoryAlone.trans (.mem _ _) (l2Evict_alone _ _)
      · exact .refl s

theorem l2Fill_alone (line : Nat) (l : L2Line) (s : State) : MemoryAlone s (l2Fill line l s) :=
  (l2Room_alone line s).trans (.l2 _ _)

theorem homeRead_alone (r : HomeReq) (line : Nat) (s : State) : MemoryAlone s (homeRead r line s).1 := by
  have main (u : State) : MemoryAlone u (match Map.find line u.l2 with
      | some l => (u, (⟨poisonSectors l.data l.bad, l.bad, false⟩ : LineView))
      | none =>
        if inHost (256 * line) = true then
          (if r.alloc = true then l2Fill line ⟨0, hostLine u line, 0, 0, u.tick⟩ u else u, ⟨hostLine u line, 0, false⟩)
        else
          let g := granuleRead (if r.counted = true then countAccess r.src r.key (256 * line) u.mem else u.mem) r.key line
          let bad := badOf g.1 line
          let v := { u with mem := g.1 }
          (if r.alloc = true then l2Fill line ⟨r.key, g.2, 0, bad, v.tick⟩ v else v,
            ⟨poisonSectors g.2 bad, bad, false⟩)).1 := by
    cases Map.find line u.l2 with
    | some l => exact .refl u
    | none =>
      by_cases hh : inHost (256 * line) = true
      · simp only [hh, if_true]; split
        · exact l2Fill_alone _ _ _
        · exact .refl u
      · simp only [hh, if_false, Bool.false_eq_true]; split
        · exact MemoryAlone.trans (.mem _ _) (l2Fill_alone _ _ _)
        · exact .mem _ _
  unfold homeRead
  by_cases hg : (inHost (256 * line) && hostGone s) = true
  · simp only [hg, if_true]; exact .refl s
  · simp only [hg, if_false, Bool.false_eq_true]
    cases hf : Map.find line s.l2 with
    | none => simpa only [hf] using main s
    | some l =>
      dsimp only
      by_cases hs : (if inHost (256 * line) = true then decide (l.filled < r.fresh) else l.key != r.key) = true
      · simp only [hs, if_true]
        exact (l2Evict_alone line s).trans (main _)
      · simp only [hs, if_false, Bool.false_eq_true]
        exact main s

theorem homeWrite_alone (r : HomeReq) (line data mask : Nat) (s : State) : MemoryAlone s (homeWrite r line data mask s) := by
  have main (u : State) : MemoryAlone u
      (match Map.find line (if r.alloc = true then (homeRead r line u).1 else u).l2 with
      | some l => { (if r.alloc = true then (homeRead r line u).1 else u) with
          l2 := Map.insert line { l with data := blend l.data data mask, dirty := l.dirty ||| mask, bad := clearSectors l.bad mask }
            (if r.alloc = true then (homeRead r line u).1 else u).l2 }
      | none => { (if r.alloc = true then (homeRead r line u).1 else u) with
          mem := granuleWrite (if r.counted = true then countAccess r.src r.key (256 * line) (if r.alloc = true then (homeRead r line u).1 else u).mem
            else (if r.alloc = true then (homeRead r line u).1 else u).mem) r.key line data mask }) := by
    have k : MemoryAlone u (if r.alloc = true then (homeRead r line u).1 else u) := by
      split
      · exact homeRead_alone _ _ _
      · exact .refl u
    refine k.trans ?_
    generalize (if r.alloc = true then (homeRead r line u).1 else u) = v
    cases Map.find line v.l2 with
    | some l => exact .l2 _ _
    | none => exact .mem _ _
  unfold homeWrite
  by_cases hh : inHost (256 * line) = true
  · simp only [hh, if_true]
    refine MemoryAlone.trans ?_ (hostWriteLine_alone _ _ _ _)
    split
    · exact .l2 _ _
    · exact .refl s
  · simp only [hh, if_false, Bool.false_eq_true]
    cases hf : Map.find line s.l2 with
    | none => exact main s
    | some l =>
      dsimp only
      by_cases hs : (l.key != r.key) = true
      · simp only [hs, if_true]
        exact (l2Evict_alone line s).trans (main _)
      · simp only [hs, if_false, Bool.false_eq_true]
        exact main s

theorem dieWrite_alone (s : State) (a : Nat) (bytes : List Byte) : MemoryAlone s (dieWrite s a bytes) := .of_home rfl

theorem physRead_alone (r : HomeReq) (a n : Nat) (s : State) : MemoryAlone s (physRead r a n s).1 := by
  unfold physRead
  split
  · exact .refl s
  · exact homeRead_alone _ _ _

theorem physWrite_alone (r : HomeReq) (a n value : Nat) (s : State) : MemoryAlone s (physWrite r a n value s) := by
  unfold physWrite
  split
  · exact dieWrite_alone _ _ _
  · exact homeWrite_alone _ _ _ _ _

/-! Translation. -/

theorem tableOr_alone (s : State) (a bits : Nat) : MemoryAlone s (tableOr s a bits) := by
  unfold tableOr
  split
  · exact .refl s
  · dsimp only; split <;> exact .of_home rfl

theorem walk_alone (cl asid : Nat) (priv : Bool) (k : AccKind) (sp : Space) (va : Nat) (s : State) :
    MemoryAlone s (walk cl asid priv k sp va s).1 := by
  unfold walk
  dsimp only
  split
  · exact .refl s
  · split
    · exact .refl s
    · split
      · exact .refl s
      · refine MemoryAlone.trans ?_ (.setCluster _ _ _)
        generalize (0x20 + if k.writes = true then 0x40 else 0) = bits
        split
        · exact .refl s
        · exact tableOr_alone _ _ _

theorem translate_alone (tile asid : Nat) (priv : Bool) (k : AccKind) (sp : Space) (addr : Nat) (s : State) :
    MemoryAlone s (translate tile asid priv k sp addr s).1 := by
  unfold translate
  dsimp only
  split
  · exact .refl s
  · split
    · split
      · exact walk_alone _ _ _ _ _ _ _
      · split
        · exact .refl s
        · exact .setCluster _ _ _
    · exact walk_alone _ _ _ _ _ _ _

/-! The L1. -/

theorem writeBack_alone (tile : Nat) (l : L1Line) (s : State) : MemoryAlone s (writeBack tile l s) := by
  unfold writeBack
  split
  · exact .refl s
  · exact homeWrite_alone _ _ _ _ _

theorem l1Touch_alone (tile : Nat) (l : L1Line) (s : State) : MemoryAlone s (l1Touch tile l s) := .setL1 _ _ _

theorem l1Drop_alone (tile pline : Nat) (s : State) : MemoryAlone s (l1Drop tile pline s) := by
  unfold l1Drop
  split
  · exact (writeBack_alone _ _ _).trans (.setL1 _ _ _)
  · exact .refl s

theorem l1Install_alone (tile : Nat) (l : L1Line) (s : State) : MemoryAlone s (l1Install tile l s) := by
  unfold l1Install
  dsimp only
  split
  · exact (l1Touch_alone _ _ _).trans (l1Drop_alone _ _ _)
  · exact l1Touch_alone _ _ _

theorem l1Fill_alone (tile asid va : Nat) (x : Xlat) (s : State) : MemoryAlone s (l1Fill tile asid va x s).1 := by
  unfold l1Fill
  dsimp only
  split
  · exact l1Install_alone _ _ _
  · refine (l1Drop_alone tile (x.pa / 256) s).trans ?_
    split
    · exact homeRead_alone _ _ _
    · exact (homeRead_alone _ _ _).trans (l1Install_alone _ _ _)

theorem l1Forward_alone (tile pline : Nat) (v : LineView) (s : State) : MemoryAlone s (l1Forward tile pline v s) := .setL1 _ _ _

theorem homeLoad_alone (c : Viewer) (pa key n : Nat) (sh : Bool) (s : State) :
    MemoryAlone s (homeLoad c pa key n sh s).1 := by
  unfold homeLoad
  dsimp only
  refine (homeRead_alone (c.req s key true) (pa / 256) s).trans ?_
  split
  · exact .refl _
  · exact l1Forward_alone _ _ _ _

theorem virtLoad_alone (c : Viewer) (sp : Space) (home : Bool) (addr n : Nat) (s : State) :
    MemoryAlone s (virtLoad c sp home addr n s).1 := by
  unfold virtLoad
  cases l1Hit s c.tile c.asid sp addr with
  | some l =>
    dsimp only
    split
    · exact homeLoad_alone c (l.place addr) l.key n l.sh s
    · exact l1Touch_alone _ _ _
  | none =>
    dsimp only
    have go := translate_alone c.tile c.asid c.priv .load sp addr s
    generalize translate c.tile c.asid c.priv .load sp addr s = t at go
    obtain ⟨u, x⟩ := t
    cases x with
    | error f => exact go
    | ok x =>
      refine go.trans ?_
      dsimp only
      split
      · exact physRead_alone _ _ _ _
      · split
        · exact homeLoad_alone c x.pa x.key n (leafSH x.leaf) u
        · exact l1Fill_alone _ _ _ _ _

theorem wcWrite_alone (e : WcEntry) (s : State) : MemoryAlone s (wcWrite e s) := homeWrite_alone _ _ _ _ _

theorem wcDrainOldest_alone (tile : Nat) (s : State) : MemoryAlone s (wcDrainOldest tile s) := by
  unfold wcDrainOldest
  dsimp only
  split
  · exact (MemoryAlone.setTile _ _ _ rfl).trans (wcWrite_alone _ _)
  · exact .refl s

theorem wcDrainStrand_alone (tile strand : Nat) (s : State) : MemoryAlone s (wcDrainStrand tile strand s) := by
  unfold wcDrainStrand
  exact (MemoryAlone.setTile _ _ _ rfl).trans (MemoryAlone.foldl _ (fun s e => wcWrite_alone e s) _ _)

theorem wcDrainLine_alone (c : Viewer) (line : Nat) (s : State) : MemoryAlone s (wcDrainLine c line s) := by
  unfold wcDrainLine
  exact (MemoryAlone.setTile _ _ _ rfl).trans (MemoryAlone.foldl _ (fun s e => wcWrite_alone e s) _ _)

theorem wcStore_alone (c : Viewer) (x : Xlat) (va n value : Nat) (s : State) : MemoryAlone s (wcStore c x va n value s) := by
  unfold wcStore
  dsimp only
  split
  · exact .setTile _ _ _ rfl
  · refine (wcDrainLine_alone c (x.pa / 256) s).trans (MemoryAlone.trans ?_ (.setTile _ _ _ rfl))
    split
    · exact wcDrainOldest_alone _ _
    · exact .refl _

theorem l1Update_alone (tile pline data mask : Nat) (s : State) : MemoryAlone s (l1Update tile pline data mask s) := by
  unfold l1Update
  split
  · exact .setL1 _ _ _
  · exact .refl s

theorem homeStore_alone (c : Viewer) (pa key n value : Nat) (s : State) : MemoryAlone s (homeStore c pa key n value s) := by
  unfold homeStore
  exact (homeWrite_alone _ _ _ _ _).trans (l1Update_alone _ _ _ _ _)

theorem l1Put_alone (tile va n value : Nat) (l : L1Line) (s : State) : MemoryAlone s (l1Put tile va n value l s) :=
  l1Touch_alone _ _ _

theorem virtStore_alone (c : Viewer) (sp : Space) (home : Bool) (addr n value : Nat) (s : State) :
    MemoryAlone s (virtStore c sp home addr n value s).1 := by
  unfold virtStore
  cases l1WriteHit s c.tile c.asid sp addr with
  | some l =>
    dsimp only
    split
    · exact homeStore_alone _ _ _ _ _ _
    · exact l1Put_alone _ _ _ _ _ _
  | none =>
    dsimp only
    have go := translate_alone c.tile c.asid c.priv .store sp addr s
    generalize translate c.tile c.asid c.priv .store sp addr s = t at go
    obtain ⟨u, x⟩ := t
    cases x with
    | error f => exact go
    | ok x =>
      refine go.trans ?_
      dsimp only
      split
      · exact dieWrite_alone _ _ _
      · split
        · split
          · exact (wcDrainLine_alone _ _ _).trans (physWrite_alone _ _ _ _ _)
          · exact wcStore_alone _ _ _ _ _ _
        · split
          · exact physWrite_alone _ _ _ _ _
          · split
            · exact homeStore_alone _ _ _ _ _ _
            · split
              · exact dropHostWrite_alone _
              · exact (l1Fill_alone _ _ _ _ _).trans (l1Put_alone _ _ _ _ _ _)

/-! Publishes and refreshes. -/

theorem l1Publish_alone (tile : Nat) (s : State) : MemoryAlone s (l1Publish tile s) := by
  unfold l1Publish
  exact (MemoryAlone.foldl _ (fun s l => writeBack_alone tile l s) _ _).trans (.setL1 _ _ _)

theorem l1Refresh_alone (tile : Nat) (s : State) : MemoryAlone s (l1Refresh tile s) := by
  unfold l1Refresh
  exact (MemoryAlone.setL1 _ _ _).trans
    (MemoryAlone.foldl _ (fun s l => (homeRead_alone _ _ _).trans (.setL1 _ _ _)) _ _)

theorem publish_alone (tile strand : Nat) (sc : Scope) (s : State) : MemoryAlone s (publish tile strand sc s) := by
  unfold publish
  split
  · exact .refl s
  · dsimp only; split
    · exact (l1Publish_alone _ _).trans (wcDrainStrand_alone _ _ _)
    · exact l1Publish_alone _ _

theorem refresh_alone (tile : Nat) (sc : Scope) (s : State) : MemoryAlone s (refresh tile sc s) := by
  unfold refresh
  split
  · exact .refl s
  · dsimp only; split
    · exact (MemoryAlone.setTile _ _ _ rfl).trans (l1Refresh_alone _ _)
    · exact l1Refresh_alone _ _

end Sys2Proof.Machine
end

