-- ==== Sys2Proof/Laws/Canonical.lean ====
section
/-! SUPPORT. Every operation on the memories of the machine keeps them in their canonical form, and reset has it. -/

namespace Sys2Proof.Machine

/-! Main memory. -/

theorem wf_dramStore (m : MainMem) (key g data bad : Nat) (h : m.dram.wf = true) :
    (dramStore m key g data bad).dram.wf = true := by
  unfold dramStore
  dsimp only
  exact Memory.wf_writeBytes _ _ _ h

theorem wf_cacheEvict (m : MainMem) (g : Nat) (h : m.dram.wf = true) : (cacheEvict m g).dram.wf = true := by
  unfold cacheEvict
  split
  · dsimp only; split
    · exact wf_dramStore _ _ _ _ _ h
    · exact h
  · exact h

theorem wf_granuleRead (m : MainMem) (key g : Nat) (h : m.dram.wf = true) : (granuleRead m key g).1.dram.wf = true := by
  unfold granuleRead
  split
  · split
    · exact h
    · exact wf_cacheEvict _ _ h
  · exact h

theorem wf_cacheRoom (m : MainMem) (g : Nat) (h : m.dram.wf = true) : (cacheRoom m g).dram.wf = true := by
  unfold cacheRoom
  split
  · exact h
  · dsimp only; split
    · exact h
    · split
      · exact wf_cacheEvict _ _ h
      · exact h

theorem wf_granuleWrite (m : MainMem) (key g data mask : Nat) (h : m.dram.wf = true) :
    (granuleWrite m key g data mask).dram.wf = true := wf_cacheRoom _ g (wf_granuleRead m key g h)

theorem wf_streamGranule (key g data : Nat) (m : MainMem) (h : m.dram.wf = true) : (streamGranule key g data m).dram.wf = true :=
  wf_dramStore _ _ _ _ _ h

theorem wf_zeroGranules (key : Nat) : ∀ (n g : Nat) (m : MainMem), m.dram.wf = true → (zeroGranules key g n m).dram.wf = true
  | 0, _, _, h => h
  | n + 1, g, _, h => wf_zeroGranules key n (g + 1) _ (wf_streamGranule _ _ _ _ h)

theorem wf_migNotice (m : MainMem) (src : SrcClass) (key q : Nat) (h : m.dram.wf = true) : (migNotice m src key q).dram.wf = true := by
  unfold migNotice
  dsimp only
  exact wf_granuleWrite m 0 _ _ _ h

theorem wf_countAccess (src : SrcClass) (key a : Nat) (m : MainMem) (h : m.dram.wf = true) :
    (countAccess src key a m).dram.wf = true := by
  unfold countAccess
  split
  · dsimp only
    split
    · exact h
    · split
      · split
        · exact h
        · exact wf_migNotice m src key (a / 65536) h
      · exact h
  · exact h

/-! The machine. -/

theorem memoriesOk_reset : memoriesOk State.reset := ⟨rfl, rfl, rfl⟩

theorem memoriesOk_mem {s : State} (h : memoriesOk s) {m : MainMem} (hm : m.dram.wf = true) : memoriesOk { s with mem := m } :=
  ⟨hm, h.2.1, h.2.2⟩

theorem memoriesOk_hostWriteLine {s : State} (line data mask : Nat) (h : memoriesOk s) : memoriesOk (hostWriteLine s line data mask) := by
  unfold hostWriteLine
  split
  · exact h
  · refine ⟨h.1, ?_, h.2.2⟩
    dsimp only
    have := h.2.1
    generalize s.hostMem = m at this
    generalize upTo 256 = l
    induction l generalizing m with
    | nil => exact this
    | cons i l ih =>
      rw [List.foldl_cons]
      apply ih
      split
      · exact Memory.wf_write _ _ _ this
      · exact this

theorem memoriesOk_l2Evict {s : State} (line : Nat) (h : memoriesOk s) : memoriesOk (l2Evict line s) := by
  unfold l2Evict
  split
  · dsimp only; split
    · exact h
    · exact memoriesOk_mem h (wf_granuleWrite _ _ _ _ _ h.1)
  · exact h

theorem memoriesOk_l2Fill {s : State} (line : Nat) (l : L2Line) (h : memoriesOk s) : memoriesOk (l2Fill line l s) := by
  suffices k : memoriesOk (l2Room line s) from k
  unfold l2Room
  split
  · exact h
  · dsimp only; split
    · exact h
    · split
      · exact memoriesOk_l2Evict _ (memoriesOk_mem h h.1)
      · exact h

theorem memoriesOk_homeRead {s : State} (r : HomeReq) (line : Nat) (h : memoriesOk s) : memoriesOk (homeRead r line s).1 := by
  have main (u : State) (h : memoriesOk u) : memoriesOk (match Map.find line u.l2 with
      | some l => (u, (⟨poisonSectors l.data l.bad, l.bad, false⟩ : LineView))
      | none =>
        if inHost (256 * line) = true then
          (if r.alloc = true then l2Fill line ⟨0, hostLine u line, 0, 0, u.tick⟩ u else u, ⟨hostLine u line, 0, false⟩)
        else
          let g := granuleRead (if r.counted = true then countAccess r.src r.key (256 * line) u.mem else u.mem) r.key line
          let bad := badOf g.1 line
          let v := { u with mem := g.1 }
          (if r.alloc = true then l2Fill line ⟨r.key, g.2, 0, bad, v.tick⟩ v else v,
            ⟨poisonSectors g.2 bad, bad, false⟩)).1 := by
    cases Map.find line u.l2 with
    | some l => exact h
    | none =>
      by_cases hh : inHost (256 * line) = true
      · simp only [hh, if_true]; split
        · exact memoriesOk_l2Fill _ _ h
        · exact h
      · simp only [hh, if_false, Bool.false_eq_true]
        have hg : (granuleRead (if r.counted = true then countAccess r.src r.key (256 * line) u.mem else u.mem) r.key line).1.dram.wf = true := by
          apply wf_granuleRead; split
          · exact wf_countAccess _ _ _ _ h.1
          · exact h.1
        split
        · exact memoriesOk_l2Fill _ _ (memoriesOk_mem h hg)
        · exact memoriesOk_mem h hg
  unfold homeRead
  by_cases hg : (inHost (256 * line) && hostGone s) = true
  · simp only [hg, if_true]; exact h
  · simp only [hg, if_false, Bool.false_eq_true]
    cases hf : Map.find line s.l2 with
    | none => simpa only [hf] using main s h
    | some l =>
      dsimp only
      by_cases hs : (if inHost (256 * line) = true then decide (l.filled < r.fresh) else l.key != r.key) = true
      · simp only [hs, if_true]; exact main _ (memoriesOk_l2Evict _ h)
      · simp only [hs, if_false, Bool.false_eq_true]; exact main s h

theorem memoriesOk_homeWrite {s : State} (r : HomeReq) (line data mask : Nat) (h : memoriesOk s) :
    memoriesOk (homeWrite r line data mask s) := by
  have main (u : State) (h : memoriesOk u) : memoriesOk
      (match Map.find line (if r.alloc = true then (homeRead r line u).1 else u).l2 with
      | some l => { (if r.alloc = true then (homeRead r line u).1 else u) with
          l2 := Map.insert line { l with data := blend l.data data mask, dirty := l.dirty ||| mask, bad := clearSectors l.bad mask }
            (if r.alloc = true then (homeRead r line u).1 else u).l2 }
      | none => { (if r.alloc = true then (homeRead r line u).1 else u) with
          mem := granuleWrite (if r.counted = true then countAccess r.src r.key (256 * line) (if r.alloc = true then (homeRead r line u).1 else u).mem
            else (if r.alloc = true then (homeRead r line u).1 else u).mem) r.key line data mask }) := by
    have k : memoriesOk (if r.alloc = true then (homeRead r line u).1 else u) := by
      split
      · exact memoriesOk_homeRead _ _ h
      · exact h
    generalize (if r.alloc = true then (homeRead r line u).1 else u) = v at k
    cases Map.find line v.l2 with
    | some l => exact k
    | none =>
      refine memoriesOk_mem k (wf_granuleWrite _ _ _ _ _ ?_)
      split
      · exact wf_countAccess _ _ _ _ k.1
      · exact k.1
  unfold homeWrite
  by_cases hh : inHost (256 * line) = true
  · simp only [hh, if_true]
    apply memoriesOk_hostWriteLine
    split <;> exact h
  · simp only [hh, if_false, Bool.false_eq_true]
    cases hf : Map.find line s.l2 with
    | none => exact main s h
    | some l =>
      dsimp only
      by_cases hs : (l.key != r.key) = true
      · simp only [hs, if_true]; exact main _ (memoriesOk_l2Evict _ h)
      · simp only [hs, if_false, Bool.false_eq_true]; exact main s h

theorem memoriesOk_dieWrite {s : State} (a : Nat) (bytes : List Byte) (h : memoriesOk s) : memoriesOk (dieWrite s a bytes) :=
  ⟨h.1, h.2.1, Memory.wf_writeBytes _ _ _ h.2.2⟩

theorem memoriesOk_physRead {s : State} (r : HomeReq) (a n : Nat) (h : memoriesOk s) : memoriesOk (physRead r a n s).1 := by
  unfold physRead
  split
  · exact h
  · exact memoriesOk_homeRead _ _ h

theorem memoriesOk_physWrite {s : State} (r : HomeReq) (a n value : Nat) (h : memoriesOk s) : memoriesOk (physWrite r a n value s) := by
  unfold physWrite
  split
  · exact memoriesOk_dieWrite _ _ h
  · exact memoriesOk_homeWrite _ _ _ _ h

theorem memoriesOk_tableOr {s : State} (a bits : Nat) (h : memoriesOk s) : memoriesOk (tableOr s a bits) := by
  unfold tableOr
  split
  · exact h
  · dsimp only; split
    · exact h
    · exact memoriesOk_mem h (wf_granuleWrite _ _ _ _ _ h.1)

end Sys2Proof.Machine
end

