-- ==== Sys2Proof/Laws/Strand.lean ====
section
/-! SUPPORT. Lanes and their masks, and what a change made in some lanes of a strand leaves of the others. -/

namespace Sys2Proof.Machine

/-! Quads. -/

theorem Quad.get_set {α : Type} (q : Quad α) (x : α) {i j : Nat} (hi : i < 4) (hj : j < 4) :
    (q.set i x).get j = if j = i then x else q.get j := by
  interval_cases i <;> interval_cases j <;> rfl

theorem Quad.get_map {α β : Type} (f : α → β) (q : Quad α) (j : Nat) : (q.map f).get j = f (q.get j) := by
  match j with
  | 0 | 1 | 2 | _ + 3 => rfl

theorem Quad.ext_get {α : Type} {p q : Quad α} (h : ∀ j < 4, p.get j = q.get j) : p = q := by
  have h0 := h 0 (by decide); have h1 := h 1 (by decide); have h2 := h 2 (by decide); have h3 := h 3 (by decide)
  cases p; cases q; simp_all [Quad.get]

/-! Masks. -/

theorem getLsbD_maskOf (f : Nat → Bool) {i : Nat} (h : i < 4) : (maskOf f).getLsbD i = f i := by
  unfold maskOf
  generalize h0 : f 0 = a; generalize h1 : f 1 = b; generalize h2 : f 2 = c; generalize h3 : f 3 = d
  interval_cases i <;> simp only [h0, h1, h2, h3] <;> clear h0 h1 h2 h3 <;> revert a b c d <;> decide

theorem mem_lanesIn (m : BitVec 4) (i : Nat) : i ∈ lanesIn m ↔ i < 4 ∧ m.getLsbD i = true := by
  simp [lanesIn, upTo, List.mem_filter]

theorem mem_lanesIn_lt {m : BitVec 4} {i : Nat} (h : i ∈ lanesIn m) : i < 4 := ((mem_lanesIn m i).1 h).1

theorem lanesIn_nodup (m : BitVec 4) : (lanesIn m).Nodup := List.Nodup.filter _ List.nodup_range

/-! Lanes changed one after another. -/

theorem Strand.adjLane_get (st : Strand) (g : Lane → Lane) {i j : Nat} (hi : i < 4) (hj : j < 4) :
    (st.adjLane i g).lanes.get j = if j = i then g (st.lanes.get j) else st.lanes.get j := by
  rw [Strand.adjLane_lanes, Quad.get_set _ _ hi hj]
  split
  · next h => rw [h]
  · rfl

/-- A fold of changes, one per lane of a list without repeats. -/
theorem foldl_adjLane_get (g : Nat → Lane → Lane) (ls : List Nat) : ∀ (st : Strand), (∀ i ∈ ls, i < 4) → ls.Nodup →
    ∀ j < 4, (ls.foldl (fun st l => st.adjLane l (g l)) st).lanes.get j
      = if j ∈ ls then g j (st.lanes.get j) else st.lanes.get j := by
  induction ls with
  | nil => intro st _ _ j _; simp
  | cons l ls ih =>
    intro st hl hn j hj
    rw [List.nodup_cons] at hn
    have hl' : l < 4 := hl l (by simp)
    rw [List.foldl_cons, ih _ (fun i hi => hl i (by simp [hi])) hn.2 j hj, Strand.adjLane_get _ _ hl' hj]
    by_cases hjl : j = l
    · subst hjl; simp [hn.1]
    · simp [hjl]

/-- Such a fold touches the lanes alone. -/
theorem foldl_adjLane_rest (g : Nat → Lane → Lane) (ls : List Nat) : ∀ (st : Strand),
    ls.foldl (fun st l => st.adjLane l (g l)) st
      = { st with lanes := (ls.foldl (fun st l => st.adjLane l (g l)) st).lanes } := by
  induction ls with
  | nil => intro st; rfl
  | cons l ls ih => intro st; rw [List.foldl_cons, ih]; rfl

theorem lanesIn_foldl_get (f : Lane → Lane) (ls : List Nat) : ∀ (q : Quad Lane), (∀ i ∈ ls, i < 4) → ls.Nodup →
    ∀ j < 4, (ls.foldl (fun q i => q.set i (f (q.get i))) q).get j = if j ∈ ls then f (q.get j) else q.get j := by
  induction ls with
  | nil => intro q _ _ j _; simp
  | cons l ls ih =>
    intro q hl hn j hj
    rw [List.nodup_cons] at hn
    have hl' : l < 4 := hl l (by simp)
    rw [List.foldl_cons, ih _ (fun i hi => hl i (by simp [hi])) hn.2 j hj, Quad.get_set _ _ hl' hj]
    by_cases hjl : j = l
    · subst hjl; simp [hn.1]
    · simp [hjl]

theorem Strand.mapLanes_get (m : BitVec 4) (f : Lane → Lane) (st : Strand) {j : Nat} (hj : j < 4) :
    (st.mapLanes m f).lanes.get j = if m.getLsbD j then f (st.lanes.get j) else st.lanes.get j := by
  rw [Strand.mapLanes_lanes, lanesIn_foldl_get f _ _ (fun _ h => mem_lanesIn_lt h) (lanesIn_nodup m) j hj]
  simp only [mem_lanesIn, hj, true_and]

theorem Strand.mapFlows_get (m : BitVec 4) (f : Flow → Flow) (st : Strand) {j : Nat} (hj : j < 4) :
    (st.mapFlows m f).lanes.get j
      = if m.getLsbD j then { st.lanes.get j with flow := f (st.lanes.get j).flow } else st.lanes.get j :=
  Strand.mapLanes_get m _ st hj

end Sys2Proof.Machine
end

