-- ==== Sys2Proof/Laws/Issue.lean ====
section
/-! SUPPORT. What an instruction with nothing in its way does: `issue` runs its body, `finish` counts it and moves its
lanes on, and each way of writing a result changes what it names and nothing else. -/

namespace Sys2Proof.Machine

/-! `clear`. -/

theorem clear_ready {i : Instr} {s : State} {c : Issue} (h : clear i s = some c) : ready i s = some c := by
  unfold clear at h
  split at h
  · cases h
  · split at h
    · cases h; assumption
    · cases h

theorem clear_upsets {i : Instr} {s : State} {c : Issue} (h : clear i s = some c) :
    (s.upsets.any fun u => u.strand == s.cur) = false := by
  unfold clear at h
  split at h
  · cases h
  · split at h
    · simp_all
    · cases h

theorem clear_answers {i : Instr} {s : State} {c : Issue} (h : clear i s = some c) : c.st.pend.any (·.ready) = false := by
  unfold clear at h
  split at h
  · cases h
  · split at h
    · cases h; simp_all
    · cases h

theorem clear_step {i : Instr} {s : State} {c : Issue} (h : clear i s = some c) : c.st.stepArm = false := by
  unfold clear at h
  split at h
  · cases h
  · split at h
    · cases h; simp_all
    · cases h

theorem ready_issueOf {i : Instr} {s : State} {c : Issue} (h : ready i s = some c) :
    issueOf i s = some c ∧ c.blocked = false ∧ c.passed s = false ∧ c.check = none ∧ c.struck = [] := by
  unfold ready at h
  split at h
  · cases h
  · split at h
    · cases h
    · cases h; simp_all

theorem issueOf_strand {i : Instr} {s : State} {c : Issue} (h : issueOf i s = some c) :
    c.key = s.cur ∧ c.i = i ∧ s.strand s.cur = some c.st ∧ Map.find c.st.item s.items = some c.it
      ∧ Map.find c.it.launch s.launches = some c.la ∧ c.set = c.st.set ∧ c.lead = (lowest c.st.live).getD 0
      ∧ c.crew = c.st.seat ∧ c.w1 = (encode i).getD 0 0 ∧ c.w2 = (encode i).getD 1 0
      ∧ c.major = (majorOf ((encode i).getD 0 0)).toNat := by
  unfold issueOf at h
  split at h
  · cases h
  · split at h
    · cases h
    · split at h
      · cases h
      · cases h; simp_all

theorem clear_strand {i : Instr} {s : State} {c : Issue} (h : clear i s = some c) : s.strand c.key = some c.st := by
  have := issueOf_strand (ready_issueOf (clear_ready h)).1
  rw [this.1]; exact this.2.2.1

theorem upset_clear {i : Instr} {s : State} {c : Issue} (h : clear i s = some c) : c.upset s = none := by
  have hn : s.upsets.find? (fun u => u.strand == c.key) = none := by
    rw [(issueOf_strand (ready_issueOf (clear_ready h)).1).1, List.find?_eq_none]
    intro x hx hc
    exact List.any_eq_false.mp (clear_upsets h) x hx hc
  unfold Issue.upset
  split
  · exact hn
  · rfl

/-- An instruction with nothing in its way does what its body says. -/
theorem issue_clear {i : Instr} {s : State} {c : Issue} (h : clear i s = some c) (body : Issue → State → Act) :
    issue i s body = .next (c.finish (body c s)) := by
  obtain ⟨h1, h2, h3, h4, h5⟩ := ready_issueOf (clear_ready h)
  unfold issue
  simp only [h1, h2, h3, h4, h5, upset_clear h]
  simp

/-! What follows it. -/

theorem due_none (st : Strand) (h : st.pend.any (·.ready) = false) : st.due false = [] := by
  have key : ∀ (l : List Pending) (acc : List (Nat × Nat)), l.any (·.ready) = false →
      (l.foldl (fun (acc : List Pending × List (Nat × Nat)) p =>
        if p.ready && !p.logged && (false || p.left == 0) && !p.locks.any acc.2.contains then (acc.1 ++ [p], acc.2)
        else (acc.1, acc.2 ++ p.locks)) ([], acc)).1 = [] := by
    intro l
    induction l with
    | nil => intro acc _; rfl
    | cons p l ih =>
      intro acc hl
      simp only [List.any_cons, Bool.or_eq_false_iff] at hl
      rw [List.foldl_cons]
      simp only [hl.1, Bool.false_and]
      exact ih _ hl.2
  exact key st.pend [] h

theorem strand_adjStrand_self {k : Nat} {s : State} {st : Strand} (h : s.strand k = some st) (f : Strand → Strand) :
    (s.adjStrand k f).strand k = some (f st) := by
  unfold State.strand at *
  rw [State.adjStrand_strands, Map.find_adjust]
  simp [h]

theorem strand_adjStrand_ne {k j : Nat} (s : State) (f : Strand → Strand) (h : j ≠ k) :
    (s.adjStrand k f).strand j = s.strand j := by
  unfold State.strand
  rw [State.adjStrand_strands, Map.find_adjust_ne _ _ h]

theorem Map.insert_insert {α : Type} (k : Nat) (v w : α) (m : Map α) :
    Map.insert k w (Map.insert k v m) = Map.insert k w m := by
  induction m with
  | nil => simp [Map.insert]
  | cons x m ih =>
    obtain ⟨j, y⟩ := x
    unfold Map.insert
    by_cases h1 : k < j
    · simp [h1, Map.insert]
    · by_cases h2 : j = k
      · simp [h2, Map.insert]
      · simp [h1, h2, Map.insert, ih]

theorem adjStrand_adjStrand {k : Nat} {s : State} {st : Strand} (h : s.strand k = some st) (f g : Strand → Strand) :
    (s.adjStrand k f).adjStrand k g = s.setStrand k (g (f st)) := by
  have hf : Map.find k (Map.insert k (f st) s.strands) = some (f st) := by rw [Map.find_insert]; simp
  unfold State.strand at h
  simp only [State.adjStrand, State.setStrand, Map.adjust, h, hf, Map.insert_insert]

theorem strand_setStrand (k : Nat) (x : Strand) (s : State) : (s.setStrand k x).strand k = some x := by
  unfold State.strand; rw [State.setStrand_strands, Map.find_insert]; simp

theorem strand_setStrand_ne {k j : Nat} (x : Strand) (s : State) (h : j ≠ k) :
    (s.setStrand k x).strand j = s.strand j := by
  unfold State.strand; rw [State.setStrand_strands, Map.find_insert_ne _ _ h]

theorem settle_none {s : State} {k : Nat} {st : Strand} (h : s.strand k = some st) (hp : st.pend.any (·.ready) = false) :
    settle false k s = s := by
  unfold settle
  rw [h]
  simp only [due_none st hp, List.foldl_nil]

theorem afterwards_none {c : Issue} {s : State} {st : Strand} (h : s.strand c.key = some st)
    (hp : st.pend.any (·.ready) = false) (hs : c.st.stepArm = false) : c.afterwards s = s := by
  unfold Issue.afterwards
  simp only [settle_none h hp, h, hs, Bool.and_false, Bool.false_and, Bool.false_eq_true, if_false]

theorem advance_pend (c : Issue) (st : Strand) : (c.advance st).pend = st.pend := rfl

theorem count_pend (c : Issue) (st : Strand) : (c.count st).pend = (st.countWindow c.st.pend).pend := by
  unfold Issue.count Strand.countRetired
  split <;> rfl

theorem countWindow_ready (st : Strand) (l : List Pending) (h : st.pend.any (·.ready) = false) :
    (st.countWindow l).pend.any (·.ready) = false := by
  unfold Strand.countWindow
  rw [List.any_eq_false] at *
  intro p hp
  simp only [List.mem_map] at hp
  obtain ⟨q, hq, rfl⟩ := hp
  split
  · exact h q hq
  · exact h q hq

/-- An instruction that changes its own strand and goes on: the strand is changed, moved and counted, and nothing else
happens. -/
theorem finish_done {i : Instr} {s : State} {c : Issue} (h : clear i s = some c) (f : Strand → Strand)
    (hf : (f c.st).pend = c.st.pend) :
    c.finish (.done (s.adjStrand c.key f)) = s.setStrand c.key (c.count (c.advance (f c.st))) := by
  unfold Issue.finish
  simp only [adjStrand_adjStrand (clear_strand h) f]
  refine afterwards_none (strand_setStrand _ _ _) ?_ (clear_step h)
  rw [count_pend]
  apply countWindow_ready
  rw [advance_pend, hf]
  exact clear_answers h

/-- The same for an instruction that places its lanes itself. -/
theorem finish_moved {i : Instr} {s : State} {c : Issue} (h : clear i s = some c) (f : Strand → Strand)
    (hf : (f c.st).pend = c.st.pend) :
    c.finish (.moved (s.adjStrand c.key f)) = s.setStrand c.key (c.count (f c.st)) := by
  unfold Issue.finish
  simp only [adjStrand_adjStrand (clear_strand h) f]
  refine afterwards_none (strand_setStrand _ _ _) ?_ (clear_step h)
  rw [count_pend]
  apply countWindow_ready
  rw [hf]
  exact clear_answers h

/-- A strand whose change is what `ch` says gives a machine that is `Retired`. -/
theorem retired_of {c : Issue} {ch : Change} {s : State} {b : Strand} (h : Moved c ch c.st b) :
    Retired c ch s (s.setStrand c.key b) :=
  ⟨⟨b, strand_setStrand _ _ _, h⟩, fun _ hk => strand_setStrand_ne _ _ hk, rfl⟩

end Sys2Proof.Machine
end

