-- ==== Sys2Proof/Laws/PerInstr.lean ====
section
/-! SUPPORT. The family `Words`, made per instruction: an instruction has no words or one or two, and where it has words the
first word's major says how many and is not reserved. -/

namespace Sys2Proof.Laws.Words

set_option Elab.async false

/-- What the words of an instruction look like: none for an event; else a major that is not reserved (R133) and that says
whether a second word follows (R115). -/
def Statement (i : Instr) : Prop :=
  match encode i with
  | [] => True
  | [w] => reservedMajor (majorOf w).toNat = false ∧ longMajor (majorOf w).toNat = false
  | [w, _] => reservedMajor (majorOf w).toNat = false ∧ longMajor (majorOf w).toNat = true
  | _ => False

theorem majorOf_word1 (m : BitVec 7) (g : Guard) (d a b : BitVec 7) : majorOf (word1 m g d a b) = m := by
  unfold majorOf word1
  generalize g.code = c
  ext i hi
  simp only [BitVec.getElem_extractLsb', BitVec.getLsbD_append]
  simp only [show ¬ 25 + i < 7 by omega, show ¬ 25 + i - 7 < 7 by omega, show ¬ 25 + i - 7 - 7 < 7 by omega,
    show ¬ 25 + i - 7 - 7 - 7 < 4 by omega, show 25 + i - 7 - 7 - 7 - 4 = i by omega, if_false]
  exact BitVec.getLsbD_eq_getElem hi

theorem nop (g : Guard) : Statement (.nop g) := by
  simp [Statement, encode, majorOf_word1, reservedMajor, longMajor]
theorem mov (g : Guard) (d a : Opnd) : Statement (.mov g d a) := by
  simp [Statement, encode, majorOf_word1, reservedMajor, longMajor]
theorem movi (g : Guard) (d : Opnd) (imm : BitVec 7) : Statement (.movi g d imm) := by
  simp [Statement, encode, majorOf_word1, reservedMajor, longMajor]
theorem add (g : Guard) (d a b : Opnd) : Statement (.add g d a b) := by
  simp [Statement, encode, majorOf_word1, reservedMajor, longMajor]
theorem addi (g : Guard) (d a : Opnd) (imm : BitVec 7) : Statement (.addi g d a imm) := by
  simp [Statement, encode, majorOf_word1, reservedMajor, longMajor]
theorem sub (g : Guard) (d a b : Opnd) : Statement (.sub g d a b) := by
  simp [Statement, encode, majorOf_word1, reservedMajor, longMajor]
theorem mul (g : Guard) (d a b : Opnd) : Statement (.mul g d a b) := by
  simp [Statement, encode, majorOf_word1, reservedMajor, longMajor]
theorem mulhiS (g : Guard) (d a b : Opnd) : Statement (.mulhiS g d a b) := by
  simp [Statement, encode, majorOf_word1, reservedMajor, longMajor]
theorem mulhiN (g : Guard) (d a b : Opnd) : Statement (.mulhiN g d a b) := by
  simp [Statement, encode, majorOf_word1, reservedMajor, longMajor]
theorem mad (g : Guard) (d a b : Opnd) : Statement (.mad g d a b) := by
  simp [Statement, encode, majorOf_word1, reservedMajor, longMajor]
theorem minS (g : Guard) (d a b : Opnd) : Statement (.minS g d a b) := by
  simp [Statement, encode, majorOf_word1, reservedMajor, longMajor]
theorem minN (g : Guard) (d a b : Opnd) : Statement (.minN g d a b) := by
  simp [Statement, encode, majorOf_word1, reservedMajor, longMajor]
theorem maxS (g : Guard) (d a b : Opnd) : Statement (.maxS g d a b) := by
  simp [Statement, encode, majorOf_word1, reservedMajor, longMajor]
theorem maxN (g : Guard) (d a b : Opnd) : Statement (.maxN g d a b) := by
  simp [Statement, encode, majorOf_word1, reservedMajor, longMajor]
theorem abs (g : Guard) (d a : Opnd) : Statement (.abs g d a) := by
  simp [Statement, encode, majorOf_word1, reservedMajor, longMajor]
theorem and (g : Guard) (d a b : Opnd) : Statement (.and g d a b) := by
  simp [Statement, encode, majorOf_word1, reservedMajor, longMajor]
theorem or (g : Guard) (d a b : Opnd) : Statement (.or g d a b) := by
  simp [Statement, encode, majorOf_word1, reservedMajor, longMajor]
theorem xor (g : Guard) (d a b : Opnd) : Statement (.xor g d a b) := by
  simp [Statement, encode, majorOf_word1, reservedMajor, longMajor]
theorem andn (g : Guard) (d a b : Opnd) : Statement (.andn g d a b) := by
  simp [Statement, encode, majorOf_word1, reservedMajor, longMajor]
theorem shl (g : Guard) (d a b : Opnd) : Statement (.shl g d a b) := by
  simp [Statement, encode, majorOf_word1, reservedMajor, longMajor]
theorem shr (g : Guard) (d a b : Opnd) : Statement (.shr g d a b) := by
  simp [Statement, encode, majorOf_word1, reservedMajor, longMajor]
theorem sar (g : Guard) (d a b : Opnd) : Statement (.sar g d a b) := by
  simp [Statement, encode, majorOf_word1, reservedMajor, longMajor]
theorem shli (g : Guard) (d a : Opnd) (n : BitVec 5) : Statement (.shli g d a n) := by
  simp [Statement, encode, majorOf_word1, reservedMajor, longMajor]
theorem shri (g : Guard) (d a : Opnd) (n : BitVec 5) : Statement (.shri g d a n) := by
  simp [Statement, encode, majorOf_word1, reservedMajor, longMajor]
theorem sari (g : Guard) (d a : Opnd) (n : BitVec 5) : Statement (.sari g d a n) := by
  simp [Statement, encode, majorOf_word1, reservedMajor, longMajor]
theorem roli (g : Guard) (d a : Opnd) (n : BitVec 5) : Statement (.roli g d a n) := by
  simp [Statement, encode, majorOf_word1, reservedMajor, longMajor]
theorem rol (g : Guard) (d a b : Opnd) : Statement (.rol g d a b) := by
  simp [Statement, encode, majorOf_word1, reservedMajor, longMajor]
theorem clz (g : Guard) (d a : Opnd) : Statement (.clz g d a) := by
  simp [Statement, encode, majorOf_word1, reservedMajor, longMajor]
theorem popc (g : Guard) (d a : Opnd) : Statement (.popc g d a) := by
  simp [Statement, encode, majorOf_word1, reservedMajor, longMajor]
theorem brev (g : Guard) (d a : Opnd) : Statement (.brev g d a) := by
  simp [Statement, encode, majorOf_word1, reservedMajor, longMajor]
theorem bfe (g : Guard) (d a b : Opnd) : Statement (.bfe g d a b) := by
  simp [Statement, encode, majorOf_word1, reservedMajor, longMajor]
theorem bfi (g : Guard) (d a b : Opnd) : Statement (.bfi g d a b) := by
  simp [Statement, encode, majorOf_word1, reservedMajor, longMajor]
theorem sel (g : Guard) (d a b : Opnd) : Statement (.sel g d a b) := by
  simp [Statement, encode, majorOf_word1, reservedMajor, longMajor]
theorem isetp (g : Guard) (c : ICmp) (pd : BitVec 3) (a b : Opnd) : Statement (.isetp g c pd a b) := by
  simp [Statement, encode, majorOf_word1, reservedMajor, longMajor]
theorem add64 (g : Guard) (d a b : Opnd) : Statement (.add64 g d a b) := by
  simp [Statement, encode, majorOf_word1, reservedMajor, longMajor]
theorem fadd (g : Guard) (d a b : Opnd) : Statement (.fadd g d a b) := by
  simp [Statement, encode, majorOf_word1, reservedMajor, longMajor]
theorem fsub (g : Guard) (d a b : Opnd) : Statement (.fsub g d a b) := by
  simp [Statement, encode, majorOf_word1, reservedMajor, longMajor]
theorem fmul (g : Guard) (d a b : Opnd) : Statement (.fmul g d a b) := by
  simp [Statement, encode, majorOf_word1, reservedMajor, longMajor]
theorem ffma (g : Guard) (d a b : Opnd) : Statement (.ffma g d a b) := by
  simp [Statement, encode, majorOf_word1, reservedMajor, longMajor]
theorem fmin (g : Guard) (d a b : Opnd) : Statement (.fmin g d a b) := by
  simp [Statement, encode, majorOf_word1, reservedMajor, longMajor]
theorem fmax (g : Guard) (d a b : Opnd) : Statement (.fmax g d a b) := by
  simp [Statement, encode, majorOf_word1, reservedMajor, longMajor]
theorem fabs (g : Guard) (d a : Opnd) : Statement (.fabs g d a) := by
  simp [Statement, encode, majorOf_word1, reservedMajor, longMajor]
theorem fneg (g : Guard) (d a : Opnd) : Statement (.fneg g d a) := by
  simp [Statement, encode, majorOf_word1, reservedMajor, longMajor]
theorem frcp (g : Guard) (d a : Opnd) : Statement (.frcp g d a) := by
  simp [Statement, encode, majorOf_word1, reservedMajor, longMajor]
theorem frsq (g : Guard) (d a : Opnd) : Statement (.frsq g d a) := by
  simp [Statement, encode, majorOf_word1, reservedMajor, longMajor]
theorem fexp2 (g : Guard) (d a : Opnd) : Statement (.fexp2 g d a) := by
  simp [Statement, encode, majorOf_word1, reservedMajor, longMajor]
theorem flog2 (g : Guard) (d a : Opnd) : Statement (.flog2 g d a) := by
  simp [Statement, encode, majorOf_word1, reservedMajor, longMajor]
theorem ftanh (g : Guard) (d a : Opnd) : Statement (.ftanh g d a) := by
  simp [Statement, encode, majorOf_word1, reservedMajor, longMajor]
theorem fsetp (g : Guard) (c : FCmp) (pd : BitVec 3) (a b : Opnd) : Statement (.fsetp g c pd a b) := by
  simp [Statement, encode, majorOf_word1, reservedMajor, longMajor]
theorem fscale (g : Guard) (d a b : Opnd) : Statement (.fscale g d a b) := by
  simp [Statement, encode, majorOf_word1, reservedMajor, longMajor]
theorem frnd (g : Guard) (m : FrndMode) (d a : Opnd) : Statement (.frnd g m d a) := by
  simp [Statement, encode, majorOf_word1, reservedMajor, longMajor]
theorem hadd2 (g : Guard) (d a b : Opnd) : Statement (.hadd2 g d a b) := by
  simp [Statement, encode, majorOf_word1, reservedMajor, longMajor]
theorem hmul2 (g : Guard) (d a b : Opnd) : Statement (.hmul2 g d a b) := by
  simp [Statement, encode, majorOf_word1, reservedMajor, longMajor]
theorem hfma2 (g : Guard) (d a b : Opnd) : Statement (.hfma2 g d a b) := by
  simp [Statement, encode, majorOf_word1, reservedMajor, longMajor]
theorem fclass (g : Guard) (d a : Opnd) : Statement (.fclass g d a) := by
  simp [Statement, encode, majorOf_word1, reservedMajor, longMajor]
theorem cvt (g : Guard) (dir : CvtDir) (d a : Opnd) (slot : BitVec 3) : Statement (.cvt g dir d a slot) := by
  simp [Statement, encode, majorOf_word1, reservedMajor, longMajor]
theorem cvti (g : Guard) (conv : CvtiConv) (m : Rnd) (d a : Opnd) : Statement (.cvti g conv m d a) := by
  simp [Statement, encode, majorOf_word1, reservedMajor, longMajor]
theorem pack2 (g : Guard) (d a b : Opnd) : Statement (.pack2 g d a b) := by
  simp [Statement, encode, majorOf_word1, reservedMajor, longMajor]
theorem ballot (g : Guard) (d : Opnd) (neg : Bool) (p : BitVec 3) : Statement (.ballot g d neg p) := by
  simp [Statement, encode, majorOf_word1, reservedMajor, longMajor]
theorem vote (g : Guard) (m : VoteMode) (pd : BitVec 3) (neg : Bool) (p : BitVec 3) : Statement (.vote g m pd neg p) := by
  simp [Statement, encode, majorOf_word1, reservedMajor, longMajor]
theorem shflIdx (g : Guard) (d a b : Opnd) : Statement (.shflIdx g d a b) := by
  simp [Statement, encode, majorOf_word1, reservedMajor, longMajor]
theorem shflXor (g : Guard) (d a b : Opnd) : Statement (.shflXor g d a b) := by
  simp [Statement, encode, majorOf_word1, reservedMajor, longMajor]
theorem shflUp (g : Guard) (d a b : Opnd) : Statement (.shflUp g d a b) := by
  simp [Statement, encode, majorOf_word1, reservedMajor, longMajor]
theorem shflDn (g : Guard) (d a b : Opnd) : Statement (.shflDn g d a b) := by
  simp [Statement, encode, majorOf_word1, reservedMajor, longMajor]
theorem xchg (g : Guard) (d a b : Opnd) : Statement (.xchg g d a b) := by
  simp [Statement, encode, majorOf_word1, reservedMajor, longMajor]
theorem rng (g : Guard) (d : Opnd) : Statement (.rng g d) := by
  simp [Statement, encode, majorOf_word1, reservedMajor, longMajor]
theorem redux (g : Guard) (op : FoldOp) (d a : Opnd) : Statement (.redux g op d a) := by
  simp [Statement, encode, majorOf_word1, reservedMajor, longMajor]
theorem laneOpPerform (item : Nat) : Statement (.laneOpPerform item) := by
  trivial
theorem bra (g : Guard) (off : BitVec 21) : Statement (.bra g off) := by
  simp [Statement, encode, majorOf_word1, reservedMajor, longMajor]
theorem brx (g : Guard) (a : Opnd) : Statement (.brx g a) := by
  simp [Statement, encode, majorOf_word1, reservedMajor, longMajor]
theorem call (g : Guard) (off : BitVec 21) : Statement (.call g off) := by
  simp [Statement, encode, majorOf_word1, reservedMajor, longMajor]
theorem callx (g : Guard) (a : Opnd) : Statement (.callx g a) := by
  simp [Statement, encode, majorOf_word1, reservedMajor, longMajor]
theorem ret (g : Guard) : Statement (.ret g) := by
  simp [Statement, encode, majorOf_word1, reservedMajor, longMajor]
theorem jmpf (g : Guard) (seg : BitVec 6) (a : Opnd) : Statement (.jmpf g seg a) := by
  simp [Statement, encode, majorOf_word1, reservedMajor, longMajor]
theorem cfetch (g : Guard) (seg : BitVec 6) (a : Opnd) (k : BitVec 6) : Statement (.cfetch g seg a k) := by
  simp [Statement, encode, majorOf_word1, reservedMajor, longMajor]
theorem segmentLanding (tile launch seg : Nat) : Statement (.segmentLanding tile launch seg) := by
  trivial
theorem exit (g : Guard) : Statement (.exit g) := by
  simp [Statement, encode, majorOf_word1, reservedMajor, longMajor]
theorem yield (g : Guard) : Statement (.yield g) := by
  simp [Statement, encode, majorOf_word1, reservedMajor, longMajor]
theorem trap (g : Guard) (n : BitVec 7) : Statement (.trap g n) := by
  simp [Statement, encode, majorOf_word1, reservedMajor, longMajor]
theorem eret (g : Guard) : Statement (.eret g) := by
  simp [Statement, encode, majorOf_word1, reservedMajor, longMajor]
theorem bkpt (g : Guard) (n : BitVec 7) : Statement (.bkpt g n) := by
  simp [Statement, encode, majorOf_word1, reservedMajor, longMajor]
theorem bru (g : Guard) (off : BitVec 21) : Statement (.bru g off) := by
  simp [Statement, encode, majorOf_word1, reservedMajor, longMajor]
theorem cseg (g : Guard) (d a : Opnd) : Statement (.cseg g d a) := by
  simp [Statement, encode, majorOf_word1, reservedMajor, longMajor]
theorem bar (g : Guard) (n : BitVec 7) : Statement (.bar g n) := by
  simp [Statement, encode, majorOf_word1, reservedMajor, longMajor]
theorem bararv (g : Guard) (d : Opnd) (n : BitVec 7) : Statement (.bararv g d n) := by
  simp [Statement, encode, majorOf_word1, reservedMajor, longMajor]
theorem barwt (g : Guard) (a : Opnd) (n : BitVec 7) : Statement (.barwt g a n) := by
  simp [Statement, encode, majorOf_word1, reservedMajor, longMajor]
theorem kinitReg (g : Guard) (k : BitVec 6) (a : Opnd) : Statement (.kinitReg g k a) := by
  simp [Statement, encode, majorOf_word1, reservedMajor, longMajor]
theorem kinitImm (g : Guard) (k : BitVec 6) (imm : BitVec 6) : Statement (.kinitImm g k imm) := by
  simp [Statement, encode, majorOf_word1, reservedMajor, longMajor]
theorem kaddReg (g : Guard) (k : BitVec 6) (a : Opnd) : Statement (.kaddReg g k a) := by
  simp [Statement, encode, majorOf_word1, reservedMajor, longMajor]
theorem kaddImm (g : Guard) (k : BitVec 6) (imm : BitVec 6) : Statement (.kaddImm g k imm) := by
  simp [Statement, encode, majorOf_word1, reservedMajor, longMajor]
theorem kwait (g : Guard) (k : BitVec 6) : Statement (.kwait g k) := by
  simp [Statement, encode, majorOf_word1, reservedMajor, longMajor]
theorem phase (g : Guard) (refresh publish : Bool) (scope : Scope) : Statement (.phase g refresh publish scope) := by
  simp [Statement, encode, majorOf_word1, reservedMajor, longMajor]
theorem fence (g : Guard) (scope : Scope) : Statement (.fence g scope) := by
  simp [Statement, encode, majorOf_word1, reservedMajor, longMajor]
theorem tokwait (g : Guard) (d : Opnd) : Statement (.tokwait g d) := by
  simp [Statement, encode, majorOf_word1, reservedMajor, longMajor]
theorem tokpass (g : Guard) : Statement (.tokpass g) := by
  simp [Statement, encode, majorOf_word1, reservedMajor, longMajor]
theorem tokenForcedPass (launch : Nat) : Statement (.tokenForcedPass launch) := by
  trivial
theorem fork (g : Guard) (e : EngineKind) (a : Opnd) (k : BitVec 6) : Statement (.fork g e a k) := by
  simp [Statement, encode, majorOf_word1, reservedMajor, longMajor]
theorem rdv (g : Guard) (d : Opnd) (e : EngineKind) : Statement (.rdv g d e) := by
  simp [Statement, encode, majorOf_word1, reservedMajor, longMajor]
theorem engineProgramEnd (item : Nat) (e : EngineKind) : Statement (.engineProgramEnd item e) := by
  trivial
theorem gres (g : Guard) (slot : BitVec 4) (neg : Bool) (p : BitVec 3) : Statement (.gres g slot neg p) := by
  simp [Statement, encode, majorOf_word1, reservedMajor, longMajor]
theorem guardedCommandRelease (tile launch : Nat) (slot : Nat) : Statement (.guardedCommandRelease tile launch slot) := by
  trivial
theorem crew (g : Guard) (d a b : Opnd) : Statement (.crew g d a b) := by
  simp [Statement, encode, majorOf_word1, reservedMajor, longMajor]
theorem crwend (g : Guard) (d : Opnd) : Statement (.crwend g d) := by
  simp [Statement, encode, majorOf_word1, reservedMajor, longMajor]
theorem crwred (g : Guard) (op : FoldOp) (n a : Opnd) : Statement (.crwred g op n a) := by
  simp [Statement, encode, majorOf_word1, reservedMajor, longMajor]
theorem crewIterationStart (crew worker : Nat) : Statement (.crewIterationStart crew worker) := by
  trivial
theorem crewEnd (crew : Nat) : Statement (.crewEnd crew) := by
  trivial
theorem crewForcedRelease (crew : Nat) : Statement (.crewForcedRelease crew) := by
  trivial
theorem crewCancel (crew worker cause : Nat) : Statement (.crewCancel crew worker cause) := by
  trivial
theorem ld (g : Guard) (la : BitVec 4) (m : MemMod) (ty : Ty) (d a : Opnd) (disp : BitVec 16) : Statement (.ld g la m ty d a disp) := by
  simp [Statement, encode, majorOf_word1, reservedMajor, longMajor]
theorem st (g : Guard) (la : BitVec 4) (m : MemMod) (ty : Ty) (a b : Opnd) (disp : BitVec 16) : Statement (.st g la m ty a b disp) := by
  simp [Statement, encode, majorOf_word1, reservedMajor, longMajor]
theorem gather (g : Guard) (la : BitVec 4) (m : MemMod) (ty : Ty) (d a b : Opnd) : Statement (.gather g la m ty d a b) := by
  simp [Statement, encode, majorOf_word1, reservedMajor, longMajor]
theorem scatter (g : Guard) (la : BitVec 4) (m : MemMod) (ty : Ty) (a b c : Opnd) : Statement (.scatter g la m ty a b c) := by
  simp [Statement, encode, majorOf_word1, reservedMajor, longMajor]
theorem atomAdd (g : Guard) (la : BitVec 4) (m : MemMod) (w : Bool) (d a b : Opnd) (disp : BitVec 15) : Statement (.atomAdd g la m w d a b disp) := by
  simp [Statement, encode, majorOf_word1, reservedMajor, longMajor]
theorem atomMinS (g : Guard) (la : BitVec 4) (m : MemMod) (w : Bool) (d a b : Opnd) (disp : BitVec 15) : Statement (.atomMinS g la m w d a b disp) := by
  simp [Statement, encode, majorOf_word1, reservedMajor, longMajor]
theorem atomMinN (g : Guard) (la : BitVec 4) (m : MemMod) (w : Bool) (d a b : Opnd) (disp : BitVec 15) : Statement (.atomMinN g la m w d a b disp) := by
  simp [Statement, encode, majorOf_word1, reservedMajor, longMajor]
theorem atomMaxS (g : Guard) (la : BitVec 4) (m : MemMod) (w : Bool) (d a b : Opnd) (disp : BitVec 15) : Statement (.atomMaxS g la m w d a b disp) := by
  simp [Statement, encode, majorOf_word1, reservedMajor, longMajor]
theorem atomMaxN (g : Guard) (la : BitVec 4) (m : MemMod) (w : Bool) (d a b : Opnd) (disp : BitVec 15) : Statement (.atomMaxN g la m w d a b disp) := by
  simp [Statement, encode, majorOf_word1, reservedMajor, longMajor]
theorem atomAnd (g : Guard) (la : BitVec 4) (m : MemMod) (w : Bool) (d a b : Opnd) (disp : BitVec 15) : Statement (.atomAnd g la m w d a b disp) := by
  simp [Statement, encode, majorOf_word1, reservedMajor, longMajor]
theorem atomOr (g : Guard) (la : BitVec 4) (m : MemMod) (w : Bool) (d a b : Opnd) (disp : BitVec 15) : Statement (.atomOr g la m w d a b disp) := by
  simp [Statement, encode, majorOf_word1, reservedMajor, longMajor]
theorem atomXor (g : Guard) (la : BitVec 4) (m : MemMod) (w : Bool) (d a b : Opnd) (disp : BitVec 15) : Statement (.atomXor g la m w d a b disp) := by
  simp [Statement, encode, majorOf_word1, reservedMajor, longMajor]
theorem atomExch (g : Guard) (la : BitVec 4) (m : MemMod) (w : Bool) (d a b : Opnd) (disp : BitVec 15) : Statement (.atomExch g la m w d a b disp) := by
  simp [Statement, encode, majorOf_word1, reservedMajor, longMajor]
theorem atomCas (g : Guard) (la : BitVec 4) (m : MemMod) (w : Bool) (d a b : Opnd) (disp : BitVec 15) : Statement (.atomCas g la m w d a b disp) := by
  simp [Statement, encode, majorOf_word1, reservedMajor, longMajor]
theorem atomFadd (g : Guard) (la : BitVec 4) (m : MemMod) (w : Bool) (d a b : Opnd) (disp : BitVec 15) : Statement (.atomFadd g la m w d a b disp) := by
  simp [Statement, encode, majorOf_word1, reservedMajor, longMajor]
theorem atomFmin (g : Guard) (la : BitVec 4) (m : MemMod) (w : Bool) (d a b : Opnd) (disp : BitVec 15) : Statement (.atomFmin g la m w d a b disp) := by
  simp [Statement, encode, majorOf_word1, reservedMajor, longMajor]
theorem atomFmax (g : Guard) (la : BitVec 4) (m : MemMod) (w : Bool) (d a b : Opnd) (disp : BitVec 15) : Statement (.atomFmax g la m w d a b disp) := by
  simp [Statement, encode, majorOf_word1, reservedMajor, longMajor]
theorem atomIncw (g : Guard) (la : BitVec 4) (m : MemMod) (w : Bool) (d a b : Opnd) (disp : BitVec 15) : Statement (.atomIncw g la m w d a b disp) := by
  simp [Statement, encode, majorOf_word1, reservedMajor, longMajor]
theorem atomDecw (g : Guard) (la : BitVec 4) (m : MemMod) (w : Bool) (d a b : Opnd) (disp : BitVec 15) : Statement (.atomDecw g la m w d a b disp) := by
  simp [Statement, encode, majorOf_word1, reservedMajor, longMajor]
theorem loadWriteback (strand id : Nat) : Statement (.loadWriteback strand id) := by
  trivial
theorem movw (g : Guard) (d : Opnd) (imm : Word) : Statement (.movw g d imm) := by
  simp [Statement, encode, majorOf_word1, reservedMajor, longMajor]
theorem sysr (g : Guard) (d : Opnd) (num : BitVec 16) : Statement (.sysr g d num) := by
  simp [Statement, encode, majorOf_word1, reservedMajor, longMajor]
theorem sysw (g : Guard) (a : Opnd) (num : BitVec 16) : Statement (.sysw g a num) := by
  simp [Statement, encode, majorOf_word1, reservedMajor, longMajor]
theorem dset (g : Guard) (dn : BitVec 4) (a : Opnd) (all : Bool) (q : BitVec 2) : Statement (.dset g dn a all q) := by
  simp [Statement, encode, majorOf_word1, reservedMajor, longMajor]
theorem qpush (g : Guard) (la : BitVec 4) (scope : Scope) (ord : Order) (nb : Bool) (b : Opnd) (ps : BitVec 3) (q : BitVec 4) : Statement (.qpush g la scope ord nb b ps q) := by
  simp [Statement, encode, majorOf_word1, reservedMajor, longMajor]
theorem qpop (g : Guard) (la : BitVec 4) (scope : Scope) (ord : Order) (d : Opnd) (ps : BitVec 3) (q : BitVec 4) : Statement (.qpop g la scope ord d ps q) := by
  simp [Statement, encode, majorOf_word1, reservedMajor, longMajor]
theorem qpeek (g : Guard) (la : BitVec 4) (d : Opnd) (ps : BitVec 3) (q : BitVec 4) : Statement (.qpeek g la d ps q) := by
  simp [Statement, encode, majorOf_word1, reservedMajor, longMajor]
theorem prefetch (g : Guard) (host l2 : Bool) (a : Opnd) (n : BitVec 8) : Statement (.prefetch g host l2 a n) := by
  simp [Statement, encode, majorOf_word1, reservedMajor, longMajor]
theorem copy (g : Guard) (d a : BitVec 4) (k : BitVec 6) (m : CopyMod) (peer : BitVec 7) : Statement (.copy g d a k m peer) := by
  simp [Statement, encode, majorOf_word1, reservedMajor, longMajor]
theorem plpack (g : Guard) (d a : BitVec 4) (k : BitVec 6) (m : CopyMod) (slot : BitVec 3) : Statement (.plpack g d a k m slot) := by
  simp [Statement, encode, majorOf_word1, reservedMajor, longMajor]
theorem plunpk (g : Guard) (d a : BitVec 4) (k : BitVec 6) (m : CopyMod) (slot : BitVec 3) : Statement (.plunpk g d a k m slot) := by
  simp [Statement, encode, majorOf_word1, reservedMajor, longMajor]
theorem fill (g : Guard) (d : BitVec 4) (a : Opnd) (k : BitVec 6) (m : CopyMod) (peer : BitVec 7) : Statement (.fill g d a k m peer) := by
  simp [Statement, encode, majorOf_word1, reservedMajor, longMajor]
theorem bkopen (g : Guard) (d a : Opnd) (k : BitVec 6) (m : CopyMod) : Statement (.bkopen g d a k m) := by
  simp [Statement, encode, majorOf_word1, reservedMajor, longMajor]
theorem bkclose (g : Guard) (a : Opnd) (k : BitVec 6) (m : CopyMod) : Statement (.bkclose g a k m) := by
  simp [Statement, encode, majorOf_word1, reservedMajor, longMajor]
theorem copyEntryStart (tile : Nat) : Statement (.copyEntryStart tile) := by
  trivial
theorem copyCompletion (tile entry : Nat) : Statement (.copyCompletion tile entry) := by
  trivial
theorem engineTranslationFault (tile entry : Nat) : Statement (.engineTranslationFault tile entry) := by
  trivial
theorem closeEvent (tile handle reason : Nat) : Statement (.closeEvent tile handle reason) := by
  trivial
theorem rtcount (g : Guard) (d : Opnd) (dn : BitVec 4) (k : BitVec 6) (id : BitVec 8) : Statement (.rtcount g d dn k id) := by
  simp [Statement, encode, majorOf_word1, reservedMajor, longMajor]
theorem rtdisp (g : Guard) (d : Opnd) (dn : BitVec 4) (k : BitVec 6) (id : BitVec 8) : Statement (.rtdisp g d dn k id) := by
  simp [Statement, encode, majorOf_word1, reservedMajor, longMajor]
theorem rtcomb (g : Guard) (d : Opnd) (dn : BitVec 4) (k : BitVec 6) (slot : BitVec 3) (id : BitVec 8) : Statement (.rtcomb g d dn k slot id) := by
  simp [Statement, encode, majorOf_word1, reservedMajor, longMajor]
theorem countVectorArrival (launch id package : Nat) (sums : List Nat) (crc k nexp rowu : Nat) : Statement (.countVectorArrival launch id package sums crc k nexp rowu) := by
  trivial
theorem routingRowArrival (launch id package rank token expert slot : Nat) (row : List Byte) : Statement (.routingRowArrival launch id package rank token expert slot row) := by
  trivial
theorem rtdispCompletion (die launch id : Nat) : Statement (.rtdispCompletion die launch id) := by
  trivial
theorem rtcombCompletion (die launch id : Nat) : Statement (.rtcombCompletion die launch id) := by
  trivial
theorem mloop (g : Guard) (dn : BitVec 4) (k : BitVec 6) (fa fb : BitVec 3) : Statement (.mloop g dn k fa fb) := by
  simp [Statement, encode, majorOf_word1, reservedMajor, longMajor]
theorem mzero (g : Guard) (k : BitVec 6) (a : Opnd) : Statement (.mzero g k a) := by
  simp [Statement, encode, majorOf_word1, reservedMajor, longMajor]
theorem mread (g : Guard) (k : BitVec 6) (a b : Opnd) (slot : BitVec 3) (sp : Space) (int clr : Bool) (pitch : BitVec 16) : Statement (.mread g k a b slot sp int clr pitch) := by
  simp [Statement, encode, majorOf_word1, reservedMajor, longMajor]
theorem mwrite (g : Guard) (k : BitVec 6) (a b : Opnd) (slot : BitVec 3) (sp : Space) (int : Bool) (pitch : BitVec 16) : Statement (.mwrite g k a b slot sp int pitch) := by
  simp [Statement, encode, majorOf_word1, reservedMajor, longMajor]
theorem mstat (g : Guard) (d : Opnd) (k : BitVec 6) : Statement (.mstat g d k) := by
  simp [Statement, encode, majorOf_word1, reservedMajor, longMajor]
theorem mloopStep (tile : Nat) : Statement (.mloopStep tile) := by
  trivial
theorem matrixCompletion (tile : Nat) : Statement (.matrixCompletion tile) := by
  trivial
theorem rld (g : Guard) (la : BitVec 4) (scope : Scope) (ord : Order) (ty : Ty) (d a p : Opnd) : Statement (.rld g la scope ord ty d a p) := by
  simp [Statement, encode, majorOf_word1, reservedMajor, longMajor]
theorem rst (g : Guard) (la : BitVec 4) (scope : Scope) (ord : Order) (ty : Ty) (a b p : Opnd) : Statement (.rst g la scope ord ty a b p) := by
  simp [Statement, encode, majorOf_word1, reservedMajor, longMajor]
theorem ratom (g : Guard) (la : BitVec 4) (scope : Scope) (ord : Order) (op : AtomOp) (w : Bool) (d a b p : Opnd) : Statement (.ratom g la scope ord op w d a b p) := by
  simp [Statement, encode, majorOf_word1, reservedMajor, longMajor]
theorem tidewaitPeer (g : Guard) (d a : Opnd) (immp : Option (BitVec 7)) : Statement (.tidewaitPeer g d a immp) := by
  cases immp <;> simp [Statement, encode, majorOf_word1, reservedMajor, longMajor]
theorem tidewaitTide (g : Guard) (d : Opnd) : Statement (.tidewaitTide g d) := by
  simp [Statement, encode, majorOf_word1, reservedMajor, longMajor]
theorem vqstat (g : Guard) (d a : Opnd) : Statement (.vqstat g d a) := by
  simp [Statement, encode, majorOf_word1, reservedMajor, longMajor]
theorem launch (g : Guard) (d a : Opnd) (k : BitVec 6) : Statement (.launch g d a k) := by
  simp [Statement, encode, majorOf_word1, reservedMajor, longMajor]
theorem haltg (g : Guard) (a : Opnd) : Statement (.haltg g a) := by
  simp [Statement, encode, majorOf_word1, reservedMajor, longMajor]
theorem resumeg (g : Guard) (a : Opnd) : Statement (.resumeg g a) := by
  simp [Statement, encode, majorOf_word1, reservedMajor, longMajor]
theorem step (g : Guard) (a : Opnd) : Statement (.step g a) := by
  simp [Statement, encode, majorOf_word1, reservedMajor, longMajor]
theorem watch (g : Guard) (sp : Space) (kind : WatchKind) (n : BitVec 2) (a : Opnd) (len : BitVec 8) : Statement (.watch g sp kind n a len) := by
  simp [Statement, encode, majorOf_word1, reservedMajor, longMajor]
theorem unwatch (g : Guard) (n : BitVec 2) : Statement (.unwatch g n) := by
  simp [Statement, encode, majorOf_word1, reservedMajor, longMajor]
theorem mboxw (g : Guard) (n : BitVec 6) (a : Opnd) : Statement (.mboxw g n a) := by
  simp [Statement, encode, majorOf_word1, reservedMajor, longMajor]
theorem keyopDestroy (g : Guard) (d a : Opnd) (k : BitVec 6) : Statement (.keyopDestroy g d a k) := by
  simp [Statement, encode, majorOf_word1, reservedMajor, longMajor]
theorem keyopBzero (g : Guard) (d a : Opnd) (k : BitVec 6) (key : BitVec 9) (logpg : BitVec 5) : Statement (.keyopBzero g d a k key logpg) := by
  simp [Statement, encode, majorOf_word1, reservedMajor, longMajor]
theorem keyopCompletion (id : Nat) : Statement (.keyopCompletion id) := by
  trivial
theorem launchFatal (launch cause strand : Nat) : Statement (.launchFatal launch cause strand) := by
  trivial
theorem reportMergeExpiry (tile launch cause : Nat) : Statement (.reportMergeExpiry tile launch cause) := by
  trivial
theorem pageWalk (cluster asid va : Nat) (store : Bool) : Statement (.pageWalk cluster asid va store) := by
  trivial
theorem tlbiAsid (asid : Nat) : Statement (.tlbiAsid asid) := by
  trivial
theorem tlbiVa (asid va log2 : Nat) : Statement (.tlbiVa asid va log2) := by
  trivial
theorem tlbiPa (pa log2 : Nat) : Statement (.tlbiPa pa log2) := by
  trivial
theorem fabricInvalidation (peer asid va log2 : Nat) : Statement (.fabricInvalidation peer asid va log2) := by
  trivial
theorem memoryRequest (addr key : Nat) (src : SrcClass) (op : BaseOp) : Statement (.memoryRequest addr key src op) := by
  trivial
theorem blockRead (addr lay efmt pln pitch len key : Nat) : Statement (.blockRead addr lay efmt pln pitch len key) := by
  trivial
theorem gatherPacket (base width key : Nat) (entries : List (Nat × Nat)) : Statement (.gatherPacket base width key entries) := by
  trivial
theorem scatterPacket (base width key : Nat) (entries : List (Nat × Nat)) (values : List Nat) : Statement (.scatterPacket base width key entries values) := by
  trivial
theorem memorySideAtomic (addr key : Nat) (op : AtomOp) (w : Bool) (steps : List (Nat × Nat)) : Statement (.memorySideAtomic addr key op w steps) := by
  trivial
theorem bankReserveRequest (stack pc bank tile entry : Nat) : Statement (.bankReserveRequest stack pc bank tile entry) := by
  trivial
theorem streamRequest (handle : Nat) (write : Bool) (row count key : Nat) (data : List Byte) : Statement (.streamRequest handle write row count key data) := by
  trivial
theorem foreignWindow (handle : Nat) : Statement (.foreignWindow handle) := by
  trivial
theorem bankCloseRequest (handle : Nat) : Statement (.bankCloseRequest handle) := by
  trivial
theorem bankIdleClose (handle : Nat) : Statement (.bankIdleClose handle) := by
  trivial
theorem baseDieKeyDestroy (die key : Nat) : Statement (.baseDieKeyDestroy die key) := by
  trivial
theorem bulkZeroCommand (base size key : Nat) : Statement (.bulkZeroCommand base size key) := by
  trivial
theorem migdataWrite (value : BitVec 64) : Statement (.migdataWrite value) := by
  trivial
theorem remoteScratchpadAccess (tile offset width : Nat) (data : Option (List Byte)) : Statement (.remoteScratchpadAccess tile offset width data) := by
  trivial
theorem bankStarvePromote (tile bank requester : Nat) : Statement (.bankStarvePromote tile bank requester) := by
  trivial
theorem wcDrainTimeout (tile : Nat) : Statement (.wcDrainTimeout tile) := by
  trivial
theorem itemAdmission (tile : Nat) : Statement (.itemAdmission tile) := by
  trivial
theorem itemRetire (item : Nat) : Statement (.itemRetire item) := by
  trivial
theorem priorityAging (launch stage item : Nat) : Statement (.priorityAging launch stage item) := by
  trivial
theorem launchEnd (launch : Nat) : Statement (.launchEnd launch) := by
  trivial
theorem portEngineSend (rail : Nat) : Statement (.portEngineSend rail) := by
  trivial
theorem idleFlit (rail : Nat) (f : Flit) : Statement (.idleFlit rail f) := by
  trivial
theorem bulkHeaderFlit (rail : Nat) (f : Flit) : Statement (.bulkHeaderFlit rail f) := by
  trivial
theorem bulkDataFlit (rail : Nat) (f : Flit) : Statement (.bulkDataFlit rail f) := by
  trivial
theorem smallFlit (rail : Nat) (f : Flit) : Statement (.smallFlit rail f) := by
  trivial
theorem responseFlit (rail : Nat) (f : Flit) : Statement (.responseFlit rail f) := by
  trivial
theorem endToEndAck (rail : Nat) (f : Flit) : Statement (.endToEndAck rail f) := by
  trivial
theorem markerFlit (rail : Nat) (f : Flit) : Statement (.markerFlit rail f) := by
  trivial
theorem controlFlit (rail : Nat) (f : Flit) : Statement (.controlFlit rail f) := by
  trivial
theorem dseqGateRelease (peer : Nat) (small : Bool) : Statement (.dseqGateRelease peer small) := by
  trivial
theorem translationRequest (peer asid va : Nat) (kind : Nat) : Statement (.translationRequest peer asid va kind) := by
  trivial
theorem railRetrainDone (rail : Nat) (up : Bool) : Statement (.railRetrainDone rail up) := by
  trivial
theorem peerRemoved (peer : Nat) : Statement (.peerRemoved peer) := by
  trivial
theorem remoteTimeout (id : Nat) : Statement (.remoteTimeout id) := by
  trivial
theorem podJoin (peer : Nat) (cap : Capability) : Statement (.podJoin peer cap) := by
  trivial
theorem beaconSend (tile : Nat) : Statement (.beaconSend tile) := by
  trivial
theorem beaconReceive (tile dir : Nat) (beacon : BitVec 64) (early noCredit : Bool) : Statement (.beaconReceive tile dir beacon early noCredit) := by
  trivial
theorem beaconMissed (tile dir : Nat) : Statement (.beaconMissed tile dir) := by
  trivial
theorem voteMessage (judge about voter : Nat) : Statement (.voteMessage judge about voter) := by
  trivial
theorem voteExpiry (judge about voter : Nat) : Statement (.voteExpiry judge about voter) := by
  trivial
theorem fenceMessage (tile about : Nat) : Statement (.fenceMessage tile about) := by
  trivial
theorem grantMessage (judge about voter : Nat) : Statement (.grantMessage judge about voter) := by
  trivial
theorem selftestDone (tile : Nat) (passed : Bool) : Statement (.selftestDone tile passed) := by
  trivial
theorem meshResend (packet : Nat) : Statement (.meshResend packet) := by
  trivial
theorem tileStateWrite (tile value : Nat) : Statement (.tileStateWrite tile value) := by
  trivial
theorem hostApertureAccess (offset : Nat) (data : Option (List Byte)) (len : Nat) : Statement (.hostApertureAccess offset data len) := by
  trivial
theorem powerOn (goodSignature goodRollback goodImage : Bool) : Statement (.powerOn goodSignature goodRollback goodImage) := by
  trivial
theorem wearThreshold (unit : Nat) : Statement (.wearThreshold unit) := by
  trivial
theorem registerWrite (reg : HostReg) (half : Option Bool) (value : BitVec 64) : Statement (.registerWrite reg half value) := by
  trivial
theorem softError (place : ErrUnit) (uncorrectable : Bool) : Statement (.softError place uncorrectable) := by
  trivial
theorem linkTraining (width rate : Nat) (flit : Bool) : Statement (.linkTraining width rate flit) := by
  trivial
theorem bootReady (hbmTrained : Bool) : Statement (.bootReady hbmTrained) := by
  trivial
theorem clauseFetch : Statement (.clauseFetch) := by
  trivial
theorem clauseWaitSatisfied : Statement (.clauseWaitSatisfied) := by
  trivial
theorem impreciseDelivery : Statement (.impreciseDelivery) := by
  trivial
theorem preciseTrapEntry : Statement (.preciseTrapEntry) := by
  trivial
theorem tlbiAll : Statement (.tlbiAll) := by
  trivial
theorem tlbiDone : Statement (.tlbiDone) := by
  trivial
theorem launchSubmit : Statement (.launchSubmit) := by
  trivial
theorem replaySubmit : Statement (.replaySubmit) := by
  trivial
theorem validatorDone : Statement (.validatorDone) := by
  trivial
theorem preempt : Statement (.preempt) := by
  trivial
theorem saveComplete : Statement (.saveComplete) := by
  trivial
theorem restore : Statement (.restore) := by
  trivial
theorem restoreFill : Statement (.restoreFill) := by
  trivial
theorem slotBoundary : Statement (.slotBoundary) := by
  trivial
theorem slotGuard : Statement (.slotGuard) := by
  trivial
theorem lockReacquired : Statement (.lockReacquired) := by
  trivial
theorem podFormation : Statement (.podFormation) := by
  trivial
theorem hostLinkDown : Statement (.hostLinkDown) := by
  trivial
theorem hostGoneCompletion : Statement (.hostGoneCompletion) := by
  trivial
theorem hoststatGoneClear : Statement (.hoststatGoneClear) := by
  trivial
theorem attestationRequest : Statement (.attestationRequest) := by
  trivial
theorem attestationDone : Statement (.attestationDone) := by
  trivial

end Sys2Proof.Laws.Words
end

