-- ==== Sys2Proof/Laws/Put.lean ====
section
/-! SUPPORT. What writing a result does, in each of its forms: `Issue.put`, `putPair`, `putFlags`, `putPred` and `putDraw`
change the registers they name, the flags and the draws, and nothing else. -/

namespace Sys2Proof.Machine

theorem map_window (l : List Pending) :
    (l.map fun p => if l.any (·.id == p.id) then { p with left := p.left - 1 } else p)
      = l.map fun p => { p with left := p.left - 1 } := by
  apply List.map_congr_left
  intro p hp
  rw [if_pos]
  rw [List.any_eq_true]
  exact ⟨p, hp, by simp⟩

theorem advance_get (c : Issue) (x : Strand) {l : Nat} (hl : l < 4) :
    (c.advance x).lanes.get l
      = if c.set.getLsbD l then
          { x.lanes.get l with flow := { (x.lanes.get l).flow with pc := (x.lanes.get l).flow.pc + c.size } }
        else x.lanes.get l :=
  Strand.mapFlows_get _ _ _ hl

theorem count_lanes (c : Issue) (x : Strand) : (c.count x).lanes = x.lanes := by
  unfold Issue.count Strand.countRetired Strand.countWindow; split <;> rfl

/-- A strand changed in its registers and flags alone, then moved on and counted. -/
theorem moved_count {c : Issue} {ch : Change} {x : Strand}
    (hx : x = { c.st with lanes := x.lanes, s := x.s, badS := x.badS, fstat := x.fstat })
    (hv : ∀ l < 4, ∀ n, Table.get 0 n (x.lanes.get l).v = (ch.v l n).getD (Table.get 0 n (c.st.lanes.get l).v))
    (hp : ∀ l < 4, ∀ n, (x.lanes.get l).p.getLsbD n = (ch.p l n).getD ((c.st.lanes.get l).p.getLsbD n))
    (hs : ∀ n, Table.get 0 n x.s = (ch.s n).getD (Table.get 0 n c.st.s))
    (hbad : ∀ l < 4, ∀ n, n ∈ (x.lanes.get l).badV ↔
      n ∈ (c.st.lanes.get l).badV ∧ ch.v l n = none ∧ (256 ≤ n → ch.p l (n - 256) = none))
    (hbadS : ∀ n, n ∈ x.badS ↔ n ∈ c.st.badS ∧ ch.s n = none)
    (hdraw : ∀ l < 4, (x.lanes.get l).draw = (c.st.lanes.get l).draw + (if ch.draws l && c.crew.isNone then 1 else 0))
    (hdrawn : ∀ l < 4, (x.lanes.get l).drawn = (c.st.lanes.get l).drawn + (if ch.draws l && c.crew.isSome then 1 else 0))
    (hf : x.fstat = c.st.fstat ||| ch.flags)
    (hl : ∀ l < 4, x.lanes.get l =
      { c.st.lanes.get l with
        v := (x.lanes.get l).v, p := (x.lanes.get l).p, badV := (x.lanes.get l).badV
        draw := (x.lanes.get l).draw, drawn := (x.lanes.get l).drawn }) :
    Moved c ch c.st (c.count (c.advance x)) := by
  have hflow : ∀ l < 4, (x.lanes.get l).flow = (c.st.lanes.get l).flow := fun l h => by rw [hl l h]
  have hg : ∀ l < 4, (c.count (c.advance x)).lanes.get l
      = if c.set.getLsbD l then
          { x.lanes.get l with flow := { (c.st.lanes.get l).flow with pc := (c.st.lanes.get l).flow.pc + c.size } }
        else x.lanes.get l := fun l h => by rw [count_lanes, advance_get c x h, hflow l h]
  have hrest : c.count (c.advance x) =
      { c.st with
        lanes := (c.count (c.advance x)).lanes, s := x.s, badS := x.badS, fstat := x.fstat
        retcnt := if c.st.handler.isSome || c.st.seat.isSome then c.st.retcnt else c.st.retcnt + 1
        wait := .none
        pend := c.st.pend.map fun p => { p with left := p.left - 1 } } := by
    rw [count_lanes]
    unfold Issue.count Strand.countRetired Strand.countWindow Issue.advance Strand.mapFlows Strand.mapLanes
    rw [← map_window c.st.pend]
    rw [hx]
    simp only
    split <;> rfl
  constructor
  · intro l h n; rw [hg l h, ← hv l h n]; split <;> rfl
  · intro l h n; rw [hg l h, ← hp l h n]; split <;> rfl
  · intro n; rw [hrest]; exact hs n
  · intro l h n; rw [hg l h, ← hbad l h n]; split <;> rfl
  · intro n; rw [hrest]; exact hbadS n
  · intro l h
    show ((c.count (c.advance x)).lanes.get l).flow = _
    rw [hg l h]
    unfold Strand.flow
    split
    · rfl
    · exact hflow l h
  · intro l h; rw [hg l h, ← hdraw l h]; split <;> rfl
  · intro l h; rw [hg l h, ← hdrawn l h]; split <;> rfl
  · rw [hrest]; exact hf
  · rw [hrest]
  · intro l h
    rw [hg l h]
    split
    · conv_lhs => rw [hl l h]
    · refine (hl l h).trans ?_
      simp only [hflow l h]
  · conv_lhs => rw [hrest]
    rw [hrest]

/-! Folds over the computing lanes. -/

/-- What the computing lanes of a mask raise together. -/
theorem foldl_flags (g : Nat → Lane → Lane) (fl : Nat → Flags) (ls : List Nat) : ∀ (st : Strand),
    ls.foldl (fun st l => (st.adjLane l (g l)).raiseFlags (fl l)) st
      = { ls.foldl (fun st l => st.adjLane l (g l)) st with fstat := ls.foldl (fun f l => f ||| fl l) st.fstat } := by
  induction ls with
  | nil => intro st; rfl
  | cons l ls ih =>
    intro st
    rw [List.foldl_cons, ih, List.foldl_cons, List.foldl_cons]
    rw [foldl_adjLane_rest g ls ((st.adjLane l (g l)).raiseFlags (fl l)), foldl_adjLane_rest g ls (st.adjLane l (g l))]
    have : ∀ (a b : Strand), a.lanes = b.lanes → (ls.foldl (fun st l => st.adjLane l (g l)) a).lanes
        = (ls.foldl (fun st l => st.adjLane l (g l)) b).lanes := by
      clear ih st l
      induction ls with
      | nil => intro a b h; exact h
      | cons l ls ih =>
        intro a b h
        rw [List.foldl_cons, List.foldl_cons]
        exact ih _ _ (by rw [Strand.adjLane_lanes, Strand.adjLane_lanes, h])
    rw [this ((st.adjLane l (g l)).raiseFlags (fl l)) (st.adjLane l (g l)) rfl]
    rfl

theorem flags_lanesIn (m : BitVec 4) (fl : Nat → Flags) (a : Flags) :
    (lanesIn m).foldl (fun f l => f ||| fl l) a
      = a ||| ((if m.getLsbD 0 then fl 0 else 0) ||| (if m.getLsbD 1 then fl 1 else 0)
        ||| (if m.getLsbD 2 then fl 2 else 0) ||| (if m.getLsbD 3 then fl 3 else 0)) := by
  have h : lanesIn m = (if m.getLsbD 0 then [0] else []) ++ (if m.getLsbD 1 then [1] else [])
      ++ (if m.getLsbD 2 then [2] else []) ++ (if m.getLsbD 3 then [3] else []) := by
    revert m; decide
  rw [h]
  cases m.getLsbD 0 <;> cases m.getLsbD 1 <;> cases m.getLsbD 2 <;> cases m.getLsbD 3 <;> simp [BitVec.or_assoc]

theorem acts_iff (c : Issue) {l : Nat} (h : l < 4) : c.acts l = c.active.getLsbD l := by
  unfold Issue.acts; simp [h]

/-- A change made by every active lane in itself, with flags, outside uniform clauses. -/
theorem moved_lanes {c : Issue} {ch : Change} (hu : c.uniform = false) (g : Nat → Lane → Lane) (fl : Nat → Flags)
    (hv : ∀ l < 4, ∀ n, c.active.getLsbD l = true →
      Table.get 0 n (g l (c.st.lanes.get l)).v = (ch.v l n).getD (Table.get 0 n (c.st.lanes.get l).v))
    (hv' : ∀ l < 4, ∀ n, c.active.getLsbD l = false → ch.v l n = none)
    (hp : ∀ l < 4, ∀ n, c.active.getLsbD l = true →
      (g l (c.st.lanes.get l)).p.getLsbD n = (ch.p l n).getD ((c.st.lanes.get l).p.getLsbD n))
    (hp' : ∀ l < 4, ∀ n, c.active.getLsbD l = false → ch.p l n = none)
    (hs : ∀ n, ch.s n = none)
    (hbad : ∀ l < 4, ∀ n, c.active.getLsbD l = true → (n ∈ (g l (c.st.lanes.get l)).badV ↔
      n ∈ (c.st.lanes.get l).badV ∧ ch.v l n = none ∧ (256 ≤ n → ch.p l (n - 256) = none)))
    (hdraw : ∀ l < 4, c.active.getLsbD l = true →
      (g l (c.st.lanes.get l)).draw = (c.st.lanes.get l).draw + (if ch.draws l && c.crew.isNone then 1 else 0))
    (hdrawn : ∀ l < 4, c.active.getLsbD l = true →
      (g l (c.st.lanes.get l)).drawn = (c.st.lanes.get l).drawn + (if ch.draws l && c.crew.isSome then 1 else 0))
    (hd' : ∀ l < 4, c.active.getLsbD l = false → ch.draws l = false)
    (hf : ch.flags = c.raised fl)
    (hl : ∀ l < 4, g l (c.st.lanes.get l) =
      { c.st.lanes.get l with
        v := (g l (c.st.lanes.get l)).v, p := (g l (c.st.lanes.get l)).p, badV := (g l (c.st.lanes.get l)).badV
        draw := (g l (c.st.lanes.get l)).draw, drawn := (g l (c.st.lanes.get l)).drawn }) :
    Moved c ch c.st (c.count (c.advance
      (c.doers.foldl (fun st l => (st.adjLane l (g l)).raiseFlags (fl l)) c.st))) := by
  have hdoers : c.doers = lanesIn c.active := by unfold Issue.doers; rw [hu]; rfl
  rw [hdoers]
  have hg : ∀ l < 4, ((lanesIn c.active).foldl (fun st l => (st.adjLane l (g l)).raiseFlags (fl l)) c.st).lanes.get l
      = if c.active.getLsbD l then g l (c.st.lanes.get l) else c.st.lanes.get l := by
    intro l h
    rw [foldl_flags]
    show ((lanesIn c.active).foldl (fun st l => st.adjLane l (g l)) c.st).lanes.get l = _
    rw [foldl_adjLane_get g _ _ (fun _ h => mem_lanesIn_lt h) (lanesIn_nodup _) l h]
    simp only [mem_lanesIn, h, true_and]
  have hr := foldl_flags g fl (lanesIn c.active) c.st
  rw [foldl_adjLane_rest] at hr
  apply moved_count
  · conv_lhs => rw [hr]
    rw [hr]
  · intro l h n; rw [hg l h]
    by_cases ha : c.active.getLsbD l = true
    · rw [if_pos ha, hv l h n ha]
    · rw [if_neg ha, hv' l h n (by simpa using ha)]; rfl
  · intro l h n; rw [hg l h]
    by_cases ha : c.active.getLsbD l = true
    · rw [if_pos ha, hp l h n ha]
    · rw [if_neg ha, hp' l h n (by simpa using ha)]; rfl
  · intro n; rw [hr, hs n]; rfl
  · intro l h n; rw [hg l h]
    by_cases ha : c.active.getLsbD l = true
    · rw [if_pos ha, hbad l h n ha]
    · rw [if_neg ha, hv' l h n (by simpa using ha)]
      simp only [hp' l h _ (by simpa using ha : c.active.getLsbD l = false)]
      simp
  · intro n; rw [hr, hs n]; simp
  · intro l h; rw [hg l h]
    by_cases ha : c.active.getLsbD l = true
    · rw [if_pos ha, hdraw l h ha]
    · rw [if_neg ha, hd' l h (by simpa using ha)]; simp
  · intro l h; rw [hg l h]
    by_cases ha : c.active.getLsbD l = true
    · rw [if_pos ha, hdrawn l h ha]
    · rw [if_neg ha, hd' l h (by simpa using ha)]; simp
  · rw [hr]
    show (lanesIn c.active).foldl (fun f l => f ||| fl l) c.st.fstat = _
    rw [flags_lanesIn, hf]
    unfold Issue.raised
    rw [hu]
    simp only [Bool.false_eq_true, if_false, acts_iff c (show 0 < 4 by decide), acts_iff c (show 1 < 4 by decide),
      acts_iff c (show 2 < 4 by decide), acts_iff c (show 3 < 4 by decide)]
  · intro l h; rw [hg l h]
    by_cases ha : c.active.getLsbD l = true
    · rw [if_pos ha]; exact hl l h
    · rw [if_neg ha]

/-! Lanes that compute in a uniform clause. -/

theorem lead_lt {i : Instr} {s : State} {c : Issue} (h : clear i s = some c) : c.lead < 4 := by
  rw [(issueOf_strand (ready_issueOf (clear_ready h)).1).2.2.2.2.2.2.1]
  unfold lowest
  cases hl : (lanesIn c.st.live).head? with
  | none => decide
  | some l => exact mem_lanesIn_lt (List.mem_of_mem_head? hl)

theorem doers_uniform {c : Issue} (hu : c.uniform = true) : c.doers = if c.active = 0 then [] else [c.lead] := by
  unfold Issue.doers
  rw [hu]
  by_cases ha : c.active = 0 <;> simp [ha]

/-- A change of s registers, flags and, of one lane, draws, in a uniform clause. -/
theorem moved_strand {c : Issue} {ch : Change} {x : Strand}
    (hx : x = { c.st with lanes := x.lanes, s := x.s, badS := x.badS, fstat := x.fstat })
    (hv : ∀ l n, ch.v l n = none) (hp : ∀ l n, ch.p l n = none)
    (hs : ∀ n, Table.get 0 n x.s = (ch.s n).getD (Table.get 0 n c.st.s))
    (hbadS : ∀ n, n ∈ x.badS ↔ n ∈ c.st.badS ∧ ch.s n = none)
    (hf : x.fstat = c.st.fstat ||| ch.flags)
    (hl : ∀ l < 4, x.lanes.get l =
      { c.st.lanes.get l with
        draw := (c.st.lanes.get l).draw + (if ch.draws l && c.crew.isNone then 1 else 0)
        drawn := (c.st.lanes.get l).drawn + (if ch.draws l && c.crew.isSome then 1 else 0) }) :
    Moved c ch c.st (c.count (c.advance x)) := by
  apply moved_count hx
  · intro l h n; rw [hl l h, hv]; rfl
  · intro l h n; rw [hl l h, hp]; rfl
  · exact hs
  · intro l h n; rw [hl l h, hv, hp]; simp
  · exact hbadS
  · intro l h; rw [hl l h]
  · intro l h; rw [hl l h]
  · exact hf
  · intro l h; rw [hl l h]

theorem Map.find_pair {α : Type} (a b n : Nat) (x y : α) :
    Map.find n [(a, x), (b, y)] = if n = a then some x else if n = b then some y else none := by
  unfold Map.find Map.find Map.find
  by_cases h : n = a
  · simp [h]
  · by_cases h' : n = b
    · simp [h', eq_comm]
    · simp [h, h', Ne.symm h, Ne.symm h']

theorem Map.find_one {α : Type} (a n : Nat) (x : α) : Map.find n [(a, x)] = if n = a then some x else none := by
  unfold Map.find Map.find
  by_cases h : n = a
  · simp [h]
  · simp [h, Ne.symm h]

/-! The ways of writing a result. -/

/-- `putFlags` changes the destination register of every active lane (one s register in a uniform clause) and FSTAT. -/
theorem putFlags_retired {i : Instr} {s : State} {c : Issue} (h : clear i s = some c) (d : Opnd) (f : Nat → Word × Flags) :
    Retired c { c.writes (fun l => [(c.index d, (f l).1)]) with flags := c.raised fun l => (f l).2 } s
      (c.finish (c.putFlags d f s)) := by
  unfold Issue.putFlags
  by_cases hu : c.uniform = true
  · rw [finish_done h _ (by rw [doers_uniform hu]; split <;> simp [Issue.write, hu])]
    apply retired_of
    rw [doers_uniform hu]
    by_cases ha : c.active = 0
    · rw [if_pos ha]
      apply moved_strand
      · rfl
      · intro l n; unfold Issue.writes; rw [hu]; rfl
      · intro l n; unfold Issue.writes; rw [hu]; rfl
      · intro n; unfold Issue.writes; rw [hu]; simp [ha]
      · intro n; unfold Issue.writes; rw [hu]; simp [ha]
      · unfold Issue.raised; rw [hu]; simp [ha]
      · intro l h; unfold Issue.writes; rw [hu]; simp
    · rw [if_neg ha]
      simp only [List.foldl_cons, List.foldl_nil, Issue.write, hu, if_true]
      apply moved_strand
      · rfl
      · intro l n; unfold Issue.writes; rw [hu]; rfl
      · intro l n; unfold Issue.writes; rw [hu]; rfl
      · intro n
        show Table.get 0 n (Table.put 0 (c.index d) (f c.lead).1 c.st.s) = _
        unfold Issue.writes
        rw [hu, Table.get_put]
        simp only [if_true, if_neg ha, Map.find_one]
        split <;> rfl
      · intro n
        show n ∈ c.st.badS.filter (· != c.index d) ↔ _
        unfold Issue.writes
        rw [hu]
        simp only [if_true, if_neg ha, Map.find_one, List.mem_filter]
        by_cases hn : n = c.index d <;> simp [hn]
      · show c.st.fstat ||| (f c.lead).2 = _
        unfold Issue.raised; rw [hu]; simp only [if_true, if_neg ha]
      · intro l h; unfold Issue.writes; rw [hu]
        simp
  · have hu : c.uniform = false := by simpa using hu
    have hw : (fun (st : Strand) (l : Nat) => (c.write l d (f l).1 st).raiseFlags (f l).2)
        = fun st l => (st.adjLane l (fun L => L.setV (c.index d) (f l).1)).raiseFlags (f l).2 := by
      funext st l; simp [Issue.write, hu, Strand.setV]
    rw [hw, finish_done h _ (by rw [foldl_flags, foldl_adjLane_rest])]
    apply retired_of
    apply moved_lanes hu (fun l L => L.setV (c.index d) (f l).1) (fun l => (f l).2)
    · intro l hl n ha
      show Table.get 0 n (Table.put 0 (c.index d) (f l).1 _) = _
      unfold Issue.writes
      rw [hu, Table.get_put]
      simp only [Bool.false_eq_true, if_false, acts_iff c hl, ha, if_true, Map.find_one]
      split <;> rfl
    · intro l hl n ha; unfold Issue.writes; rw [hu]; simp [acts_iff c hl, ha]
    · intro l hl n ha; unfold Issue.writes; rw [hu]; rfl
    · intro l hl n ha; unfold Issue.writes; rw [hu]; rfl
    · intro n; unfold Issue.writes; rw [hu]; rfl
    · intro l hl n ha
      show n ∈ (c.st.lanes.get l).badV.filter (· != c.index d) ↔ _
      unfold Issue.writes
      rw [hu]
      simp only [Bool.false_eq_true, if_false, acts_iff c hl, ha, if_true, Map.find_one, List.mem_filter]
      by_cases hn : n = c.index d <;> simp [hn]
    · intro l hl ha; unfold Issue.writes; rw [hu]; simp
    · intro l hl ha; unfold Issue.writes; rw [hu]; simp
    · intro l hl ha; unfold Issue.writes; rw [hu]; simp
    · rfl
    · intro l hl; rfl

theorem raiseFlags_zero (st : Strand) : st.raiseFlags 0 = st := by
  unfold Strand.raiseFlags; simp

theorem raised_zero (c : Issue) : (c.raised fun _ => 0) = 0 := by
  unfold Issue.raised; split <;> simp

/-- `put` changes the destination register of every active lane (one s register in a uniform clause). -/
theorem put_retired {i : Instr} {s : State} {c : Issue} (h : clear i s = some c) (d : Opnd) (f : Nat → Word) :
    Retired c (c.writes fun l => [(c.index d, f l)]) s (c.finish (c.put d f s)) := by
  have := putFlags_retired h d fun l => (f l, 0)
  rw [raised_zero] at this
  have hp : c.putFlags d (fun l => (f l, 0)) s = c.put d f s := by
    unfold Issue.putFlags Issue.put
    simp only [raiseFlags_zero]
  rw [hp] at this
  have hw : ({ c.writes (fun l => [(c.index d, f l)]) with flags := 0 } : Change) = c.writes fun l => [(c.index d, f l)] := by
    unfold Issue.writes; split <;> rfl
  rw [hw] at this
  exact this

/-- `putPair` changes the two registers of the destination pair. -/
theorem putPair_retired {i : Instr} {s : State} {c : Issue} (h : clear i s = some c) (d : Opnd) (f : Nat → BitVec 64) :
    Retired c (c.writes fun l => [(c.index d, (f l).extractLsb' 0 32), (c.index d + 1, (f l).extractLsb' 32 32)]) s
      (c.finish (c.putPair d f s)) := by
  unfold Issue.putPair
  by_cases hu : c.uniform = true
  · rw [finish_done h _ (by rw [doers_uniform hu]; split <;> simp [Issue.writePair, hu])]
    apply retired_of
    rw [doers_uniform hu]
    by_cases ha : c.active = 0
    · rw [if_pos ha]
      apply moved_strand
      · rfl
      · intro l n; unfold Issue.writes; rw [hu]; rfl
      · intro l n; unfold Issue.writes; rw [hu]; rfl
      · intro n; unfold Issue.writes; rw [hu]; simp [ha]
      · intro n; unfold Issue.writes; rw [hu]; simp [ha]
      · unfold Issue.writes; rw [hu]; simp
      · intro l h; unfold Issue.writes; rw [hu]; simp
    · rw [if_neg ha]
      simp only [List.foldl_cons, List.foldl_nil, Issue.writePair, hu, if_true]
      apply moved_strand
      · rfl
      · intro l n; unfold Issue.writes; rw [hu]; rfl
      · intro l n; unfold Issue.writes; rw [hu]; rfl
      · intro n
        show Table.get 0 n (Table.put 0 (c.index d + 1) ((f c.lead).extractLsb' 32 32)
          (Table.put 0 (c.index d) ((f c.lead).extractLsb' 0 32) c.st.s)) = _
        unfold Issue.writes
        rw [hu, Table.get_put, Table.get_put]
        simp only [if_true, if_neg ha, Map.find_pair]
        by_cases h1 : n = c.index d
        · simp [h1]
        · by_cases h2 : n = c.index d + 1 <;> simp [h1, h2]
      · intro n
        show n ∈ (c.st.badS.filter (· != c.index d)).filter (· != c.index d + 1) ↔ _
        unfold Issue.writes
        rw [hu]
        simp only [if_true, if_neg ha, Map.find_pair, List.mem_filter]
        by_cases h1 : n = c.index d
        · simp [h1]
        · by_cases h2 : n = c.index d + 1 <;> simp [h1, h2]
      · unfold Issue.writes; rw [hu]; simp
      · intro l h; unfold Issue.writes; rw [hu]; simp
  · have hu : c.uniform = false := by simpa using hu
    have hw : (fun (st : Strand) (l : Nat) => c.writePair l d (f l) st)
        = fun st l => (st.adjLane l (fun L => (L.setV (c.index d) ((f l).extractLsb' 0 32)).setV (c.index d + 1)
          ((f l).extractLsb' 32 32))).raiseFlags 0 := by
      funext st l
      rw [raiseFlags_zero]
      simp only [Issue.writePair, hu, Strand.setV, Strand.adjLane, Bool.false_eq_true, if_false]
      match l with
      | 0 | 1 | 2 | _ + 3 => rfl
    rw [hw, finish_done h _ (by rw [foldl_flags, foldl_adjLane_rest])]
    apply retired_of
    apply moved_lanes hu (fun l L => (L.setV (c.index d) ((f l).extractLsb' 0 32)).setV (c.index d + 1)
          ((f l).extractLsb' 32 32)) (fun l => 0)
    · intro l hl n ha
      show Table.get 0 n (Table.put 0 (c.index d + 1) _ (Table.put 0 (c.index d) _ _)) = _
      unfold Issue.writes
      rw [hu, Table.get_put, Table.get_put]
      simp only [Bool.false_eq_true, if_false, acts_iff c hl, ha, if_true, Map.find_pair]
      by_cases h1 : n = c.index d
      · simp [h1]
      · by_cases h2 : n = c.index d + 1 <;> simp [h1, h2]
    · intro l hl n ha; unfold Issue.writes; rw [hu]; simp [acts_iff c hl, ha]
    · intro l hl n ha; unfold Issue.writes; rw [hu]; rfl
    · intro l hl n ha; unfold Issue.writes; rw [hu]; rfl
    · intro n; unfold Issue.writes; rw [hu]; rfl
    · intro l hl n ha
      show n ∈ ((c.st.lanes.get l).badV.filter (· != c.index d)).filter (· != c.index d + 1) ↔ _
      unfold Issue.writes
      rw [hu]
      simp only [Bool.false_eq_true, if_false, acts_iff c hl, ha, if_true, Map.find_pair, List.mem_filter]
      by_cases h1 : n = c.index d
      · simp [h1]
      · by_cases h2 : n = c.index d + 1 <;> simp [h1, h2]
    · intro l hl ha; unfold Issue.writes; rw [hu]; simp
    · intro l hl ha; unfold Issue.writes; rw [hu]; simp
    · intro l hl ha; unfold Issue.writes; rw [hu]; simp
    · rw [raised_zero]; unfold Issue.writes; rw [hu]; rfl
    · intro l hl; rfl

/-- A draw as the lane takes it. -/
def drawLane (crew : Bool) (L : Lane) : Lane :=
  if crew then { L with drawn := L.drawn + 1 } else { L with draw := L.draw + 1 }

theorem drew_eq (c : Issue) (l : Nat) (st : Strand) : c.drew l st = st.adjLane l (drawLane c.crew.isSome) := by
  unfold Issue.drew drawLane; rfl

theorem drawValue_lane (c : Issue) (s : State) (l : Nat) {a b : Strand} (h : a.lanes.get l = b.lanes.get l) :
    c.drawValue s a l = c.drawValue s b l := by
  unfold Issue.drawValue Issue.drawAt
  simp only [h]

/-- A fold whose steps look at their own lane of a strand that is being changed, lane by lane. -/
theorem foldl_own_lane (F : Nat → Strand → Nat → Lane → Lane) (fl : Nat → Strand → Flags) (st0 : Strand)
    (hF : ∀ l, ∀ a b : Strand, a.lanes.get l = b.lanes.get l → F l a l = F l b l ∧ fl l a = fl l b)
    (ls : List Nat) : ∀ (st : Strand), (∀ i ∈ ls, i < 4) → ls.Nodup → (∀ i ∈ ls, st.lanes.get i = st0.lanes.get i) →
      ls.foldl (fun st l => (st.adjLane l (F l st l)).raiseFlags (fl l st)) st
        = ls.foldl (fun st l => (st.adjLane l (F l st0 l)).raiseFlags (fl l st0)) st := by
  induction ls with
  | nil => intro st _ _ _; rfl
  | cons l ls ih =>
    intro st hl hn ha
    rw [List.nodup_cons] at hn
    have hl' : l < 4 := hl l (by simp)
    rw [List.foldl_cons, List.foldl_cons, (hF l st st0 (ha l (by simp))).1, (hF l st st0 (ha l (by simp))).2]
    apply ih _ (fun i hi => hl i (by simp [hi])) hn.2
    intro i hi
    have hne : i ≠ l := by rintro rfl; exact hn.1 hi
    show (st.adjLane l _).lanes.get i = _
    rw [Strand.adjLane_get _ _ hl' (hl i (by simp [hi])), if_neg hne]
    exact ha i (by simp [hi])

/-- The number that the draw of a lane gives; 0 where the instruction takes none. -/
def Issue.drawn? (c : Issue) (draws : Bool) (s : State) (l : Nat) : Nat :=
  if draws then (c.drawValue s c.st l).toNat else 0

/-- `putDraw` changes the destination register of every active lane, FSTAT and, where the instruction draws, the draw
counter of every lane that computes. -/
theorem putDraw_retired {i : Instr} {s : State} {c : Issue} (h : clear i s = some c) (d : Opnd) (draws : Bool)
    (f : Nat → Nat → Word × Flags) :
    Retired c
      { c.writes (fun l => [(c.index d, (f l (c.drawn? draws s l)).1)]) with
        flags := c.raised fun l => (f l (c.drawn? draws s l)).2
        draws := fun l => draws && c.drawing l } s
      (c.finish (c.putDraw d draws f s)) := by
  unfold Issue.putDraw
  by_cases hu : c.uniform = true
  · rw [finish_done h _ (by
      rw [doers_uniform hu]
      by_cases ha : c.active = 0
      · rw [if_pos ha]; rfl
      · rw [if_neg ha]; simp only [List.foldl_cons, List.foldl_nil, Issue.write, hu, if_true]; split <;> rfl)]
    apply retired_of
    rw [doers_uniform hu]
    by_cases ha : c.active = 0
    · rw [if_pos ha]
      apply moved_strand
      · rfl
      · intro l n; unfold Issue.writes; rw [hu]; rfl
      · intro l n; unfold Issue.writes; rw [hu]; rfl
      · intro n; unfold Issue.writes; rw [hu]; simp [ha]
      · intro n; unfold Issue.writes; rw [hu]; simp [ha]
      · unfold Issue.raised; rw [hu]; simp [ha]
      · intro l h; unfold Issue.drawing; rw [hu]; simp [ha]
    · rw [if_neg ha]
      simp only [List.foldl_cons, List.foldl_nil, Issue.write, hu, if_true]
      have hread : (if draws = true then (c.drawValue s c.st c.lead).toNat else 0) = c.drawn? draws s c.lead := rfl
      rw [hread]
      apply moved_strand
      · split <;> rfl
      · intro l n; unfold Issue.writes; rw [hu]; rfl
      · intro l n; unfold Issue.writes; rw [hu]; rfl
      · intro n
        have : ∀ x : Strand, (if draws = true then c.drew c.lead x else x).s = x.s := by intro x; split <;> rfl
        rw [this]
        show Table.get 0 n (Table.put 0 (c.index d) _ c.st.s) = _
        unfold Issue.writes
        rw [hu, Table.get_put]
        simp only [if_true, if_neg ha, Map.find_one]
        split <;> rfl
      · intro n
        have : ∀ x : Strand, (if draws = true then c.drew c.lead x else x).badS = x.badS := by intro x; split <;> rfl
        rw [this]
        show n ∈ c.st.badS.filter (· != c.index d) ↔ _
        unfold Issue.writes
        rw [hu]
        simp only [if_true, if_neg ha, Map.find_one, List.mem_filter]
        by_cases hn : n = c.index d <;> simp [hn]
      · have : ∀ x : Strand, (if draws = true then c.drew c.lead x else x).fstat = x.fstat := by intro x; split <;> rfl
        rw [this]
        show c.st.fstat ||| _ = _
        unfold Issue.raised; rw [hu]; simp only [if_true, if_neg ha]
      · intro l hl
        unfold Issue.drawing
        rw [hu]
        by_cases hd : draws = true
        · simp only [hd, if_true]
          rw [drew_eq, Strand.adjLane_get _ _ (lead_lt h) hl]
          by_cases hll : l = c.lead
          · rw [if_pos hll]
            unfold drawLane
            cases hc : c.crew with
            | none => simp [hll, Strand.raiseFlags, Strand.setS]; exact ha
            | some x => simp [hll, Strand.raiseFlags, Strand.setS]; exact ha
          · rw [if_neg hll]
            simp [hll, Strand.raiseFlags, Strand.setS]
        · simp only [hd]
          simp [Strand.raiseFlags, Strand.setS]
  · have hu : c.uniform = false := by simpa using hu
    let fin (L : Lane) : Lane := if draws then drawLane c.crew.isSome L else L
    let F (l : Nat) (st : Strand) (_ : Nat) (L : Lane) : Lane :=
      fin (L.setV (c.index d) (f l (if draws then (c.drawValue s st l).toNat else 0)).1)
    let fl (l : Nat) (st : Strand) : Flags := (f l (if draws then (c.drawValue s st l).toNat else 0)).2
    have hw : (fun (st : Strand) (l : Nat) =>
        let r := f l (if draws then (c.drawValue s st l).toNat else 0)
        let st := (c.write l d r.1 st).raiseFlags r.2
        if draws then c.drew l st else st)
        = fun st l => (st.adjLane l (F l st l)).raiseFlags (fl l st) := by
      funext st l
      by_cases hd : draws = true
      · simp only [hd, if_true, drew_eq, Issue.write, hu, Strand.setV, Bool.false_eq_true, if_false, F, fl, fin]
        unfold Strand.adjLane Strand.raiseFlags
        match l with
        | 0 | 1 | 2 | _ + 3 => rfl
      · simp only [hd, Issue.write, hu, Strand.setV, Bool.false_eq_true, if_false, F, fl, fin]
    have hfold : c.doers.foldl (fun st l => (st.adjLane l (F l st l)).raiseFlags (fl l st)) c.st
        = c.doers.foldl (fun st l => (st.adjLane l (F l c.st l)).raiseFlags (fl l c.st)) c.st := by
      have hdoers : c.doers = lanesIn c.active := by unfold Issue.doers; rw [hu]; rfl
      rw [hdoers]
      refine foldl_own_lane F fl c.st ?_ _ c.st (fun _ h => mem_lanesIn_lt h) (lanesIn_nodup _) (fun _ _ => rfl)
      intro l a b hab
      simp only [F, fl, drawValue_lane c s l hab, and_self]
    rw [hw, finish_done h _ (by rw [hfold, foldl_flags, foldl_adjLane_rest]), hfold]
    apply retired_of
    have hsetv : ∀ l L, (F l c.st l L).v = Table.put 0 (c.index d) (f l (c.drawn? draws s l)).1 L.v ∧
        (F l c.st l L).badV = L.badV.filter (· != c.index d) ∧ (F l c.st l L).p = L.p ∧
        F l c.st l L = { L with
          v := (F l c.st l L).v, p := (F l c.st l L).p, badV := (F l c.st l L).badV
          draw := (F l c.st l L).draw, drawn := (F l c.st l L).drawn } := by
      intro l L
      simp only [F, fin, drawLane, Issue.drawn?]
      by_cases hd : draws = true
      · by_cases hc : c.crew.isSome = true
        · simp only [hd, hc, if_true]; exact ⟨rfl, rfl, rfl, rfl⟩
        · simp only [hd, hc, if_true]; exact ⟨rfl, rfl, rfl, rfl⟩
      · simp only [hd]; exact ⟨rfl, rfl, rfl, rfl⟩
    apply moved_lanes hu (fun l => F l c.st l) (fun l => fl l c.st)
    · intro l hl n ha
      rw [(hsetv l _).1]
      unfold Issue.writes
      rw [hu, Table.get_put]
      simp only [Bool.false_eq_true, if_false, acts_iff c hl, ha, if_true, Map.find_one]
      split <;> rfl
    · intro l hl n ha; unfold Issue.writes; rw [hu]; simp [acts_iff c hl, ha]
    · intro l hl n ha; unfold Issue.writes; rw [hu, (hsetv l _).2.2.1]; rfl
    · intro l hl n ha; unfold Issue.writes; rw [hu]; rfl
    · intro n; unfold Issue.writes; rw [hu]; rfl
    · intro l hl n ha
      rw [(hsetv l _).2.1]
      unfold Issue.writes
      rw [hu]
      simp only [Bool.false_eq_true, if_false, acts_iff c hl, ha, if_true, Map.find_one, List.mem_filter]
      by_cases hn : n = c.index d <;> simp [hn]
    · intro l hl ha
      unfold Issue.drawing
      rw [hu]
      simp only [F, fin, drawLane, Bool.false_eq_true, if_false, acts_iff c hl, ha, Bool.and_true]
      by_cases hd : draws = true
      · cases hc : c.crew <;> simp [hd]
      · simp [hd]
    · intro l hl ha
      unfold Issue.drawing
      rw [hu]
      simp only [F, fin, drawLane, Bool.false_eq_true, if_false, acts_iff c hl, ha, Bool.and_true]
      by_cases hd : draws = true
      · cases hc : c.crew <;> simp [hd]
      · simp [hd]
    · intro l hl ha; unfold Issue.drawing; rw [hu]; simp [acts_iff c hl, ha]
    · rfl
    · intro l hl; exact (hsetv l _).2.2.2

theorem lanesIn_single {l : Nat} (h : l < 4) : lanesIn (maskOf (· == l)) = [l] := by
  interval_cases l <;> decide

theorem isP7 (n : BitVec 3) : (n == 7) = Nat.beq n.toNat 7 := by revert n; decide

theorem setPred_badV (L : Lane) (n : BitVec 3) (b : Bool) (k : Nat) :
    k ∈ (L.setPred n b).badV ↔ k ∈ L.badV ∧ (n.toNat = 7 ∨ k ≠ 256 + n.toNat) := by
  unfold Lane.setPred
  rw [isP7]
  by_cases h : n.toNat = 7
  · simp [h]
  · have : Nat.beq n.toNat 7 = false := by cases hb : Nat.beq n.toNat 7; rfl; exact absurd (Nat.eq_of_beq_eq_true hb) h
    simp [h, this]

theorem setPred_p (L : Lane) (n : BitVec 3) (b : Bool) (k : Nat) :
    (L.setPred n b).p.getLsbD k = if n.toNat ≠ 7 ∧ k = n.toNat then b else L.p.getLsbD k := by
  unfold Lane.setPred
  rw [isP7]
  have hn := n.isLt
  by_cases h : n.toNat = 7
  · simp [h]
  · have : Nat.beq n.toNat 7 = false := by cases hb : Nat.beq n.toNat 7; rfl; exact absurd (Nat.eq_of_beq_eq_true hb) h
    simp only [this, h, ne_eq, not_false_eq_true, true_and, Bool.false_eq_true, if_false]
    cases b
    · simp only [Bool.false_eq_true, if_false, BitVec.getLsbD_and, BitVec.getLsbD_not, BitVec.getLsbD_shiftLeft,
        BitVec.getLsbD_one]
      by_cases hk : k = n.toNat
      · subst hk; simp [show n.toNat < 8 by omega]
      · simp only [hk, if_false]
        by_cases h8 : k < 8
        · by_cases hl : k < n.toNat
          · simp [h8, hl]
          · have : k - n.toNat ≠ 0 := by omega
            simp [h8, hl, this]
        · simp [h8, BitVec.getLsbD_of_ge L.p k (by omega)]
    · simp only [if_true, BitVec.getLsbD_or, BitVec.getLsbD_shiftLeft, BitVec.getLsbD_one]
      by_cases hk : k = n.toNat
      · subst hk; simp [show n.toNat < 8 by omega]
      · simp only [hk, if_false]
        by_cases hl : k < n.toNat
        · simp [hl]
        · have : k - n.toNat ≠ 0 := by omega
          simp [hl, this]

theorem setPred_rest (L : Lane) (n : BitVec 3) (b : Bool) :
    L.setPred n b = { L with p := (L.setPred n b).p, badV := (L.setPred n b).badV } := by
  unfold Lane.setPred; split <;> rfl

/-- `putPred` changes the destination predicate of every active lane (of every live lane in a uniform clause) and FSTAT;
p7 stays as it is. -/
theorem putPred_retired {i : Instr} {s : State} {c : Issue} (h : clear i s = some c) (q : BitVec 3) (f : Nat → Bool × Flags) :
    Retired c { c.writesPred q (fun l => (f l).1) with flags := c.raised fun l => (f l).2 } s
      (c.finish (c.putPred q f s)) := by
  unfold Issue.putPred
  have hq := q.isLt
  by_cases hu : c.uniform = true
  · rw [finish_done h _ (by
      rw [doers_uniform hu]
      by_cases ha : c.active = 0
      · rw [if_pos ha]; rfl
      · rw [if_neg ha]; simp [Issue.writePred, hu])]
    apply retired_of
    rw [doers_uniform hu]
    by_cases ha : c.active = 0
    · rw [if_pos ha]
      apply moved_strand
      · rfl
      · intro l n; rfl
      · intro l n; unfold Issue.writesPred; rw [hu]; simp [ha]
      · intro n; rfl
      · intro n; simp [Issue.writesPred]
      · unfold Issue.raised; rw [hu]; simp [ha]
      · intro l h; simp [Issue.writesPred]
    · rw [if_neg ha]
      simp only [List.foldl_cons, List.foldl_nil, Issue.writePred, hu, if_true]
      have hg : ∀ l < 4, ((c.st.mapLanes c.st.live (·.setPred q (f c.lead).1)).raiseFlags (f c.lead).2).lanes.get l
          = if c.st.live.getLsbD l then (c.st.lanes.get l).setPred q (f c.lead).1 else c.st.lanes.get l :=
        fun l hl => Strand.mapLanes_get c.st.live (·.setPred q (f c.lead).1) c.st hl
      have hpd : ∀ l n, ({ c.writesPred q (fun l => (f l).1) with flags := c.raised fun l => (f l).2 } : Change).p l n
          = if n ≠ q.toNat ∨ n = 7 then none else if c.st.live.getLsbD l then some (f c.lead).1 else none := by
        intro l n
        unfold Issue.writesPred
        simp only [hu, if_true]
        by_cases hl : c.st.live.getLsbD l = true
        · simp only [hl, and_true, if_true, if_pos (show c.active ≠ 0 from ha)]
        · simp only [hl]; simp
      apply moved_count
      · rfl
      · intro l hl n; rw [hg l hl]
        split
        · rw [setPred_rest]; rfl
        · rfl
      · intro l hl n
        rw [hg l hl, hpd]
        by_cases hlv : c.st.live.getLsbD l = true
        · simp only [hlv, if_true, setPred_p]
          by_cases h1 : n = q.toNat
          · by_cases h2 : n = 7
            · have h2' : q.toNat = 7 := h1 ▸ h2
              simp [h1, h2']
            · have h2' : q.toNat ≠ 7 := h1 ▸ h2
              simp [h1, h2']
          · simp [h1]
        · simp only [hlv]; simp
      · intro n; rfl
      · intro l hl n
        rw [hg l hl, hpd]
        show _ ↔ n ∈ _ ∧ none = none ∧ _
        by_cases hlv : c.st.live.getLsbD l = true
        · simp only [hlv, if_true, setPred_badV, true_and]
          refine and_congr_right fun _ => ?_
          constructor
          · intro hh hn; rw [if_pos]; omega
          · intro hh
            by_cases hn : 256 ≤ n
            · have := hh hn
              by_contra hc
              rw [if_neg (by omega)] at this
              cases this
            · omega
        · simp only [hlv]; simp
      · intro n; show _ ↔ _ ∧ none = none; simp [Strand.raiseFlags]
      · intro l hl; rw [hg l hl]
        split
        · rw [setPred_rest]; simp [Issue.writesPred]
        · simp [Issue.writesPred]
      · intro l hl; rw [hg l hl]
        split
        · rw [setPred_rest]; simp [Issue.writesPred]
        · simp [Issue.writesPred]
      · show c.st.fstat ||| _ = _
        unfold Issue.raised; rw [hu]; simp only [if_true, if_neg ha]
      · intro l hl; rw [hg l hl]
        split
        · rw [setPred_rest]
        · rfl
  · have hu : c.uniform = false := by simpa using hu
    have hdoers : c.doers = lanesIn c.active := by unfold Issue.doers; rw [hu]; rfl
    have hw : ∀ (ls : List Nat), (∀ l ∈ ls, l < 4) → ∀ st : Strand,
        ls.foldl (fun (st : Strand) (l : Nat) => (c.writePred l q (f l).1 st).raiseFlags (f l).2) st
        = ls.foldl (fun st l => (st.adjLane l (fun L => L.setPred q (f l).1)).raiseFlags (f l).2) st := by
      intro ls
      induction ls with
      | nil => intro _ _; rfl
      | cons l ls ih =>
        intro hl st
        rw [List.foldl_cons, List.foldl_cons, ih (fun x hx => hl x (by simp [hx]))]
        congr 2
        unfold Issue.writePred Strand.mapLanes Strand.adjLane
        rw [hu, lanesIn_single (hl l (by simp))]
        rfl
    rw [finish_done h _ (by
      rw [hdoers, hw _ (fun l hl => mem_lanesIn_lt hl), foldl_flags, foldl_adjLane_rest])]
    apply retired_of
    have hw' := hw c.doers (fun l hl => by rw [hdoers] at hl; exact mem_lanesIn_lt hl) c.st
    rw [hw']
    have hpd : ∀ l < 4, ∀ n, ({ c.writesPred q (fun l => (f l).1) with flags := c.raised fun l => (f l).2 } : Change).p l n
        = if n ≠ q.toNat ∨ n = 7 then none else if c.active.getLsbD l then some (f l).1 else none := by
      intro l hl n
      unfold Issue.writesPred
      simp only [hu, Bool.false_eq_true, if_false, acts_iff c hl]
    apply moved_lanes hu (fun l L => L.setPred q (f l).1) (fun l => (f l).2)
    · intro l hl n ha
      rw [setPred_rest]; rfl
    · intro l hl n ha; rfl
    · intro l hl n ha
      rw [hpd l hl, setPred_p]
      simp only [ha, if_true]
      by_cases h1 : n = q.toNat
      · by_cases h2 : n = 7
        · have h2' : q.toNat = 7 := h1 ▸ h2
          simp [h1, h2']
        · have h2' : q.toNat ≠ 7 := h1 ▸ h2
          simp [h1, h2']
      · simp [h1]
    · intro l hl n ha; rw [hpd l hl]; simp [ha]
    · intro n; rfl
    · intro l hl n ha
      rw [hpd l hl, setPred_badV]
      show _ ↔ n ∈ _ ∧ none = none ∧ _
      simp only [ha, if_true, true_and]
      refine and_congr_right fun _ => ?_
      constructor
      · intro hh hn; rw [if_pos]; omega
      · intro hh
        by_cases hn : 256 ≤ n
        · have := hh hn
          by_contra hc
          rw [if_neg (by omega)] at this
          cases this
        · omega
    · intro l hl ha; rw [setPred_rest]; simp [Issue.writesPred]
    · intro l hl ha; rw [setPred_rest]; simp [Issue.writesPred]
    · intro l hl ha; simp [Issue.writesPred]
    · rfl
    · intro l hl
      conv_lhs => rw [setPred_rest]
      rw [setPred_rest]

end Sys2Proof.Machine
end

