-- ==== Sys2Proof/Tests/Setup.lean ====
section
/-! SUPPORT. Small machines for the tests: one that stands at an instruction, and the changes that a test makes to it. -/

namespace Sys2Proof.Tests

open Sys2Proof.Machine

/-- No guard (R127). -/
def g7 : Guard := ⟨false, 7⟩

/-- A guard that never holds. -/
def gNever : Guard := ⟨true, 7⟩

/-- A machine that stands at an instruction, inside a clause of one instruction. -/
def stand (i : Instr) : State :=
  match encode i with
  | [a] => State.reset.withFetchWord 32 a.toNat
  | [a, b] => State.reset.withFetchWord 64 (a.toNat + b.toNat * 2 ^ 32)
  | _ => State.reset

/-- The instruction issues at the machine with nothing in its way, and the condition holds of its issue. -/
def meets (i : Instr) (s : State) (p : Issue → Bool) : Bool :=
  match clear i s with
  | some c => p c
  | none => false

/-- The instruction issues with nothing in its way where it stands. -/
def issues (i : Instr) : Bool := (clear i (stand i)).isSome

/-- Lane `l` of a strand holds a value in v(n). -/
def withV (l n : Nat) (x : Word) (s : State) : State :=
  s.adjStrand 0 fun st =>
    { st with lanes := st.lanes.set l { st.lanes.get l with v := Table.put 0 n x (st.lanes.get l).v } }

/-- Every lane holds a value in v(n). -/
def withAllV (n : Nat) (x : Word) (s : State) : State :=
  s.adjStrand 0 fun st => { st with lanes := st.lanes.map fun l => { l with v := Table.put 0 n x l.v } }

/-- Every lane of the strand has its predicates. -/
def withP (p : BitVec 8) (s : State) : State :=
  s.adjStrand 0 fun st => { st with lanes := st.lanes.map fun l => { l with p := p } }

/-- The clause that the strand stands in is uniform. -/
def asUniform (s : State) : State :=
  s.adjStrand 0 fun st => st.mapLanes 15 fun l =>
    { l with flow := { l.flow with ctx := l.flow.ctx.map fun x => { x with word := x.word ||| 0x01000000#32 } } }

/-- The strand's launch, changed. -/
def withLaunch (f : Launch → Launch) (s : State) : State := s.adjLaunch 1 f

/-- The strand's item, changed. -/
def withItem (f : Item → Item) (s : State) : State := s.adjItem 1 f

/-- What the launch holds on tile 0, changed. -/
def withHeld (f : TileLaunch → TileLaunch) (s : State) : State := s.adjHeld 0 1 f

/-- The strand, changed. -/
def withStrand (f : Strand → Strand) (s : State) : State := s.adjStrand 0 f

/-- A page of ASID 1, mapped to itself in HBM with W, X, A and D set, in the TLB of cluster 0. -/
def withPage (va : Nat) (s : State) : State :=
  { s with clusters := Map.insert 0 ⟨[⟨1, va / 4096 * 4096, 0, 0x6F + va / 4096 * 4096⟩], []⟩ s.clusters }

/-- A step that an event takes. -/
def goes (i : Instr) (s : State) : Bool :=
  match exec i s with
  | .next _ => true
  | _ => false

/-- The next state of an instruction. -/
def after (i : Instr) (s : State) : State :=
  match exec i s with
  | .next t => t
  | _ => s

/-- The strand of a small machine. -/
def strand0 (s : State) : Strand := (s.strand 0).getD default

/-- v(n) of a lane. -/
def vOf (s : State) (l n : Nat) : Word := Table.get 0 n ((strand0 s).lanes.get l).v

/-- A machine whose strand runs crew code as worker 1 to 4 of a crew of one context. -/
def inCrew (i : Instr) : State :=
  let s := stand i
  let r : Crew :=
    { tile := 0, recruiter := 5, lane := 0, window := [(3, 7)], contexts := [1], seg := 1, g := 1, count := 9, targets := []
      folds := [], begun := [], ended := [], limit := none, drawBase := 0, pc := 0x1004, gen := 1, flags := 0, poisoned := false }
  withStrand (fun st => { st with seat := some ⟨1, 1⟩ }) { s with crews := Map.insert 1 r s.crews }

/-- A strand in its handler. -/
def inHandler (s : State) : State :=
  withStrand (fun st => { st with handler := some ⟨st.lanes.map (·.flow), 15, .none, 15, 0x1004⟩ }) s

/-- A load in flight whose destination is v5 of every lane. -/
def inFlight (kind : PendKind) (left : Nat) : Pending :=
  { id := 1, kind := kind, pc := 0x1004, w1 := 0, w2 := 0, left := left, locks := [(0, 5), (1, 5), (2, 5), (3, 5)], writes := []
    preds := [], poisoned := 0, killed := 0, flags := 0, causes := [], ready := false, logged := false }

/-- Every lane holds an address in the pair v(n), v(n + 1). -/
def withAddr (n a : Nat) (s : State) : State :=
  withAllV (n + 1) (BitVec.ofNat 32 (a / 2 ^ 32)) (withAllV n (BitVec.ofNat 32 a) s)

/-- A deterministic launch whose ring holds these items, with the token at a place. -/
def withToken (ring : List Nat) (holder : Nat) (s : State) : State :=
  withLaunch (fun la => { la with det := true, token := ⟨ring, holder, 7, []⟩ }) s

/-- A command of the placed strand in a queue. -/
def aCommand (op : Instr) (st : EntryState) : Command :=
  { no := 4, id := 20, state := st, op := op, launch := 1, item := 1, stage := 0, strand := 0, lane := 0, program := false
    guardSlot := none, floor := false, descs := [], value := 0, value2 := 0, pend := none, pc := 0x1004, w1 := 0, w2 := 0
    pass := 0, cursor := 0, err := 0, dropped := false, endBit := false, seq := 0, handle := 0, started := false, reruns := 0, flags := 0
    drawn := 0, count := 0, wait := [], got := [], retcnt := 0, fault := none, met := [], finished := false, gen := 1 }

/-- A machine whose tile 0 has these copy commands and array commands. -/
def withQueues (copies array : List Command) (s : State) : State := s.setTile 0 { s.tile 0 with copies := copies, array := array }

/-- A FILL of the scratchpad. -/
def aFill : Instr := .fill g7 0 (.dir 2) 2 ⟨false, .lanePrivate, .scratch⟩ 0x7F

/-- The modifiers of an access without an order. -/
def plain (sp : Space) : MemMod := ⟨.strand, .none, sp⟩

/-- A machine whose lanes' v2 and v3 hold addresses in a page of HBM that the TLB knows. -/
def onPage (i : Instr) : State := withPage 0x10000 (withAddr 2 0x10000 (stand i))

/-- A second strand in the item. -/
def twoOf (i : Instr) : State :=
  let s := withLaunch (fun la => { la with stages := la.stages.map fun x => { x with width := 2 } }) (stand i)
  match s.strand 0 with
  | some st => withItem (fun it => { it with strands := [0, 1] }) (s.setStrand 1 { st with inItem := 1, context := 1 })
  | none => s

/-- FABCFG of a package in a pod: how many packages, its number, the calendar (R332). -/
def fabcfgOf (packages self calendar : Nat) : BitVec 64 :=
  BitVec.ofNat 64 (0xFFFF * 2 ^ 48 + calendar * 2 ^ 30 + (packages - 1) * 2 ^ 23 + self * 2 ^ 16 + 25)

/-- A machine in a pod of four packages as package 1, its calendar the spread one. -/
def inPod (s : State) : State := after .podFormation { s with fabric := { s.fabric with fabcfg := fabcfgOf 4 1 0 } }

/-- A machine whose main memory has met nothing yet is quiet. -/
theorem quiet_of (s : State) (h : s.mem = { State.reset.mem with banks := s.mem.banks }) : quiet s := by
  refine ⟨by rw [h]; rfl, by rw [h]; rfl, by rw [h]; exact (by decide : State.reset.mem.migctl.getLsbD 32 = false), fun g c k => ?_⟩
  rw [h] at k
  cases k

end Sys2Proof.Tests
end

