-- ==== Sys2Proof/Tests/Slice0.lean ====
section
/-! SUPPORT. The smoke test of well-formedness, words that are refused, clause headers, and the worked examples of the
specification. Every expected value stands in the specification. -/

set_option maxRecDepth 100000

namespace Sys2Proof.Tests

open Sys2Proof.Machine

/-! Ill-formed terms, one for each check of R135 on the operands (R129, R217, R219, R228, R235, R359, R478). -/

theorem test_ill_formed_pairs :
    ([Instr.add64 g7 (.dir 1) (.dir 4) (.dir 6), .add64 g7 (.dir 2) (.dir 5) (.dir 6), .add64 g7 (.dir 2) (.dir 4) (.dir 7),
      .ballot g7 (.dir 9) false 0, .cfetch g7 1 (.dir 9) 0, .dset g7 0 (.dir 9) false 0, .prefetch g7 false false (.dir 9) 0,
      .bkopen g7 (.dir 1) (.dir 9) 0 ⟨false, .lanePrivate, .global⟩, .mstat g7 (.dir 9) 0, .launch g7 (.dir 1) (.dir 9) 0,
      .mboxw g7 0 (.dir 9), .keyopBzero g7 (.dir 1) (.dir 9) 0 0 0, .sysr g7 (.dir 9) 0x10, .sysw g7 (.dir 9) 0x1300].all
      fun i => !i.wf) = true := by decide

theorem test_ill_formed_accesses :
    ([Instr.ld g7 0 ⟨.tile, .none, .scratch⟩ .n32 (.dir 1) (.dir 2) 0, .ld g7 0 (plain .global) .n32 (.dir 1) (.dir 3) 0,
      .ld g7 0 (plain .scratch) .n64 (.dir 1) (.dir 2) 0, .st g7 0 ⟨.die, .none, .scratch⟩ .n32 (.dir 1) (.dir 2) 0,
      .st g7 0 (plain .host) .n32 (.dir 1) (.dir 2) 0, .st g7 0 (plain .scratch) .n64 (.dir 1) (.dir 3) 0,
      .gather g7 0 ⟨.pod, .none, .scratch⟩ .n8 (.dir 1) (.dir 2) (.dir 3), .gather g7 0 (plain .dieScratch) .n8 (.dir 1) (.dir 3) (.dir 3),
      .gather g7 0 (plain .scratch) .n64 (.dir 1) (.dir 2) (.dir 3), .scatter g7 0 (plain .remoteScratch) .n8 (.dir 1) (.dir 2) (.dir 3),
      .scatter g7 0 (plain .scratch) .n64 (.dir 1) (.dir 2) (.dir 3), .watch g7 .global .ld 0 (.dir 1) 0].all fun i => !i.wf) = true := by
  decide

theorem test_ill_formed_atomics :
    ([Instr.atomAdd g7 0 ⟨.tile, .none, .scratch⟩ false (.dir 1) (.dir 2) (.dir 3) 0, .atomOr g7 0 (plain .global) false (.dir 1) (.dir 3) (.dir 3) 0,
      .atomXor g7 0 (plain .scratch) true (.dir 1) (.dir 2) (.dir 4) 0, .atomCas g7 0 (plain .scratch) true (.dir 2) (.dir 2) (.dir 3) 0,
      .atomFadd g7 0 (plain .scratch) true (.dir 2) (.dir 2) (.dir 4) 0, .atomFmin g7 0 (plain .scratch) true (.dir 2) (.dir 2) (.dir 4) 0,
      .atomFmax g7 0 (plain .scratch) true (.dir 2) (.dir 2) (.dir 4) 0,
      .rld g7 0 .strand .none .n32 (.dir 1) (.dir 3) (.dir 5), .rst g7 0 .strand .none .n64 (.dir 2) (.dir 5) (.dir 5),
      .ratom g7 0 .strand .none .fadd true (.dir 2) (.dir 4) (.dir 6) (.dir 5), .ratom g7 0 .strand .none .add false (.dir 1) (.dir 3) (.dir 6) (.dir 5),
      .tidewaitPeer g7 (.dir 1) (.dir 2) (some 5), .keyopBzero g7 (.dir 1) (.dir 2) 0 0 23].all fun i => !i.wf) = true := by decide

/-! Words that name no instruction, by the check they fail (R133 to R135). -/

/-- The check of R135 that two words fail. -/
def fails (a b : Word) : Option DecodeError :=
  match decode a b with
  | .ok _ => none
  | .error e => some e

theorem test_reserved_majors :
    ([0x9CE00000, 0x9EE00000, 0xFCE00000, 0xFEE00000].all fun (w : Word) => fails w 0 == some .opcode) = true := by decide

theorem test_reserved_members :
    ([(0xC8E00000, 0x0F000000), (0xD8E00000, 0x06000000), (0xF8E00000, 0x06000000), (0xC0E00002, 0x01000000)].all
      fun (w : Word × Word) => fails w.1 w.2 == some .minor) = true := by decide

theorem test_reserved_fields :
    ([(0x00E00001, 0), (0x02E00001, 0), (0x04E00080, 0), (0x3CF40000, 0), (0x5AF00000, 0), (0x5EE00004, 0), (0x68E00030, 0),
      (0x6AE00014, 0), (0x70E00003, 0), (0x7EE0000B, 0), (0xB4E0C000, 0), (0xA6E00041, 0), (0xC0E00006, 0), (0xC0E00002, 0x00200001),
      (0xCAE00080, 0), (0xE0E00000, 0x00400000), (0xD8E00000, 0x00800000), (0xFAE00000, 0x00020000), (0xF8E00000, 0x03000000)].all
      fun (w : Word × Word) => fails w.1 w.2 == some .field) = true := by decide

/-! Clause headers (R117). -/

theorem test_header_counter : headerOf 0x24811400 = ⟨2, 2, false, true, false, false, false, false, false, false, true, 5⟩ := by decide

theorem test_header_crew : headerOf 0x22000000 = ⟨2, 1, false, false, false, false, false, false, false, false, false, 0⟩ := by decide

/-! 01_package.md: placing tile 443. -/

theorem test_tile_443 :
    (dieOf 443, clusterOf 443, memberOf 443, tileAt 113 1) = (4, 113, 1, 443)
    ∧ (dieLocalTile 443, dieLocalCluster 443) = (35, 11)
    ∧ neighbours 443 = [(0, 419), (1, 444), (2, 467), (3, 442)] := by decide

/-! 02_number_formats.md. -/

/-- Reading NI4 at two planes. -/
theorem test_ni4_planes :
    ([5, -3, 0, -8].map (niRead 4 2 false) = [4, -4, 0, -8]) ∧ ([5, -3, 0, -8].map (niRead 4 2 true) = [6, -2, 2, -6]) := by decide

/-- Rounding FP32 to BF16 by RNE, RTZ, RDN, RUP and by SR with both samples. -/
theorem test_bf16_rounding :
    ([0x3F808000, 0x3F818000, 0xBF808000, 0x3F804000].map fun (w : Word) =>
      ([(Rnd.rne, 0), (.rtz, 0), (.rdn, 0), (.rup, 0), (.sr, 0x7FFFFFFF), (.sr, 0x80000000)].map fun (m : Rnd × Nat) =>
        (FKind.bf16.round m.1 m.2 false false (read32 w)).1))
    = [[0x3F80, 0x3F80, 0x3F80, 0x3F81, 0x3F81, 0x3F80], [0x3F82, 0x3F81, 0x3F81, 0x3F82, 0x3F82, 0x3F81],
       [0xBF80, 0xBF80, 0xBF81, 0xBF80, 0xBF81, 0xBF80], [0x3F80, 0x3F80, 0x3F80, 0x3F81, 0x3F80, 0x3F80]] := by decide

/-- Narrowing to FP8 and FP4, with the flags. -/
theorem test_narrowing :
    FKind.e4m3.round .rne 0 false false (read32 0x43FA0000) = (0x7F, flagOF ||| flagNX ||| flagNV)
    ∧ FKind.e4m3.round .rne 0 true false (read32 0x43FA0000) = (0x7E, flagOF ||| flagNX)
    ∧ FKind.e4m3.round .rne 0 false false (read32 0x43E00000) = (0x7E, 0)
    ∧ FKind.e2m1.round .rne 0 false false (read32 0x40200000) = (0x4, flagNX)
    ∧ FKind.e2m1.round .rne 0 false false (read32 0x40A00000) = (0x6, flagNX)
    ∧ FKind.e2m1.round .rtz 0 false false (read32 0x41000000) = (0x7, flagOF ||| flagNX)
    ∧ FKind.e4m3.round .rne 0 false false (read32 0x3A000000) = (0x00, flagUF ||| flagNX) := by decide

/-! 03_main_memory.md. -/

/-- Placing 0x1234_5600: stack 6, pseudo-channel 26, bank 4, row 6, column 1. -/
theorem test_placing : bankGranule (6 * 4096 + 26 * 64 + 4) 6 1 = 0x123456 := by decide

/-- The plane split of an E2M1 row. -/
theorem test_plane_split :
    (blockConvert 3 (.fp .e2m1) 0 [0x1D3]).take 20 = [2, 2, 1, 3, 7].flatMap (leBytes 4)
    ∧ (blockConvert 3 (.fp .e2m1) 1 [0x1D3]).length = 16 := by decide

/-! 04_translation.md: a store into a 32 MiB page. -/

theorem test_walk :
    (let put (a v : Nat) (s : State) : State := after (.memoryRequest a 0 .local (.write (leBytes 8 v))) s
     let s := put 0x100000008 0x100001001 (put 0x100001010 0x100002001 (put 0x100002028 0x100003001
       (put 0x100003618 0x0040000204018127 (put 0x100003600 0x0040000204000127 State.reset))))
     let va := 0x0001010158612345
     let w := walkFrom s va 4 0x100000000 []
     match w.2 with
     | .ok (leaf, a, level) => decide (w.1 = [(4, 0x100001000), (3, 0x100002000), (2, 0x100003000)])
         && leaf == 0x0040000204000127 && a == 0x100003600 && level == 1 && (xlatOf 7 va leaf).pa == 0x204612345
     | .error _ => false) = true := by decide +kernel

/-! 07_copy_and_routing.md. -/

/-- The descriptors of a slab and of its plane stack: both move 40,960 bytes. -/
theorem test_plane_stack_descriptors :
    let src : List (BitVec 256) := [0x000000000080001F_000000000000001F_00000000000150C4_0000004000000000, 0x0000000010000007_0000000000100007]
    let dst : List (BitVec 256) := [0x000000000020001F_0000000020000004_0000000000000024_000000000000C000, 0x0000000004000007_0000000000040007]
    (tensorOf dst).bytes = 40960 ∧ layoutFails (tensorOf src) = false ∧ (tensorOf src).efmt = 0x15 ∧ (tensorOf src).lay = 3
    ∧ descFails ⟨true, .global⟩ 0 src = none ∧ descFails ⟨false, .scratch⟩ 4 dst = none := by decide

/-- Records of the placement across two packages. -/
theorem test_routing_words :
    manifestWord 1 0 0 1 0 3 false = 0x0000010000180001 ∧ manifestWord 1 1 1 0 1 4 false = 0x00004C7FFFF81000
    ∧ [inverseWord 0 0 0, inverseWord 0 1 1, inverseWord 1 0 1, inverseWord 1 1 0] = [0x80000000, 0x80800080, 0x80800001, 0x80000081] := by
  decide

/-! 08_consistency.md: four lanes add to one word. -/

theorem test_four_lanes_add :
    let s := after (.memoryRequest 0x1000 0 .local (.write (leBytes 4 0x3F800000))) State.reset
    let t := after (.memorySideAtomic 0x1000 0 .fadd false [(0x4B800000, 0), (0x3F800000, 0), (0xCB800000, 0), (0x3F800000, 0)]) s
    t.answer.data = [0x3F800000, 0x4B800000, 0x4B800000, 0].flatMap (leBytes 4)
    ∧ (after (.memoryRequest 0x1000 0 .local (.read 4)) t).answer.data = leBytes 4 0x3F800000 := by decide +kernel

/-! 10_isa_compute.md. -/

/-- CVT through a slot of E4M3 under RNE writes 0x7F and raises OF, NX and NV. -/
theorem test_cvt :
    (let i : Instr := .cvt g7 .f32To (.dir 5) (.dir 4) 2
     let t := after i (withAllV 4 0x43FA0000 (withLaunch (fun la => { la with slots := [0, 0, 0x13, 0, 0, 0, 0, 0] }) (stand i)))
     (vOf t 0 5, vOf t 3 5, (strand0 t).fstat)) = (0x7F, 0x7F, flagOF ||| flagNX ||| flagNV) := by decide

/-- ISETP compares natural numbers and signed ones. -/
theorem test_isetp :
    (let i : Instr := .isetp g7 .lts 3 (.dir 4) (.dir 5)
     let j : Instr := .isetp g7 .ltn 3 (.dir 4) (.dir 5)
     let t (i : Instr) := after i (withAllV 4 0xFFFFFFFF (withAllV 5 1 (stand i)))
     (((strand0 (t i)).lanes.get 0).p.getLsbD 3, ((strand0 (t j)).lanes.get 0).p.getLsbD 3)) = (true, false) := by decide

/-- ADDI of the worked example of 15_traps.md writes every lane. -/
theorem test_addi :
    (let i : Instr := .addi g7 (.dir 3) (.dir 3) 4
     let t := after i (withV 0 3 0x100 (withV 1 3 0x104 (withV 2 3 0x17FFC (withV 3 3 0x10C (stand i)))))
     [vOf t 0 3, vOf t 1 3, vOf t 2 3, vOf t 3 3]) = [0x104, 0x108, 0x18000, 0x110] := by decide

/-! 11_matrix.md: one E4M3 group. -/

theorem test_e4m3_group :
    (let f : Slot := (slotOf 0x13).getD default
     let a (x : Nat) : Cell := cellA f .e4m3 x
     let ps := [(0x7E, 0x78), (0x01, 0x5C), (0x01, 0x03), (0x89, 0x27), (0, 0)].map fun (x : Nat × Nat) => productOf (a x.1) (a x.2) 0
     let s := groupSum ps
     ((accAddFloat 0 s).1, (accAddFloat 0 s).2 ||| s.2)) = (0x47E000058, flagNX) := by decide

/-! 12_fabric.md: package 37 in a spread pod of 128. -/

theorem test_package_37 :
    ((upTo 8).map (standardPeer 0 128 37 0)) = [36, 39, 38, 33, 32, 35, 34, 45].map some
    ∧ standardPeer 0 128 37 4 0 = some 100 ∧ standardPeer 0 128 100 4 0 = some 37 ∧ standardPeer 0 128 37 7 15 = none := by decide

/-! 15_traps.md: a bound fault. -/

theorem test_bound_fault :
    (let i : Instr := .st g7 0 (plain .scratch) .n32 (.dir 3) (.dir 5) 0
     let at1048 (f : Flow) : Flow := { f with pc := 0x1048, ctx := f.ctx.map fun x => { x with hdr := 0x1040, gen := 2, stop := 0x104C } }
     let s := withHeld (fun h => { h with segs := h.segs.map fun x => (x.1, { x.2 with gen := 2 }) })
       (withLaunch (fun la => { la with scrtile := 0x18000 })
       (withStrand (fun st => st.mapLanes 15 fun l => { l with flow := at1048 l.flow })
       (withV 0 3 0x104 (withV 1 3 0x108 (withV 2 3 0x18000 (withV 3 3 0x110 (stand i)))))))
     let r := (strand0 (after i s)).fault
     (r.rec0, r.rec1, r.rec2)) = (0x80104804120002A6, 0x0000020100000F4F, 0x18000) := by decide

end Sys2Proof.Tests
end

