-- ==== Sys2Proof/Tests/WitnessesA.lean ====
section
/-! SUPPORT. Witnesses: for each statement about encodings, the step, the compute majors, lane operations, control and traps,
a machine and operands that meet its hypotheses, one for each of its clauses. -/

namespace Sys2Proof.Tests

open Sys2Proof.Machine

set_option maxRecDepth 100000

/-! DecodeOfEncode, EncodeOfDecode, ReservedOpcodesRefused. -/

theorem test_witness_decode_of_encode :
    (Instr.addi g7 (.dir 63) (.ind 63) (-64)).wf = true ∧ encode (.addi g7 (.dir 63) (.ind 63) (-64)) ≠ [] := by decide

theorem test_witness_encode_of_decode :
    decode 0x08E1427D 0 = .ok (.addi g7 (.dir 5) (.dir 4) (-3))
    ∧ decode 0xCAE10000 0xFFFFFFFF = .ok (.movw g7 (.dir 4) 0xFFFFFFFF) := by decide

theorem test_witness_reserved_opcodes :
    ([0x9C000000, 0x9E000000, 0xFC000000, 0xFE000000].map fun w => bitsOf w 31 25) = [0x4E, 0x4F, 0x7E, 0x7F]
    ∧ bitsOf 0xC8E00000 31 25 = 0x64 ∧ bitsOf 0xD8E00000 31 25 = 0x6C ∧ bitsOf 0xF8E00000 31 25 = 0x7C
    ∧ bitsOf 0xC0E00000 31 25 = 0x60 ∧ bitsOf 0xFAE00000 31 25 = 0x7D ∧ bitsOf 0x0F000000 27 24 = 15
    ∧ bitsOf 0x06000000 27 24 = 6 ∧ bitsOf 0x01000000 27 24 = 1 := by decide

/-! The step. -/

/-- A machine at `ADD v6, v4, v5`. -/
def atAdd : State := stand (.add g7 (.dir 6) (.dir 4) (.dir 5))

theorem test_witness_step_runs_the_instruction :
    atAdd.plan = [] ∧ (match atAdd.here with
      | some h => h.mayIssue && h.st.trapping.isNone && !mayDeliver h.st && (match h.flow.ctx with
          | some x => x.waited && !x.resume && x.stop != h.flow.pc
          | none => false)
        && decide (decode (codeWord h.held h.flow.pc) (codeWord h.held (h.flow.pc + 4))
          = .ok (.add g7 (.dir 6) (.dir 4) (.dir 5)))
      | none => false) = true
    ∧ goes (.add g7 (.dir 6) (.dir 4) (.dir 5)) atAdd = true ∧ (atAdd.upsets.any fun u => u.strand == atAdd.cur) = false := by
  decide

/-- A machine whose two strands stand at a QPUSH that has room for both. -/
def atPush : State :=
  withLaunch (fun la => { la with queues := [⟨0, 0, 4, 0x10000, 0, 0, [], []⟩] }) (twoOf (.qpush g7 0 .strand .none false (.dir 4) 1 0))

theorem test_witness_gang_takes_its_turns :
    atPush.plan = [] ∧ (match atPush.here with
      | some h => h.mayIssue && gangOf h atPush == [0, 1]
      | none => false) = true := by decide

theorem test_witness_idle_turns :
    ({ State.reset with plan := [], cur := 5 } : State).here = none
    ∧ (match ({ withStrand (fun st => { st with lost := true }) atAdd with plan := [], cur := 0 } : State).here with
      | some h => !h.mayIssue
      | none => false) = true := by decide

theorem test_witness_planned_turns :
    goes .slotBoundary { State.reset with plan := [] } = true
    ∧ ({ atAdd with plan := [.event .slotBoundary, .issue 0] } : State).plan = .event .slotBoundary :: [.issue 0]
    ∧ ({ atAdd with plan := [.issue 0] } : State).plan = .issue 0 :: []
    ∧ encode (.nop g7) ≠ [] ∧ State.reset.strand State.reset.cur = none := by decide

theorem test_witness_clock : State.reset.clock = BitVec.ofNat 64 (clockSum State.reset.tick) := rfl

theorem test_witness_clock_step : step State.reset = .next { State.reset with
    tick := 1, clock := 0 + BitVec.ofNat 64 (Config.stepClocks 0)
    host := { State.reset.host with pwrsum := (Config.power 0).setWidth 64 } } := by rfl

/-! Operands and the compute majors. -/

theorem test_witness_operands :
    ((issueOf (.nop g7) (stand (.nop g7))).map (·.uniform)) = some false
    ∧ ((issueOf (.nop g7) (stand (.nop g7))).map (·.crew)) = some none
    ∧ ((issueOf (.nop g7) (asUniform (stand (.nop g7)))).map (·.uniform)) = some true
    ∧ ((issueOf (.nop g7) (inCrew (.nop g7))).map (·.crew)) = some (some ⟨1, 1⟩)
    ∧ ((issueOf (.nop g7) (asUniform (inCrew (.nop g7)))).map (·.frames)) = some true
    ∧ (Map.find 1 (inCrew (.nop g7)).crews).isSome = true := by decide

/-- v1, v2 and v3. -/
abbrev d1 : Opnd := .dir 1
abbrev d2 : Opnd := .dir 2
abbrev d3 : Opnd := .dir 3

theorem test_witness_integer_majors :
    ([.mov g7 d1 d2, .movi g7 d1 3, .movw g7 d1 3, .add g7 d1 d2 d3, .addi g7 d1 d2 3, .sub g7 d1 d2 d3, .mul g7 d1 d2 d3,
      .mulhiS g7 d1 d2 d3, .mulhiN g7 d1 d2 d3, .mad g7 d1 d2 d3, .minS g7 d1 d2 d3].all
        fun i => issues i && (intDest i).isSome) = true
    ∧ ([.minN g7 d1 d2 d3, .maxS g7 d1 d2 d3, .maxN g7 d1 d2 d3, .abs g7 d1 d2, .and g7 d1 d2 d3, .or g7 d1 d2 d3,
      .xor g7 d1 d2 d3, .andn g7 d1 d2 d3, .clz g7 d1 d2, .popc g7 d1 d2, .brev g7 d1 d2].all
        fun i => issues i && (intDest i).isSome) = true
    ∧ issues (.nop g7) = true := by decide

theorem test_witness_shifts :
    ([.shl g7 d1 d2 d3, .shr g7 d1 d2 d3, .sar g7 d1 d2 d3, .shli g7 d1 d2 31, .shri g7 d1 d2 31, .sari g7 d1 d2 31,
      .roli g7 d1 d2 31, .rol g7 d1 d2 d3, .bfe g7 d1 d2 d3, .bfi g7 d1 d2 d3, .sel g7 d1 d2 d3].all
        fun i => issues i && (shiftDest i).isSome) = true := by decide

theorem test_witness_add64_isetp :
    issues (.add64 g7 (.dir 2) (.dir 4) (.dir 6)) = true
    ∧ ([.isetp g7 .gen 0 d1 d2, .isetp g7 .eq 7 d1 d2].all issues) = true := by decide

theorem test_witness_float_majors :
    ([.fadd g7 d1 d2 d3, .fsub g7 d1 d2 d3, .fmul g7 d1 d2 d3, .ffma g7 d1 d2 d3, .fmin g7 d1 d2 d3, .fmax g7 d1 d2 d3,
      .fabs g7 d1 d2, .fneg g7 d1 d2, .frcp g7 d1 d2, .frsq g7 d1 d2].all fun i => issues i && (floatDest i).isSome) = true
    ∧ ([.fexp2 g7 d1 d2, .flog2 g7 d1 d2, .ftanh g7 d1 d2, .fscale g7 d1 d2 d3, .frnd g7 .rup d1 d2, .hadd2 g7 d1 d2 d3,
      .hmul2 g7 d1 d2 d3, .hfma2 g7 d1 d2 d3, .fclass g7 d1 d2, .pack2 g7 d1 d2 d3].all
        fun i => issues i && (floatDest i).isSome) = true
    ∧ ([.fsetp g7 .nan 7 d1 d2, .fsetp g7 .ge 0 d1 d2].all issues) = true := by decide

theorem test_witness_rounding : (1 : Nat) ≠ 0 := by decide

/-- A launch whose slot 1 holds a format of this code, and slot 2 one that may not be converted. -/
def withSlots (a b : Nat) (s : State) : State := withLaunch (fun la => { la with slots := [0, a, b, 0, 0, 0, 0, 0] }) s

theorem test_witness_conversions :
    meets (.cvt g7 .toF32 d1 d2 0) (stand (.cvt g7 .toF32 d1 d2 0)) (fun c =>
      match slotOf (c.la.slots.getD 0 0) with
      | some x => !cvtRefuses x.efmt
      | none => false) = true
    ∧ meets (.cvt g7 .toF32 d1 d2 2) (withSlots 0 0x1F (stand (.cvt g7 .toF32 d1 d2 2))) (fun c =>
      (slotOf (c.la.slots.getD 2 0)).isNone) = true
    ∧ issues (.cvti g7 .fToS .sr d1 d2) = true ∧ issues (.cvti g7 .nToF .rtz d1 d2) = true ∧ issues (.rng g7 d1) = true
    ∧ meets (.rng g7 d1) (stand (.rng g7 d1)) (fun c => c.crew.isNone) = true := by decide

/-! The checks at issue. -/

/-- The checks pass before this one: the instruction does not wait, is not passed over, and `check` finds `code`. -/
def checkedAs (i : Instr) (s : State) (code : Nat) : Bool :=
  match issueOf i s with
  | some c => !c.blocked && !c.passed s && c.check == some code && !(s.upsets.any fun u => u.strand == s.cur)
  | none => false

theorem test_witness_issue_checks :
    checkedAs (.sysw g7 d1 0x1200) (withLaunch (fun la => { la with priv := false }) (stand (.sysw g7 d1 0x1200))) 0x07 = true
    ∧ checkedAs (.add g7 d1 d2 (.dir 63)) (withLaunch (fun la => { la with
        stages := la.stages.map fun x => { x with vregs := 63 } }) (stand (.add g7 d1 d2 (.dir 63)))) 0x08 = true
    ∧ checkedAs (.add64 g7 d1 d2 d2) (stand (.add64 g7 d1 d2 d2)) 0x08 = true
    ∧ checkedAs (.kinitImm g7 8 1) (withLaunch (fun la => { la with kcnt := 8 }) (stand (.kinitImm g7 8 1))) 0x08 = true
    ∧ checkedAs (.bar g7 96) (stand (.bar g7 96)) 0x08 = true
    ∧ checkedAs (.gres g7 15 false 0) (withLaunch (fun la => { la with gcnt := 15 }) (stand (.gres g7 15 false 0))) 0x08 = true
    ∧ checkedAs (.mov g7 (.dir 5) d2) (withStrand (fun st => { st with pend := [inFlight .load 3] })
        (stand (.mov g7 (.dir 5) d2))) 0x09 = true
    ∧ checkedAs (.mov g7 (.ind 5) d2) (inCrew (.mov g7 (.ind 5) d2)) 0x5B = true
    ∧ checkedAs (.bar g7 0) (inCrew (.bar g7 0)) 0x59 = true
    ∧ ((issueOf (.nop g7) (withStrand (fun st => { st with pend := [inFlight .load 0] }) (stand (.nop g7)))).map (·.blocked))
        = some true := by decide

/-- A strand before the placed one in its item, so that the placed one is not elected. -/
def notElected (i : Instr) : State :=
  let s := stand i
  match s.strand 0 with
  | some st => withItem (fun it => { it with strands := [1, 0] }) (s.setStrand 1 { st with inItem := 0, context := 1 })
  | none => s

theorem test_witness_passed_over :
    ((issueOf (.kinitImm g7 2 1) (notElected (.kinitImm g7 2 1))).map fun c =>
      c.passed (notElected (.kinitImm g7 2 1)) && !c.blocked && !c.st.stepArm && c.st.pend.isEmpty) = some true := by decide

/-! Ordering. -/

theorem test_witness_ordering :
    issues (.yield g7) = true
    ∧ meets (.kwait g7 63) (stand (.kwait g7 63)) (fun c => counterAt (stand (.kwait g7 63)) c.it.tile c.it.launch 63 == 0) = true
    ∧ (let s := withHeld (fun h => { h with counters := [(63, 1)] }) (stand (.kwait g7 63))
       meets (.kwait g7 63) s (fun c => counterAt s c.it.tile c.it.launch 63 != 0)) = true
    ∧ meets (.fence g7 .system) (stand (.fence g7 .system))
        (fun c => (wcDrainStrand c.it.tile c.key (stand (.fence g7 .system))).strand c.key == some c.st) = true
    ∧ issues (.phase g7 true true .package) = true ∧ issues (.phase g7 false false .strand) = true := by decide

/-! Lane operations. -/

/-- The lanes of the machine are gathered. -/
def gatheredAt (s : State) (c : Issue) : Bool :=
  !c.uniform && c.set != 0 && c.st.cur == c.st.pool
    && (upTo 4).all (fun l => !c.set.getLsbD l || ((c.st.flow l).pc == c.pc && (c.st.lanes.get l).atOp.isNone
        && (upTo 4).all fun m => !c.set.getLsbD m || (c.st.flow l).depth == (c.st.flow m).depth))
    && (c.st.handler.isSome || c.st.seat.isSome || (c.it.strands.contains c.key
        && c.it.strands.all fun k => k == c.key || (match s.strand k with
          | some x => x.over
          | none => true)))

theorem test_witness_lane_operations :
    ([.ballot g7 (.dir 2) true 3, .vote g7 .uni 7 false 1, .vote g7 .all 1 true 1, .vote g7 .any 1 true 1, .shflIdx g7 d1 d2 d3,
      .shflXor g7 d1 d2 d3].all fun i => meets i (stand i) (gatheredAt (stand i))) = true
    ∧ ([.shflUp g7 d1 d2 d3, .shflDn g7 d1 d2 d3, .xchg g7 d1 d2 d3, .redux g7 .fadd d1 d2].all
        fun i => meets i (stand i) fun c => gatheredAt (stand i) c && c.active != 0) = true
    ∧ ([.xchg gNever d1 d2 d3, .redux gNever .add d1 d2].all
        fun i => meets i (stand i) fun c => gatheredAt (stand i) c && c.active == 0) = true := by decide

/-- A second live strand of the item, which has not arrived. -/
def twoStrands (i : Instr) : State :=
  let s := withLaunch (fun la => { la with stages := la.stages.map fun x => { x with width := 2 } }) (stand i)
  match s.strand 0 with
  | some st => withItem (fun it => { it with strands := [0, 1] }) (s.setStrand 1 { st with inItem := 1, context := 1 })
  | none => s

/-- A strand that waits in a lane operation for others that have exited. -/
def waitsInOp (i : Instr) : State :=
  withStrand (fun st => { st with wait := .laneOp, lanes := st.lanes.map fun l => { l with atOp := some i } }) (stand i)

theorem test_witness_lane_operations_wait :
    (let i : Instr := .shflIdx g7 d1 d2 d3
     let s := twoStrands i
     laneOperation i && meets i s (fun c => !c.uniform && c.set != 0 && c.st.handler.isNone && c.st.seat.isNone
        && c.st.set == c.st.live && c.st.cur == c.st.live
        && (upTo 4).all (fun l => (c.st.lanes.get l).atOp.isNone && (c.st.flow l).same (c.st.flow c.lead))
        && c.it.strands.contains 1 && c.it.strands.contains c.key
        && (match s.strand 1 with
          | some x => x.live.getLsbD 3 && (x.lanes.get 3).atOp.isNone
          | none => false))) = true
    ∧ (let i : Instr := .redux g7 .add d1 d2
       let s := waitsInOp i
       let u := { s.adjStrand 0 (fun st => st.mapLanes st.live fun l => { l with atOp := none }) with cur := 0 }
       (match Map.find 1 s.items, s.strand 0 with
        | some it, some st => decide (it.tile < 768) && st.item == 1 && st.wait == .laneOp && st.handler.isNone && st.seat.isNone
            && !st.over && (it.strands.find? fun k => match s.strand k with
                | some st => !st.over && st.handler.isNone
                | none => false) == some 0
            && (upTo 4).all (fun l => !st.live.getLsbD l || (st.lanes.get l).atOp == some i) && st.cur == st.live
            && meets i u (gatheredAt u)
        | _, _ => false)) = true := by decide

/-! Control. -/

/-- A transfer of the issue may go to a place. -/
def mayGoAt (s : State) (c : Issue) (target : Nat) : Bool :=
  decide (target / 4096 < c.la.nseg)
    && (match Map.find (target / 4096) (s.heldAt c.it.tile c.it.launch).segs with
      | some g => g.state == 2
      | none => false)
    && c.crew.isNone

theorem test_witness_branches :
    (let i : Instr := .bra g7 1
     meets i (stand i) (fun c => (c.clause.map (·.hdr)) == some 0x1000 && mayGoAt (stand i) c 0x1004)) = true
    ∧ (let i : Instr := .bru g7 (-1)
       meets i (stand i) (fun c => (c.clause.map (·.hdr)) == some 0x1000 && !mayGoAt (stand i) c 0x2000)) = true
    ∧ (let i : Instr := .bru g7 2
       meets i (stand i) (fun c => mayGoAt (stand i) c 0x1008 && !c.uniform && lowest c.set == some 0)) = true
    ∧ (let i : Instr := .brx g7 d2
       meets i (stand i) (fun c => (upTo 4).all fun l => mayGoAt (stand i) c ((c.reg l d2).toNat % 2 ^ 18 / 4 * 4))) = true
    ∧ (let i : Instr := .jmpf g7 1 d2
       meets i (stand i) (fun c => (upTo 4).all fun l =>
        mayGoAt (stand i) c (4096 + (c.reg l d2).toNat % 4096 / 4 * 4))) = true := by decide

/-- A machine whose lanes have called from segment 1, generation 1. -/
def called (depth : Nat) (i : Instr) : State :=
  withStrand (fun st => st.mapFlows 15 fun f => { f with stack := List.replicate depth 0x04020001 }) (stand i)

theorem test_witness_calls_and_returns :
    (let i : Instr := .call g7 3
     meets i (stand i) (fun c => c.clause.isSome && mayGoAt (stand i) c 0x100C && decide ((c.st.flow 0).depth < 8))) = true
    ∧ (let i : Instr := .callx g7 d2
       meets i (called 7 i) (fun c => mayGoAt (called 7 i) c 0 && (c.st.flow 0).depth == 7 && (stageOf c.la c.it).spill == 16)) = true
    ∧ (let i : Instr := .ret g7
       meets i (called 5 i) (fun c => (c.st.flow 0).stack.head? == some 0x04020001
         && mayGoAt (called 5 i) c 0x1008 && (c.st.lanes.get 0).bad.isEmpty)) = true := by decide

theorem test_witness_failed_transfers :
    (let i : Instr := .brx g7 d2
     let s := withV 3 2 0x2000 (stand i)
     meets i s (fun c => c.crew.isNone && (maskOf fun l => c.active.getLsbD l
        && decide (c.la.nseg ≤ (c.reg l d2).toNat % 2 ^ 18 / 4 * 4 / 4096)) == 8)) = true
    ∧ (let i : Instr := .brx g7 d2
       let s := withHeld (fun h => { h with segs := [(0, ⟨1, 1, 0, [], 0, none, 0⟩), (1, ⟨2, 1, 0, [], 0, none, 0⟩)] }) (stand i)
       meets i s (fun c => c.crew.isNone && ((Map.find 0 (s.heldAt 0 1).segs).map (·.state)) == some 1
         && c.active == 15)) = true
    ∧ (let i : Instr := .callx g7 d2
       meets i (called 8 i) (fun c => decide (c.depthLimit ≤ (c.st.flow 2).depth) && mayGoAt (called 8 i) c 0)) = true
    ∧ (let i : Instr := .ret g7
       meets i (stand i) (fun c => (c.st.flow 1).stack == [] && c.active == 15)) = true := by decide

theorem test_witness_exit :
    (let i : Instr := .exit g7
     meets i (stand i) (fun c => c.active != 0 && c.crew.isNone && c.st.handler.isNone)) = true
    ∧ ([.exit gNever, .trap gNever 127, .bkpt gNever 0, .eret gNever].all
        fun i => meets i (stand i) fun c => c.active == 0) = true := by decide

/-! Traps. -/

theorem test_witness_precise_causes :
    (let s := stand (.nop g7)
     decide (s.strand 0 = some (strand0 s)) && (Map.find (strand0 s).item s.items).isSome && (strand0 s).seat.isNone
       && (strand0 s).handler.isNone && (strand0 s).pend.isEmpty && decide ((Map.find 0 (s.heldAt 0 1).segs).map (·.state) = some 2)
       && (strand0 (inHandler s)).handler.isSome && (strand0 (inHandler s)).seat.isNone) = true
    ∧ (1 ≤ 1 ∧ 6 ≤ 6) ∧ ¬((1 ≤ 0x2B ∧ 0x2B ≤ 6) ∨ 0x2B = 0x71) := by decide

theorem test_witness_trap_and_bkpt :
    ([.trap g7 127, .bkpt g7 0].all fun i => meets i (stand i) fun c => c.active != 0 && c.crew.isNone && c.st.handler.isNone
      && c.st.pend.isEmpty && ((Map.find 0 ((stand i).heldAt 0 1).segs).map (·.state)) == some 2) = true := by decide

theorem test_witness_eret :
    (let i : Instr := .eret g7
     let s := inHandler (stand i)
     meets i s (fun c => c.active != 0 && c.st.handler.isSome && c.st.pend.isEmpty && !haltCovers c.la c.it && c.st.oplog.isEmpty
       && c.st.stepHeld.isNone && c.st.fault.rec0.toNat % 128 != 0x52 && (15#4 &&& c.st.live) != 0)) = true
    ∧ (let i : Instr := .eret g7
       meets i (stand i) (fun c => c.active != 0 && c.st.handler.isNone)) = true := by decide

/-! The sequencer. -/

/-- A strand that stands at the header of its clause. -/
def atHeader (hdr : Word) (i : Instr) : State :=
  withHeld (fun h => { h with code := Table.put 0 0x400 hdr h.code })
    (withStrand (fun st => st.mapFlows 15 fun f => { f with pc := 0x1000, ctx := none }) (stand i))

/-- A condition on the place where the strand stands. -/
def atHere (s : State) (p : Here → Bool) : Bool :=
  match s.here with
  | some h => p h
  | none => false

theorem test_witness_clause_fetch :
    atHere (withHeld (fun h => { h with segs := [] }) (atHeader 0x10000000 (.nop g7))) (fun h =>
      h.st.set != 0 && h.flow.ctx.isNone && (Map.find (h.flow.pc / 4096) h.held.segs).isNone) = true
    ∧ atHere (atHeader 0 (.nop g7)) (fun h =>
      h.flow.ctx.isNone && h.held.badCode.isEmpty && headerFails (codeWord h.held 0x1000)) = true
    ∧ atHere (atHeader 0x10000000 (.nop g7)) (fun h =>
      let w := codeWord h.held 0x1000
      !headerFails w && !(headerOf w).j && (match walkClause h.held 0x2000 (headerOf w).n 0x1004 with
        | some (slots, stop) => (clauseFails 0x1000 (headerOf w) slots).isNone && stop == 0x1008
        | none => false)
      && (!(headerOf w).wct || decide ((headerOf w).ctr < h.la.kcnt))) = true := by decide

/-- A strand that resumes inside its clause. -/
def resuming (i : Instr) : State :=
  withStrand (fun st => st.mapFlows 15 fun f => { f with ctx := f.ctx.map fun x => { x with resume := true } }) (stand i)

theorem test_witness_clause_fetch_again :
    atHere (withHeld (fun h => { h with badCode := [1] }) (atHeader 0x10000000 (.nop g7))) (fun h =>
      h.flow.ctx.isNone && h.held.badCode.contains (h.flow.pc / 4096)
        && (Map.find (h.flow.pc / 4096) h.held.segs).map (·.state) == some 2) = true
    ∧ atHere (withHeld (fun h => { h with segs := [(1, ⟨2, 9, 0, [], 0, none, 0⟩)] }) (resuming (.nop g7))) (fun h =>
      match h.flow.ctx, Map.find 1 h.held.segs with
      | some x, some q => x.waited && x.resume && x.hdr / 4096 == 1 && q.gen != x.gen
      | _, _ => false) = true
    ∧ atHere (resuming (.nop g7)) (fun h =>
      match h.flow.ctx, Map.find 1 h.held.segs with
      | some x, some q =>
        let v := codeWord h.held x.hdr
        x.waited && x.resume && q.state == 2 && q.gen == x.gen && h.held.badCode.isEmpty && !headerFails v
          && (match walkClause h.held 0x2000 (headerOf v).n (x.hdr + 4) with
            | some (slots, _) => (clauseFails x.hdr (headerOf v) slots).isNone && slots.any fun y => y.off == h.flow.pc
            | none => false)
          && (!(headerOf v).wct || decide ((headerOf v).ctr < h.la.kcnt))
      | _, _ => false) = true := by decide

/-- A strand whose clause still waits, for counter 2 to reach 0. -/
def atWait (value : BitVec 32) : State :=
  withHeld (fun h => { h with counters := [(2, value)] })
    (withStrand (fun st => st.mapFlows 15 fun f => { f with
      pc := 0x1000, ctx := f.ctx.map fun x => { x with waited := false, word := 0x10010800 } }) (stand (.nop g7)))

theorem test_witness_clause_wait :
    atHere (atWait 1) (fun h => match h.flow.ctx with
      | some x => !x.waited && !clauseReady (atWait 1) h x
      | none => false) = true
    ∧ atHere (atWait 0) (fun h => match h.flow.ctx with
      | some x => !x.waited && clauseReady (atWait 0) h x && x.fail.isNone && h.st.pend.isEmpty
      | none => false) = true := by decide

theorem test_witness_held_causes :
    (let s := withStrand (fun st => { st with queue := [{ code := 0x52 }], wait := .engine }) (stand (.nop g7))
     decide (s.strand s.cur = some (strand0 s)) && mayDeliver (strand0 s)
       && decide ((Map.find 0 (s.heldAt 0 1).segs).map (·.state) = some 2)) = true
    ∧ (let s := withStrand (fun st => { st with trapping := some { code := 0x2B, hmask := 15 } }) (stand (.nop g7))
       (strand0 s).trapping.isSome && (strand0 s).pend.isEmpty) = true := by decide

end Sys2Proof.Tests
end

