-- ==== Sys2Proof/Tests/WitnessesB.lean ====
section
/-! SUPPORT. Witnesses: for each statement about synchronisation, crews, memory accesses, system registers and queues, a machine
and operands that meet its hypotheses, one for each of its clauses. -/

namespace Sys2Proof.Tests

open Sys2Proof.Machine

set_option maxRecDepth 100000

/-! Code segments. -/

/-- The lines of a source are known. -/
def linesOk (tile asid : Nat) (priv : Bool) (va n : Nat) (s : State) : Bool :=
  match (sourceLines tile asid priv va n s).2 with
  | .ok _ => true
  | .error _ => false

theorem test_witness_cfetch :
    (let i : Instr := .cfetch g7 0 (.dir 2) 63
     let s := withPage 0x10000 (withAddr 2 0x10000 (stand i))
     meets i s (fun c => c.once && decide ((0 : BitVec 6).toNat < c.la.nseg) && (Map.find (heldKey c.it.tile c.it.launch) s.held).isSome
       && (Map.find 0 (s.heldAt c.it.tile c.it.launch).segs).isSome && !slotBusy s c.it.tile c.it.launch 0
       && canonical (c.pair c.elect (.dir 2)).toNat && (c.pair c.elect (.dir 2)).toNat == 0x10000
       && linesOk c.it.tile c.la.asid c.la.priv 0x10000 16 s)) = true := by decide

/-- A machine one of whose segments is LOADING. -/
def loading : State :=
  withHeld (fun h => { h with segs := [(0, ⟨1, 1, 0x10000, [(256, 0)], 1, some 5, 9⟩), (1, ⟨2, 1, 0, [], 0, none, 0⟩)] })
    (stand (.nop g7))

theorem test_witness_segment_landing :
    (match Map.find (heldKey 0 1) loading.held with
      | some h => (match Map.find 0 h.segs with
        | some q => q.state == 1 && decide (q.lines.length ≤ 16) && q.k == some 5 && (match Map.find q.item loading.items with
          | some it => it.deferred.isEmpty
          | none => false)
        | none => false)
      | none => false) = true := by decide

theorem test_witness_cseg :
    (let i : Instr := .cseg g7 (.dir 1) (.dir 2)
     meets i (withAllV 2 1 (stand i)) (fun c => c.doers.all fun l => decide ((c.reg l (.dir 2)).toNat % 64 < c.la.nseg))
     && meets i (withV 3 2 2 (stand i)) (fun c => c.doers.contains 3 && decide (c.la.nseg ≤ (c.reg 3 (.dir 2)).toNat % 64)
         && c.doers.all fun m => decide (3 ≤ m) || decide ((c.reg m (.dir 2)).toNat % 64 < c.la.nseg))) = true := by decide

/-! Barriers, counters, the token. -/

/-- A machine at an instruction on barrier 0 of its item, two strands in the item. -/
def atBarrier (arrived : List Nat) (i : Instr) : State :=
  let s := stand i
  match s.strand 0 with
  | some st =>
    withLaunch (fun la => { la with stages := la.stages.map fun x => { x with width := 2 } })
      (withItem (fun it => { it with strands := [0, 1], bars := [(0, ⟨5, arrived⟩)] })
        (s.setStrand 1 { st with inItem := 1, context := 1 }))
  | none => s

/-- The completion of a barrier's party. -/
def lastAt (s : State) (c : Issue) (n : Nat) : Bool :=
  let p := barPlace c.la c.it n
  let b := barAt s c.it p n
  (barParty s c.la c.it p n).all fun k => k == c.key || b.arrived.contains k

theorem test_witness_barriers :
    ([.bar g7 95, .bararv g7 (.dir 1) 95, .barwt g7 (.dir 1) 95].all fun i =>
      meets i (stand i) fun c => barPlace c.la c.it 95 == .none) = true
    ∧ ([.bar g7 0, .bararv g7 (.dir 1) 0].all fun i => meets i (atBarrier [] i) fun c =>
        barPlace c.la c.it 0 != .none && barPlace c.la c.it 0 != .group && !c.awaitsToken && !lastAt (atBarrier [] i) c 0
          && c.st.wait == .none) = true
    ∧ ([.bar g7 0, .bararv g7 (.dir 1) 0].all fun i => meets i (atBarrier [1] i) fun c =>
        barPlace c.la c.it 0 != .none && lastAt (atBarrier [1] i) c 0) = true
    ∧ (let i : Instr := .bar g7 0
       let s := withStrand (fun st => { st with wait := .barrier 0 4 }) (atBarrier [] i)
       let u := withStrand (fun st => { st with wait := .barrier 0 5 }) (atBarrier [0] i)
       meets i s (fun c => (barAt s c.it (barPlace c.la c.it 0) 0).phase.toNat != 4)
         && meets i u (fun c => (barAt u c.it (barPlace c.la c.it 0) 0).phase.toNat == 5)) = true
    ∧ (let i : Instr := .barwt g7 (.dir 1) 0
       meets i (atBarrier [] i) (fun c => lowest c.st.live == some 0
         && (barAt (atBarrier [] i) c.it (barPlace c.la c.it 0) 0).phase.toNat != (c.reg 0 (.dir 1)).toNat % 2 ^ 16)
       && meets i (withAllV 1 5 (atBarrier [] i)) (fun c =>
         (barAt (atBarrier [] i) c.it (barPlace c.la c.it 0) 0).phase.toNat == (c.reg 0 (.dir 1)).toNat % 2 ^ 16)) = true := by
  decide

theorem test_witness_counters :
    ([.kinitReg g7 63 (.dir 1), .kinitImm g7 63 63, .kaddReg g7 0 (.dir 1), .kaddImm g7 0 63].all fun i =>
      meets i (stand i) fun c => c.once && !c.awaitsToken && (Map.find (heldKey c.it.tile c.it.launch) (stand i).held).isSome
        && c.crew.isNone && c.st.handler.isNone && c.st.pend.isEmpty) = true
    ∧ ([.kinitReg gNever 63 (.dir 1), .kaddImm gNever 0 63].all fun i => meets i (stand i) fun c => !c.once) = true
    ∧ (let i : Instr := .kaddReg g7 5 (.dir 1)
       let s := withHeld (fun h => { h with counters := [(5, 0x7FFFFFFF)] }) (withAllV 1 1 (stand i))
       meets i s fun c => c.once && decide ((2 ^ 31 - 1 : Int)
         < (counterAt s c.it.tile c.it.launch 5).toInt + (c.reg c.elect (.dir 1)).toInt)) = true := by decide

theorem test_witness_token :
    (let i : Instr := .tokwait g7 (.dir 1)
     meets i (stand i) (fun c => !c.la.det)
     && meets i (withToken [1] 0 (stand i)) (fun c => c.la.det && holdsToken c.la c.it c.st.item)
     && meets i (withToken [1, 2] 1 (stand i)) (fun c => c.la.det && !holdsToken c.la c.it c.st.item)) = true
    ∧ (let i : Instr := .tokpass g7
       meets i (withToken [1, 2] 1 (stand i)) (fun c => !holdsToken c.la c.it c.st.item)
       && meets i (withToken [1] 0 (stand i)) (fun c => c.once && c.la.det && holdsToken c.la c.it c.st.item
         && !accessHeld (withToken [1] 0 (stand i)) c.it c.key)) = true
    ∧ (let i : Instr := .tokpass g7
       let s := withToken [1] 0 (twoOf i)
       let s := s.adjStrand 1 fun st => { st with wait := .token }
       meets i s fun c => c.once && c.la.det && holdsToken c.la c.it c.st.item && accessHeld s c.it c.key) = true
    ∧ (let s := withToken [1] 0 (stand (.nop g7))
       let w := withStrand (fun st => { st with wait := .counter 3 }) s
       (match Map.find 1 s.launches, Map.find 1 s.items with
        | some la, some it => la.det && la.state == .live && la.token.ring[la.token.holder]? == some 1 && !itemOver s it
            && !allLive s it (fun st => st.wait != .none) && allLive w it (fun st => st.wait != .none)
        | _, _ => false)) = true := by decide

/-! Engine programs and guard slots. -/

/-- A program that the copy engine runs for the item. -/
def aProgram (running ending : Bool) : EngineProg :=
  { id := 3, running := running, ending := ending, pc := 0x1000, left := 0, guarded := false, v := [], d := [], k := 2, strand := 0
    lane := 0, status := 9, retcnt := 0 }

/-- The item with that program. -/
def withProgram (running ending : Bool) (s : State) : State :=
  withItem (fun it => { it with progs := [(0, aProgram running ending)] }) s

theorem test_witness_engine_programs :
    (let i : Instr := .fork g7 .copy (.dir 2) 5
     let n : Instr := .fork gNever .copy (.dir 2) 5
     meets n (stand n) (fun c => !c.once)
     && meets i (withAllV 2 0x2000 (stand i)) (fun c => c.once && (Map.find 2 ((stand i).heldAt 0 1).segs).isNone)
     && meets i (withProgram true false (withAllV 2 0x1000 (stand i))) (fun c => c.once
         && (Map.find 0 c.it.progs).map (·.running) == some true)
     && meets i (withAllV 2 0x1000 (stand i)) (fun c => c.once && (Map.find 0 c.it.progs).isNone
         && ((Map.find 1 ((stand i).heldAt 0 1).segs).map (·.state)) == some 2)) = true
    ∧ (let i : Instr := .rdv g7 (.dir 1) .copy
       meets i (stand i) (fun c => (Map.find 0 c.it.progs).isNone)
       && meets i (withProgram true false (stand i)) (fun c => ((Map.find 0 c.it.progs).map (·.running)) == some true)
       && meets i (withProgram false true (stand i)) (fun c => ((Map.find 0 c.it.progs).map (·.running)) == some false)) = true
    ∧ (let s := withProgram true true (stand (.nop g7))
       (match Map.find 1 s.items with
        | some it => decide (it.tile < 768) && (engineCommands s it 1 EngineKind.copy.code.toNat).isEmpty && it.deferred.isEmpty
            && (Map.find EngineKind.copy.code.toNat it.progs) == some (aProgram true true)
            && (Map.find (heldKey it.tile it.launch) s.held).isSome
        | none => false)) = true := by decide

theorem test_witness_guard_slots :
    (let i : Instr := .gres g7 15 true 2
     let n : Instr := .gres gNever 15 true 2
     meets n (stand n) (fun c => !c.once)
     && meets i (stand i) (fun c => c.once && guardAt (stand i) c.it.tile c.it.launch 15 == 0)
     && meets i (withHeld (fun h => { h with guards := [(15, 2)] }) (stand i)) (fun c => c.once)
     && guardAt (withHeld (fun h => { h with guards := [(15, 2)] }) (stand i)) 0 1 15 != 0) = true
    ∧ (let e := { aCommand aFill .queued with guardSlot := some 3 }
       let s (v : Nat) := withHeld (fun h => { h with guards := [(3, v)] }) (withQueues [e] [] (stand (.nop g7)))
       [1, 2].all fun v => guardAt (s v) 0 1 3 == v
         && (heldGuarded 0 1 (s v)).find? (fun x => x.2.guardSlot == some 3) == some (0, e)) = true := by decide

/-! Crews. -/

/-- A machine whose launch has a crew segment. -/
def crewReady (i : Instr) : State :=
  withLaunch (fun la => { la with segtab := [1, 3] }) (stand i)

theorem test_witness_crew :
    (let i : Instr := .crew g7 (.dir 1) (.dir 2) (.dir 3)
     let bad := withAllV 2 0x10001 (crewReady i)
     let good := withAllV 3 9 (withAllV 2 0x10001 (crewReady i))
     let ok (s : State) (p : Nat → Bool) : Bool := meets i s fun c =>
       !c.uniform && decide (c.key < 98304) && lowest c.active == some 0 && c.st.handler.isNone
         && decide ((c.reg 0 (.dir 2)).toNat % 64 < c.la.nseg) && (c.la.segtab.getD 1 0).testBit 1
         && p (crewReason c s 1 1 (c.reg 0 (.dir 3)).toNat (grantContexts s c.la c.it c.st.item 1))
     ok bad (· != 0) && ok good (· == 0)) = true
    ∧ (let i : Instr := .crew g7 (.dir 1) (.dir 2) (.dir 3)
       let s := withLaunch (fun la => { la with segtab := [1, 3] }) (withAllV 2 0x10001 (inCrew i))
       meets i s fun c => !c.uniform && decide (c.key < 98304) && lowest c.active == some 0 && c.st.handler.isNone && c.crew.isSome
         && crewReason c s 1 1 (c.reg 0 (.dir 3)).toNat (grantContexts s c.la c.it c.st.item 1) != 0) = true
    ∧ issues (.crwend g7 (.dir 1)) = true
    ∧ (let i : Instr := .crwred g7 .add (.dir 5) (.dir 1)
       let n : Instr := .crwred gNever .add (.dir 5) (.dir 1)
       let crewed (i : Instr) : State :=
         withStrand (fun st => { st with seat := some ⟨1, 1⟩ }) { crewReady i with crews := [(1, {
           tile := 0, recruiter := 5, lane := 0, window := [], contexts := [1], seg := 1, g := 1, count := 9, targets := []
           folds := [], begun := [], ended := [], limit := none, drawBase := 0, pc := 0x1004, gen := 1, flags := 0
           poisoned := false })] }
       meets i (crewReady i) (fun c => c.crew.isNone)
       && meets i (crewed i) (fun c => c.crew == some ⟨1, 1⟩ && c.active != 0 && decide (5 < (stageOf c.la c.it).vregs))
       && meets n (crewed n) (fun c => c.crew == some ⟨1, 1⟩ && c.active == 0)) = true := by decide

/-- A crew of four workers and its recruiter, strand 0, with strand key `crewKey 0 1` for the workers. -/
def aCrew (count : Nat) (begun : Table Nat) (ended : List Nat) : Crew :=
  { tile := 0, recruiter := 0, lane := 3, window := [], contexts := [1], seg := 1, g := 1, count := count, targets := [5]
    folds := [], begun := begun, ended := ended, limit := none, drawBase := 0, pc := 0x1004, gen := 1, flags := 0
    poisoned := false }

/-- The machine with that crew, its workers' lanes idle. -/
def withCrew (r : Crew) : State :=
  let s := stand (.nop g7)
  match s.strand 0 with
  | some st =>
    let w := { st with seat := some ⟨1, 1⟩, context := 1, lanes := st.lanes.map fun l => { l with exited := true } }
    let own := { w with seat := some ⟨1, 0⟩, context := 0 }
    withStrand (fun st => { st with crew := some 1 })
      { (s.setStrand (crewKey 0 1) w).setStrand (crewKey 0 0) own with crews := [(1, r)] }
  | none => s

theorem test_witness_crew_runs :
    (let r := aCrew 9 [] []
     let s := withCrew r
     [0, 1, 4].all fun w => decide ((workerAt s r w).2 < 4) && r.mayBegin w == some 0
       && (match s.strand (workerAt s r w).1 with
         | some st => !(st.lanes.get (workerAt s r w).2).live
         | none => false)) = true
    ∧ (let r := aCrew 0 [] []
       let s := withCrew r
       r.finished && r.limit.isNone && decide (r.recruiter < 98304) && decide (r.lane < 4)
         && (match s.strand r.recruiter with | some st => st.stepHeld.isNone | none => false)) = true
    ∧ (let s := withCrew (aCrew 9 [(2, 1)] [])
       match s.strand 0 with
       | some st => !st.over && st.stepHeld.isNone && (match Map.find st.item s.items with
         | some it => (Map.find it.launch s.launches).isSome
         | none => false)
       | none => false) = true := by decide

/-! Memory. -/

/-- Every active lane's access is in bounds, aligned, and reaches bytes that can be read: in the scratchpad. -/
def fitsScratch (s : State) (c : Issue) (n : Nat) (ea : Nat → Nat) : Bool :=
  (s.heldAt c.it.tile c.it.launch).watches.isEmpty && (lanesIn c.active).all fun l => ea l % n == 0
    && decide (ea l + n ≤ c.la.scrtile) && (match Map.find (heldKey c.it.tile c.it.launch) s.held with
      | some h => h.bad.isEmpty
      | none => false) && !tileDown s c.it.tile

theorem test_witness_local_loads :
    (let i : Instr := .ld g7 3 (plain .scratch) .n32 (.dir 1) (.dir 2) 3068
     let n : Instr := .ld gNever 3 (plain .scratch) .s8 (.dir 1) (.dir 2) 0
     meets i (stand i) (fun c => fitsScratch (stand i) c 4 (c.reaches .scratch (.dir 2) 3068) && c.active != 0 && c.st.pend.isEmpty)
     && meets n (stand n) (fun c => c.active == 0)) = true
    ∧ (let i : Instr := .gather g7 3 (plain .scratch) .n16 (.dir 1) (.dir 2) (.dir 3)
       meets i (withAllV 3 2 (stand i)) (fun c => lowest c.set == some 0 && c.st.cur == c.st.pool
         && fitsScratch (stand i) c 2 (fun l =>
           (c.reaches .scratch (.dir 2) 0 0 + (c.reg l (.dir 3)).toNat) % 2 ^ 33))) = true
    ∧ (let i : Instr := .ld g7 3 (plain .lanePrivate) .n64 (.dir 4) (.dir 2) 40
       meets i (stand i) (fun c => (upTo 4).all fun l => decide (c.reaches .lanePrivate (.dir 2) 40 l + 8 + 16 ≤ 64)
         && (c.st.lanes.get l).bad.isEmpty)) = true
    ∧ (let i : Instr := .ld g7 3 (plain .shared) .n32 (.dir 4) (.dir 2) 1020
       meets i (stand i) (fun c => (upTo 4).all fun l => decide (c.reaches .shared (.dir 2) 1020 l + 4 ≤ c.la.cshare)
         && (match Map.find c.it.convoy (stand i).convoys with
           | some cv => cv.bad.isEmpty && !tileDown (stand i) (shareTile cv (c.reaches .shared (.dir 2) 1020 l))
           | none => false))) = true := by decide

theorem test_witness_local_stores :
    (let i : Instr := .st g7 0 (plain .scratch) .n64 (.dir 2) (.dir 4) 3064
     meets i (stand i) (fun c => fitsScratch (stand i) c 8 (c.reaches .scratch (.dir 2) 3064))) = true
    ∧ (let i : Instr := .st g7 0 ⟨.system, .sc, .scratch⟩ .n8 (.dir 2) (.dir 4) 0
       meets i (stand i) (fun c => fitsScratch (stand i) c 1 (c.reaches .scratch (.dir 2) 0))) = true
    ∧ (let i : Instr := .scatter g7 0 (plain .remoteScratch) .n32 (.dir 2) (.dir 3) (.dir 4)
       meets i (stand i) (fun c => lowest c.set == some 0
         && (lanesIn c.active).all fun l =>
           let ea := (c.reaches .remoteScratch (.dir 2) 0 0 + (c.reg l (.dir 3)).toNat) % 2 ^ 33
           decide (ea / 2 ^ 21 < 768) && (Map.find (heldKey (ea / 2 ^ 21) c.it.launch) (stand i).held).isSome
             && decide (ea % 2 ^ 21 + 4 ≤ c.la.scrtile))) = true := by decide

/-- The fifteen atomics in a space. -/
def atomics (m : MemMod) (w : Bool) : List Instr :=
  [.atomAdd g7 1 m w (.dir 2) (.dir 4) (.dir 6) 0, .atomMinS g7 1 m w (.dir 2) (.dir 4) (.dir 6) 0,
    .atomMinN g7 1 m w (.dir 2) (.dir 4) (.dir 6) 0, .atomMaxS g7 1 m w (.dir 2) (.dir 4) (.dir 6) 0,
    .atomMaxN g7 1 m w (.dir 2) (.dir 4) (.dir 6) 0, .atomAnd g7 1 m w (.dir 2) (.dir 4) (.dir 6) 0,
    .atomOr g7 1 m w (.dir 2) (.dir 4) (.dir 6) 0, .atomXor g7 1 m w (.dir 2) (.dir 4) (.dir 6) 0,
    .atomExch g7 1 m w (.dir 2) (.dir 4) (.dir 6) 0, .atomCas g7 1 m w (.dir 2) (.dir 4) (.dir 6) 0,
    .atomIncw g7 1 m w (.dir 2) (.dir 4) (.dir 6) 0, .atomDecw g7 1 m w (.dir 2) (.dir 4) (.dir 6) 0] ++
  if w then [] else [.atomFadd g7 1 m w (.dir 2) (.dir 4) (.dir 6) 0, .atomFmin g7 1 m w (.dir 2) (.dir 4) (.dir 6) 0,
    .atomFmax g7 1 m w (.dir 2) (.dir 4) (.dir 6) 0]

theorem test_witness_local_atomics :
    ((atomics (plain .scratch) false).all fun i => (atomParts i).isSome && meets i (stand i) fun c =>
      c.active != 0 && c.st.pend.isEmpty && fitsScratch (stand i) c 4 (c.reaches .scratch (.dir 4) 0)) = true
    ∧ ((atomics (plain .scratch) true).all fun i => (atomParts i).isSome && meets i (stand i) fun c =>
      c.active != 0 && fitsScratch (stand i) c 8 (c.reaches .scratch (.dir 4) 0)) = true := by decide

theorem test_witness_access_checks :
    issues (.ld g7 0 (plain .acc) .n8 (.dir 1) (.dir 2) 0) = true
    ∧ issues (.atomAdd g7 0 (plain .lanePrivate) false (.dir 1) (.dir 2) (.dir 3) 0) = true
    ∧ (let i : Instr := .st g7 0 (plain .global) .n32 (.dir 2) (.dir 4) 0
       meets i (withAllV 3 0x01000000 (stand i)) (fun c =>
         (c.reaches .global (.dir 2) 0 3) / 2 ^ 56 % 2 ^ 8 == 1)
       && meets i (withAllV 2 2 (stand i)) (fun c => c.reaches .global (.dir 2) 0 3 % 4 != 0)) = true
    ∧ (let i : Instr := .ld g7 0 (plain .scratch) .n32 (.dir 1) (.dir 2) 3072
       meets i (stand i) (fun c => c.reaches .scratch (.dir 2) 3072 0 == c.la.scrtile)) = true := by decide

/-- The sweep of an access's lanes. -/
def sweepOf (s : State) (c : Issue) (x : Access) (ls : List LogLane) : Sweep :=
  ls.foldl (fun w l => w.entry x x.home false c l) (⟨orderBefore c.it.tile c.key x.m.ord x.m.scope s, [], [], []⟩ : Sweep)

theorem test_witness_translated_accesses :
    (let i : Instr := .ld g7 2 (plain .global) .n32 (.dir 4) (.dir 2) 8
     meets i (onPage i) (fun c =>
       let ls := (lanesIn c.active).map fun l => (⟨l, c.reaches .global (.dir 2) 8 l, 0, 0⟩ : LogLane)
       let w := sweepOf (onPage i) c (loadAccess 2 (plain .global) .n32 (.dir 4)) ls
       ls != [] && ls.all (fun l => canonical l.addr && l.addr % 4 == 0) && w.faults == []
         && w.got.all fun g => g.2.2.dead == 0 && g.2.2.lost.isNone)) = true
    ∧ (let i : Instr := .st g7 2 (plain .global) .n64 (.dir 2) (.dir 4) 8
       meets i (onPage i) (fun c =>
       let ls := (lanesIn c.active).map fun l => (⟨l, c.reaches .global (.dir 2) 8 l, 0, 0⟩ : LogLane)
       let w := sweepOf (onPage i) c (storeAccess 2 (plain .global) .n64) ls
       w.faults == [] && w.got.all fun g => g.2.2.dead == 0 && g.2.2.lost.isNone)) = true
    ∧ (let i : Instr := .atomAdd g7 2 (plain .global) true (.dir 4) (.dir 2) (.dir 6) 8
       meets i (onPage i) (fun c =>
       let ls := (lanesIn c.active).map fun l => (⟨l, c.reaches .global (.dir 2) 8 l, 0, 0⟩ : LogLane)
       let w := sweepOf (onPage i) c (atomAccess .add 2 (plain .global) true (.dir 4)) ls
       w.faults == [] && w.got.all fun g => g.2.2.dead == 0 && g.2.2.lost.isNone)) = true := by decide

/-- A machine whose tile 0 has the line of an address in its L1, writable and dirty. -/
def onLine (i : Instr) : State :=
  let s := onPage i
  s.setTile 0 { s.tile 0 with l1 := [⟨1, 0x100, 0x100, 1, true, true, false, 0, 0x0807060504030201, 0, 0⟩] }

theorem test_witness_l1_hits :
    (let i : Instr := .ld g7 2 (plain .global) .n32 (.dir 4) (.dir 2) 252
     meets i (onLine i) (fun c => c.active != 0 && ((((onLine i).tile c.it.tile).l1.map (·.pline)).length == 1)
       && (upTo 4).all fun l => let va := c.reaches .global (.dir 2) 252 l
         canonical va && va % 4 == 0 && (match l1Find (onLine i) c.it.tile c.la.asid (va % 2 ^ 57) with
           | some x => x.bad == 0
           | none => false))) = true
    ∧ (let i : Instr := .st ⟨false, 1⟩ 2 (plain .global) .n32 (.dir 2) (.dir 4) 0
       let s := withStrand (fun st => st.mapLanes 8 fun l => { l with p := 2 }) (onLine i)
       meets i s (fun c => lanesIn c.active == [3] && (match l1Find s c.it.tile c.la.asid (c.reaches .global (.dir 2) 0 3 % 2 ^ 57) with
         | some x => x.w && x.d
         | none => false))) = true := by decide

theorem test_witness_responses :
    (let p : Pending := { id := 8, kind := .load, pc := 0x1004, w1 := 0, w2 := 0, left := 0, locks := [(3, 5)], writes := [⟨3, 5, 77⟩]
                          preds := [], poisoned := 0, killed := 0, flags := 0, causes := [], ready := false, logged := false }
     let s := withStrand (fun st => { st with pend := [p, { p with id := 9, left := 2, locks := [(3, 6)] }] }) (stand (.nop g7))
     match s.strand 0 with
     | some st => (st.pend.filter fun q => q.id == 8) == [p] && st.pend.all (fun q => !q.ready && !q.logged)
         && st.oplog.isEmpty && s.strands.length == 1 && (st.pend.filter fun q => q.id == 9).length == 1
     | none => false) = true
    ∧ (let i : Instr := .prefetch g7 false false (.dir 2) 0
       let n : Instr := .prefetch gNever true true (.dir 2) 255
       meets n (stand n) (fun c => c.active == 0)
       && meets i (onPage i) (fun c => lowest c.active == some 0 && !c.la.det
         && (match (translate c.it.tile c.la.asid c.la.priv .load .global 0x10000 (onPage i)).2 with
           | .ok y => leafMT y.leaf == 0
           | .error _ => false))) = true := by decide

end Sys2Proof.Tests
end

