-- ==== Sys2Proof/Tests/WitnessesC.lean ====
section
/-! SUPPORT. Witnesses: for each statement about system registers, queues, engines, remote accesses, debugging and translations,
a machine and operands that meet its hypotheses, one for each of its clauses. -/

namespace Sys2Proof.Tests

open Sys2Proof.Machine

set_option maxRecDepth 100000

/-! System registers. -/

/-- A machine at SYSR or SYSW whose launch has 60 counters. -/
def atSys (i : Instr) : State := withLaunch (fun la => { la with kcnt := 60 }) (stand i)

theorem test_witness_sysr :
    ([0x09, 0x24, 0x34, 0x140, 0x240, 0x1203, 0xFFFF].all fun n =>
      issues (.sysr g7 (.dir 2) (BitVec.ofNat 16 n)) && !sysAssigned n) = true
    ∧ ([0x23C, 0x23F].all fun n =>
        [Instr.sysr g7 (.dir 2) (BitVec.ofNat 16 n), .sysw g7 (.dir 2) (BitVec.ofNat 16 n)].all fun i =>
          match issueOf i (atSys i) with
          | some c => !c.blocked && decide (c.la.kcnt ≤ n - 0x200)
          | none => false) = true
    ∧ ([0x07, 0x100, 0x13F].all fun n =>
        [Instr.sysr g7 (.dir 2) (BitVec.ofNat 16 n), .sysw g7 (.dir 2) (BitVec.ofNat 16 n)].all fun i =>
          meets i (inCrew i) fun c => c.crew.isSome && c.first.isSome) = true
    ∧ ([0x00, 0x08, 0x10, 0x16, 0x18, 0x23, 0x30, 0x33, 0x13F].all fun n =>
      let i : Instr := .sysr g7 (.dir 2) (BitVec.ofNat 16 n)
      meets i (atSys i) fun c => (sysTable c (atSys i)).any (fun x => x.1 == n) && c.crew.isNone && !c.la.capture
        && c.la.replay.isNone) = true
    ∧ (let i : Instr := .sysr g7 (.dir 2) 0x1D
       meets i (inCrew i) fun c => c.crew == some ⟨1, 1⟩ && (Map.find 1 (inCrew i).crews).isSome) = true := by decide

theorem test_witness_sysw :
    ([0x09, 0x1203].all fun n => issues (.sysw g7 (.dir 2) (BitVec.ofNat 16 n)) && !sysAssigned n) = true
    ∧ ([0x00, 0x07, 0x1A, 0x1C, 0x21, 0x22, 0x23, 0x33, 0x100, 0x13F, 0x200, 0x23B, 0x1000, 0x11FF, 0x1200, 0x1201, 0x1202,
        0x1300].all fun n =>
      let i : Instr := .sysw g7 (.dir 2) (BitVec.ofNat 16 n)
      sysAssigned n && meets i (atSys i) fun c => c.first == some 0 && c.st.pend.isEmpty) = true
    ∧ (let i : Instr := .sysw gNever (.dir 2) 0x1200
       meets i (stand i) fun c => c.first.isNone) = true
    ∧ (let i : Instr := .sysw g7 (.dir 2) 0x1C
       meets i (withStrand (fun st => { st with pend := [inFlight .load 3] }) (stand i)) fun c =>
         c.first.isSome && c.st.pend.any (·.open)) = true
    ∧ (let i : Instr := .sysw g7 (.dir 2) 0x22
       let e := { aCommand aFill .held with no := 3 }
       meets i (withQueues [e] [] (withAllV 2 1 (stand i))) fun c => (c.pair 0 (.dir 2)).getLsbD 0
         && heldCommands c.st.item (withQueues [e] [] (stand i)) != []) = true := by decide

theorem test_witness_dset :
    (let i : Instr := .dset g7 15 (.dir 2) false 3
     meets i (stand i) fun c => c.first == some 0) = true
    ∧ (let i : Instr := .dset g7 15 (.dir 2) true 0
       meets i (stand i) (fun c => !c.uniform) && meets i (asUniform (stand i)) (fun c => c.uniform && c.first.isSome)) = true
    ∧ (let i : Instr := .dset gNever 0 (.dir 2) true 0
       meets i (stand i) fun c => c.first.isNone) = true := by decide

/-! Queues. -/

/-- A launch with a queue from its stage and one to it, at a page that the TLB knows. -/
def withStageQueues (live : List Nat) (s : State) : State :=
  withPage 0x10000 (withLaunch (fun la => { la with
    queues := [⟨0, 1, 2, 0x10000, 1, 0, live, []⟩, ⟨1, 0, 2, 0x10100, 1, 1, [0], []⟩] }) s)

/-- The item has a record of queue 1. -/
def withRecord (popped : List Nat) (s : State) : State := withItem (fun it => { it with record := some (1, 0), popped := popped }) s

theorem test_witness_qpush :
    (let i (q : BitVec 4) (nb : Bool) : Instr := .qpush g7 3 .package .rel nb (.dir 4) 1 q
     let n : Instr := .qpush gNever 3 .package .rel true (.dir 4) 1 0
     let at' (q : BitVec 4) (nb : Bool) (live : List Nat) : State := withStageQueues live (stand (i q nb))
     meets (i 1 true) (at' 1 true []) (fun c => (c.queueOf (·.fromStage) 1).isNone)
     && meets n (withStageQueues [] (stand n)) (fun c => c.active == 0)
     && meets (i 0 true) (at' 0 true [0, 1]) (fun c => c.active != 0 && !c.awaitsToken)
     && meets (i 0 false) (at' 0 false [0, 1]) (fun c => c.active != 0 && c.la.queues.length == 2)
     && meets (i 0 false) (withToken [2] 0 (at' 0 false [])) (fun c => c.active != 0 && c.awaitsToken)
     && meets (i 0 false) (at' 0 false [0]) (fun c => c.active != 0 && !c.awaitsToken
       && (match ((c.la.agent c.it.tile).write .global (0x10000 + 64 * 1) (List.replicate 64 7)
          (orderBefore c.it.tile c.key .rel .package (at' 0 false [0]))).2 with
         | .ok _ => true
         | .error _ => false))) = true := by decide

theorem test_witness_qpop_qpeek :
    ([Instr.qpop g7 3 .package .acq (.dir 4) 1 1, .qpeek g7 3 (.dir 4) 1 1].all fun i =>
      let s := withStageQueues [] (stand i)
      meets i s (fun c => c.active != 0 && c.it.record.isNone && ((c.la.queues[1]?).map (·.toStage)) == some c.it.stage)
      && meets i (withRecord [] s) (fun c => c.it.record == some (1, 0) && !c.it.popped.contains c.key
        && (match c.la.queues[1]? with
          | some x => (match (readRecord c x 0 (lanesIn c.active) (withRecord [] s)).2 with
            | .ok parts => parts.all fun y => !y.2.bad
            | .error _ => false)
          | none => false)
        && (liveStrands (withRecord [] s) c.it).all fun k => k == c.key || c.it.popped.contains k)
      && meets i (withRecord [0] s) (fun c => c.it.popped.contains c.key)) = true
    ∧ (let i : Instr := .qpop g7 3 .package .acq (.dir 4) 1 0
       let n : Instr := .qpeek gNever 3 (.dir 4) 1 1
       meets i (withStageQueues [] (stand i)) (fun c => (c.queueOf (·.toStage) 0) == none)
       && meets n (withStageQueues [] (stand n)) (fun c => c.active == 0)) = true
    ∧ (let i : Instr := .qpop g7 3 .package .acq (.dir 4) 1 1
       let s := withRecord [] (withStageQueues [] (stand i))
       match s.strand 0 with
       | some st =>
         let u := withItem (fun it => { it with strands := [0, 1] }) (s.setStrand 1 { st with inItem := 1, context := 1 })
         meets i u fun c => (liveStrands u c.it).any fun k => k != c.key && !c.it.popped.contains k
       | none => false) = true := by decide

/-! KEYOP and LAUNCH. -/

theorem test_witness_keyop :
    (let i : Instr := .keyopDestroy g7 (.dir 1) (.dir 2) 3
     let n : Instr := .keyopDestroy gNever (.dir 1) (.dir 2) 3
     meets i (stand i) (fun c => c.first == some 0) && meets n (stand n) (fun c => c.first.isNone)) = true
    ∧ (let i : Instr := .keyopBzero g7 (.dir 1) (.dir 2) 3 511 31
       let n : Instr := .keyopBzero gNever (.dir 1) (.dir 2) 3 0 0
       meets n (stand n) (fun c => c.first.isNone)
       && meets i (stand i) (fun c => (c.pair 0 (.dir 2)).toNat % (4096 * 2 ^ 31) == 0)
       && meets i (withAllV 2 0x1000 (stand i)) (fun c => (c.pair 0 (.dir 2)).toNat % (4096 * 2 ^ 31) != 0)) = true := by decide

/-- A KEYOP in hand whose status the placed strand's lane 2 waits for. -/
def keyJobAt (j : KeyJob) : State :=
  let p : Pending := { inFlight .engine 0 with id := 7, locks := [(2, 5)] }
  { withStrand (fun st => { st with pend := [p] }) (stand (.nop g7)) with keyJobs := [j] }

/-- A range of die scratchpads to zero. -/
def zeroDie : KeyJob := ⟨6, false, hbmEnd, 0, 4096, 0, 1, 1, 0, 7, 3⟩

theorem test_witness_keyop_completion :
    ([zeroDie, { zeroDie with destroy := true, key := 5 }, { zeroDie with arg := 2 ^ 50 }].all fun j =>
      let s := keyJobAt j
      s.keyJobs.find? (·.id == 6) == some j && (match s.strand j.strand, Map.find j.item s.items with
        | some st, some it => st.item == j.item && !st.over && it.deferred.isEmpty && s.strands.length == 1 && st.oplog.isEmpty
          && (match st.pend with
            | [p] => p.id == j.pend && p.kind == .engine && p.left == 0 && !p.logged && p.poisoned == 0 && p.killed == 0
                && p.causes.isEmpty && p.locks == [(2, 5)]
            | _ => false) && (st.lanes.get 2).live
          && (Map.find (heldKey j.tile j.launch) s.held).isSome
        | _, _ => false)) = true
    ∧ zeroDie.ok = true ∧ hbmEnd ≤ zeroDie.arg ∧ zeroDie.arg + zeroDie.size ≤ dieEnd
    ∧ ({ zeroDie with arg := 2 ^ 50 } : KeyJob).ok = false ∧ Memory.wf (keyJobAt zeroDie).dieScr = true := by decide

theorem test_witness_die_zeroed : hbmEnd % 4096 = 0 ∧ 4096 % 4096 = 0 ∧ 4096 ≤ 2 ^ 34 ∧ hbmEnd + 4096 ≤ dieEnd
    ∧ dieEnd - 4096 + 4096 ≤ dieEnd := by decide

theorem test_witness_launch :
    (let i : Instr := .launch g7 (.dir 1) (.dir 2) 3
     let n : Instr := .launch gNever (.dir 1) (.dir 2) 3
     meets n (stand n) (fun c => !c.once)
     && meets i (withAllV 3 0x01000000 (stand i)) (fun c => c.once && !canonical (c.pair c.elect (.dir 2)).toNat)
     && meets i (withAllV 2 8 (stand i)) (fun c => c.once && canonical (c.pair c.elect (.dir 2)).toNat
         && (c.pair c.elect (.dir 2)).toNat % 256 != 0)
     && meets i (onPage i) (fun c => c.once && (c.pair c.elect (.dir 2)).toNat == 0x10000 && c.la.replay.isNone
         && (match ((c.la.agent c.it.tile).places .load .global (lineParts 0x10000 2048) (onPage i)).2 with
           | .ok _ => true
           | .error _ => false))) = true := by decide

/-! Engine commands. -/

/-- A descriptor of `n` bytes, one after another, from `base` on. -/
def bytesAt (base n : Nat) : BitVec 256 := BitVec.ofNat 256 (base + 2 ^ 64 + (n - 1 + 2 ^ 16) * 2 ^ 128)

/-- A descriptor of `m` rows of `n` bytes, 256 bytes apart. -/
def rowsAt (base n m : Nat) : BitVec 256 :=
  BitVec.ofNat 256 (base + 2 * 2 ^ 64 + (n - 1 + 2 ^ 16) * 2 ^ 128 + (m - 1 + 256 * 2 ^ 16) * 2 ^ 192)

/-- A strand with a byte tensor in d0 and one in d3, and room for a plane stack in its launch's scratchpad. -/
def withDescs (s : State) : State :=
  withLaunch (fun la => { la with scrtile := 0x20000 })
    (withStrand (fun st => { st with d := [(0, bytesAt 64 32), (3, bytesAt 512 32)] }) s)

/-- A COPY from one place of the scratchpad to another. -/
def aCopy : Instr := .copy g7 0 3 2 ⟨false, .scratch, .scratch⟩ 0x7F

/-- Commands for the copy engine and the array. -/
def engineOps : List Instr :=
  [aCopy, aFill, .bkopen g7 (.dir 1) (.dir 2) 2 ⟨false, .lanePrivate, .global⟩,
    .bkclose g7 (.dir 2) 2 ⟨false, .lanePrivate, .lanePrivate⟩, .mloop g7 1 2 0 0, .mzero g7 2 (.dir 2),
    .mread g7 2 (.dir 2) (.dir 3) 0 .scratch true false 0, .mwrite g7 2 (.dir 2) (.dir 3) 0 .scratch true 0, .mstat g7 (.dir 2) 2]

/-- What `commandQueue` gives of a command. -/
def queued (s : State) (c : Issue) (p : Option Raise → List Command → Nat → List (Nat × Nat) → Bool) : Bool :=
  match commandQueue c s c.i with
  | some (check, queue, size, floors) => p check (queue (s.tile c.it.tile)) size floors
  | none => false

/-- A place of the shared ones is free. -/
def sharedFree (q : List Command) (size : Nat) (floors : List (Nat × Nat)) : Bool :=
  decide ((q.filter fun e => !e.floor).length < size - floors.length)

theorem test_witness_engine_commands :
    (engineOps.all fun i => let s := withDescs (stand i)
      meets i s fun c => c.once && queued s c fun check q size floors => check.isNone && sharedFree q size floors) = true
    ∧ ([Instr.plpack g7 5 4 2 ⟨false, .scratch, .scratch⟩ 0, .plunpk g7 4 5 2 ⟨false, .scratch, .scratch⟩ 0].all fun i =>
      let s := withStrand (fun st => { st with d := [(4, rowsAt 0x10000 32 4), (5, 0)] }) (withDescs (stand i))
      meets i s fun c => c.once && queued s c fun check q size floors => check.isNone && sharedFree q size floors) = true
    ∧ (let i : Instr := .mzero gNever 2 (.dir 2)
       meets i (stand i) fun c => !c.once) = true
    ∧ (let i : Instr := .mzero g7 2 (.dir 2)
       let s := withAllV 2 8 (stand i)
       meets i s fun c => c.once && queued s c fun check _ _ _ => check.isSome) = true
    ∧ ([aFill, .mzero g7 2 (.dir 2)].all fun i =>
      let full := List.replicate 64 (aCommand aFill .queued)
      let s := withQueues full (full.take 16) (withDescs (stand i))
      let held := withQueues ({ aCommand aFill .queued with floor := true } :: full)
        ({ aCommand aFill .queued with floor := true } :: full.take 15) (withDescs (stand i))
      meets i s (fun c => queued s c fun check q size floors =>
        check.isNone && !sharedFree q size floors && q.all fun e => !e.floor)
      && meets i held (fun c => queued held c fun check q size floors =>
        check.isNone && !sharedFree q size floors && q.any fun e => e.floor && e.launch == c.it.launch && e.stage == c.it.stage))
      = true := by decide

/-! The routing engine's commands. -/

/-- A launch with a domain and a dispatch descriptor in d0 and d1 with K = 2, on a die with these contexts. -/
def atRoute (ctxs : List Dispatch) (i : Instr) : State :=
  (withStrand (fun st => { st with d := [(1, BitVec.ofNat 256 (2 * 2 ^ 225))] })
    (withLaunch (fun la => { la with pkgmask := 1, diemask := 1, slots := [0x10, 0, 0, 0, 0, 0, 0, 0] }) (stand i))).setDie 0
      ⟨[], [], ctxs⟩

/-- The context of dispatch 9 of the placed launch, or of another. -/
def aDispatch (launch : Nat) (complete : Bool) : Dispatch :=
  { ix := 0, launch := launch, id := 9, desc := [0, BitVec.ofNat 256 (2 * 2 ^ 225)], choices := [], table := [], sums := []
    vectors := [], ready := complete, sent := complete, counted := complete, complete := complete, dispIssued := false, rows := []
    base := [], demand := [], own := [], drops := 0 }

theorem test_witness_routing_commands :
    (let i : Instr := .rtcount g7 (.dir 1) 0 2 9
     let n : Instr := .rtcount gNever (.dir 1) 0 2 9
     meets n (atRoute [] n) (fun c => !c.once)
     && meets i (stand i) (fun c => c.once && (c.source.checkRoute (stand i)).isSome)
     && meets i (atRoute (List.replicate 4 (aDispatch 2 false)) i) (fun c => c.once && isCount i
       && (c.source.checkRoute (atRoute (List.replicate 4 (aDispatch 2 false)) i)).isNone)
     && meets i (atRoute [] i) (fun c => c.once && (c.source.checkRoute (atRoute [] i)).isNone)) = true
    ∧ (let i : Instr := .rtdisp g7 (.dir 1) 0 2 9
       meets i (atRoute [aDispatch 1 true] i) fun c => c.once && isDisp i
         && (c.source.checkRoute (atRoute [aDispatch 1 true] i)).isNone) = true
    ∧ (let i : Instr := .rtcomb g7 (.dir 1) 0 2 0 9
       meets i (atRoute [] i) fun c => c.once && !isDisp i && !isCount i && (c.source.checkRoute (atRoute [] i)).isNone) = true := by
  decide

/-! The engines at work. -/

/-- The machine with one command for the copy engine, two byte tensors as its descriptors. -/
def oneCopy (e : Command) : State :=
  withLaunch (fun la => { la with scrtile := 0x20000 })
    (withHeld (fun h => { h with scr := [(512, 1), (513, 2), (543, 3)] }) (withQueues [e] [] (stand (.nop g7))))

/-- A COPY or FILL that has not begun. -/
def freshCopy (op : Instr) : Command :=
  { aCommand op .queued with descs := [bytesAt 64 32, 0, 0, bytesAt 512 32, 0, 0], value := 0x5A }

/-- One dimension of `n` bytes at a place. -/
def isFlat (e : Command) (d base n : Nat) : Bool :=
  let x := tensorOf ((e.descs.drop d |>.take 3).take (descRegs (e.descs.getD d 0).toNat))
  x.base == base && decide (0 < n) && x.lay == 0 && !x.stream && x.dims == [⟨n, x.esz⟩]

theorem test_witness_copy_engine :
    ([aFill, aCopy].all fun op => let e := freshCopy op; let s := oneCopy e
      (s.tile 0).copies == [e] && e.state == .queued && e.guardSlot.isNone && e.cursor == 0 && e.err == 0
        && (match Map.find e.item s.items with
          | some it => it.tile == 0 && it.launch == e.launch
          | none => false)
        && (Map.find e.launch s.launches).isSome && (match Map.find (heldKey 0 e.launch) s.held with
          | some h => h.bad.isEmpty
          | none => false)
        && hereField s 0x7F && isFlat e 0 64 32 && isFlat e 3 512 32) = true
    ∧ (let e := { freshCopy aCopy with state := .active, finished := true, err := 5 }
       let s := oneCopy e
       (s.tile 0).copies.find? (fun e => e.no == 4 && e.finished && e.state == .active) == some e
         && (match Map.find e.item s.items with
           | some it => it.tile == 0 && it.deferred.isEmpty
           | none => false)) = true := by decide

theorem test_witness_held_commands_and_banks :
    (let e := { freshCopy aCopy with state := .active, fault := some (0x20, 0, 0), cursor := 3 }
     let s := oneCopy e
     (s.tile 0).copies.find? (fun e => e.no == 4 && e.fault.isSome && e.state == .active) == some e
       && (heldCommands e.item s).isEmpty && (match Map.find e.item s.items with
         | some it => it.tile == 0 && electedKey s it == some 0
         | none => false)) = true
    ∧ (let e := { freshCopy aCopy with state := .bank, handle := 77 }
       let s := oneCopy e
       let held := { s with mem := { s.mem with banks := [(77, ⟨0, 4, 0, [], false⟩)] } }
       (s.tile 0).copies.find? (fun e => (e.state == .bank || e.opened) && e.handle == 77 && !holdsBank 0 e s) == some e
         && (Map.find e.item s.items).isSome && holdsBank 0 e held && (held.tile 0).copies == [e]) = true := by decide

/-- The machine with one command for the array. -/
def oneArray (e : Command) : State :=
  withLaunch (fun la => { la with scrtile := 0x20000 }) (withQueues [] [e] (stand (.nop g7)))

/-- An MLOOP of one step over a scratchpad of zeros, one row. -/
def aLoop : Command := { aCommand (.mloop g7 0 2 0 0) .queued with descs := [0] }

theorem test_witness_array :
    ([aLoop, { aLoop with finished := true }, aCommand (.mzero g7 2 (.dir 2)) .queued].all fun e =>
      let s := oneArray e
      (s.tile 0).array == [e] && e.guardSlot.isNone && (match Map.find e.item s.items with
        | some it => it.tile == 0 && it.launch == e.launch && it.deferred.isEmpty
        | none => false)
      && (match Map.find (heldKey 0 e.launch) s.held with
        | some h => h.bad.isEmpty && h.scr.isEmpty
        | none => false) && (s.tile 0).acc.isEmpty && !(s.tile 0).mtestinj.getLsbD 63 && (s.tile 0).accBad.isEmpty && e.err == 0) = true
    ∧ (match loopSlots placedLaunch 0 0 with
      | .ok (a, b) => a.efmt == .int true 8 && b.efmt == .int true 8
      | .error _ => false) = true
    ∧ (let p : Pending := { inFlight .engine 0 with id := 7, locks := [(2, 4), (2, 5)] }
       let e := { aCommand (.mstat g7 (.dir 4) 2) .queued with pend := some 7 }
       let s := withStrand (fun st => { st with pend := [p] }) (oneArray e)
       match s.strand e.strand with
       | some st => st.item == e.item && st.pend == [p] && (st.lanes.get 2).live && s.strands.length == 1 && st.oplog.isEmpty
       | none => false) = true := by decide

/-- Bytes as they stand in format 0, S8. -/
def s8 : Slot := (slotOf 0).getD default

theorem test_witness_loop_of_zeros (n g : Nat) (set : PlaneSet) :
    ((upTo (32 * g)).map fun k => intA s8.efmt ((rowOf ⟨[], [], 16⟩ 0 0 s8).elem k)
      * intB s8 fun q => (set.view s8).plane q k n).sum = 0 := by
  have bits : ofLeBytes (Memory.readBytes [] 0 (rowBytes s8.efmt 256)) = 0 := by decide
  have elem (k : Nat) : intA s8.efmt ((rowOf ⟨[], [], 16⟩ 0 0 s8).elem k) = 0 := by
    simp only [rowOf, bits]
    show signedOf 8 (0 / 2 ^ (8 * k) % 2 ^ 8) = 0
    simp [signedOf]
  apply List.sum_eq_zero
  intro x h
  obtain ⟨k, -, rfl⟩ := List.mem_map.mp h
  rw [elem, Int.zero_mul]

theorem test_witness_shadow_sets (n : Nat) : ∀ p ∈ [loadSet ⟨[], [], 16⟩ 0 s8 aLoop.id n], p.cmd = aLoop.id →
    ∃ (mem : Memory) (base : Nat), p = loadSet ⟨mem, [], 16⟩ base s8 aLoop.id p.step := by
  intro p h _
  rw [List.mem_singleton] at h
  subst h
  exact ⟨[], 0, rfl⟩

/-- The machine with a routing command on die 0. -/
def oneRoute (e : Command) (ctxs : List Dispatch) : State :=
  withLaunch (fun la => { la with pkgmask := 1, diemask := 1, lkey := 44 }) ((stand (.nop g7)).setDie 0 ⟨[], [e], ctxs⟩)

/-- An RTDISP that has run to its end. -/
def endedDisp : Command := { aCommand (.rtdisp g7 (.dir 1) 0 2 9) .active with value := 9, finished := true }

/-- A dispatch with a table of one expert, homed elsewhere. -/
def tabled (launch : Nat) : Dispatch := { aDispatch launch false with table := [2 ^ 212] }

theorem test_witness_routing_engines :
    ([endedDisp, { endedDisp with wait := [5] }].all fun e =>
      let s := oneRoute e [{ aDispatch 1 true with table := [2 ^ 212] }]
      dispCommand s 0 1 9 == some e && homedDone s 0 1 9 && (match Map.find e.item s.items with
        | some it => !tileDown s it.tile && it.launch == 1 && it.deferred.isEmpty && (Map.find (heldKey it.tile 1) s.held).isSome
        | none => false)) = true
    ∧ (let e := { aCommand (.rtcomb g7 (.dir 1) 0 2 0 9) .active with value := 9, finished := true }
       (oneRoute e []).die 0 == ⟨[], [e], []⟩ && !isCount e.op && !isDisp e.op && e.value.toNat == 9) = true
    ∧ ([tabled 1, { tabled 1 with ready := true }].all fun c =>
       let s := oneRoute endedDisp [c]
       (match s.launches.find? (fun x => x.2.lkey == 44 && bitOf x.2.pkgmask 0) with
        | some (h, la) => h == 1 && !la.capture && homeDie la.diemask (c.table.getD 0 0) == 0
        | none => false) && dispatchCtxs s 1 9 == [(0, c)]) = true := by decide

/-! Remote accesses. -/

theorem test_witness_remote_checks :
    (let i : Instr := .rld g7 3 .strand .none .n32 (.dir 1) (.dir 2) (.dir 6)
     let lanes (s : State) (c : Issue) (p : List RemoteLane → Bool) : Bool :=
       match remoteParts c i with
       | some (_, ls) => !c.la.capture && c.la.replay.isNone && p ls && s.plan == []
       | none => false
     let s := inPod (stand i)
     meets i (withAllV 6 4 s) (fun c => lanes s c fun ls => ls.any fun l => !isMember (withAllV 6 4 s) l.peer)
     && meets i (withAllV 3 0x01000000 s) (fun c => lanes s c fun ls => ls.any fun l => !canonical l.l.addr && isMember s l.peer)
     && meets i (withAllV 2 2 s) (fun c => lanes s c fun ls => ls.any fun l => l.l.addr % 4 != 0)
     && meets i s (fun c => c.st.pend.isEmpty && lanes s c fun ls => s.fabric.remotes.isEmpty
       && ls.all fun l => l.peer == 0 && isMember s 0 && s.self == 1 && ringRoom s 0 true && unacked s 0 == 0)
     && meets i (withV 3 6 2 (withV 2 6 1 s)) (fun c => lanes s c fun ls => (ls.map (·.peer)) == [0, 0, 1, 2] && isMember s 2)
     && meets i (withAllV 6 1 s) (fun c => lanes s c fun ls => ls.all fun l => l.peer == s.self)) = true := by decide

theorem test_witness_remote_accesses :
    ([Instr.rst g7 3 .strand .none .s16 (.dir 2) (.dir 4) (.dir 6), .ratom g7 3 .strand .sc .add true (.dir 4) (.dir 2) (.dir 8) (.dir 6),
      .rld g7 3 .strand .none .n64 (.dir 4) (.dir 2) (.dir 6)].all fun i =>
      meets i (inPod (stand i)) fun c => (remoteParts c i).isSome) = true
    ∧ (let i : Instr := .ratom g7 3 .strand .none .cas false (.dir 4) (.dir 2) (.dir 8) (.dir 6)
       let n : Instr := .rst gNever 3 .strand .none .n8 (.dir 2) (.dir 4) (.dir 6)
       let s := (inPod (stand i)).adjPeer 0 fun p => { p with mask := 0 }
       meets i s (fun c => match remoteParts c i with
         | some (x, _) => x.op == 2 && !(s.peer 0).mask.getLsbD x.arg
         | none => false)
       && meets n (inPod (stand n)) (fun c => ((remoteParts c n).map (·.2)) == some [])) = true
    ∧ (let i : Instr := .rst g7 3 .strand .none .n8 (.dir 2) (.dir 4) (.dir 6)
       let s := inPod (stand i)
       let u := { s with fabric := { s.fabric with vqcfg := 0x0000003010080406 } }
       let e : VqEntry := ⟨5, true, 0, false, true, false, false, true, {}, 0, none⟩
       let played := withLaunch (fun la => { la with replay := some [] }) s
       meets i played (fun c => c.la.replay.isSome && ((remoteParts c i).map fun x => x.1.op == 1) == some true)
       && meets i (u.adjPeer 0 fun p => { p with queue := List.replicate 16 e }) fun c =>
         (remoteParts c i).isSome && !ringRoom (u.adjPeer 0 fun p => { p with queue := List.replicate 16 e }) 0 true) = true := by
  decide

theorem test_witness_tidewait :
    (let i : Instr := .tidewaitPeer g7 (.dir 1) (.dir 2) none
     let n : Instr := .tidewaitPeer gNever (.dir 1) (.dir 2) (some 127)
     let s := inPod (stand i)
     let late (t : Nat) (w : Wait) : State := withStrand (fun st => { st with wait := w })
       { s with fabric := { s.fabric with guard := true, tidecnt := BitVec.ofNat 64 t } }
     meets n (inPod (stand n)) (fun c => c.first.isNone)
     && meets i (withAllV 2 1 s) (fun c => c.first == some 0 && (withAllV 2 1 s).self == 1)
     && meets i s (fun c => c.first == some 0 && railsTo s 0 s.fabric.slotno != 0 && !closing s && isMember s 0)
     && meets i (late 8 (.peer 0 0)) (fun c => c.first.isSome && remTo s == 8 && closing (late 8 (.peer 0 0))
       && (s.peer 0).lastMet == 0)
     && meets i (late 7 (.peer 0 0)) (fun c => c.st.wait == .peer 0 0) && meets i (late 15 .none) (fun c => c.st.wait == .none)
     && meets i (late 8 (.peer 3 0)) (fun c => c.st.wait == .peer 3 0)) = true
    ∧ (let i : Instr := .tidewaitPeer g7 (.dir 1) (.dir 2) none
       let log : SheetEntry := ⟨0, 0, 4, 0, 0, 0, 0, 0x20005, []⟩
       let s := withLaunch (fun la => { la with replay := some [log] }) (inPod (stand i))
       let bare := withLaunch (fun la => { la with replay := some [] }) s
       meets i s (fun c => c.first.isSome && c.la.replay.isSome
         && (fabricInput (c.inputAt ((lowest c.active).getD 0)) 4 0 s).2 == some 0x20005)
       && meets i bare fun c => (fabricInput (c.inputAt ((lowest c.active).getD 0)) 4 0 bare).2.isNone) = true
    ∧ (let i : Instr := .tidewaitTide g7 (.dir 1)
       let n : Instr := .tidewaitTide gNever (.dir 1)
       let w (t : Nat) : State := withStrand (fun st => { st with wait := .tide t }) (stand i)
       meets n (stand n) (fun c => c.first.isNone) && meets i (w 1) (fun c => c.st.wait == .tide 1 && c.first.isSome)
       && meets i (w 0) (fun c => c.st.wait == .tide 0) && meets i (stand i) (fun c => c.st.wait == .none)) = true
    ∧ issues (.vqstat g7 (.dir 1) (.dir 2)) = true := by decide

/-! Debugging. -/

theorem test_witness_debug :
    ([Instr.haltg gNever (.dir 2), .resumeg gNever (.dir 2), .step gNever (.dir 2), .watch gNever .global .ld 3 (.dir 2) 255,
      .mboxw gNever 63 (.dir 2), .unwatch gNever 3].all fun i => meets i (stand i) fun c => c.first.isNone) = true
    ∧ ([Instr.haltg g7 (.dir 2), .resumeg g7 (.dir 2)].all fun i =>
      meets i (stand i) (fun c => c.la.groups.isEmpty && (c.reg 0 (.dir 2)).toNat % 512 == 0)
      && meets i (withAllV 2 256 (stand i)) (fun c => (c.reg 0 (.dir 2)).toNat % 512 == 256)
      && meets i (withLaunch (fun la => { la with groups := [⟨0, 0, true, [0]⟩] }) (stand i)) (fun c => c.la.groups.length == 1)) = true
    ∧ (let i : Instr := .step g7 (.dir 2)
       meets i (withAllV 2 9 (stand i)) (fun c => (strandNamed (stand i) c.it.tile c.it.launch 9).isNone)
       && meets i (stand i) (fun c => strandNamed (stand i) c.it.tile c.it.launch 0 == some c.key)
       && meets i (withAllV 2 1 (twoOf i)) (fun c => strandNamed (twoOf i) c.it.tile c.it.launch 1 == some 1)) = true
    ∧ ([Space.acc, .scratch, .global, .host].all fun sp => issues (.watch g7 sp .ldst 3 (.dir 2) 255)) = true
    ∧ (let i : Instr := .watch g7 .scratch .st 0 (.dir 2) 0
       meets i (withAllV 2 3072 (stand i)) fun c => c.reaches .scratch (.dir 2) 0 0 == c.la.scrtile) = true
    ∧ ([Instr.unwatch g7 0, .mboxw g7 0 (.dir 2), .mboxw g7 63 (.dir 2)].all issues) = true := by decide

/-! Translations. -/

theorem test_witness_translations :
    ([.tlbiAll, .tlbiAsid 1, .tlbiVa 1 0 12, .tlbiPa 0 57].all fun i => (shootOf i).isSome) = true
    ∧ (State.reset.tlbi.stat.getLsbD 63 = false ∧ State.reset.tlbi.waiting = [])
    ∧ (let s := { State.reset with tlbi := { State.reset.tlbi with stat := 0x8000000000000000 } }
       s.tlbi.stat.getLsbD 63 && (Shoot.sentTo ⟨none, none, none⟩ s).isEmpty
         && !(Shoot.sentTo ⟨some 1, none, none⟩ { inPod s with fabric := { (inPod s).fabric with sentMask := [(1, 4)] } }).isEmpty) = true
    ∧ (let i : Instr := .sysw g7 (.dir 2) 0x1201
       let go (t : Nat) : State := withAllV 2 (BitVec.ofNat 32 t) (withAllV 3 0x80000000 (stand i))
       ([0, 1, 2, 3, 4, 7].all fun t => meets i (go t) fun c => c.first == some 0 && (c.pair 0 (.dir 2)).getLsbD 63
         && (c.pair 0 (.dir 2)).toNat % 8 == t)
       && meets i { go 0 with tlbi := { State.reset.tlbi with stat := 0x8000000000000000 } } (fun c => c.first.isSome)) = true
    ∧ (canonical 0x0100000000000000 = false ∧ canonical 0xFF00000000000000 = true)
    ∧ ([Space.global, .host, .dieScratch].all fun sp => match (walk 0 1 true .load sp 0x10000 State.reset).2 with
       | .ok _ => false
       | .error _ => true) = true := by decide

end Sys2Proof.Tests
end

