-- ==== Sys2Proof/Tests/WitnessesD.lean ====
section
/-! SUPPORT. Witnesses: states and operands that meet the hypotheses of the statements about main memory, the banks, and the
health of the tiles. -/

set_option maxRecDepth 100000

namespace Sys2Proof.Tests

open Sys2Proof.Machine

/-- A judgement of a tile's port. -/
def withJ (t d : Nat) (j : Judgement) (s : State) : State := adjJudgement t d (fun _ => j) s

/-- A judgement in a state of R440. -/
def jState (n : Nat) : Judgement := { Judgement.reset with state := n }

/-- A tile in a state of R446. -/
def withTileState (t v : Nat) (s : State) : State := adjHealth t (fun x => putBits x 2 0 v) s

/-- A bank held by entry 4 of tile 33, with stream requests in hand. -/
def withBank (h n : Nat) (jobs : List Stream := []) : State :=
  { State.reset with mem := { State.reset.mem with banks := [(h, ⟨33, 4, n, jobs, false⟩)] } }

/-! Main memory. -/

theorem test_witness_quiet : quiet State.reset ∧ quiet (withBank 7 0) ∧ quiet (withBank 7 8 [⟨false, 12, 3, 1, [], 0⟩]) :=
  ⟨quiet_of _ rfl, quiet_of _ rfl, quiet_of _ rfl⟩

theorem test_witness_memory_requests :
    (0 < 16 ∧ 0 + 16 ≤ hbmEnd) ∧ (0 < 1 ∧ (hbmEnd - 1) + 1 ≤ hbmEnd) ∧ ¬(0 < 0 ∧ 0 + 0 ≤ hbmEnd) ∧ ¬(hbmEnd + 1 ≤ hbmEnd)
    ∧ (0 < hbmEnd)
    ∧ (EFmt.ofCode 0x11 = some (.fp .fp16) ∧ blockOk 1 (some (.fp .fp16)) 0 64 = true ∧ 0 % (4 * (EFmt.fp .fp16).bits) = 0
      ∧ 0 < 31 * 64 + 4 * (EFmt.fp .fp16).bits ∧ 0 + (31 * 64 + 4 * (EFmt.fp .fp16).bits) ≤ hbmEnd) := by
  decide

theorem test_witness_memory_atomics :
    (¬(true = true ∧ (AtomOp.add = .fadd ∨ AtomOp.add = .fmin ∨ AtomOp.add = .fmax)) ∧ 304 % 8 = 0 ∧ 304 + 8 ≤ hbmEnd)
    ∧ ¬¬(true = true ∧ (AtomOp.fadd = .fadd ∨ AtomOp.fadd = .fmin ∨ AtomOp.fadd = .fmax))
    ∧ 306 % 4 ≠ 0 := by decide

theorem test_witness_packets :
    ¬((3 : Nat) = 1 ∨ 3 = 2 ∨ 3 = 4 ∨ 3 = 8) ∧ ((4 : Nat) = 1 ∨ 4 = 2 ∨ 4 = 4 ∨ 4 = 8)
    ∧ served 300 4 4 = true ∧ served 300 4 6 = false ∧ served 300 4 hbmEnd = false
    ∧ ([1, 2] : List Nat).length = ([(0, 0), (1, 4)] : List (Nat × Nat)).length := by decide

theorem test_witness_banks :
    let count (s : State) (h : Nat) (f : Nat → Nat) : Nat := (s.mem.banks.filter fun b => f b.1 == f h).length
    let two : State := { State.reset with mem := { State.reset.mem with banks := [(64, ⟨33, 4, 0, [], false⟩), (65, ⟨33, 5, 0, [], false⟩)] } }
    let many : State := { State.reset with
      mem := { State.reset.mem with banks := (List.range 32).map fun n => (64 * n, ⟨33, 4, 0, [], false⟩) } }
    ¬(12 < 12 ∧ 0 < 64 ∧ 0 < 64) ∧ ¬(11 < 12 ∧ 63 < 64 ∧ 64 < 64)
    ∧ Map.find 66 two.mem.banks = none ∧ 2 ≤ count two 66 (· / 64) ∧ Map.find 64 two.mem.banks ≠ none
    ∧ Map.find 2048 many.mem.banks = none ∧ count many 2048 (· / 64) < 2 ∧ 32 ≤ count many 2048 (· / 4096)
    ∧ Map.find 0 State.reset.mem.banks = none ∧ count State.reset 0 (· / 64) < 2 ∧ count State.reset 0 (· / 4096) < 32 := by
  decide

theorem test_witness_streams :
    Map.find 7 State.reset.mem.banks = none ∧ Map.find 7 (withBank 7 0).mem.banks = some ⟨33, 4, 0, [], false⟩
    ∧ ¬(0 < 0 ∧ 100 + 0 ≤ 16384) ∧ ¬(0 < 2 ∧ 16383 + 2 ≤ 16384) ∧ (0 < 2 ∧ 16382 + 2 ≤ 16384)
    ∧ (List.replicate 2048 (0 : Byte)).length = 1024 * 2 ∧ 49151 < 49152
    ∧ (withBank 7 7).mem.banks = [(7, ⟨33, 4, 7, [], false⟩)] ∧ 7 < 8
    ∧ (withBank 7 8).mem.banks = [(7, ⟨33, 4, 8, [], false⟩)] ∧ 8 ≤ 8
    ∧ (withBank 7 8 [⟨false, 12, 3, 1, [], 0⟩]).mem.banks = [(7, ⟨33, 4, 8, [⟨false, 12, 3, 1, [], 0⟩], false⟩)] ∧ 0 < 3 := by
  decide

theorem test_witness_ranges :
    (4096 % 4096 = 0 ∧ 8192 % 4096 = 0 ∧ 8192 ≤ 2 ^ 34 ∧ 4096 + 8192 ≤ hbmEnd) ∧ ¬(4095 % 4096 = 0)
    ∧ (hbmEnd % 4096 = 0 ∧ 8192 % 4096 = 0 ∧ hbmEnd + 8192 ≤ dieEnd)
    ∧ (0 % 4096 = 0 ∧ 0 % 4096 = 0 ∧ 0 ≤ 2 ^ 34 ∧ 0 + 0 ≤ hbmEnd)
    ∧ State.reset.mem.migidx.toNat % 2 ^ 24 < 12582912
    ∧ 12582912 ≤ (BitVec.ofNat 64 12582912).toNat % 2 ^ 24 := by decide

theorem test_witness_scratchpads :
    (let s := stand (.nop g7)
     regionOf State.reset 0 0 4 = none ∧ (regionOf s 0 0 4).isSome = true
     ∧ (match regionOf s 0 3068 4 with
        | some (k, h) => decide (Map.find k s.held = some h) && decide (h.bad = [])
        | none => false) = true
     ∧ tileDown s 0 = false ∧ tileDown (withTileState 0 1 s) 0 = true
     ∧ (match regionOf (withTileState 0 1 s) 0 0 4 with
        | some (k, h) => decide (Map.find k (withTileState 0 1 s).held = some h) && decide (h.bad = [])
        | none => false) = true) := by decide

theorem test_witness_write_combining :
    (let e : WcEntry := { (default : WcEntry) with pline := hostBase / 256 + 1, mask := 5, data := 0x0201 }
     let s : State := { State.reset with tiles := [(3, { Tile.empty with wc := [e] })] }
     (State.reset.tile 3).wc = [] ∧ (s.tile 3).wc = e :: [] ∧ inHost (256 * e.pline) = true ∧ hostGone s = false
     ∧ e.data < 256 ^ 256 ∧ hostBase % 256 = 0) := by decide

/-! Beacons. -/

theorem test_witness_beacon_sends :
    443 < 768 ∧ neighbour 443 0 = some 419 ∧ (∃ back < 4, neighbour 419 back = some 443)
    ∧ (∃ e, neighbour 419 e = some 395) ∧ tileDown State.reset 443 = false
    ∧ (judgementAt (withJ 443 0 (jState 4) State.reset) 443 0).faulty = true
    ∧ (judgementAt (withJ 443 0 (jState 7) State.reset) 443 0).state = 7 :=
  ⟨by decide, by decide, ⟨2, by decide, by decide⟩, ⟨0, by decide⟩, by decide, by decide, by decide⟩

/-- The beacon of tile 419 that tile 443 receives from the north, and one about another tile. -/
def aBeacon (seq hst inj : Nat) : BitVec 64 := beaconOf 419 seq hst 0 inj

theorem test_witness_beacons_missed :
    let at' (n : Nat) : State := withJ 443 0 (jState n) State.reset
    let two : State := withJ 443 0 { jState 3 with votes := [418, 420] } State.reset
    ((upTo 8).all fun n => (judgementAt (at' n) 443 0).state == n) = true
    ∧ ¬((aBeacon 1 0 0).toNat % 65536 = crc16 (aBeacon 1 0 0).toNat ∧ (aBeacon 1 0 0).toNat / 2 ^ 54 = 418)
    ∧ tooFew (at' 3) 443 0 419 (standing (at' 3) [] + 1) ∧ ¬tooFew two 443 0 419 (standing two [418, 420] + 1) := by
  unfold tooFew; decide

theorem test_witness_beacons_received :
    let at' (n good : Nat) : State := withJ 443 0 { jState n with good := good, grants := [418] } State.reset
    let b := aBeacon 9 0 5
    let a := aBeacon 9 2 5
    (b.toNat % 65536 = crc16 b.toNat ∧ b.toNat / 2 ^ 54 = 419) ∧ (a.toNat % 65536 = crc16 a.toNat ∧ a.toNat / 2 ^ 54 = 419)
    ∧ tileState (at' 0 0) 443 ≠ 1 ∧ a.toNat / 2 ^ 35 % 8 = 2 ∧ b.toNat / 2 ^ 35 % 8 ≠ 2
    ∧ (judgementAt (withJ 443 0 { jState 0 with seq := some 9 } State.reset) 443 0).seq = some (b.toNat / 2 ^ 38 % 2 ^ 16)
    ∧ (judgementAt (at' 5 15) 443 0).good = 15 ∧ (judgementAt (at' 5 14) 443 0).good < 15
    ∧ fenceCount (at' 6 62) 419 < 4 ∧ (judgementAt (at' 6 62) 443 0).good < 63 ∧ 63 ≤ (judgementAt (at' 6 63) 443 0).good
    ∧ tileState (at' 6 63) 419 ≠ 3
    ∧ (let s := withTileState 419 3 (at' 6 63)
       tileDown s 443 = false ∧ tileState s 419 = 3 ∧ threshold s 419 ≤ standing s [418, 420] + 1)
    ∧ (let s := withTileState 443 1 (withJ 443 1 { jState 0 with accuses := true }
          (withJ 443 2 { jState 0 with accuses := true } (withJ 443 3 { jState 0 with accuses := true } State.reset)))
       tileState s 443 = 1 ∧ threshold s 443 ≤ ((upTo 4).filter fun d => if d = 0 then false else (judgementAt s 443 d).accuses).length) := by
  decide

/-! Votes and grants. -/

theorem test_witness_votes :
    let s := withJ 420 3 (jState 4) State.reset
    let two := withJ 443 0 { jState 4 with votes := [418] } s
    neighbour 443 0 = some 419 ∧ neighbour 420 3 = some 419
    ∧ ¬(tileDown State.reset 420 = false ∧ 443 ≠ 420 ∧ (judgementAt State.reset 420 3).faulty = true)
    ∧ (tileDown s 420 = false ∧ 443 ≠ 420 ∧ (judgementAt s 420 3).faulty = true)
    ∧ tooFew s 443 0 419 (standing s [420])
    ∧ ((judgementAt two 420 3).faulty = true ∧ ¬tooFew two 443 0 419 (standing two [418, 420] + 1))
    ∧ (judgementAt (withJ 443 0 { jState 6 with closed := true } s) 443 0).closed = true
    ∧ (judgementAt s 443 0).closed = false := by unfold tooFew; decide

theorem test_witness_grants :
    let s := withJ 420 3 (jState 7) State.reset
    let r := withTileState 419 3 (withJ 443 0 { jState 7 with grants := [418] } s)
    ¬((judgementAt State.reset 420 3).state = 7)
    ∧ (tileDown s 420 = false ∧ 443 ≠ 420 ∧ (judgementAt s 420 3).state = 7) ∧ tileState s 419 ≠ 3
    ∧ ((judgementAt r 420 3).state = 7 ∧ tileDown r 443 = false ∧ tileState r 419 = 3
      ∧ threshold r 419 ≤ standing r [418, 420] + 1) := by decide

theorem test_witness_tile_states :
    tileState State.reset 10 ≠ 2 ∧ tileState (withTileState 10 2 State.reset) 10 = 2
    ∧ ¬(10 < 768 ∧ (tileState State.reset 10 = 0 ∧ 3 % 8 = 4 ∨ tileState State.reset 10 = 4 ∧ 3 % 8 = 0))
    ∧ (10 < 768 ∧ (tileState State.reset 10 = 0 ∧ 12 % 8 = 4 ∨ tileState State.reset 10 = 4 ∧ 12 % 8 = 0))
    ∧ tileState (withTileState 10 4 State.reset) 10 = 4 := by decide

end Sys2Proof.Tests
end

