-- ==== Sys2Proof/Tests/WitnessesE.lean ====
section
/-! SUPPORT. Witnesses: states and operands that meet the hypotheses of the statements about the host, the fabric, launches
and items. -/

set_option maxRecDepth 100000

namespace Sys2Proof.Tests

open Sys2Proof.Machine

/-! The host. -/

/-- A machine whose host has gone. -/
def gone (s : State) : State := after .hostLinkDown s

theorem test_witness_aperture :
    let die : State := { State.reset with host := { State.reset.host with aperbase := BitVec.ofNat 64 hbmEnd } }
    let base (s : State) (offset : Nat) : Nat := s.host.aperbase.toNat / 2 ^ 36 % 2 ^ 16 * 2 ^ 36 + offset
    (0 < 8 ∧ 1000 + 8 ≤ 2 ^ 36 ∧ base State.reset 1000 + 8 ≤ hbmEnd) ∧ State.reset.l2 = []
    ∧ (0 < 8 ∧ 1000 + 8 ≤ 2 ^ 36 ∧ hbmEnd ≤ base die 1000 ∧ base die 1000 + 8 ≤ dieEnd) ∧ die.dieScrBad = []
    ∧ ¬(0 < 0) ∧ ¬((2 ^ 36 - 4) + 8 ≤ 2 ^ 36) := by
  decide

theorem test_witness_host_gone :
    let p : Pending := { inFlight .load 0 with ifGone := some ([⟨1, 5, 0xFFFFFFFF⟩], { code := 0x64 }) }
    let s := gone (withStrand (fun st => { st with pend := [p] }) (stand (.nop g7)))
    hostGone State.reset = false ∧ hostGone s = true ∧ s.strands = [(0, strand0 s)] ∧ (strand0 s).pend = [p]
    ∧ p.ready = false ∧ p.logged = false ∧ p.left = 0 ∧ p.killed = 0 ∧ (strand0 s).seat = none ∧ (strand0 s).handler = none
    ∧ (strand0 s).over = false ∧ (∀ w ∈ [(⟨1, 5, 0xFFFFFFFF⟩ : RegWrite)], w.lane < 4)
    ∧ s.host.held = [] ∧ (gone { State.reset with host := { State.reset.host with held := [[4]] } }).host.held = [[4]] := by
  decide

theorem test_witness_link_and_wear :
    (16 ∈ [1, 2, 4, 8, 16] ∧ 0 < 7 ∧ 7 < 8) ∧ ¬(3 ∈ [1, 2, 4, 8, 16]) ∧ ¬(0 < 0)
    ∧ 36 ≤ 36 ∧ 35 < 36 ∧ 35 ∉ State.reset.host.wornSent
    ∧ (let s := stand (.nop g7)
       3 < 4 ∧ s.strand 0 = some (strand0 s) ∧ (Map.find (heldKey 0 1) s.held).isSome = true ∧ 0 < hbmEnd) := by decide

theorem test_witness_boot :
    let boot (n : Nat) : State := { State.reset with host := { State.reset.host with bootstat := BitVec.ofNat 64 n } }
    let asked := after .attestationRequest { State.reset with host := { State.reset.host with attcmd := 0x4000000000000000 } }
    (boot 2).host.bootstat.toNat % 16 = 2 ∧ (boot 3).host.bootstat.toNat % 16 = 3
    ∧ (boot 4).host.bootstat.toNat % 16 ≠ 2 ∧ (boot 4).host.bootstat.toNat % 16 ≠ 3
    ∧ identityReg .hoststat = false ∧ identityReg .attcmd = true
    ∧ State.reset.host.attcmd.getLsbD 62 = true ∧ asked.host.attcmd.getLsbD 62 = false ∧ asked.host.attheld = [0, 0, 0, 0]
    ∧ State.reset.host.lrstat.getLsbD 63 = false
    ∧ ({ State.reset.host with lrstat := 0x8000000000000000 } : HostIf).lrstat.getLsbD 63 = true := by decide

theorem test_witness_read_only_registers :
    HostReg.mbox 3 5 ∈ [HostReg.linkstat, .railstat 5, .pwrsum, .wear 5, .mbox 3 5, .bootstat, .attreport 5, .idcert 5, .none] := by
  simp

/-! The fabric. -/

/-- A machine in a pod of four, in its first slot. -/
def pod : State := inPod State.reset

theorem test_witness_quiet_machines : quiet State.reset ∧ quiet pod := ⟨quiet_of _ rfl, quiet_of _ rfl⟩

/-- A flit of package 0 for this package. -/
def aFlit (type : Nat) : Flit := { src := 0, dst := 1, type := type, ks := 0 }

/-- The rail on which package 0 is met. -/
def railOf0 : Nat := ((upTo 16).find? fun r => joined pod r == some 0).getD 16

theorem test_witness_calendar :
    State.reset.fabric.inPod = false ∧ pod.fabric.inPod = true ∧ pod.fabric.guard = false
    ∧ (let last : State := { pod with fabric := { pod.fabric with slotno := slotsOf pod - 1 } }
       (after .slotBoundary last).fabric.slotno = 0)
    ∧ (let last : State := { pod with fabric := { pod.fabric with fabcfg := fabcfgOf 128 1 0 } }
       2 ≤ slotsOf last ∧ (after .slotBoundary last).fabric.slotno ≠ 0)
    ∧ (let j : State := { pod with fabric := { pod.fabric with joining := [(2, default)] } }
       ((2, default) ∈ j.fabric.joining) ∧ (Map.find 3 j.fabric.peers).isSome = true ∧ ∀ x ∈ j.fabric.joining, x.1 ≠ 3)
    ∧ (let m := pod.adjPeer 0 fun p => { p with missed := 8 }
       (m.peer 0).member = true ∧ (m.peer 0).removed = false ∧ remTo m ≤ (m.peer 0).missed + 1)
    ∧ pod.fabric.phaseBad = none ∧ railUp pod railOf0 = true ∧ livePeer pod pod.fabric.slotno railOf0 = some 0
    ∧ pod.fabric.locked = true ∧ ({ pod.fabric with locked := false } : Fabric).locked = false := by decide

theorem test_witness_port_engine :
    let e : VqEntry := ⟨77, true, 0, false, true, false, true, true, { type := 3, op := 1, cookie := 5 + 2 ^ 32 }, 0, none⟩
    let s := pod.adjPeer 0 fun p => { p with queue := [e] }
    joined State.reset 0 = none ∧ joined pod railOf0 = some 0
    ∧ (flitFits pod railOf0 = true ∧ (pod.rail railOf0).stall = false ∧ Table.get 0 railOf0 (pod.peer 0).counters < 2 ^ 40)
    ∧ flitFits { pod with fabric := { pod.fabric with guard := true } } railOf0 = false
    ∧ (pod.peer 0).marked = [] ∧ (∀ f ∈ (pod.rail railOf0).retry, f.peer = 0 → f.age < 2)
    ∧ ((pod.adjPeer 0 fun p => { p with queue := [] }).peer 0).queue = []
    ∧ (s.peer 0).queue = [e] ∧ (s.rail railOf0).retry.length < 512 ∧ railClosing s railOf0 = false ∧ e.ready = true
    ∧ e.sent = 0 ∧ e.small = true ∧ e.claimed = none ∧ e.flit.type ≠ 0 := by decide

theorem test_witness_rails_and_pods :
    (pod.rail 0).state ≠ 1 ∧ ((pod.setRail 0 (Rail.reset.setState 1)).rail 0).state = 1
    ∧ (let s : State := { State.reset with fabric := { State.reset.fabric with fabcfg := fabcfgOf 4 1 0 } }
       (s.fabric.inPod = false ∧ formable s = true) ∧ s.self = 1 ∧ podSize s = 4)
    ∧ ¬(pod.fabric.inPod = false)
    ∧ (let s := pod.adjPeer 3 fun p => { p with member := false }
       3 ≠ s.self ∧ s.fabric.inPod = true ∧ 3 < podSize s ∧ isMember s 3 = false)
    ∧ podSize pod ≤ 4 ∧ isMember pod 2 = true ∧ 2 ≠ pod.self
    ∧ (let s : State := { State.reset with fabric := { State.reset.fabric with fabcfg := fabcfgOf 1 0 0 } }
       (s.fabric.inPod = false ∧ formable s = true) ∧ s.self = 0 ∧ podSize s = 1)
    ∧ (let s := pod.adjPeer 3 fun p => { p with member := false }
       let d : State := { s with fabric := { s.fabric with distrusted := [3] } }
       3 ∈ d.fabric.distrusted ∧ 3 ≠ d.self) := by decide

theorem test_witness_flits_taken : ∀ x ∈ [1, 2, 3, 4, 5, 6, 7, 0], Takes pod railOf0 x (aFlit x) := by
  intro x hx
  simp only [List.mem_cons, List.not_mem_nil, or_false] at hx
  rcases hx with rfl | rfl | rfl | rfl | rfl | rfl | rfl | rfl <;> constructor <;> decide

theorem test_witness_flits_refused :
    let f : Flit := { aFlit 6 with authentic := false, ctr := 9 }
    railUp State.reset railOf0 = false
    ∧ (pod.fabric.inPod = true ∧ railUp pod railOf0 = true ∧ f.type = 6 ∧ f.dst = pod.self ∧ isMember pod f.src = true
      ∧ f.src ≠ pod.self ∧ f.authentic = false)
    ∧ Table.get 0 f.src (pod.rail railOf0).fails + 1 < 3
    ∧ (let s := pod.setRail railOf0 { pod.rail railOf0 with fails := [(0, 2), (3, 1)] }
       3 ≤ Table.get 0 f.src (s.rail railOf0).fails + 1) := by decide

theorem test_witness_gaps_and_nak :
    let f : Flit := { aFlit 6 with ctr := 9, ack := 5 }
    let n : Flit := { aFlit 6 with ack := 5, nak := true }
    let s := pod.setRail railOf0 { pod.rail railOf0 with retry := [⟨0, 0, 0, { aFlit 6 with ctr := 5 }⟩] }
    Takes pod railOf0 6 f ∧ Takes s railOf0 6 n ∧ f.ks = (pod.peer 0).rxSlot ∧ Table.get 0 railOf0 (pod.peer 0).nextIn < f.ctr
    ∧ (∀ y ∈ (s.rail railOf0).retry, (n.ack + 2 ^ 16 - y.flit.ctr % 2 ^ 16) % 2 ^ 16 = 0) :=
  ⟨by constructor <;> decide, by constructor <;> decide, by decide, by decide, by decide⟩

theorem test_witness_flit_keys :
    let f : Flit := { aFlit 6 with ks := 1 }
    let s := pod.adjPeer 0 fun p => { p with rxNext := true }
    Takes s railOf0 6 f ∧ f.ks ≠ (s.peer 0).rxSlot ∧ (s.peer 0).rxNext = true ∧ (s.peer 0).retire = none ∧ f.nak = false :=
  ⟨by constructor <;> decide, by decide, by decide, by decide, by decide⟩

/-- The header of an entry that package 0 ferries to package 3. -/
def aHeader : Flit := { aFlit 1 with op := 1, len := 10, cookie := 3, ferry := true, final := 3 }

/-- The data of the entry. -/
def someData : Flit := { aFlit 2 with cookie := 3, data := List.replicate 224 7 }

theorem test_witness_partials :
    let s := pod.adjPeer 0 fun p => { p with partials := [aHeader] }
    Takes s railOf0 2 someData ∧ Takes pod railOf0 1 aHeader ∧ (pod.peer 0).partials = [] ∧ (aHeader.op ≠ 0 ∧ 0 < aHeader.len)
    ∧ (s.peer 0).partials = [aHeader] ∧ aHeader.cookie = someData.cookie ∧ aHeader.type = 1 ∧ aHeader.len ≤ 224
    ∧ aHeader.ferry = true ∧ aHeader.final ≠ s.self ∧ Map.find aHeader.final s.fabric.peers ≠ none :=
  ⟨by constructor <;> decide, by constructor <;> decide, by decide, by decide, by decide, by decide, by decide, by decide,
    by decide, by decide, by decide⟩

theorem test_witness_small_entries :
    let r : LaneRec := { lane := 2, offset := 8, data := 0xA1B2C3D4, leaf := 0x400 }
    let f : Flit := { aFlit 3 with op := 1, arg := 2, addr := 0x1000, recs := [r], cookie := 4, small := true, final := 1, asid := 5 }
    let g : Flit := { f with ferry := true, final := 3 }
    Takes pod railOf0 3 f ∧ Takes pod railOf0 3 g
    ∧ (g.ferry = true ∧ g.final ≠ pod.self ∧ Map.find g.final pod.fabric.peers ≠ none)
    ∧ (f.ferry = false ∧ f.op = 1 ∧ f.arg = 2 ∧ f.dseq = none ∧ f.ts = 0 ∧ f.recs = [r] ∧ leafMT r.leaf ≠ 0) ∧ pod.l2 = [] ∧ (∀ la ∈ pod.launches, la.2.capture = false)
    ∧ (isMember pod (flitOrigin f) = true ∧ flitOrigin f ≠ pod.self
      ∧ (pod.peer (flitOrigin f)).performed f.small f.seq = false ∧ f.small = true)
    ∧ ((f.addr + r.offset) % 2 ^ 64 % 4 = 0 ∧ (f.addr + r.offset) % 2 ^ 64 < hbmEnd) :=
  ⟨by constructor <;> decide, by constructor <;> decide, by decide, by decide, by decide, by decide, by decide,
    by decide⟩

/-- A load of one lane that waits for package 0. -/
def aRemote (op : Nat) (ds : List (Nat × Nat)) : Remote :=
  { id := 9, peer := 0, small := true, op := op, arg := 0, tile := 0, launch := 1, item := 1, strand := 0, pend := 4
    command := none, asid := 1, priv := true, ord := .none, scope := .package, lanes := [⟨2, 0x1000, 0, 0⟩], n := 4, ty := .n32
    dests := ds, homes := [], since := some 0, tmpl := { code := 0 }, logical := 0 }

/-- A strand in the pod, whose one instruction in flight is such an access. -/
def awaiting (op : Nat) (ds : List (Nat × Nat)) : State :=
  let s := withStrand (fun st => { st with pend := [{ inFlight .remote 0 with id := 4 }] }) (inPod (stand (.nop g7)))
  { s with fabric := { s.fabric with remotes := [aRemote op ds] } }

theorem test_witness_answers :
    let f : Flit := { aFlit 4 with op := 4, small := true, cookie := 2 ^ 32 + 9, recs := [{ lane := 2, offset := 0, data := 5 }] }
    let g : Flit := { aFlit 5 with cookie := 2 ^ 32 + 9 }
    let p : Pending := { inFlight .remote 0 with id := 4 }
    (∀ x ∈ [(0, [(2, 7)]), (1, [])], Awaits (awaiting x.1 x.2) (aRemote x.1 x.2) ⟨2, 0x1000, 0, 0⟩ (strand0 (awaiting x.1 x.2)) p)
    ∧ Takes (awaiting 0 [(2, 7)]) railOf0 4 f ∧ Takes (awaiting 1 []) railOf0 5 g
    ∧ (f.ferry = false ∧ flitOrigin f = (awaiting 0 [(2, 7)]).self ∧ f.cookie % 2 ^ 32 = 9 ∧ Map.find 2 (aRemote 0 []).homes = none)
    ∧ (g.ferry = false ∧ flitOrigin g = (awaiting 1 []).self ∧ g.cookie % 2 ^ 32 = 9) := by
  refine ⟨?_, ?_, ?_, by decide, by decide⟩
  · intro x hx
    simp only [List.mem_cons, List.not_mem_nil, or_false] at hx
    rcases hx with rfl | rfl <;> constructor <;> decide
  · constructor <;> decide
  · constructor <;> decide

theorem test_witness_gates_and_translations :
    (let f : Flit := { aFlit 3 with op := 0, small := true, dseq := some 0, cookie := 3 }
     let s := pod.adjPeer 0 fun p => { p with held := [f] }
     (s.peer 0).held = [f] ∧ f.dseq = some ((s.peer 0).dseqNext true) ∧ flitOrigin f = 0 ∧ isMember s 0 = true ∧ 0 ≠ s.self
     ∧ (pod.peer 0).held = [])
    ∧ (Table.get 0 3 pod.asidctx).toNat % 2 = 0
    ∧ (let s : State := { pod with asidctx := [(3, 0x10001)] }
       (Table.get 0 3 s.asidctx).toNat % 2 = 1
       ∧ ((walkFrom s 0x1000 4 ((Table.get 0 3 s.asidctx).toNat / 2 ^ 12 % 2 ^ 40 * 4096) []).2 matches .error _) = true) := by
  decide +kernel

/-- Tables in HBM, from 0x10000 on, that lead VA 0 of ASID 3 to a leaf. -/
def walkable (leaf : Nat) : State :=
  let put (a v : Nat) (s : State) : State := after (.memoryRequest a 0 .local (.write (leBytes 8 v))) s
  let s := put 0x10000 0x11001 (put 0x11000 0x12001 (put 0x12000 0x13001 (put 0x13000 0x14001 (put 0x14000 leaf pod))))
  { s with asidctx := [(3, 0x10001)] }

/-- The walk of VA 0 of ASID 3 finds a leaf. -/
def finds (leaf : Nat) : Bool :=
  match (walkFrom (walkable leaf) 0 4 ((Table.get 0 3 (walkable leaf).asidctx).toNat / 2 ^ 12 % 2 ^ 40 * 4096) []).2 with
  | .ok (x, _, _) => x == leaf
  | .error _ => false

/-- A walk by a cluster's walker, of each space that the leaf's page can lie in. -/
def walks (leaf : Nat) (sp : Space) : Bool :=
  match (walk 0 3 true .store sp 0 (walkable leaf)).2 with
  | .ok _ => true
  | .error _ => false

theorem test_witness_leaves :
    ([(0x2000F, Space.global), (0x800000000000F, .host), (0xC00000000F, .dieScratch)].all fun x => walks x.1 x.2) = true ∧
    (finds 0x2000F = true ∧ checkAccess 0x2000F false (kindOf 1) .global (xlatOf 3 0 0x2000F).pa = none)
    ∧ (finds 0x20003 = true ∧ checkAccess 0x20003 false (kindOf 1) .global (xlatOf 3 0 0x20003).pa ≠ none) := by
  decide +kernel

theorem test_witness_peers_leave :
    (isMember pod 0 = true ∧ 0 ≠ pod.self ∧ pod.fabric.invals = [] ∧ pod.fabric.remotes = [])
    ∧ (let s := pod.adjPeer 0 fun p => { p with missed := 8 }
       ((s.peer 0).member = true ∧ (s.peer 0).removed = false ∧ remTo s ≤ (s.peer 0).missed) ∧ s.fabric.remotes = []
       ∧ ∀ d ∈ s.dies, d.2.ctxs = [])
    ∧ ¬(remTo pod ≤ (pod.peer 0).missed)
    ∧ findRemote pod 9 = none ∧ findRemote (awaiting 0 [(2, 7)]) 9 = some (aRemote 0 [(2, 7)])
    ∧ (awaiting 0 []).fabric.tidecnt.toNat < 0 + remTo (awaiting 0 [])
    ∧ (let s := awaiting 0 [(2, 7)]
       let late : State := { s with fabric := { s.fabric with tidecnt := 100 } }
       0 + remTo late ≤ late.fabric.tidecnt.toNat ∧ Map.find 2 (aRemote 0 [(2, 7)]).homes ≠ some none
       ∧ Awaits late (aRemote 0 [(2, 7)]) ⟨2, 0x1000, 0, 0⟩ (strand0 late) { inFlight .remote 0 with id := 4 }) :=
  ⟨by decide, by decide, by decide, by decide, by decide, by decide, by decide, by decide, by constructor <;> decide⟩

theorem test_witness_entries_of_a_removed_peer :
    let e : VqEntry := ⟨77, true, 3, true, false, false, false, true, { type := 3, op := 1 }, 0, none⟩
    let s := pod.adjPeer 0 fun p => { p with missed := 8, queue := [e, { e with id := 78, final := 0 }] }
    ((s.peer 0).member = true ∧ (s.peer 0).removed = false ∧ remTo s ≤ (s.peer 0).missed) ∧ s.fabric.remotes = []
    ∧ ((s.peer 0).queue.filter fun e => e.final != 0) = [e] ∧ e.ferry = true ∧ Map.find e.final s.fabric.peers ≠ none := by
  decide

theorem test_witness_timeout_of_a_removed_peer :
    let s := (awaiting 0 [(2, 7)]).adjPeer 0 fun p => { p with removed := true }
    (s.peer (aRemote 0 []).peer).removed = true ∧ findRemote s 9 = some (aRemote 0 [(2, 7)])
    ∧ Awaits s (aRemote 0 [(2, 7)]) ⟨2, 0x1000, 0, 0⟩ (strand0 s) { inFlight .remote 0 with id := 4 } :=
  ⟨by decide, by decide, by constructor <;> decide⟩

theorem test_witness_calendar_registers_in_a_pod :
    (let s : State := { pod with host := { pod.host with bootstat := 3 } }
     s.host.bootstat.toNat % 16 = 3 ∧ s.fabric.inPod = true) := by decide

end Sys2Proof.Tests
end

