-- ==== Sys2Proof/Tests/WitnessesF.lean ====
section
/-! SUPPORT. Witnesses: states and operands that meet the hypotheses of the statements about launches, items and images. -/

set_option maxRecDepth 100000

namespace Sys2Proof.Tests

open Sys2Proof.Machine

/-! Launches. -/

/-- A launch record of one stage with one segment, on cluster 0, under ASID 1 (R366 to R369). -/
def aRecord : Memory :=
  [(0x00, 0x0001000100000001), (0x10, 0x100000000), (0x18, 0x10000), (0x20, 0x100), (0x28, 0xFF), (0x1C0, 0xFF00000000),
    (0x1D0, 0x100000000), (0x3C0, 0x10001)].foldl (fun m (x : Nat × Nat) => m.writeBytes x.1 (leBytes 8 x.2)) ([] : Memory)

/-- The host's submission of the record. -/
def aSubmission : Submission := { (default : Submission) with record := aRecord, host := true, priv := true }

/-- A machine whose host has made the submission, its ASID valid or not. -/
def submitted (valid : Bool) : State :=
  { State.reset with subs := [aSubmission], asidctx := if valid then [(1, 1)] else [] }

theorem test_witness_submissions :
    State.reset.host.lrstat.getLsbD 63 = false
    ∧ ({ State.reset.host with lrstat := 0x8000000000000000 } : HostIf).lrstat.getLsbD 63 = true
    ∧ State.reset.subs = [] ∧ (submitted true).subs = aSubmission :: [] ∧ aSubmission.host = true
    ∧ aSubmission.sheet = none := by decide

theorem test_witness_validator_refuses :
    (match (validate aSubmission none { submitted false with subs := [] }).2 with
     | .ok _ => false
     | .error x => x.reason == 3) = true := by decide +kernel

theorem test_witness_validator_takes :
    (let r := validate aSubmission none { submitted true with subs := [] }
     match r.2 with
     | .ok la => !la.capture && la.clbase == 0 && la.clcount == 1 && 0 < r.1.nextHandle && r.1.nextHandle < 65536
         && (Map.find r.1.nextHandle r.1.launches).isNone
     | .error _ => false) = true := by decide +kernel

/-- A placed machine whose one item has retired, so that its launch has nothing left to do. -/
def emptied : State :=
  after (.itemRetire 1)
    (withStrand (fun st => { st with lanes := st.lanes.map fun l => { l with exited := true } }) (stand (.nop g7)))

/-- The launch of a small machine. -/
def launch1 (s : State) : Launch := (Map.find 1 s.launches).getD default

theorem test_witness_launches_end :
    Map.find 1 State.reset.launches = none
    ∧ (let s := stand (.nop g7)
       Map.find 1 s.launches = some (launch1 s) ∧ launchOver s 1 (launch1 s) = false
       ∧ ∀ c ∈ [0x30, 0x50], .event (.launchFatal 1 c 0) ∉ s.plan)
    ∧ (Map.find 1 emptied.launches = some (launch1 emptied) ∧ launchOver emptied 1 (launch1 emptied) = true) := by decide

theorem test_witness_merges :
    State.reset.merges = []
    ∧ (let m : Merge := { (default : Merge) with tile := 3, launch := 1, cause := 0x30 }
       m.tile = 3 ∧ m.launch = 1 ∧ m.cause = 0x30) := by decide

/-! Items. -/

/-- A placed launch whose first item is still to be admitted. -/
def unadmitted : State :=
  let s := withLaunch (fun la => { la with cursors := [] }) (stand (.nop g7))
  { s with items := [], strands := [], convoys := [], held := [] }

theorem test_witness_admission :
    candidates State.reset 0 = []
    ∧ (match candidates unadmitted 0 with
       | [] => false
       | w :: _ => (admitWaiting 0 w unadmitted).isSome && w.launch == 1 && !(launch1 unadmitted).det
           && !(launch1 unadmitted).capture && w.group.isNone) = true := by decide +kernel

/-- A second launch of priority 3 whose item waits, on a tile all of whose contexts a crew of the first launch has. -/
def crowded : State :=
  let s := inCrew (.nop g7)
  let two : Launch := { launch1 unadmitted with
    prio := 3, scrtile := 0, kcnt := 0, gcnt := 0, nseg := 0, segtab := [] }
  { s with launches := s.launches ++ [(2, two)]
           crews := s.crews.map fun x => (x.1, { x.2 with recruiter := 0, contexts := upTo 128 }) }

theorem test_witness_crowded :
    (match candidates crowded 0 with
     | [w] => (admitWaiting 0 w crowded).isNone && (Map.find w.launch crowded.launches).isSome && w.launch == 2
         && neededCrews 0 (effectivePrio ((Map.find w.launch crowded.launches).getD default) w) w crowded == [1]
     | _ => false) = true := by decide +kernel

theorem test_witness_retirement :
    Map.find 1 State.reset.items = none
    ∧ (let s := stand (.nop g7)
       let it := (Map.find 1 s.items).getD default
       Map.find 1 s.items = some it ∧ itemOver s it = false)
    ∧ (let s := withStrand (fun st => { st with lanes := st.lanes.map fun l => { l with exited := true } }) (stand (.nop g7))
       let it := (Map.find 1 s.items).getD default
       Map.find it.launch s.launches = some (launch1 s) ∧ itemOver s it = true ∧ (launch1 s).det = false
       ∧ (launch1 s).state = .live ∧ it.lost = false ∧ (s.tile it.tile).copies = [] ∧ (s.tile it.tile).array = []
       ∧ (s.die (dieOf it.tile)).routes = [] ∧ it.progs = [] ∧ s.keyJobs = []
       ∧ ∀ g ∈ (s.heldAt it.tile it.launch).segs, g.2.k = none) := by decide +kernel

theorem test_witness_ages :
    (let la := launch1 unadmitted
     Map.find 1 unadmitted.launches = some la ∧ la.state = .live ∧ ¬7 ≤ la.prio + Table.get 0 0 la.ages
     ∧ (∃ w ∈ waitingIn 1 la, w.stage = 0 ∧ w.item = 0)
     ∧ ((la.stages.map fun st => (st.inq, st.rbase + Table.get 0 0 la.cursors, decide (0 < st.rbase + st.count)))
         = [(false, 0, true)] ∧ 0 ∉ skippedOffsets la 0)
     ∧ ∀ i < 5, itemWaits 1 { la with
           stages := la.stages.map fun st => { st with count := 4 } } 0 i = decide (i < 4)
         ∧ itemWaits 1 { la with
           stages := la.stages.map fun st => { st with inq := true, qin := 0 }
           queues := [{ (default : Queue) with depth := 8, appended := 7, bound := 3 }] } 0 (3 + i) = decide (i < 4)) := by
  decide +kernel

/-! Pre-emption. -/

/-- A machine at whose registers an operation on a launch runs. -/
def operating (op : Nat) (s : State) : State :=
  { s with pre := { s.pre with stat := 0x8000000000000000, goCmd := BitVec.ofNat 64 (op * 2 ^ 58 + 1), goBase := 0x100000
                               goLen := 0x10000 } }

/-- A placed machine whose strand stands between clauses, its launch in a state of pre-emption. -/
def between (x : LaunchState) : State :=
  withLaunch (fun la => { la with state := x })
    (withStrand (fun st => st.mapLanes 15 fun l => { l with flow := { l.flow with pc := 0x1000, ctx := none } }) (stand (.nop g7)))

theorem test_witness_pre_operations :
    preBusy State.reset 0 1 = false ∧ preBusy State.reset 1 1 = false
    ∧ (let s := operating 0 State.reset
       s.pre.goCmd.toNat % 2 ^ 16 = 1 ∧ preBusy s 0 1 = true ∧ Map.find 1 s.launches = none)
    ∧ (let s := operating 1 State.reset
       s.pre.goCmd.toNat % 2 ^ 16 = 1 ∧ preBusy s 1 1 = true ∧ Map.find 1 s.launches = none) := by decide

theorem test_witness_saves :
    (let s := operating 0 (stand (.nop g7))
     preBusy s 0 1 = true ∧ Map.find 1 s.launches = some (launch1 s) ∧ (launch1 s).state ≠ .preempting)
    ∧ (let s := operating 0 (between .preempting)
       preBusy s 0 1 = true ∧ Map.find 1 s.launches = some (launch1 s)
       ∧ ((launch1 s).state = .preempting ∧ launchStopped s 1 (launch1 s) = true)
       ∧ (Map.find 1 s.items).isSome = true ∧ ((Map.find 1 s.items).getD default).launch = 1
       ∧ ((Map.find 1 s.items).getD default).tile < 768) := by decide

/-- A saved launch, to be restored where it was. -/
def saved : State := operating 1 (after .saveComplete (operating 0 (between .preempting)))

theorem test_witness_restores :
    (let s := operating 1 (stand (.nop g7))
     preBusy s 1 1 = true ∧ Map.find 1 s.launches = some (launch1 s) ∧ (launch1 s).state ≠ .preempted
     ∧ (launch1 s).state ≠ .restoring)
    ∧ (preBusy saved 1 1 = true ∧ (launch1 saved).state = .preempted ∧ saved.pre.goCmd.getLsbD 57 = false
      ∧ (let la := launch1 saved
         let moved : Launch := { la with
           state := .restoring, shape := la.shape.map fun (x : Nat × Nat) => (((x.1 : Int) + 0).toNat, x.2) }
         (restoreAll 1 moved 0 { saved with launches := Map.insert 1 moved saved.launches }).isSome = true))
    ∧ (let s := operating 1 (between .restoring)
       preBusy s 1 1 = true ∧ Map.find 1 s.launches = some (launch1 s) ∧ (launch1 s).state = .restoring) := by
  decide +kernel

end Sys2Proof.Tests
end

