-- ==== Sys2Proof/Tests/Words.lean ====
section
/-! SUPPORT. A word of every encoded instruction, written out from the opcode map (R133, R134), the forms (R123 to R125) and
the field table of the instruction's own entry, with operand values that differ from field to field. -/

set_option maxRecDepth 100000

namespace Sys2Proof.Tests

open Sys2Proof.Machine

/-- The words are read as the instruction, and the instruction is written as the words. -/
def reads (x : Word × List Word × Instr) : Bool :=
  (match decode x.1 (x.2.1.headD 0) with
   | .ok i => i == x.2.2
   | .error _ => false) && x.2.2.wf && encode x.2.2 == x.1 :: x.2.1

/-! Words that the specification's own examples give. -/

theorem test_words_examples1 :
    ([
    (0xCAE10000, [0x00012345], .movw g7 (.dir 4) 0x12345),
    (0x08E1427D, [], .addi g7 (.dir 5) (.dir 4) (-3)),
    (0x0741A105, [], .add ⟨true, 2⟩ (.dir 6) (.ind 2) (.dir 5)),
    (0x803FFFFC, [], .bra ⟨false, 1⟩ (-4)),
    (0xD8E10003, [0x0021007F], .copy g7 4 0 3 ⟨false, .global, .scratch⟩ 0x7F),
    (0xC0E18105, [0x20AC0040], .ld g7 2 ⟨.package, .acq, .global⟩ .s16 (.dir 6) (.dir 2) 64),
    (0xC8E2020A, [0x09BC7FF8], .atomCas g7 0 ⟨.package, .sc, .global⟩ false (.dir 8) (.dir 4) (.dir 10) 0x7FF8),
    (0xC2E0CA0E, [0x00010010], .st g7 0 (plain .scratch) .n64 (.dir 20) (.dir 14) 16),
    (0xACE0000D, [], .phase g7 false true .package),
    (0xAEE00007, [], .fence g7 .system),
    (0x2CE244A7, [], .shri g7 (.dir 9) (.dir 9) 7),
    (0x68E14202, [], .cvt g7 .f32To (.dir 5) (.dir 4) 2),
    (0x6E228000, [], .ballot ⟨false, 1⟩ (.dir 10) false 0),
    (0x70210001, [], .vote ⟨false, 1⟩ .any 4 false 0)] : List (Word × List Word × Instr)).all reads = true := by decide +kernel

theorem test_words_examples2 :
    ([
    (0xE0E08004, [0x00090000], .mloop g7 2 4 1 1),
    (0xEAE20100, [0x30C80052], .rld g7 3 .pod .acq .n32 (.dir 8) (.dir 2) (.dir 5)),
    (0xEEE2810B, [0x00D00050], .ratom g7 0 .pod .rel .add false (.dir 10) (.dir 2) (.dir 11) (.dir 5)),
    (0xBAE24205, [], .crew g7 (.dir 9) (.dir 4) (.dir 5)),
    (0xBCE28000, [], .crwend g7 (.dir 10)),
    (0xBEE18000, [], .crwred g7 .add (.dir 6) (.dir 0)),
    (0x8EE00000, [], .exit g7),
    (0xF6E18107, [0], .launch g7 (.dir 6) (.dir 2) 7),
    (0xCCEA0000, [0x30], .sysr g7 (.dir 40) 0x30),
    (0x80800027, [], .bra ⟨false, 4⟩ 0x27),
    (0xF8E01800, [0x01000000], .resumeg g7 (.dir 48)),
    (0xF8E01700, [0x02000000], .step g7 (.dir 46)),
    (0xF8E00000, [0x04000000], .unwatch g7 0),
    (0xC0EC9802, [0x00AC0000], .ld g7 0 ⟨.package, .acq, .global⟩ .n32 (.dir 50) (.dir 48) 0),
    (0x3CE19930, [], .isetp g7 .eq 6 (.dir 50) (.dir 48)),
    (0xC2E08181, [0x00010000], .st g7 0 (plain .scratch) .n32 (.dir 3) (.dir 1) 0)] : List (Word × List Word × Instr)).all reads = true := by
  decide +kernel

theorem test_words_integer1 :
    ([
    (0x00E00000, [], .nop g7),
    (0x02714300, [], .mov ⟨false, 3⟩ (.ind 5) (.dir 6)),
    (0x04E2407D, [], .movi g7 (.dir 9) (-3)),
    (0x07406121, [], .add ⟨true, 2⟩ (.dir 1) (.ind 2) (.dir 33)),
    (0x0B406121, [], .sub ⟨true, 2⟩ (.dir 1) (.ind 2) (.dir 33)),
    (0x0D406121, [], .mul ⟨true, 2⟩ (.dir 1) (.ind 2) (.dir 33)),
    (0x0F406121, [], .mulhiS ⟨true, 2⟩ (.dir 1) (.ind 2) (.dir 33)),
    (0x11406121, [], .mulhiN ⟨true, 2⟩ (.dir 1) (.ind 2) (.dir 33)),
    (0x13406121, [], .mad ⟨true, 2⟩ (.dir 1) (.ind 2) (.dir 33)),
    (0x15406121, [], .minS ⟨true, 2⟩ (.dir 1) (.ind 2) (.dir 33)),
    (0x17406121, [], .minN ⟨true, 2⟩ (.dir 1) (.ind 2) (.dir 33)),
    (0x19406121, [], .maxS ⟨true, 2⟩ (.dir 1) (.ind 2) (.dir 33)),
    (0x1B406121, [], .maxN ⟨true, 2⟩ (.dir 1) (.ind 2) (.dir 33)),
    (0x1F406121, [], .and ⟨true, 2⟩ (.dir 1) (.ind 2) (.dir 33)),
    (0x21406121, [], .or ⟨true, 2⟩ (.dir 1) (.ind 2) (.dir 33)),
    (0x23406121, [], .xor ⟨true, 2⟩ (.dir 1) (.ind 2) (.dir 33))] : List (Word × List Word × Instr)).all reads = true := by decide +kernel

theorem test_words_integer2 :
    ([
    (0x25406121, [], .andn ⟨true, 2⟩ (.dir 1) (.ind 2) (.dir 33)),
    (0x08E203BF, [], .addi g7 (.dir 8) (.dir 7) 63),
    (0x1CE04100, [], .abs g7 (.dir 1) (.dir 2))] : List (Word × List Word × Instr)).all reads = true := by decide +kernel

theorem test_words_shifts :
    ([
    (0x26804143, [], .shl ⟨false, 4⟩ (.dir 1) (.dir 2) (.ind 3)),
    (0x28804143, [], .shr ⟨false, 4⟩ (.dir 1) (.dir 2) (.ind 3)),
    (0x2A804143, [], .sar ⟨false, 4⟩ (.dir 1) (.dir 2) (.ind 3)),
    (0x2E804143, [], .rol ⟨false, 4⟩ (.dir 1) (.dir 2) (.ind 3)),
    (0x36804143, [], .bfe ⟨false, 4⟩ (.dir 1) (.dir 2) (.ind 3)),
    (0x38804143, [], .bfi ⟨false, 4⟩ (.dir 1) (.dir 2) (.ind 3)),
    (0x3A804143, [], .sel ⟨false, 4⟩ (.dir 1) (.dir 2) (.ind 3)),
    (0x2CE04111, [], .shli g7 (.dir 1) (.dir 2) 17),
    (0x2CE04131, [], .shri g7 (.dir 1) (.dir 2) 17),
    (0x2CE04151, [], .sari g7 (.dir 1) (.dir 2) 17),
    (0x2CE04171, [], .roli g7 (.dir 1) (.dir 2) 17),
    (0x30EF0100, [], .clz g7 (.dir 60) (.dir 2)),
    (0x32EF0100, [], .popc g7 (.dir 60) (.dir 2)),
    (0x34EF0100, [], .brev g7 (.dir 60) (.dir 2)),
    (0x3CF34103, [], .isetp g7 .gen 5 (.dir 2) (.dir 3)),
    (0x3EE08247, [], .add64 g7 (.dir 2) (.dir 4) (.ind 7))] : List (Word × List Word × Instr)).all reads = true := by decide +kernel

theorem test_words_float1 :
    ([
    (0x40004103, [], .fadd ⟨false, 0⟩ (.dir 1) (.dir 2) (.dir 3)),
    (0x42004103, [], .fsub ⟨false, 0⟩ (.dir 1) (.dir 2) (.dir 3)),
    (0x44004103, [], .fmul ⟨false, 0⟩ (.dir 1) (.dir 2) (.dir 3)),
    (0x46004103, [], .ffma ⟨false, 0⟩ (.dir 1) (.dir 2) (.dir 3)),
    (0x48004103, [], .fmin ⟨false, 0⟩ (.dir 1) (.dir 2) (.dir 3)),
    (0x4A004103, [], .fmax ⟨false, 0⟩ (.dir 1) (.dir 2) (.dir 3)),
    (0x5C004103, [], .fscale ⟨false, 0⟩ (.dir 1) (.dir 2) (.dir 3)),
    (0x60004103, [], .hadd2 ⟨false, 0⟩ (.dir 1) (.dir 2) (.dir 3)),
    (0x62004103, [], .hmul2 ⟨false, 0⟩ (.dir 1) (.dir 2) (.dir 3)),
    (0x64004103, [], .hfma2 ⟨false, 0⟩ (.dir 1) (.dir 2) (.dir 3)),
    (0x6C004103, [], .pack2 ⟨false, 0⟩ (.dir 1) (.dir 2) (.dir 3)),
    (0x4CE04100, [], .fabs g7 (.dir 1) (.dir 2)),
    (0x4EE04100, [], .fneg g7 (.dir 1) (.dir 2)),
    (0x50E04100, [], .frcp g7 (.dir 1) (.dir 2)),
    (0x52E04100, [], .frsq g7 (.dir 1) (.dir 2)),
    (0x54E04100, [], .fexp2 g7 (.dir 1) (.dir 2))] : List (Word × List Word × Instr)).all reads = true := by decide +kernel

theorem test_words_float2 :
    ([
    (0x56E04100, [], .flog2 g7 (.dir 1) (.dir 2)),
    (0x58E04100, [], .ftanh g7 (.dir 1) (.dir 2)),
    (0x66E04100, [], .fclass g7 (.dir 1) (.dir 2)),
    (0x5AEB8103, [], .fsetp g7 .ge 6 (.dir 2) (.dir 3)),
    (0x5EE04102, [], .frnd g7 .rdn (.dir 1) (.dir 2)),
    (0x68E1421A, [], .cvt g7 .toS32 (.dir 5) (.dir 4) 2),
    (0x6AE14212, [], .cvti g7 .fToS .sr (.dir 5) (.dir 4))] : List (Word × List Word × Instr)).all reads = true := by decide +kernel

theorem test_words_lanes :
    ([
    (0x6EE20580, [], .ballot g7 (.dir 8) true 3),
    (0x70E1002E, [], .vote g7 .uni 4 true 3),
    (0x72E04103, [], .shflIdx g7 (.dir 1) (.dir 2) (.dir 3)),
    (0x74E04103, [], .shflXor g7 (.dir 1) (.dir 2) (.dir 3)),
    (0x76E04103, [], .shflUp g7 (.dir 1) (.dir 2) (.dir 3)),
    (0x78E04103, [], .shflDn g7 (.dir 1) (.dir 2) (.dir 3)),
    (0x7AE04103, [], .xchg g7 (.dir 1) (.dir 2) (.dir 3)),
    (0x7CE1C000, [], .rng g7 (.dir 7)),
    (0x7EE1C48A, [], .redux g7 .fmax (.dir 7) (.dir 9))] : List (Word × List Word × Instr)).all reads = true := by decide +kernel

theorem test_words_control :
    ([
    (0x80FFFFFC, [], .bra g7 (-4)),
    (0x84E186A0, [], .call g7 (100000)),
    (0x98F00000, [], .bru g7 (-1048576)),
    (0x82E00480, [], .brx g7 (.dir 9)),
    (0x86E00F80, [], .callx g7 (.dir 31)),
    (0x89000000, [], .ret ⟨true, 0⟩),
    (0x8AEB4480, [], .jmpf g7 45 (.dir 9)),
    (0x8CEB4407, [], .cfetch g7 45 (.dir 8) 7),
    (0x8EE00000, [], .exit g7),
    (0x90E00000, [], .yield g7),
    (0x92E00064, [], .trap g7 100),
    (0x94E00000, [], .eret g7),
    (0x96E00005, [], .bkpt g7 5),
    (0x9AE0C200, [], .cseg g7 (.dir 3) (.dir 4))] : List (Word × List Word × Instr)).all reads = true := by decide +kernel

theorem test_words_sync1 :
    ([
    (0xA0E0005F, [], .bar g7 95),
    (0xA2E08003, [], .bararv g7 (.dir 2) 3),
    (0xA4E00103, [], .barwt g7 (.dir 2) 3),
    (0xA6E144C0, [], .kinitReg g7 5 (.dir 9)),
    (0xA6E14020, [], .kinitImm g7 5 (-32)),
    (0xA8E144C0, [], .kaddReg g7 5 (.dir 9)),
    (0xA8E1401F, [], .kaddImm g7 5 31),
    (0xAAEFC000, [], .kwait g7 63),
    (0xACE00014, [], .phase g7 true false .die),
    (0xACE0000D, [], .phase g7 false true .package),
    (0xAEE00007, [], .fence g7 .system),
    (0xB0E28000, [], .tokwait g7 (.dir 10)),
    (0xB2E00000, [], .tokpass g7),
    (0xB4E08487, [], .fork g7 .routing (.dir 9) 7),
    (0xB6E24001, [], .rdv g7 (.dir 9) .matrix),
    (0xB8E2400B, [], .gres g7 9 true 3)] : List (Word × List Word × Instr)).all reads = true := by decide +kernel

theorem test_words_sync2 :
    ([
    (0xBAE04103, [], .crew g7 (.dir 1) (.dir 2) (.dir 3)),
    (0xBCE24000, [], .crwend g7 (.dir 9)),
    (0xBEE18107, [], .crwred g7 .xor (.dir 6) (.dir 2))] : List (Word × List Word × Instr)).all reads = true := by decide +kernel

theorem test_words_memory1 :
    ([
    (0xC0E18105, [0x20AC0040], .ld g7 2 ⟨.package, .acq, .global⟩ .s16 (.dir 6) (.dir 2) 64),
    (0xC2E0CA0E, [0x0001FFF0], .st g7 0 ⟨.strand, .none, .scratch⟩ .n64 (.dir 20) (.dir 14) (-16)),
    (0xC4E04103, [0xF0520000], .gather g7 15 ⟨.tile, .rel, .shared⟩ .n8 (.dir 1) (.dir 2) (.dir 3)),
    (0xC6E00103, [0x10FD0453], .scatter g7 1 ⟨.system, .sc, .host⟩ .n64 (.dir 2) (.dir 3) (.ind 5)),
    (0xC8E2020A, [0x00BCFFF8], .atomAdd g7 0 ⟨.package, .sc, .global⟩ true (.dir 8) (.dir 4) (.dir 10) 32760),
    (0xC8E2020A, [0x11BC7FF8], .atomMinS g7 1 ⟨.package, .sc, .global⟩ false (.dir 8) (.dir 4) (.dir 10) 32760),
    (0xC8E2020A, [0x22BCFFF8], .atomMinN g7 2 ⟨.package, .sc, .global⟩ true (.dir 8) (.dir 4) (.dir 10) 32760),
    (0xC8E2020A, [0x33BC7FF8], .atomMaxS g7 3 ⟨.package, .sc, .global⟩ false (.dir 8) (.dir 4) (.dir 10) 32760),
    (0xC8E2020A, [0x44BCFFF8], .atomMaxN g7 4 ⟨.package, .sc, .global⟩ true (.dir 8) (.dir 4) (.dir 10) 32760),
    (0xC8E2020A, [0x55BC7FF8], .atomAnd g7 5 ⟨.package, .sc, .global⟩ false (.dir 8) (.dir 4) (.dir 10) 32760),
    (0xC8E2020A, [0x66BCFFF8], .atomOr g7 6 ⟨.package, .sc, .global⟩ true (.dir 8) (.dir 4) (.dir 10) 32760),
    (0xC8E2020A, [0x77BC7FF8], .atomXor g7 7 ⟨.package, .sc, .global⟩ false (.dir 8) (.dir 4) (.dir 10) 32760),
    (0xC8E2020A, [0x88BCFFF8], .atomExch g7 8 ⟨.package, .sc, .global⟩ true (.dir 8) (.dir 4) (.dir 10) 32760),
    (0xC8E2020A, [0x99BC7FF8], .atomCas g7 9 ⟨.package, .sc, .global⟩ false (.dir 8) (.dir 4) (.dir 10) 32760),
    (0xC8E2020A, [0xAABC7FF8], .atomFadd g7 10 ⟨.package, .sc, .global⟩ false (.dir 8) (.dir 4) (.dir 10) 32760),
    (0xC8E2020A, [0xBBBC7FF8], .atomFmin g7 11 ⟨.package, .sc, .global⟩ false (.dir 8) (.dir 4) (.dir 10) 32760)] : List (Word × List Word × Instr)).all reads = true := by decide +kernel

theorem test_words_memory2 :
    ([
    (0xC8E2020A, [0xCCBC7FF8], .atomFmax g7 12 ⟨.package, .sc, .global⟩ false (.dir 8) (.dir 4) (.dir 10) 32760),
    (0xC8E2020A, [0xDDBCFFF8], .atomIncw g7 13 ⟨.package, .sc, .global⟩ true (.dir 8) (.dir 4) (.dir 10) 32760),
    (0xC8E2020A, [0xEEBC7FF8], .atomDecw g7 14 ⟨.package, .sc, .global⟩ false (.dir 8) (.dir 4) (.dir 10) 32760),
    (0xF4E00200, [0x000D0300], .prefetch g7 true true (.dir 4) 3)] : List (Word × List Word × Instr)).all reads = true := by decide +kernel

theorem test_words_system1 :
    ([
    (0xCAE10000, [0xDEADBEEF], .movw g7 (.dir 4) 0xDEADBEEF),
    (0xCCEA0000, [0x00000030], .sysr g7 (.dir 40) 0x30),
    (0xCEE00500, [0x00001300], .sysw g7 (.dir 10) 0x1300),
    (0xD0E24500, [0x00000003], .dset g7 9 (.dir 10) false 3),
    (0xD0E24500, [0x00000004], .dset g7 9 (.dir 10) true 0),
    (0xD2E00005, [0x30910029], .qpush g7 3 .die .rel true (.dir 5) 2 9),
    (0xD4E14000, [0x30880029], .qpop g7 3 .die .acq (.dir 5) 2 9),
    (0xD6E14000, [0x30000029], .qpeek g7 3 (.dir 5) 2 9),
    (0xF6E18107, [0x00000000], .launch g7 (.dir 6) (.dir 2) 7),
    (0xF8E00180, [0x00000000], .haltg g7 (.dir 3)),
    (0xF8E00180, [0x01000000], .resumeg g7 (.dir 3)),
    (0xF8E00180, [0x02000000], .step g7 (.dir 3)),
    (0xF8E00600, [0x03150FE2], .watch g7 .host .st 2 (.dir 12) 254),
    (0xF8E00000, [0x04000002], .unwatch g7 2),
    (0xF8E00500, [0x0500003E], .mboxw g7 62 (.dir 10)),
    (0xFAE10309, [0x00000000], .keyopDestroy g7 (.dir 4) (.dir 6) 9)] : List (Word × List Word × Instr)).all reads = true := by decide +kernel

theorem test_words_system2 :
    ([
    (0xFAE10309, [0x00012D2C], .keyopBzero g7 (.dir 4) (.dir 6) 9 300 22)] : List (Word × List Word × Instr)).all reads = true := by decide +kernel

theorem test_words_engines :
    ([
    (0xD8E0C105, [0x0061007F], .copy g7 3 2 5 ⟨true, .global, .scratch⟩ 127),
    (0xD8E0C105, [0x01090006], .plpack g7 3 2 5 ⟨false, .scratch, .scratch⟩ 6),
    (0xD8E0C105, [0x02090006], .plunpk g7 3 2 5 ⟨false, .scratch, .scratch⟩ 6),
    (0xD8E0DE05, [0x0304000C], .fill g7 3 (.dir 60) 5 ⟨false, .lanePrivate, .global⟩ 12),
    (0xD8E1DE05, [0x04040000], .bkopen g7 (.dir 7) (.dir 60) 5 ⟨false, .lanePrivate, .global⟩),
    (0xD8E01E05, [0x05000000], .bkclose g7 (.dir 60) 5 ⟨false, .lanePrivate, .lanePrivate⟩),
    (0xDAE18485, [0x000000C8], .rtcount g7 (.dir 6) 9 5 200),
    (0xDCE18485, [0x000000C8], .rtdisp g7 (.dir 6) 9 5 200),
    (0xDEE18485, [0x000300C8], .rtcomb g7 (.dir 6) 9 5 3 200),
    (0xE0E0C004, [0x00310000], .mloop g7 3 4 1 6),
    (0xE2E04400, [0x00000000], .mzero g7 1 (.dir 8)),
    (0xE4E04409, [0x00D2000A], .mread g7 1 (.dir 8) (.dir 9) 2 .shared true true 10),
    (0xE6E04409, [0x000A000A], .mwrite g7 1 (.dir 8) (.dir 9) 2 .scratch false 10),
    (0xE8E30001, [0x00000000], .mstat g7 (.dir 12) 1)] : List (Word × List Word × Instr)).all reads = true := by decide +kernel

theorem test_words_remote :
    ([
    (0xEAE20100, [0x30C80052], .rld g7 3 .pod .acq .n32 (.dir 8) (.dir 2) (.dir 5)),
    (0xECE00109, [0x00F00454], .rst g7 0 .system .rel .s8 (.dir 2) (.dir 9) (.ind 5)),
    (0xEEE2810C, [0x10D0E850], .ratom g7 1 .pod .rel .incw true (.dir 10) (.dir 2) (.dir 12) (.dir 5)),
    (0xF0E0C380, [0x00000000], .tidewaitPeer g7 (.dir 3) (.dir 7) none),
    (0xF0E0C000, [0x000000E4], .tidewaitPeer g7 (.dir 3) (.dir 0) (some 100)),
    (0xF0E0C000, [0x00010000], .tidewaitTide g7 (.dir 3)),
    (0xF2E0C380, [0x00000000], .vqstat g7 (.dir 3) (.dir 7))] : List (Word × List Word × Instr)).all reads = true := by decide +kernel

end Sys2Proof.Tests
end

section
/-! FP32 rounding (R29, R33). The patterns of one sign are numbered 0, 1, 2, … in the order of their magnitudes, so the
neighbours of a magnitude are the values of two consecutive pattern numbers, and rounding takes one of the two. -/

namespace Sys2Proof.Machine

/-! ## Magnitudes of the FP32 patterns -/

/-- The magnitude, in units of 2^−149, of pattern number `p`; the exponent field is not bounded (R20, R21). -/
def units32 (p : Nat) : Nat :=
  (if p / 2 ^ 23 = 0 then p else 2 ^ 23 + p % 2 ^ 23) * 2 ^ (p / 2 ^ 23 - 1)

/-- The magnitude of pattern number `p`. -/
def mag32 (p : Nat) : Rat := units32 p * (2 : Rat) ^ (-149 : Int)

/-- A significand of 2^24 carries into the exponent field and still has its value. -/
theorem units32_pack {a s : Nat} (hs : s ≤ 2 ^ 24) (ha : a = 0 ∨ 2 ^ 23 ≤ s) :
    units32 (a * 2 ^ 23 + s) = s * 2 ^ a := by
  unfold units32
  obtain hlow | hmid | htop : s < 2 ^ 23 ∨ (2 ^ 23 ≤ s ∧ s < 2 ^ 24) ∨ s = 2 ^ 24 := by omega
  · obtain rfl : a = 0 := by omega
    rw [if_pos (by omega), show (0 * 2 ^ 23 + s) / 2 ^ 23 - 1 = 0 by omega, Nat.zero_mul, Nat.zero_add]
  · rw [if_neg (by omega), show (a * 2 ^ 23 + s) / 2 ^ 23 - 1 = a by omega,
      show 2 ^ 23 + (a * 2 ^ 23 + s) % 2 ^ 23 = s by omega]
  · rw [if_neg (by omega), show (a * 2 ^ 23 + s) / 2 ^ 23 - 1 = a + 1 by omega,
      show (a * 2 ^ 23 + s) % 2 ^ 23 = 0 by omega, htop, pow_succ]
    ring

theorem exists_pack (p : Nat) :
    ∃ a s, p = a * 2 ^ 23 + s ∧ s < 2 ^ 24 ∧ (a = 0 ∨ 2 ^ 23 ≤ s) := by
  by_cases hp : p < 2 ^ 23
  · exact ⟨0, p, by omega, by omega, .inl rfl⟩
  · exact ⟨p / 2 ^ 23 - 1, 2 ^ 23 + p % 2 ^ 23, by omega, by omega, .inr (by omega)⟩

theorem units32_strictMono : StrictMono units32 := strictMono_nat_of_lt_succ fun p => by
  obtain ⟨a, s, rfl, hs, ha⟩ := exists_pack p
  rw [add_assoc, units32_pack hs.le ha, units32_pack (by omega) (by omega)]
  exact Nat.mul_lt_mul_of_pos_right (by omega) (by positivity)

theorem mag32_strictMono : StrictMono mag32 := fun _ _ h =>
  mul_lt_mul_of_pos_right (by exact_mod_cast units32_strictMono h) (by positivity)

theorem mag32_nonneg (p : Nat) : 0 ≤ mag32 p := by unfold mag32; positivity

@[simp] theorem mag32_zero : mag32 0 = 0 := by simp [mag32, units32]

theorem mag32_pack {a s : Nat} (hs : s ≤ 2 ^ 24) (ha : a = 0 ∨ 2 ^ 23 ≤ s) :
    mag32 (a * 2 ^ 23 + s) = s * (2 : Rat) ^ ((a : Int) - 149) := by
  rw [mag32, units32_pack hs ha, sub_eq_add_neg, zpow_add₀ two_ne_zero, zpow_natCast]
  push_cast
  ring

theorem mag32_maxPat : mag32 FKind.fp32.maxPat = 2 ^ 128 - 2 ^ 104 := by
  rw [show FKind.fp32.maxPat = 253 * 2 ^ 23 + (2 ^ 24 - 1) by decide, mag32_pack (by omega) (by omega)]
  norm_num [zpow_ofNat]

theorem mag32_maxPat_succ : mag32 (FKind.fp32.maxPat + 1) = 2 ^ 128 := by
  rw [show FKind.fp32.maxPat + 1 = 253 * 2 ^ 23 + 2 ^ 24 by decide, mag32_pack (by omega) (by omega)]
  norm_num [zpow_ofNat]

/-! ## Signs -/

/-- The factor that a sign bit is. -/
def signOf (neg : Bool) : Rat := if neg then -1 else 1

theorem fin_number (n : Bool) (m : Nat) (e : Int) :
    (Fp.fin n m e).number = signOf n * (m * (2 : Rat) ^ e) := by
  rw [Fp.number, signOf, mul_assoc]

theorem signOf_ne_zero (n : Bool) : signOf n ≠ 0 := by cases n <;> decide

theorem signOf_mul_xor (n k : Bool) : signOf k = signOf n * signOf (k != n) := by
  cases n <;> cases k <;> simp [signOf]

theorem abs_signOf_mul_sub (n : Bool) (a b : Rat) : |signOf n * a - signOf n * b| = |a - b| := by
  have habs : |signOf n| = 1 := by cases n <;> decide
  rw [← mul_sub, abs_mul, habs, one_mul]

/-! ## Reading an FP32 pattern -/

theorem fp32_read (b : Nat) :
    FKind.fp32.read b =
      if bitsOf b 30 23 = 255 then (if b % 2 ^ 23 = 0 then .inf (bitOf b 31) else .nan)
      else .fin (bitOf b 31) (if bitsOf b 30 23 = 0 then b % 2 ^ 23 else 2 ^ 23 + b % 2 ^ 23)
        ((if bitsOf b 30 23 = 0 then 1 else (bitsOf b 30 23 : Int)) - 127 - 23) := by
  simp [FKind.read, FKind.readPlanes, FKind.hasInf, FKind.ew, FKind.fw, FKind.bias]

theorem bitsOf_exponent (b : Nat) : bitsOf b 30 23 = b % 2 ^ 31 / 2 ^ 23 := by
  unfold bitsOf; omega

theorem mag32_eq_field (p : Nat) : mag32 p
    = ((if p / 2 ^ 23 = 0 then p % 2 ^ 23 else 2 ^ 23 + p % 2 ^ 23 : Nat) : Rat)
      * (2 : Rat) ^ ((if p / 2 ^ 23 = 0 then 1 else ((p / 2 ^ 23 : Nat) : Int)) - 127 - 23) := by
  obtain ⟨a, s, rfl, hs, ha⟩ := exists_pack p
  rw [mag32_pack hs.le ha]
  split
  next h =>
    obtain rfl : a = 0 := by omega
    rw [show (0 * 2 ^ 23 + s) % 2 ^ 23 = s by omega]
    norm_num
  next h =>
    rw [show (a * 2 ^ 23 + s) / 2 ^ 23 = a + 1 by omega,
      show 2 ^ 23 + (a * 2 ^ 23 + s) % 2 ^ 23 = s by omega,
      show ((a + 1 : Nat) : Int) - 127 - 23 = (a : Int) - 149 by push_cast; ring]

theorem le_maxPat_iff (w : Word) : w.toNat % 2 ^ 31 ≤ FKind.fp32.maxPat ↔ bitsOf w.toNat 30 23 ≠ 255 := by
  rw [bitsOf_exponent, show FKind.fp32.maxPat = 255 * 2 ^ 23 - 1 from rfl]
  omega

theorem read32_of_le (w : Word) (h : w.toNat % 2 ^ 31 ≤ FKind.fp32.maxPat) :
    (∃ k q f, read32 w = .fin k q f)
      ∧ (read32 w).number = signOf (bitOf w.toNat 31) * mag32 (w.toNat % 2 ^ 31) := by
  have hread : read32 w = .fin (bitOf w.toNat 31) _ _ :=
    (fp32_read w.toNat).trans (if_neg ((le_maxPat_iff w).1 h))
  refine ⟨⟨_, _, _, hread⟩, ?_⟩
  rw [hread, fin_number, mag32_eq_field, bitsOf_exponent, Nat.mod_mod_of_dvd _ ⟨2 ^ 8, by rfl⟩]

theorem le_of_read32_fin {w : Word} (h : ∃ k q f, read32 w = .fin k q f) :
    w.toNat % 2 ^ 31 ≤ FKind.fp32.maxPat := by
  obtain ⟨k, q, f, h⟩ := h
  rw [le_maxPat_iff]
  intro hexp
  rw [read32, fp32_read, if_pos hexp] at h
  split at h <;> contradiction

/-- The register that pattern number `p` with sign `n` is written to. -/
theorem toNat_signed32 (n : Bool) {p : Nat} (hp : p ≤ FKind.fp32.maxPat) :
    (BitVec.ofNat 32 (FKind.fp32.signed n p)).toNat = (if n then 2 ^ 31 else 0) + p := by
  rw [BitVec.toNat_ofNat, show FKind.fp32.signed n p = (if n then 2 ^ 31 else 0) + p from rfl]
  rw [show FKind.fp32.maxPat = 255 * 2 ^ 23 - 1 from rfl] at hp
  cases n <;> simp only [if_true, if_false, Bool.false_eq_true] <;> omega

theorem read32_signed (n : Bool) {p : Nat} (hp : p ≤ FKind.fp32.maxPat) :
    (∃ k q f, read32 (BitVec.ofNat 32 (FKind.fp32.signed n p)) = .fin k q f)
      ∧ (read32 (BitVec.ofNat 32 (FKind.fp32.signed n p))).number = signOf n * mag32 p := by
  have hlt : p < 2 ^ 31 := lt_of_le_of_lt hp (by decide)
  have hmod : (BitVec.ofNat 32 (FKind.fp32.signed n p)).toNat % 2 ^ 31 = p := by
    rw [toNat_signed32 n hp]; split <;> omega
  have hsign : bitOf (BitVec.ofNat 32 (FKind.fp32.signed n p)).toNat 31 = n := by
    rw [toNat_signed32 n hp, bitOf]
    cases n
    · rw [show ((if false then 2 ^ 31 else 0) + p) / 2 ^ 31 = 0 by simpa using hlt]; rfl
    · rw [show ((if true then 2 ^ 31 else 0) + p) / 2 ^ 31 = 1 by simp only [if_true]; omega]; rfl
  have h := read32_of_le _ (hmod.trans_le hp)
  rwa [hmod, hsign] at h

theorem getLsbD_zero_signed32 (n : Bool) {p : Nat} (hp : p ≤ FKind.fp32.maxPat) (heven : p % 2 = 0) :
    (BitVec.ofNat 32 (FKind.fp32.signed n p)).getLsbD 0 = false := by
  rw [BitVec.getLsbD, toNat_signed32 n hp, Nat.testBit_zero, decide_eq_false_iff_not]
  split <;> omega

/-! ## Rounding to nearest even between two neighbours -/

/-- `r` is what round-to-nearest-even takes for `v`, where `k` numbers its neighbour `lo` below and `k + 1` its neighbour
`hi` above (R29). -/
structure RoundsEven (lo hi v : Rat) (k r : Nat) : Prop where
  lo_le : lo ≤ v
  lt_hi : v < hi
  taken : (r = k ∧ v - lo ≤ hi - v) ∨ (r = k + 1 ∧ hi - v ≤ v - lo)
  tie_even : v - lo = hi - v → r % 2 = 0

theorem RoundsEven.pack {lo hi v : Rat} {s t : Nat} (a : Nat) (h : RoundsEven lo hi v s t) :
    RoundsEven lo hi v (a * 2 ^ 23 + s) (a * 2 ^ 23 + t) where
  lo_le := h.lo_le
  lt_hi := h.lt_hi
  taken := by simpa only [Nat.add_assoc, Nat.add_left_cancel_iff] using h.taken
  tie_even heq := by have := h.tie_even heq; omega

/-- A multiple of `2^e` is a multiple of the finer or equal unit `2^q`, so it is not rounded. -/
theorem roundAt_exact (u : Nat) (n : Bool) (m : Nat) {e q : Int} (h : q ≤ e) :
    ∃ s : Nat, roundAt .rne u n m e q = (s, false) ∧ (s : Rat) * 2 ^ q = m * 2 ^ e := by
  refine ⟨m * 2 ^ (e - q).toNat, if_pos h, ?_⟩
  rw [Nat.cast_mul, Nat.cast_pow, mul_assoc, Nat.cast_ofNat, ← zpow_natCast, Int.toNat_of_nonneg (by omega),
    ← zpow_add₀ two_ne_zero, Int.sub_add_cancel]

/-- The two distances from `(s·2^d + rem) × 2^e` to its neighbours on the grid of unit `2^d × 2^e`. -/
theorem grid_distances {m s rem d : Nat} (e : Int) (hm : m = s * 2 ^ d + rem) (hrem : rem < 2 ^ d) :
    (m : Rat) * 2 ^ e - s * (2 ^ d * 2 ^ e) = rem * 2 ^ e
      ∧ (s + 1 : Rat) * (2 ^ d * 2 ^ e) - m * 2 ^ e = (2 ^ d - rem : Nat) * 2 ^ e := by
  rw [hm, Nat.cast_sub hrem.le]
  push_cast
  constructor <;> ring

theorem roundAt_rne (u : Nat) (n : Bool) (m : Nat) (e q : Int) :
    ∃ s : Nat, RoundsEven (s * 2 ^ q) ((s + 1) * 2 ^ q) (m * 2 ^ e) s (roundAt .rne u n m e q).1
      ∧ ((roundAt .rne u n m e q).2 = false ↔ (s : Rat) * 2 ^ q = m * 2 ^ e) := by
  by_cases h : q ≤ e
  · have hq : (0 : Rat) < 2 ^ q := by positivity
    obtain ⟨s, hr, hv⟩ := roundAt_exact u n m h
    refine ⟨s, ?_, by simp [hr, hv]⟩
    rw [hr, ← hv]
    exact ⟨le_rfl, by linarith, .inl ⟨rfl, by linarith⟩, fun heq => by linarith⟩
  · set d := (q - e).toNat with hd
    have hlt : m % 2 ^ d < 2 ^ d := Nat.mod_lt _ (by positivity)
    have hr : roundAt .rne u n m e q = (if roundUp .rne u n (m / 2 ^ d) (m % 2 ^ d) d then m / 2 ^ d + 1 else m / 2 ^ d,
      m % 2 ^ d != 0) := if_neg h
    have hqe : (2 : Rat) ^ q = 2 ^ d * 2 ^ e := by
      rw [← zpow_natCast, hd, Int.toNat_of_nonneg (by omega), ← zpow_add₀ two_ne_zero, Int.sub_add_cancel]
    have he : (0 : Rat) < 2 ^ e := by positivity
    obtain ⟨hlo, hhi⟩ := grid_distances e (Nat.div_add_mod' m (2 ^ d)).symm hlt
    rw [hr, hqe]
    generalize m / 2 ^ d = s, m % 2 ^ d = rem at *
    refine ⟨s, ⟨?_, ?_, ?_, ?_⟩, ?_⟩
    · rw [← sub_nonneg, hlo]; positivity
    · rw [← sub_pos, hhi]
      exact mul_pos (by exact_mod_cast Nat.sub_pos_of_lt hlt) he
    · rw [hlo, hhi, mul_le_mul_iff_left₀ he, mul_le_mul_iff_left₀ he, Nat.cast_le, Nat.cast_le]
      simp only [roundUp, Bool.or_eq_true, Bool.and_eq_true, decide_eq_true_eq, beq_iff_eq]
      split <;> omega
    · rw [hlo, hhi, mul_left_inj' he.ne', Nat.cast_inj]
      simp only [roundUp, Bool.or_eq_true, Bool.and_eq_true, decide_eq_true_eq, beq_iff_eq]
      split <;> omega
    · rw [eq_comm (b := (m : Rat) * 2 ^ e), ← sub_eq_zero (b := (s : Rat) * _), hlo]
      simp [he.ne']

/-! ## The pattern that FP32 rounds to -/

/-- The binary exponent of `m × 2^e`. -/
def topOf (m : Nat) (e : Int) : Int := e + Nat.log2 m

/-- The exponent of the unit in the last place that FP32 rounds a value of binary exponent `top` at. -/
def ulp32 (top : Int) : Int := if top - 23 < -149 then -149 else top - 23

/-- What is rounded for `m × 2^e`: itself, or 2^−189 where it lies below that. -/
def scaled32 (m : Nat) (e : Int) : Nat × Int := if topOf m e < -189 then (1, -189) else (m, e)

/-- The number of the pattern that `m × 2^e` rounds to when the exponent is not bounded, and whether it is inexact. -/
def pattern32 (n : Bool) (m : Nat) (e : Int) : Nat × Bool :=
  let r := roundAt .rne 0 n (scaled32 m e).1 (scaled32 m e).2 (ulp32 (topOf m e))
  ((ulp32 (topOf m e) + 149).toNat * 2 ^ 23 + r.1, r.2)

/-- Whether a value is not tiny after rounding (R29), so that an inexact result does not raise UF. -/
def normal32 (n : Bool) (m : Nat) (e : Int) : Bool :=
  -126 ≤ topOf m e || (topOf m e == -127 && 2 ^ 24 ≤ (roundAt .rne 0 n m e (topOf m e - 23)).1)

theorem fp32_round_fin (n : Bool) {m : Nat} (e : Int) (hm : m ≠ 0) :
    FKind.fp32.round .rne 0 false false (.fin n m e) =
      if 128 < topOf m e then FKind.fp32.overflow .rne false n
      else if FKind.fp32.maxPat < (pattern32 n m e).1 then FKind.fp32.overflow .rne false n
      else (FKind.fp32.signed n (pattern32 n m e).1,
        if (pattern32 n m e).2 then (if normal32 n m e then flagNX else flagUF ||| flagNX) else 0) := by
  obtain ⟨k, rfl⟩ := Nat.exists_eq_succ_of_ne_zero hm
  rfl

theorem round32_overflow (n : Bool) {m : Nat} {e : Int} (hm : m ≠ 0)
    (h : 128 < topOf m e ∨ FKind.fp32.maxPat < (pattern32 n m e).1) :
    (round32 (.fin n m e, 0)).2 &&& flagOF ≠ 0 := by
  have hround : FKind.fp32.round .rne 0 false false (.fin n m e) = FKind.fp32.overflow .rne false n := by
    rw [fp32_round_fin n e hm]
    split
    · rfl
    · exact if_pos (h.resolve_left ‹_›)
  simp only [round32, hround]
  cases n <;> decide

theorem round32_finite (n : Bool) {m : Nat} {e : Int} (hm : m ≠ 0) (htop : ¬ 128 < topOf m e)
    (hpat : ¬ FKind.fp32.maxPat < (pattern32 n m e).1) :
    (round32 (.fin n m e, 0)).1 = BitVec.ofNat 32 (FKind.fp32.signed n (pattern32 n m e).1)
      ∧ (round32 (.fin n m e, 0)).2 &&& flagOF = 0
      ∧ ((round32 (.fin n m e, 0)).2 &&& flagNX = 0 ↔ (pattern32 n m e).2 = false) := by
  simp only [round32, fp32_round_fin n e hm, if_neg htop, if_neg hpat, true_and]
  cases (pattern32 n m e).2 <;> cases normal32 n m e <;> decide

/-! ## Its neighbours -/

theorem pow_topOf_le {m : Nat} (e : Int) (hm : m ≠ 0) : (2 : Rat) ^ topOf m e ≤ m * 2 ^ e := by
  rw [topOf, add_comm, zpow_add₀ two_ne_zero, zpow_natCast]
  exact mul_le_mul_of_nonneg_right (by exact_mod_cast Nat.log2_self_le hm) (by positivity)

theorem lt_pow_topOf_succ (m : Nat) (e : Int) : m * (2 : Rat) ^ e < 2 ^ (topOf m e + 1) := by
  rw [topOf, show e + (m.log2 : Int) + 1 = ((m.log2 + 1 : Nat) : Int) + e by push_cast; ring,
    zpow_add₀ two_ne_zero, zpow_natCast]
  exact mul_lt_mul_of_pos_right (by exact_mod_cast Nat.lt_log2_self) (by positivity)

/-- The significand below a value fits FP32: it is below 2^24, and at least 2^23 unless the exponent is the least. -/
theorem significand_bounds {m s : Nat} {e : Int} (hm : m ≠ 0) (hlo : s * (2 : Rat) ^ ulp32 (topOf m e) ≤ m * 2 ^ e)
    (hhi : (m : Rat) * 2 ^ e < (s + 1) * 2 ^ ulp32 (topOf m e)) :
    s < 2 ^ 24 ∧ ((ulp32 (topOf m e) + 149).toNat = 0 ∨ 2 ^ 23 ≤ s) := by
  set t := topOf m e
  have hq : (0 : Rat) < 2 ^ ulp32 t := by positivity
  have hscale (k : Nat) : (2 : Rat) ^ (ulp32 t + k) = (2 ^ k : Nat) * 2 ^ ulp32 t := by
    rw [add_comm, zpow_add₀ two_ne_zero, zpow_natCast]; norm_cast
  constructor
  · have hbound : (2 : Rat) ^ (t + 1) ≤ 2 ^ (ulp32 t + (24 : Nat)) :=
      zpow_le_zpow_right₀ one_le_two (by unfold ulp32; split <;> omega)
    have h := (hlo.trans_lt (lt_pow_topOf_succ m e)).trans_le (hbound.trans_eq (hscale 24))
    exact_mod_cast lt_of_mul_lt_mul_right h hq.le
  · refine or_iff_not_imp_left.2 fun ha => ?_
    have hbound : (2 : Rat) ^ (ulp32 t + (23 : Nat)) ≤ 2 ^ t :=
      zpow_le_zpow_right₀ one_le_two (by unfold ulp32 at ha ⊢; split at ha <;> split <;> omega)
    have h := ((hscale 23).symm.trans_le (hbound.trans (pow_topOf_le e hm))).trans_lt hhi
    exact Nat.lt_succ_iff.1 (by exact_mod_cast lt_of_mul_lt_mul_right h hq.le)

theorem pattern32_tiny (n : Bool) {m : Nat} {e : Int} (h : topOf m e < -189) : pattern32 n m e = (0, true) := by
  have hq : ulp32 (topOf m e) = -149 := if_pos (by omega)
  simp only [pattern32, hq, scaled32, if_pos h]
  cases n <;> decide

/-- A value below half the least subnormal lies between the patterns 0 and 1, nearer to 0. -/
theorem roundsEven_zero {v : Rat} (hpos : 0 < v) (hsmall : v < 2 ^ (-150 : Int)) :
    RoundsEven (mag32 0) (mag32 (0 + 1)) v 0 0 := by
  have h1 : mag32 (0 + 1) = 2 ^ (-150 : Int) + 2 ^ (-150 : Int) := by norm_num [mag32, units32]
  rw [mag32_zero, h1]
  exact ⟨hpos.le, by linarith, .inl ⟨rfl, by linarith⟩, fun _ => rfl⟩

theorem pattern32_rounds (n : Bool) {m : Nat} {e : Int} (hm : m ≠ 0) :
    ∃ p, RoundsEven (mag32 p) (mag32 (p + 1)) (m * 2 ^ e) p (pattern32 n m e).1
      ∧ ((pattern32 n m e).2 = false ↔ mag32 p = m * 2 ^ e) := by
  by_cases h : topOf m e < -189
  · have hpos : (0 : Rat) < m * 2 ^ e := mul_pos (by exact_mod_cast Nat.pos_of_ne_zero hm) (by positivity)
    have hsmall : (m : Rat) * 2 ^ e < 2 ^ (-150 : Int) :=
      (lt_pow_topOf_succ m e).trans_le (zpow_le_zpow_right₀ one_le_two (by omega))
    rw [pattern32_tiny n h]
    exact ⟨0, roundsEven_zero hpos hsmall, by simp [hpos.ne]⟩
  · have hpat : pattern32 n m e = ((ulp32 (topOf m e) + 149).toNat * 2 ^ 23
        + (roundAt .rne 0 n m e (ulp32 (topOf m e))).1, (roundAt .rne 0 n m e (ulp32 (topOf m e))).2) := by
      simp only [pattern32, scaled32, if_neg h]
    obtain ⟨s, hs, hexact⟩ := roundAt_rne 0 n m e (ulp32 (topOf m e))
    obtain ⟨hlt, hnormal⟩ := significand_bounds hm hs.lo_le hs.lt_hi
    have hq : (((ulp32 (topOf m e) + 149).toNat : Nat) : Int) - 149 = ulp32 (topOf m e) := by
      rw [Int.toNat_of_nonneg (by unfold ulp32; split <;> omega), add_sub_cancel_right]
    refine ⟨(ulp32 (topOf m e) + 149).toNat * 2 ^ 23 + s, ?_⟩
    rw [hpat, add_assoc _ s 1, mag32_pack hlt.le hnormal, mag32_pack (by omega) (by omega), hq, Nat.cast_succ]
    exact ⟨hs.pack _, hexact⟩

/-! ## What it means to be the pattern taken -/

theorem RoundsEven.exact_iff {v : Rat} {p r : Nat} (h : RoundsEven (mag32 p) (mag32 (p + 1)) v p r) :
    mag32 p = v ↔ mag32 r = v := by
  obtain ⟨-, hhi, ⟨rfl, -⟩ | ⟨rfl, hup⟩, -⟩ := h
  · rfl
  · exact iff_of_false (fun hv => by linarith) hhi.ne'

/-- R33: the middle between the largest finite magnitude and the step beyond it goes to the even one, which overflows. -/
theorem RoundsEven.overflow_iff {v : Rat} {p r : Nat} (h : RoundsEven (mag32 p) (mag32 (p + 1)) v p r) :
    FKind.fp32.maxPat < r ↔ (2 : Rat) ^ 128 - 2 ^ 103 ≤ v := by
  obtain ⟨hlo, hhi, htaken, htie⟩ := h
  rcases lt_trichotomy p FKind.fp32.maxPat with hp | rfl | hp
  · have hle : mag32 (p + 1) ≤ mag32 FKind.fp32.maxPat := mag32_strictMono.monotone hp
    rw [mag32_maxPat] at hle
    exact iff_of_false (by omega) (by norm_num at hle ⊢; linarith)
  · rw [mag32_maxPat, mag32_maxPat_succ] at *
    rcases htaken with ⟨rfl, hdown⟩ | ⟨rfl, hup⟩
    · have hne : v - (2 ^ 128 - 2 ^ 104) ≠ 2 ^ 128 - v := fun heq => absurd (htie heq) (by decide)
      have hlt := lt_of_le_of_ne hdown hne
      exact iff_of_false (lt_irrefl _) (by norm_num at hlt ⊢; linarith)
    · exact iff_of_true (Nat.lt_succ_self _) (by norm_num at hup ⊢; linarith)
  · have hle : mag32 (FKind.fp32.maxPat + 1) ≤ mag32 p := mag32_strictMono.monotone hp
    rw [mag32_maxPat_succ] at hle
    exact iff_of_true (by omega) (by norm_num at hle ⊢; linarith)

/-- No number outside the two neighbours lies nearer than the one taken, and where another lies as near the one taken is
even. -/
theorem RoundsEven.nearest {v y : Rat} {p r : Nat} (h : RoundsEven (mag32 p) (mag32 (p + 1)) v p r)
    (hy : y ≤ mag32 p ∨ mag32 (p + 1) ≤ y) :
    |mag32 r - v| ≤ |y - v| ∧ (|mag32 r - v| = |y - v| → y ≠ mag32 r → r % 2 = 0) := by
  obtain ⟨hlo, hhi, htaken, htie⟩ := h
  have hyv : (y ≤ mag32 p ∧ |y - v| = v - y) ∨ (mag32 (p + 1) ≤ y ∧ |y - v| = y - v) :=
    hy.imp (fun h => ⟨h, by rw [abs_of_nonpos (by linarith), neg_sub]⟩) fun h => ⟨h, abs_of_nonneg (by linarith)⟩
  rcases htaken with ⟨rfl, hdown⟩ | ⟨rfl, hup⟩
  · rw [abs_of_nonpos (by linarith : mag32 r - v ≤ 0), neg_sub]
    rcases hyv with ⟨hle, habs⟩ | ⟨hle, habs⟩ <;> rw [habs]
    · exact ⟨by linarith, fun heq hne => absurd (by linarith) hne⟩
    · exact ⟨by linarith, fun heq _ => htie (by linarith)⟩
  · rw [abs_of_pos (by linarith : 0 < mag32 (p + 1) - v)]
    rcases hyv with ⟨hle, habs⟩ | ⟨hle, habs⟩ <;> rw [habs]
    · exact ⟨by linarith, fun heq _ => htie (by linarith)⟩
    · exact ⟨by linarith, fun heq hne => absurd (by linarith) hne⟩

/-- No pattern, of either sign, lies strictly between two consecutive magnitudes. -/
theorem outside_neighbours (p j : Nat) (neg : Bool) :
    signOf neg * mag32 j ≤ mag32 p ∨ mag32 (p + 1) ≤ signOf neg * mag32 j := by
  cases neg
  case true =>
    have hp := mag32_nonneg p
    have hj := mag32_nonneg j
    exact .inl (by simp only [signOf, if_true]; linarith)
  case false =>
    simpa [signOf] using (Nat.lt_or_ge p j).symm.imp (mag32_strictMono.monotone ·) (mag32_strictMono.monotone ·)

/-! ## The rounding of FP32 -/

/-- A value that reaches 2^129 lies past the overflow bound. -/
theorem bound_le_of_topOf {m : Nat} {e : Int} (hm : m ≠ 0) (h : 128 < topOf m e) :
    (2 : Rat) ^ 128 - 2 ^ 103 ≤ m * 2 ^ e := by
  have hpow : (2 : Rat) ^ (128 : Int) ≤ 2 ^ topOf m e := zpow_le_zpow_right₀ one_le_two h.le
  have hle := hpow.trans (pow_topOf_le e hm)
  rw [zpow_ofNat] at hle
  linarith [show (0 : Rat) ≤ 2 ^ 103 by positivity]

theorem round32_flagOF_iff (n : Bool) {m : Nat} {e : Int} (hm : m ≠ 0) :
    (round32 (.fin n m e, 0)).2 &&& flagOF ≠ 0 ↔ (2 : Rat) ^ 128 - 2 ^ 103 ≤ m * 2 ^ e := by
  obtain ⟨p, hp, -⟩ := pattern32_rounds n (e := e) hm
  by_cases htop : 128 < topOf m e
  · exact iff_of_true (round32_overflow n hm (.inl htop)) (bound_le_of_topOf hm htop)
  · rw [← hp.overflow_iff]
    by_cases hpat : FKind.fp32.maxPat < (pattern32 n m e).1
    · exact iff_of_true (round32_overflow n hm (.inr hpat)) hpat
    · exact iff_of_false (not_not.2 (round32_finite n hm htop hpat).2.1) hpat

/-- Where FP32 rounding does not overflow, it writes the pattern that its magnitude rounds to, with its sign. -/
theorem round32_rounds (n : Bool) {m : Nat} {e : Int} (hm : m ≠ 0) (hof : (round32 (.fin n m e, 0)).2 &&& flagOF = 0) :
    ∃ p r, RoundsEven (mag32 p) (mag32 (p + 1)) (m * 2 ^ e) p r ∧ r ≤ FKind.fp32.maxPat
      ∧ (round32 (.fin n m e, 0)).1 = BitVec.ofNat 32 (FKind.fp32.signed n r)
      ∧ ((round32 (.fin n m e, 0)).2 &&& flagNX = 0 ↔ mag32 r = m * 2 ^ e) := by
  have hfits : ¬ (128 < topOf m e ∨ FKind.fp32.maxPat < (pattern32 n m e).1) := fun h => round32_overflow n hm h hof
  obtain ⟨htop, hpat⟩ := not_or.1 hfits
  obtain ⟨p, hp, hexact⟩ := pattern32_rounds n (e := e) hm
  obtain ⟨hword, -, hnx⟩ := round32_finite n hm htop hpat
  exact ⟨p, _, hp, not_lt.1 hpat, hword, hnx.trans (hexact.trans hp.exact_iff)⟩

theorem le_signOf_mul_or_iff (n : Bool) {big v : Rat} (hbig : 0 < big) (hv : 0 ≤ v) :
    (big ≤ signOf n * v ∨ signOf n * v ≤ -big) ↔ big ≤ v := by
  cases n <;> simp only [signOf, if_true, if_false, Bool.false_eq_true, one_mul, neg_one_mul, neg_le_neg_iff]
  · exact or_iff_left fun h => by linarith
  · exact or_iff_right fun h => by linarith

/-- Settles O13: the magnitude lies between two consecutive patterns, and the rounding takes the nearer one of them, or the
even one. -/
theorem fp32RoundsToNearestEven : Obligations.Fp32RoundsToNearestEven := by
  intro n m e hm
  simp only [fin_number]
  constructor
  · rw [round32_flagOF_iff n hm, le_signOf_mul_or_iff n (by norm_num) (by positivity)]
  intro hof
  obtain ⟨p, r, hrounds, hr, hword, hnx⟩ := round32_rounds n hm hof
  obtain ⟨hfin, hnumber⟩ := read32_signed n hr
  rw [hword, hnx, hnumber, mul_right_inj' (signOf_ne_zero n)]
  refine ⟨hfin, Iff.rfl, fun w hw => ?_⟩
  rw [(read32_of_le w (le_of_read32_fin hw)).2, signOf_mul_xor n (bitOf w.toNat 31), mul_assoc, abs_signOf_mul_sub,
    abs_signOf_mul_sub, Ne, mul_right_inj' (signOf_ne_zero n)]
  obtain ⟨hnear, htie⟩ := hrounds.nearest (outside_neighbours p (w.toNat % 2 ^ 31) (bitOf w.toNat 31 != n))
  exact ⟨hnear, fun heq hne => getLsbD_zero_signed32 n hr (htie heq hne)⟩

end Sys2Proof.Machine
end

section
/-! Bytes of numbers, and the bytes of HBM that a key id reads (R44 to R63): what each operation on main memory does to
them. The memory-side cache moves bytes between itself and DRAM and shows none of it: only writes change what is read. -/

namespace Sys2Proof.Machine

/-! ## Bytes of a number -/

/-- Byte `i` of a number, the lowest first. -/
def byteOf (x i : Nat) : Byte := BitVec.ofNat 8 (x / 256 ^ i)

theorem pow256 (n : Nat) : 256 ^ n = 2 ^ (8 * n) := by
  rw [pow_mul]; rfl

theorem getLsbD_byteOf (x i j : Nat) : (byteOf x i).getLsbD j = (decide (j < 8) && x.testBit (8 * i + j)) := by
  rw [byteOf, BitVec.getLsbD_ofNat, pow256, Nat.testBit_div_two_pow, Nat.add_comm]

/-- Bytes are equal where the numbers have the same bits there. -/
theorem byteOf_ext {x y i k : Nat} (h : ∀ j < 8, x.testBit (8 * i + j) = y.testBit (8 * k + j)) :
    byteOf x i = byteOf y k := by
  refine BitVec.eq_of_getLsbD_eq fun j hj => ?_
  rw [getLsbD_byteOf, getLsbD_byteOf, h j hj]

theorem leBytes_eq_map (n x : Nat) : leBytes n x = (upTo n).map (byteOf x) := by
  induction n generalizing x with
  | zero => rfl
  | succ n ih =>
    rw [upTo, List.range_succ_eq_map, leBytes, ih, List.map_cons, List.map_map, upTo]
    simp [byteOf, Function.comp_def, Nat.pow_succ', Nat.div_div_eq_div_mul]

@[simp] theorem length_leBytes (n x : Nat) : (leBytes n x).length = n := by
  simp [leBytes_eq_map, upTo]

theorem getD_leBytes {n i : Nat} (x : Nat) (h : i < n) : (leBytes n x).getD i 0 = byteOf x i := by
  simp [leBytes_eq_map, upTo, h]

theorem byteOf_ofLeBytes (bs : List Byte) (i : Nat) : byteOf (ofLeBytes bs) i = bs.getD i 0 := by
  induction bs generalizing i with
  | nil => simp [ofLeBytes, byteOf]
  | cons b bs ih =>
    have hb := b.isLt
    cases i with
    | zero =>
      refine BitVec.eq_of_toNat_eq ?_
      simp only [ofLeBytes, byteOf, pow_zero, Nat.div_one, BitVec.toNat_ofNat, List.getD_cons_zero]
      omega
    | succ i =>
      have hdiv : (b.toNat + 256 * ofLeBytes bs) / 256 = ofLeBytes bs := by omega
      rw [List.getD_cons_succ, ← ih i, byteOf, byteOf, ofLeBytes, Nat.pow_succ', ← Nat.div_div_eq_div_mul, hdiv]

theorem byteOf_mul_pow {o i : Nat} (x : Nat) (h : o ≤ i) : byteOf (x * 256 ^ o) i = byteOf x (i - o) := by
  rw [byteOf, byteOf, ← Nat.add_sub_cancel' h, Nat.pow_add, Nat.add_sub_cancel_left,
    Nat.mul_comm x, Nat.mul_div_mul_left _ _ (Nat.pow_pos (by decide))]

theorem byteOf_sliceLine {n i : Nat} (l o : Nat) (h : i < n) : byteOf (sliceLine l o n) i = byteOf l (o + i) := by
  refine byteOf_ext fun j hj => ?_
  rw [sliceLine, pow256, pow256, Nat.testBit_mod_two_pow, Nat.testBit_div_two_pow,
    decide_eq_true (show 8 * i + j < 8 * n by omega), Bool.true_and]
  congr 1; omega

theorem leBytes_sliceLine (l o n : Nat) : leBytes n (sliceLine l o n) = (upTo n).map fun i => byteOf l (o + i) := by
  rw [leBytes_eq_map]
  exact List.map_congr_left fun i hi => byteOf_sliceLine l o (List.mem_range.1 hi)

theorem testBit_spanMask (o n i : Nat) : (spanMask o n).testBit i = decide (o ≤ i ∧ i < o + n) := by
  rw [spanMask, Nat.testBit_mul_two_pow, Nat.testBit_two_pow_sub_one, ← Bool.decide_and]
  exact decide_eq_decide.2 (by omega)

theorem testBit_byteMask (n m j : Nat) : (byteMask n m).testBit j = (decide (j < 8 * n) && m.testBit (j / 8)) := by
  induction n generalizing m j with
  | zero => simp [byteMask]
  | succ n ih =>
    have hlow : (if (m % 2 == 1) = true then 0xFF else 0) < 2 ^ 8 := by split <;> decide
    rw [byteMask, Nat.add_comm, show 256 = 2 ^ 8 from rfl, Nat.testBit_two_pow_mul_add _ hlow, ih]
    by_cases hj : j < 8
    · have h255 : (255 : Nat).testBit j = true := by
        rw [show 255 = 2 ^ 8 - 1 from rfl, Nat.testBit_two_pow_sub_one]; exact decide_eq_true hj
      rw [if_pos hj, Nat.div_eq_of_lt hj, Nat.testBit_zero, decide_eq_true (show j < 8 * (n + 1) by omega), Bool.true_and]
      split <;> simp_all
    · rw [if_neg hj, ← Nat.testBit_succ, show j / 8 = (j - 8) / 8 + 1 by omega]
      congr 1
      exact decide_eq_decide.2 (by omega)

theorem byteMask_lt (n m : Nat) : byteMask n m < 2 ^ (8 * n) :=
  Nat.lt_pow_two_of_testBit _ fun j hj => by rw [testBit_byteMask, decide_eq_false (by omega), Bool.false_and]

theorem blend_lt (old new mask : Nat) : blend old new mask < 256 ^ 256 := by
  have hlt (n m : Nat) : (new &&& byteMask n mask) ||| (old &&& (byteMask n m ^^^ byteMask n mask)) < 256 ^ n :=
    Nat.or_lt_two_pow (Nat.and_lt_two_pow _ (byteMask_lt n mask))
      (Nat.and_lt_two_pow _ (Nat.xor_lt_two_pow (byteMask_lt n m) (byteMask_lt n mask))) |>.trans_eq (pow256 n).symm
  exact hlt 256 (2 ^ 256 - 1)

theorem byteOf_blend {i : Nat} (old new mask : Nat) (hi : i < 256) :
    byteOf (blend old new mask) i = if mask.testBit i then byteOf new i else byteOf old i := by
  have hbit (j : Nat) (hj : j < 8) :
      (blend old new mask).testBit (8 * i + j) = (if mask.testBit i then new else old).testBit (8 * i + j) := by
    have hfull : (2 ^ 256 - 1).testBit i = true := by rw [Nat.testBit_two_pow_sub_one]; exact decide_eq_true hi
    have hpos : 8 * i + j < 8 * 256 := by omega
    rw [blend, Nat.testBit_or, Nat.testBit_and, Nat.testBit_and, Nat.testBit_xor, testBit_byteMask, testBit_byteMask,
      show (8 * i + j) / 8 = i by omega, hfull, decide_eq_true hpos]
    cases mask.testBit i <;> simp
  rw [byteOf_ext hbit]
  split <;> rfl

@[simp] theorem bitOf_zero (i : Nat) : bitOf 0 i = false := by simp [bitOf]

@[simp] theorem poisonSectors_zero (l : Nat) : poisonSectors l 0 = l := by
  simp [poisonSectors]

@[simp] theorem clearSectors_zero (mask : Nat) : clearSectors 0 mask = 0 :=
  List.foldl_fixed' (fun _ => by simp) _

/-! ## What a key id reads of a granule -/

theorem byteOf_dramLine (m : MainMem) (key a : Nat) : byteOf (dramLine m key (a / 256)) (a % 256) = dramByte m key a := by
  have ha : a % 256 < 256 := Nat.mod_lt _ (by decide)
  rw [dramLine, byteOf_ofLeBytes]
  simp [upTo, ha, Nat.div_add_mod]

theorem hbmByte_eq_byteOf (m : MainMem) (key a : Nat) :
    hbmByte m key a = byteOf (granuleRead m key (a / 256)).2 (a % 256) := rfl

/-- Two main memories that hold the same of a granule: its line, its tag, its keys and its bytes of DRAM. -/
structure SameGranule (m m' : MainMem) (g : Nat) : Prop where
  line : Map.find g m'.cache = Map.find g m.cache
  tag : Table.get 0 g m'.granule = Table.get 0 g m.granule
  keys : m'.keyGen = m.keyGen
  dram : ∀ a, a / 256 = g → m'.dram.read a = m.dram.read a

theorem SameGranule.dramByte_eq {m m' : MainMem} {a : Nat} (h : SameGranule m m' (a / 256)) (key : Nat) :
    dramByte m' key a = dramByte m key a := by
  rw [dramByte, dramByte, keyGenAt, keyGenAt, h.tag, h.keys, h.dram a rfl]

/-- A byte that nothing has encrypted, or that its key id has, is the byte of DRAM. -/
theorem dramByte_of_tag {m : MainMem} {key a : Nat}
    (h : Table.get 0 (a / 256) m.granule = granuleTag key (keyGenAt m key (a / 256))) : dramByte m key a = m.dram.read a := by
  simp [dramByte, h]

section Store

variable (m : MainMem) (key g data bad : Nat)

theorem dramStore_dram : (dramStore m key g data bad).dram = m.dram.writeBytes (256 * g) (leBytes 256 data) := by
  rw [Machine.dramStore]

theorem SameGranule.dramStore {j : Nat} (hj : j ≠ g) : SameGranule m (dramStore m key g data bad) j where
  line := rfl
  tag := by simp [Machine.dramStore, Table.get_put, hj]
  keys := rfl
  dram a ha := by
    rw [dramStore_dram]
    refine Memory.read_writeBytes_outside _ _ _ _ ?_
    rw [length_leBytes]; omega

theorem dram_dramStore {a : Nat} (ha : a / 256 = g) : (dramStore m key g data bad).dram.read a = byteOf data (a % 256) := by
  have hi : a % 256 < (leBytes 256 data).length := by rw [length_leBytes]; exact Nat.mod_lt _ (by decide)
  have hread := Memory.read_writeBytes_inside (leBytes 256 data) m.dram (256 * g) (a % 256) hi
  rw [show 256 * g + a % 256 = a by omega] at hread
  rw [dramStore_dram, hread, ← getD_leBytes data (Nat.mod_lt a (by decide : 0 < 256)), List.getD_eq_getElem _ _ hi]

theorem tag_dramStore : Table.get 0 g (dramStore m key g data bad).granule = granuleTag key (keyGenAt m key g) := by
  simp [dramStore, Table.get_put]

/-- A stored granule reads back under its key id. -/
theorem dramByte_dramStore {a : Nat} (ha : a / 256 = g) :
    dramByte (dramStore m key g data bad) key a = byteOf data (a % 256) := by
  subst ha
  rw [dramByte_of_tag (tag_dramStore _ _ _ _ _), dram_dramStore _ _ _ _ _ rfl]

end Store

/-! ## Quiet main memory -/

/-- What `quiet` asks of main memory. -/
structure MainMem.Quiet (m : MainMem) : Prop where
  readable : m.badBursts = []
  strong : m.weakBursts = []
  uncounted : m.migctl.getLsbD 32 = false
  lines : ∀ g c, Map.find g m.cache = some c → c.dirty = true ∧ c.bad = 0 ∧ c.data < 256 ^ 256

theorem quiet_iff (s : State) : quiet s ↔ s.mem.Quiet :=
  ⟨fun ⟨hb, hw, hc, hl⟩ => ⟨hb, hw, hc, hl⟩, fun ⟨hb, hw, hc, hl⟩ => ⟨hb, hw, hc, hl⟩⟩

/-- Quiet main memory after steps that no read under any key id sees. -/
structure Unseen (m m' : MainMem) : Prop where
  quiet : m'.Quiet
  bytes : ∀ key a, hbmByte m' key a = hbmByte m key a

theorem Unseen.refl {m : MainMem} (h : m.Quiet) : Unseen m m := ⟨h, fun _ _ => rfl⟩

theorem Unseen.trans {m m' m'' : MainMem} (h : Unseen m m') (h' : Unseen m' m'') : Unseen m m'' :=
  ⟨h'.quiet, fun key a => (h'.bytes key a).trans (h.bytes key a)⟩

namespace MainMem.Quiet

variable {m m' : MainMem}

theorem countAccess_eq (h : m.Quiet) (src : SrcClass) (key a : Nat) : countAccess src key a m = m := by
  rw [countAccess, h.uncounted]; rfl

theorem badOf_eq_zero (h : m.Quiet) (g : Nat) : badOf m g = 0 := by
  rw [badOf]
  split
  next c hc => exact (h.lines g c hc).2.1
  next => simp [burstsOf, h.readable, List.foldl_fixed]

theorem weakOf_eq_zero (h : m.Quiet) (g : Nat) : weakOf m g = 0 := by
  rw [weakOf]
  split
  · rfl
  · simp [burstsOf, h.strong, List.foldl_fixed]

/-- A line given up is stored, for it is dirty. -/
theorem cacheEvict_of_some (h : m.Quiet) {g : Nat} {c : CacheLine} (hc : Map.find g m.cache = some c) :
    cacheEvict m g = dramStore { m with cache := Map.erase g m.cache } c.key g c.data 0 := by
  obtain ⟨hdirty, hbad, -⟩ := h.lines g c hc
  simp [cacheEvict, hc, hdirty, hbad]

theorem cacheEvict_of_none {g : Nat} (hc : Map.find g m.cache = none) : cacheEvict m g = m := by
  simp [cacheEvict, hc]

theorem find_cacheEvict (h : m.Quiet) (g j : Nat) :
    Map.find j (cacheEvict m g).cache = if j = g then none else Map.find j m.cache := by
  cases hc : Map.find g m.cache with
  | some c => rw [h.cacheEvict_of_some hc]; exact Map.find_erase _ _ _
  | none =>
    rw [cacheEvict_of_none hc]
    split
    next hj => rw [hj, hc]
    next => rfl

theorem cacheEvict (h : m.Quiet) (g : Nat) : (cacheEvict m g).Quiet := by
  have hlines (j : Nat) (c : CacheLine) (hj : Map.find j (Machine.cacheEvict m g).cache = some c) :
      c.dirty = true ∧ c.bad = 0 ∧ c.data < 256 ^ 256 := by
    rw [h.find_cacheEvict] at hj
    split at hj
    · cases hj
    · exact h.lines j c hj
  cases hc : Map.find g m.cache with
  | some c =>
    rw [h.cacheEvict_of_some hc] at hlines ⊢
    exact ⟨by simp [dramStore, h.readable], by simp [dramStore, h.strong], h.uncounted, hlines⟩
  | none => rwa [cacheEvict_of_none hc]

end MainMem.Quiet

section Evict

variable {m m' : MainMem}

/-- What a key id reads of a granule: its line if that is under the same key id, else DRAM once the line has left. -/
theorem hbmByte_eq (m : MainMem) (key a : Nat) : hbmByte m key a =
    if (Map.find (a / 256) m.cache).map (·.key) = some key then
      byteOf (((Map.find (a / 256) m.cache).map (·.data)).getD 0) (a % 256)
    else dramByte (cacheEvict m (a / 256)) key a := by
  rw [hbmByte_eq_byteOf, granuleRead]
  cases hc : Map.find (a / 256) m.cache with
  | some c => by_cases hk : c.key = key <;> simp [hk, byteOf_dramLine]
  | none => simp [byteOf_dramLine, MainMem.Quiet.cacheEvict_of_none hc]

variable (hm : m.Quiet)
include hm

theorem SameGranule.of_cacheEvict_ne {g j : Nat} (hj : j ≠ g) : SameGranule m (cacheEvict m g) j := by
  have hline : Map.find j (cacheEvict m g).cache = Map.find j m.cache := by rw [hm.find_cacheEvict, if_neg hj]
  cases hc : Map.find g m.cache with
  | some c =>
    rw [hm.cacheEvict_of_some hc] at hline ⊢
    obtain ⟨-, htag, hkeys, hdram⟩ := SameGranule.dramStore { m with cache := Map.erase g m.cache } c.key g c.data 0 hj
    exact ⟨hline, htag, hkeys, hdram⟩
  | none => rw [MainMem.Quiet.cacheEvict_of_none hc]; exact ⟨rfl, rfl, rfl, fun _ _ => rfl⟩

theorem SameGranule.cacheEvict (hm' : m'.Quiet) {g : Nat} (h : SameGranule m m' g) :
    SameGranule (cacheEvict m g) (cacheEvict m' g) g := by
  cases hc : Map.find g m.cache with
  | some c =>
    rw [hm.cacheEvict_of_some hc, hm'.cacheEvict_of_some (h.line.trans hc)]
    refine ⟨?_, ?_, h.keys, fun a ha => ?_⟩
    · change Map.find g (Map.erase g m'.cache) = Map.find g (Map.erase g m.cache)
      rw [Map.find_erase, Map.find_erase, if_pos rfl, if_pos rfl]
    · rw [tag_dramStore, tag_dramStore]; simp only [keyGenAt, h.keys]
    · rw [dram_dramStore _ _ _ _ _ ha, dram_dramStore _ _ _ _ _ ha]
  | none => rwa [MainMem.Quiet.cacheEvict_of_none hc, MainMem.Quiet.cacheEvict_of_none (h.line.trans hc)]

theorem SameGranule.hbmByte_eq (hm' : m'.Quiet) {a : Nat} (h : SameGranule m m' (a / 256)) (key : Nat) :
    hbmByte m' key a = hbmByte m key a := by
  rw [Machine.hbmByte_eq m, Machine.hbmByte_eq m', h.line, (h.cacheEvict hm hm').dramByte_eq]

/-- A granule's line moves to DRAM, or does not: it reads the same, and so do the others. -/
theorem Unseen.cacheEvict (g : Nat) : Unseen m (cacheEvict m g) where
  quiet := hm.cacheEvict g
  bytes key a := by
    have hm' := hm.cacheEvict g
    by_cases ha : a / 256 = g
    · subst ha
      have hgone := MainMem.Quiet.cacheEvict_of_none ((hm.find_cacheEvict (a / 256) (a / 256)).trans (if_pos rfl))
      rw [Machine.hbmByte_eq m, Machine.hbmByte_eq (Machine.cacheEvict m (a / 256)), hgone, hm.find_cacheEvict, if_pos rfl]
      split
      · contradiction
      cases hc : Map.find (a / 256) m.cache with
      | some c =>
        by_cases hk : c.key = key
        · subst hk
          simp [hm.cacheEvict_of_some hc, dramByte_dramStore]
        · simp [hk]
      | none => simp
    · exact SameGranule.hbmByte_eq hm hm' (.of_cacheEvict_ne hm ha) key

theorem Unseen.cacheRoom (g : Nat) : Unseen m (cacheRoom m g) := by
  have hcounted : Unseen m { m with evictions := m.evictions + 1 } :=
    have hq : MainMem.Quiet { m with evictions := m.evictions + 1 } := ⟨hm.readable, hm.strong, hm.uncounted, hm.lines⟩
    ⟨hq, fun key a => SameGranule.hbmByte_eq hm hq ⟨rfl, rfl, rfl, fun _ _ => rfl⟩ key⟩
  unfold Machine.cacheRoom
  split
  · exact .refl hm
  dsimp only
  split
  · exact .refl hm
  split
  · exact hcounted.trans (.cacheEvict hcounted.quiet _)
  · exact .refl hm

theorem Unseen.granuleRead (key g : Nat) : Unseen m (granuleRead m key g).1 := by
  unfold Machine.granuleRead
  split
  · split
    · exact .refl hm
    · exact .cacheEvict hm g
  · exact .refl hm

/-- A written line is whole and dirty, under the writer's key id. -/
theorem granuleWrite_eq (key g data mask : Nat) : granuleWrite m key g data mask =
    { cacheRoom (granuleRead m key g).1 g with
      cache := Map.insert g ⟨key, blend (granuleRead m key g).2 data mask, true, 0⟩
        (cacheRoom (granuleRead m key g).1 g).cache } := by
  simp [granuleWrite, (Unseen.granuleRead hm key g).quiet.badOf_eq_zero]

theorem MainMem.Quiet.granuleWrite (key g data mask : Nat) : (granuleWrite m key g data mask).Quiet := by
  have hread := Unseen.granuleRead hm key g
  obtain ⟨hb, hw, hc, hlines⟩ := (Unseen.cacheRoom hread.quiet g).quiet
  rw [granuleWrite_eq hm]
  refine ⟨hb, hw, hc, fun j c hj => ?_⟩
  rw [Map.find_insert] at hj
  split at hj
  · cases hj; exact ⟨rfl, rfl, blend_lt _ _ _⟩
  · exact hlines j c hj

/-- A write changes the bytes of its mask, for its key id, and no other byte of HBM. -/
theorem hbmByte_granuleWrite (key g data mask a : Nat) : hbmByte (granuleWrite m key g data mask) key a =
    if a / 256 = g ∧ mask.testBit (a % 256) then byteOf data (a % 256) else hbmByte m key a := by
  have hwritten := hm.granuleWrite key g data mask
  have hread := Unseen.granuleRead hm key g
  have hroom := hread.trans (.cacheRoom hread.quiet g)
  rw [granuleWrite_eq hm] at hwritten ⊢
  by_cases ha : a / 256 = g
  · subst ha
    rw [Machine.hbmByte_eq]
    simp [byteOf_blend _ _ _ (Nat.mod_lt a (by decide : 0 < 256)), hbmByte_eq_byteOf m]
  · rw [if_neg fun h => ha h.1, ← hroom.bytes]
    exact SameGranule.hbmByte_eq hroom.quiet hwritten ⟨Map.find_insert_ne _ _ ha, rfl, rfl, fun _ _ => rfl⟩ key

end Evict

end Sys2Proof.Machine
end

section
/-! Ranges of HBM as the base dies read and write them, line by line (R47, R48): a read gives the bytes of the range, a
write changes those bytes and no other. -/

namespace Sys2Proof.Machine

/-! ## The lines of a range -/

/-- The part of a range that lies in its `i`-th line: its address, its place in the range and its length. -/
def linePart (a n i : Nat) : Nat × Nat × Nat :=
  let lo := if i == 0 then 0 else 256 * i - a % 256
  ((a + lo) % 2 ^ 64, lo, min n (256 * (i + 1) - a % 256) - lo)

theorem lineParts_eq (a n : Nat) :
    lineParts a n = ((upTo ((a % 256 + n + 255) / 256)).map (linePart a n)).filter fun p => p.2.2 != 0 := rfl

/-- The parts of the first `k` lines, one after another, are the range up to the end of those lines. -/
theorem flatMap_linePart {α : Type} (f : Nat → α) (a n k : Nat) :
    ((upTo k).flatMap fun i => (upTo (linePart a n i).2.2).map fun j => f ((linePart a n i).2.1 + j))
      = (upTo (min n (256 * k - a % 256))).map f := by
  induction k with
  | zero => simp [upTo]
  | succ k ih =>
    have hlo : (linePart a n k).2.1 = min n (256 * k - a % 256) ∨ (linePart a n k).2.2 = 0 := by
      by_cases hk : k = 0 <;> simp [linePart, hk]; omega
    have hend : min n (256 * (k + 1) - a % 256) = min n (256 * k - a % 256) + (linePart a n k).2.2 := by
      by_cases hk : k = 0 <;> simp [linePart, hk]; omega
    rw [upTo, List.range_succ, List.flatMap_append, ← upTo, ih, hend]
    simp only [upTo, List.range_add, List.map_append, List.map_map, List.flatMap_singleton]
    rcases hlo with hlo | hzero
    · rw [hlo]; rfl
    · rw [hzero]; rfl

theorem flatMap_lineParts {α : Type} (f : Nat → α) (a n : Nat) :
    ((lineParts a n).flatMap fun p => (upTo p.2.2).map fun j => f (p.2.1 + j)) = (upTo n).map f := by
  have hempty (ps : List (Nat × Nat × Nat)) : ((ps.filter fun p => p.2.2 != 0).flatMap fun p =>
      (upTo p.2.2).map fun j => f (p.2.1 + j)) = ps.flatMap fun p => (upTo p.2.2).map fun j => f (p.2.1 + j) := by
    induction ps with
    | nil => rfl
    | cons p ps ih => by_cases hp : p.2.2 = 0 <;> simp [hp, ih, show upTo 0 = [] from rfl]
  have hend : min n (256 * ((a % 256 + n + 255) / 256) - a % 256) = n := by omega
  rw [lineParts_eq, hempty, List.flatMap_map, flatMap_linePart, hend]

theorem mem_lineParts {a n : Nat} (hn : a + n ≤ 2 ^ 64) {p : Nat × Nat × Nat} (hp : p ∈ lineParts a n) :
    p.1 = a + p.2.1 ∧ p.1 % 256 + p.2.2 ≤ 256 := by
  simp only [lineParts, upTo, List.mem_filter, List.mem_map, List.mem_range] at hp
  obtain ⟨⟨i, -, rfl⟩, hne⟩ := hp
  by_cases hi : i = 0 <;> simp [hi] at hne ⊢ <;> omega

/-- A byte lies in a range where it lies in a part of it. -/
theorem exists_lineParts {a n : Nat} (hn : a + n ≤ 2 ^ 64) (b : Nat) :
    (∃ p ∈ lineParts a n, p.1 ≤ b ∧ b < p.1 + p.2.2) ↔ a ≤ b ∧ b < a + n := by
  have hmem : b ∈ (upTo n).map (a + ·) ↔ a ≤ b ∧ b < a + n := by
    simp only [upTo, List.mem_map, List.mem_range]
    exact ⟨fun ⟨i, hi, h⟩ => by omega, fun h => ⟨b - a, by omega, by omega⟩⟩
  rw [← hmem, ← flatMap_lineParts, List.mem_flatMap]
  refine exists_congr fun p => and_congr_right fun hp => ?_
  obtain ⟨haddr, -⟩ := mem_lineParts hn hp
  simp only [upTo, List.mem_map, List.mem_range]
  exact ⟨fun h => ⟨b - p.1, by omega, by omega⟩, fun ⟨j, hj, h⟩ => by omega⟩

/-! ## Reads -/

@[simp] theorem length_hbmBytes (m : MainMem) (key a n : Nat) : (hbmBytes m key a n).length = n := by
  simp [hbmBytes, upTo]

theorem Unseen.hbmBytes_eq {m m' : MainMem} (h : Unseen m m') (key a n : Nat) : hbmBytes m' key a n = hbmBytes m key a n := by
  simp only [hbmBytes, h.bytes]

/-- One line's part of a read. -/
def readPart (key : Nat) (acc : MainMem × List Byte × Nat) (p : Nat × Nat × Nat) : MainMem × List Byte × Nat :=
  let g := granuleRead acc.1 key (p.1 / 256)
  let bad := badOf g.1 (p.1 / 256)
  (g.1, acc.2.1 ++ leBytes p.2.2 (sliceLine (poisonSectors g.2 bad) (p.1 % 256) p.2.2),
    max acc.2.2 (burstStatus bad (weakOf g.1 (p.1 / 256)) (sectorsOf (p.1 % 256) p.2.2)))

theorem dieReadBytes_eq (key a n : Nat) (m : MainMem) :
    dieReadBytes key a n m = (lineParts a n).foldl (readPart key) (m, [], 0) := rfl

@[simp] theorem burstStatus_zero (l : List Nat) : burstStatus 0 0 l = 0 := by
  simp [burstStatus]

/-- In quiet memory a line's part of a read gives its bytes, and status OK. -/
theorem readPart_eq {m : MainMem} (hm : m.Quiet) (key : Nat) (bs : List Byte) {p : Nat × Nat × Nat}
    (hp : p.1 % 256 + p.2.2 ≤ 256) :
    readPart key (m, bs, 0) p = ((granuleRead m key (p.1 / 256)).1, bs ++ hbmBytes m key p.1 p.2.2, 0) := by
  have hread := (Unseen.granuleRead hm key (p.1 / 256)).quiet
  have hbytes : leBytes p.2.2 (sliceLine (granuleRead m key (p.1 / 256)).2 (p.1 % 256) p.2.2) = hbmBytes m key p.1 p.2.2 := by
    rw [leBytes_sliceLine, hbmBytes]
    refine List.map_congr_left fun i hi => ?_
    have hi := List.mem_range.1 hi
    rw [hbmByte_eq_byteOf, show (p.1 + i) / 256 = p.1 / 256 by omega, show (p.1 + i) % 256 = p.1 % 256 + i by omega]
  simp [readPart, hread.badOf_eq_zero, hread.weakOf_eq_zero, hbytes]

theorem foldl_readPart {m₀ : MainMem} (key : Nat) (ps : List (Nat × Nat × Nat)) (hps : ∀ p ∈ ps, p.1 % 256 + p.2.2 ≤ 256) :
    ∀ (m : MainMem) (bs : List Byte), Unseen m₀ m → ∃ m', Unseen m₀ m'
      ∧ ps.foldl (readPart key) (m, bs, 0) = (m', bs ++ (ps.flatMap fun p => hbmBytes m₀ key p.1 p.2.2), 0) := by
  induction ps with
  | nil => exact fun m bs h => ⟨m, h, by simp⟩
  | cons p ps ih =>
    intro m bs h
    have hread := h.trans (.granuleRead h.quiet key (p.1 / 256))
    obtain ⟨m', h', hfold⟩ := ih (fun q hq => hps q (List.mem_cons_of_mem _ hq)) _ (bs ++ hbmBytes m₀ key p.1 p.2.2) hread
    refine ⟨m', h', ?_⟩
    rw [List.foldl_cons, readPart_eq h.quiet key bs (hps p List.mem_cons_self), h.hbmBytes_eq, hfold, List.flatMap_cons,
      List.append_assoc]

/-- A read of quiet memory gives the bytes of its range and status OK, and no read sees what it does. -/
theorem dieReadBytes_of_quiet {m : MainMem} (hm : m.Quiet) (key : Nat) {a n : Nat} (hn : a + n ≤ 2 ^ 64) :
    ∃ m', Unseen m m' ∧ dieReadBytes key a n m = (m', hbmBytes m key a n, 0) := by
  obtain ⟨m', h', hfold⟩ := foldl_readPart key (lineParts a n) (fun p hp => (mem_lineParts hn hp).2) m [] (.refl hm)
  refine ⟨m', h', ?_⟩
  rw [dieReadBytes_eq, hfold, List.nil_append, hbmBytes, ← flatMap_lineParts]
  congr 2
  refine List.flatMap_congr fun p hp => ?_
  rw [hbmBytes, (mem_lineParts hn hp).1]
  simp only [Nat.add_assoc]

/-! ## Writes -/

/-- One line's part of a write. -/
def writePart (key : Nat) (bytes : List Byte) (m : MainMem) (p : Nat × Nat × Nat) : MainMem :=
  granuleWrite m key (p.1 / 256) (ofLeBytes ((bytes.drop p.2.1).take p.2.2) * 256 ^ (p.1 % 256))
    (spanMask (p.1 % 256) p.2.2)

theorem dieWriteBytes_eq (key a : Nat) (bytes : List Byte) (m : MainMem) :
    dieWriteBytes key a bytes m = (lineParts a bytes.length).foldl (writePart key bytes) m := rfl

/-- Quiet main memory after writes: a key id reads `f` where they reach, and what it read elsewhere. -/
structure Written (key : Nat) (reach : Nat → Prop) (f : Nat → Byte) (m m' : MainMem) : Prop where
  quiet : m'.Quiet
  inside : ∀ b, reach b → hbmByte m' key b = f b
  outside : ∀ b, ¬ reach b → hbmByte m' key b = hbmByte m key b

theorem Written.trans {key : Nat} {reach reach' both : Nat → Prop} {f : Nat → Byte} {m m' m'' : MainMem}
    (h : Written key reach f m m') (h' : Written key reach' f m' m'') (hboth : ∀ b, both b ↔ reach b ∨ reach' b) :
    Written key both f m m'' where
  quiet := h'.quiet
  inside b hb := by
    by_cases hr : reach' b
    · exact h'.inside b hr
    · rw [h'.outside b hr, h.inside b (((hboth b).1 hb).resolve_right hr)]
  outside b hb := by
    obtain ⟨hr, hr'⟩ := not_or.1 (mt (hboth b).2 hb)
    rw [h'.outside b hr', h.outside b hr]

theorem written_writePart {m : MainMem} (hm : m.Quiet) (key : Nat) (bytes : List Byte) {a : Nat} {p : Nat × Nat × Nat}
    (haddr : p.1 = a + p.2.1) (hp : p.1 % 256 + p.2.2 ≤ 256) :
    Written key (fun b => p.1 ≤ b ∧ b < p.1 + p.2.2) (fun b => bytes.getD (b - a) 0) m (writePart key bytes m p) where
  quiet := hm.granuleWrite _ _ _ _
  inside b hb := by
    have hspan : b / 256 = p.1 / 256 ∧ p.1 % 256 ≤ b % 256 ∧ b % 256 < p.1 % 256 + p.2.2 := by omega
    rw [writePart, hbmByte_granuleWrite hm, testBit_spanMask, if_pos ⟨hspan.1, decide_eq_true hspan.2⟩,
      byteOf_mul_pow _ hspan.2.1, byteOf_ofLeBytes, List.getD_eq_getElem?_getD,
      List.getElem?_take_of_lt (show b % 256 - p.1 % 256 < p.2.2 by omega), List.getElem?_drop, List.getD_eq_getElem?_getD,
      show p.2.1 + (b % 256 - p.1 % 256) = b - a by omega]
  outside b hb := by
    rw [writePart, hbmByte_granuleWrite hm, testBit_spanMask, if_neg]
    exact fun ⟨hline, hspan⟩ => hb (by have := of_decide_eq_true hspan; omega)

theorem written_foldl (key : Nat) (bytes : List Byte) (a : Nat) (ps : List (Nat × Nat × Nat))
    (hps : ∀ p ∈ ps, p.1 = a + p.2.1 ∧ p.1 % 256 + p.2.2 ≤ 256) : ∀ m : MainMem, m.Quiet →
    Written key (fun b => ∃ p ∈ ps, p.1 ≤ b ∧ b < p.1 + p.2.2) (fun b => bytes.getD (b - a) 0) m
      (ps.foldl (writePart key bytes) m) := by
  induction ps with
  | nil => exact fun m hm => ⟨hm, fun b hb => by simp at hb, fun _ _ => rfl⟩
  | cons p ps ih =>
    intro m hm
    obtain ⟨haddr, hp⟩ := hps p List.mem_cons_self
    have hpart := written_writePart hm key bytes haddr hp
    exact hpart.trans (ih (fun q hq => hps q (List.mem_cons_of_mem _ hq)) _ hpart.quiet) fun b => by simp

/-- A write to quiet memory changes the bytes of its range, for its key id, and no other byte of HBM. -/
theorem dieWriteBytes_of_quiet {m : MainMem} (hm : m.Quiet) (key : Nat) {a : Nat} (bytes : List Byte)
    (hn : a + bytes.length ≤ 2 ^ 64) : (dieWriteBytes key a bytes m).Quiet
      ∧ ∀ b, hbmByte (dieWriteBytes key a bytes m) key b =
        if a ≤ b ∧ b < a + bytes.length then bytes.getD (b - a) 0 else hbmByte m key b := by
  have h := written_foldl key bytes a (lineParts a bytes.length) (fun p hp => mem_lineParts hn hp) m hm
  refine ⟨h.quiet, fun b => ?_⟩
  split
  next hb => exact h.inside b ((exists_lineParts hn b).2 hb)
  next hb => exact h.outside b (mt (exists_lineParts hn b).1 hb)

end Sys2Proof.Machine
end

section
/-! The requests of main memory (R47, R50 to R55, R60, R107): how the model answers each of them where memory is quiet. -/

namespace Sys2Proof.Machine

/-! ## Requests with no effect, and reads -/

theorem exec_memoryRequest (addr key : Nat) (src : SrcClass) (op : BaseOp) (s : State) :
    exec (.memoryRequest addr key src op) s = execMemoryRequest addr key src op s := rfl

theorem exec_blockRead (addr lay efmt pln pitch len key : Nat) (s : State) :
    exec (.blockRead addr lay efmt pln pitch len key) s = execBlockRead addr lay efmt pln pitch len key s := rfl

theorem exec_memorySideAtomic (addr key : Nat) (op : AtomOp) (w : Bool) (steps : List (Nat × Nat)) (s : State) :
    exec (.memorySideAtomic addr key op w steps) s = execMemorySideAtomic addr key op w steps s := rfl

theorem exec_gatherPacket (base width key : Nat) (entries : List (Nat × Nat)) (s : State) :
    exec (.gatherPacket base width key entries) s = execGatherPacket base width key entries s := rfl

theorem exec_scatterPacket (base width key : Nat) (entries : List (Nat × Nat)) (values : List Nat) (s : State) :
    exec (.scatterPacket base width key entries values) s = execScatterPacket base width key entries values s := rfl

theorem malformed_eq (s : State) : malformed s = .next { s with answer := ⟨3, [], 0⟩ } := rfl

theorem hbmRange_iff (a n : Nat) : hbmRange a n = true ↔ 0 < n ∧ a + n ≤ hbmEnd := by
  simp [hbmRange, Nat.pos_iff_ne_zero]

/-- A range inside HBM does not wrap round the addresses. -/
theorem le_of_le_hbmEnd {a : Nat} (h : a ≤ hbmEnd) : a ≤ 2 ^ 64 := h.trans (by decide)

theorem answers_of_exec {i : Instr} {s : State} {m : MainMem} {status : Nat} {data : List Byte} {mask : Nat}
    (h : exec i s = .next (({ s with mem := m }).answered status data mask)) :
    Answers i s status data mask (({ s with mem := m }).answered status data mask) := ⟨h, rfl, rfl⟩

theorem read_answers {s : State} (hm : s.mem.Quiet) {addr n : Nat} (key : Nat) (src : SrcClass)
    (h : 0 < n ∧ addr + n ≤ hbmEnd) :
    ∃ t, Answers (.memoryRequest addr key src (.read n)) s 0 (hbmBytes s.mem key addr n) 0 t := by
  obtain ⟨m', -, hread⟩ := dieReadBytes_of_quiet hm key (le_of_le_hbmEnd h.2)
  refine ⟨_, answers_of_exec (m := m') ?_⟩
  simp [exec_memoryRequest, execMemoryRequest, (hbmRange_iff _ _).2 h, hm.countAccess_eq, hread]

theorem read_malformed {addr n : Nat} (s : State) (key : Nat) (src : SrcClass) (h : ¬(0 < n ∧ addr + n ≤ hbmEnd)) :
    exec (.memoryRequest addr key src (.read n)) s = .next { s with answer := ⟨3, [], 0⟩ } := by
  simp [exec_memoryRequest, execMemoryRequest, mt (hbmRange_iff _ _).1 h, malformed_eq]

theorem blockRead_answers_bytes {s : State} (hm : s.mem.Quiet) {addr n : Nat} (key e p w : Nat)
    (h : 0 < n ∧ addr + n ≤ hbmEnd) : ∃ t, Answers (.blockRead addr 0 e p w n key) s 0 (hbmBytes s.mem key addr n) 0 t := by
  obtain ⟨m', -, hread⟩ := dieReadBytes_of_quiet hm key (le_of_le_hbmEnd h.2)
  refine ⟨_, answers_of_exec (m := m') ?_⟩
  simp [exec_blockRead, execBlockRead, (hbmRange_iff _ _).2 h, hm.countAccess_eq, hread]

theorem blockRead_malformed_bytes {addr n : Nat} (s : State) (key e p w : Nat) (h : ¬(0 < n ∧ addr + n ≤ hbmEnd)) :
    exec (.blockRead addr 0 e p w n key) s = .next { s with answer := ⟨3, [], 0⟩ } := by
  simp [exec_blockRead, execBlockRead, mt (hbmRange_iff _ _).1 h, malformed_eq]

/-! ## Writes and lines given up -/

theorem write_answers {s : State} (hm : s.mem.Quiet) {addr : Nat} {data : List Byte} (key : Nat) (src : SrcClass)
    (h : 0 < data.length ∧ addr + data.length ≤ hbmEnd) :
    ∃ t, Answers (.memoryRequest addr key src (.write data)) s 0 [] 0 t
      ∧ ∀ b, hbmByte t.mem key b =
        if addr ≤ b ∧ b < addr + data.length then data.getD (b - addr) 0 else hbmByte s.mem key b := by
  refine ⟨_, answers_of_exec (m := dieWriteBytes key addr data s.mem) ?_, (dieWriteBytes_of_quiet hm key data (le_of_le_hbmEnd h.2)).2⟩
  simp [exec_memoryRequest, execMemoryRequest, (hbmRange_iff _ _).2 h, hm.countAccess_eq]

theorem write_malformed {addr : Nat} {data : List Byte} (s : State) (key : Nat) (src : SrcClass)
    (h : ¬(0 < data.length ∧ addr + data.length ≤ hbmEnd)) :
    exec (.memoryRequest addr key src (.write data)) s = .next { s with answer := ⟨3, [], 0⟩ } := by
  simp [exec_memoryRequest, execMemoryRequest, mt (hbmRange_iff _ _).1 h, malformed_eq]

/-- A line given up leaves its home, and no other line does. -/
theorem l2Evict_leaves (line : Nat) (s : State) :
    l2Evict line s = { s with mem := (l2Evict line s).mem, l2 := (l2Evict line s).l2 }
    ∧ ∀ j, Map.find j (l2Evict line s).l2 = if j = line then none else Map.find j s.l2 := by
  cases h : Map.find line s.l2 with
  | none =>
    rw [show l2Evict line s = s by simp [l2Evict, h]]
    refine ⟨rfl, fun j => ?_⟩
    split
    next hj => rw [hj]; exact h
    next => rfl
  | some l =>
    simp only [l2Evict, h]
    split <;> exact ⟨rfl, fun j => Map.find_erase _ _ _⟩

theorem evictL2_leaves {addr : Nat} (key : Nat) (src : SrcClass) (s : State) (h : addr < hbmEnd) :
    ∃ t : State, exec (.memoryRequest addr key src .evictL2) s = .next t
      ∧ t = { s with mem := t.mem, l2 := t.l2 } ∧ Map.find (addr / 256) t.l2 = none
      ∧ ∀ j, j ≠ addr / 256 → Map.find j t.l2 = Map.find j s.l2 := by
  obtain ⟨hrest, hfind⟩ := l2Evict_leaves (addr / 256) s
  refine ⟨l2Evict (addr / 256) s, ?_, hrest, (hfind _).trans (if_pos rfl), fun j hj => (hfind j).trans (if_neg hj)⟩
  simp [exec_memoryRequest, execMemoryRequest, inHbm, h]

/-! ## Blocks of 32 rows -/

/-- One row of a block read as a number. -/
def readBlockRow (key addr pitch n : Nat) (acc : MainMem × List Nat × Nat) (i : Nat) : MainMem × List Nat × Nat :=
  let y := dieReadBytes key (addr + i * pitch) n acc.1
  (y.1, acc.2.1 ++ [ofLeBytes y.2.1], max acc.2.2 y.2.2)

theorem foldl_readBlockRow {m₀ : MainMem} {key addr pitch n : Nat} (rows : List Nat)
    (hrows : ∀ i ∈ rows, addr + i * pitch + n ≤ 2 ^ 64) :
    ∀ (m : MainMem) (xs : List Nat), Unseen m₀ m → ∃ m', rows.foldl (readBlockRow key addr pitch n) (m, xs, 0)
      = (m', xs ++ rows.map fun i => ofLeBytes (hbmBytes m₀ key (addr + i * pitch) n), 0) := by
  induction rows with
  | nil => exact fun m xs _ => ⟨m, by simp⟩
  | cons i rows ih =>
    intro m xs h
    obtain ⟨m₁, h₁, hread⟩ := dieReadBytes_of_quiet h.quiet key (hrows i List.mem_cons_self)
    obtain ⟨m', hfold⟩ := ih (fun j hj => hrows j (List.mem_cons_of_mem _ hj)) m₁
      (xs ++ [ofLeBytes (hbmBytes m₀ key (addr + i * pitch) n)]) (h.trans h₁)
    refine ⟨m', ?_⟩
    rw [List.foldl_cons, readBlockRow, hread, h.hbmBytes_eq]
    simpa using hfold

/-- Whether a block that is to be converted is served. -/
def blockServed (addr lay pln pitch : Nat) (f : EFmt) : Prop :=
  blockOk lay (some f) pln pitch = true ∧ addr % (4 * f.bits) = 0
    ∧ 0 < 31 * pitch + 4 * f.bits ∧ addr + (31 * pitch + 4 * f.bits) ≤ hbmEnd

section Block

variable {addr lay e pln pitch : Nat} {f : EFmt} (key n : Nat) (hlay : lay ≠ 0) (hf : EFmt.ofCode e = some f)
include hlay hf

theorem blockRead_answers_rows {s : State} (hm : s.mem.Quiet) (h : blockServed addr lay pln pitch f) :
    ∃ t, Answers (.blockRead addr lay e pln pitch n key) s 0
      (blockConvert lay f pln ((upTo 32).map fun i => ofLeBytes (hbmBytes s.mem key (addr + i * pitch) (4 * f.bits)))) 0 t := by
  obtain ⟨hok, halign, hrange⟩ := h
  have hrows : ∀ i ∈ upTo 32, addr + i * pitch + 4 * f.bits ≤ 2 ^ 64 := fun i hi => by
    have hi : i * pitch ≤ 31 * pitch := Nat.mul_le_mul_right _ (Nat.le_of_lt_succ (List.mem_range.1 hi))
    exact le_of_le_hbmEnd (by omega)
  obtain ⟨m', hfold⟩ := foldl_readBlockRow (key := key) (upTo 32) hrows s.mem [] (.refl hm)
  refine ⟨_, answers_of_exec (m := m') ?_⟩
  unfold readBlockRow at hfold
  simp [exec_blockRead, execBlockRead, hlay, hf, hok, halign, (hbmRange_iff _ _).2 hrange, hm.countAccess_eq, hfold]

theorem blockRead_malformed_rows (s : State) (h : ¬blockServed addr lay pln pitch f) :
    exec (.blockRead addr lay e pln pitch n key) s = .next { s with answer := ⟨3, [], 0⟩ } := by
  rw [blockServed, ← hbmRange_iff] at h
  have hbad : (!blockOk lay (some f) pln pitch || addr % (4 * f.bits) != 0
      || !hbmRange addr (31 * pitch + 4 * f.bits)) = true := by
    by_contra hgood
    simp at hgood
    obtain ⟨⟨hok, halign⟩, hrange⟩ := hgood
    exact h ⟨hok, halign, hrange⟩
  simp [exec_blockRead, execBlockRead, hlay, hf, hbad, malformed_eq]

end Block

/-! ## Atomics at the base die -/

theorem signedOf_eq_asSigned (w x : Nat) : signedOf w x = asSigned w x := by
  unfold signedOf asSigned
  dsimp only
  split <;> simp

/-- The model's step of an atomic stores what R228 says. -/
theorem atomStep_fst (op : AtomOp) (w old b c : Nat) : (atomStep op w old b c).1 = (atomResult op w old b c).1 := by
  cases op
  case minS => simp only [atomStep, atomResult, signedOf_eq_asSigned, ← not_lt, ite_not]
  case maxS => simp only [atomStep, atomResult, signedOf_eq_asSigned, ← not_lt, ite_not]
  case minN => simp only [atomStep, atomResult]; split <;> omega
  case maxN => simp only [atomStep, atomResult]; split <;> omega
  case cas => simp [atomStep, atomResult]
  case decw => simp [atomStep, atomResult]
  all_goals rfl

/-- The steps of a combined atomic, each lane given the bytes of the value before its own. -/
theorem foldl_atomStep (op : AtomOp) (n : Nat) (steps : List (Nat × Nat)) : ∀ (v : Nat) (olds : List Nat),
    steps.foldl (fun (acc : Nat × List Byte) x => ((atomStep op (8 * n) acc.1 x.1 x.2).1, acc.2 ++ leBytes n acc.1))
      (v, olds.flatMap (leBytes n))
    = (fun r : Nat × List Nat => (r.1, r.2.flatMap (leBytes n)))
      (steps.foldl (fun (acc : Nat × List Nat) x => ((atomResult op (8 * n) acc.1 x.1 x.2).1, acc.2 ++ [acc.1])) (v, olds)) := by
  induction steps with
  | nil => exact fun _ _ => rfl
  | cons x steps ih =>
    intro v olds
    rw [List.foldl_cons, List.foldl_cons, ← ih, atomStep_fst, List.flatMap_append, List.flatMap_singleton]

/-- The values of a combined atomic: what it leaves, and what its lanes are given (R60, R229). -/
def atomSteps (op : AtomOp) (n v : Nat) (steps : List (Nat × Nat)) : Nat × List Nat :=
  steps.foldl (fun (acc : Nat × List Nat) x => ((atomResult op (8 * n) acc.1 x.1 x.2).1, acc.2 ++ [acc.1])) (v, [])

/-- Whether an atomic is served (R60). -/
def atomServed (op : AtomOp) (w : Bool) (addr : Nat) : Prop :=
  ¬(w = true ∧ (op = .fadd ∨ op = .fmin ∨ op = .fmax)) ∧ addr % (if w then 8 else 4) = 0
    ∧ addr + (if w then 8 else 4) ≤ hbmEnd

section Atomic

variable {addr : Nat} {op : AtomOp} {w : Bool} (key : Nat) (steps : List (Nat × Nat))

/-- The model refuses the same atomics. -/
theorem atomRefused_eq_false_iff : ((w && (op == .fadd || op == .fmin || op == .fmax))
    || addr % (if w then 8 else 4) != 0 || !hbmRange addr (if w then 8 else 4)) = false ↔ atomServed op w addr := by
  have hpos : 0 < if w then 8 else 4 := by cases w <;> decide
  simp only [atomServed, Bool.or_eq_false_iff, Bool.not_eq_false', hbmRange_iff, hpos, true_and, and_assoc]
  simp [← Bool.not_eq_true, and_assoc]

theorem memorySideAtomic_malformed (s : State) (h : ¬atomServed op w addr) :
    exec (.memorySideAtomic addr key op w steps) s = .next { s with answer := ⟨3, [], 0⟩ } := by
  have hbad := eq_true_of_ne_false (mt atomRefused_eq_false_iff.1 h)
  simp only [exec_memorySideAtomic, execMemorySideAtomic, hbad, if_true, malformed_eq]

theorem memorySideAtomic_answers {s : State} (hm : s.mem.Quiet) (h : atomServed op w addr) :
    let k := if w then 8 else 4
    let r := atomSteps op k (ofLeBytes (hbmBytes s.mem key addr k)) steps
    ∃ t, Answers (.memorySideAtomic addr key op w steps) s 0 (r.2.flatMap fun x => leBytes k x) 0 t
      ∧ ∀ b, hbmByte t.mem key b =
        if addr ≤ b ∧ b < addr + k then BitVec.ofNat 8 (r.1 / 256 ^ (b - addr)) else hbmByte s.mem key b := by
  intro k r
  have ⟨_, _, hrange⟩ := h
  have hend : addr + k ≤ 2 ^ 64 := le_of_le_hbmEnd hrange
  obtain ⟨m', hunseen, hread⟩ := dieReadBytes_of_quiet hm key hend
  have hwrite := (dieWriteBytes_of_quiet hunseen.quiet key (a := addr) (leBytes k r.1) (by rwa [length_leBytes])).2
  have hsteps := foldl_atomStep op k steps (ofLeBytes (hbmBytes s.mem key addr k)) []
  refine ⟨_, answers_of_exec (m := dieWriteBytes key addr (leBytes k r.1) m') ?_, fun b => (hwrite b).trans ?_⟩
  · have hgood := atomRefused_eq_false_iff.2 h
    simp only [exec_memorySideAtomic, execMemorySideAtomic, hgood, hm.countAccess_eq, Bool.false_eq_true, if_false]
    rw [hread]
    exact congrArg (fun x : Nat × List Byte =>
      Host.Outcome.next (({ s with mem := dieWriteBytes key addr (leBytes k x.1) m' }).answered 0 x.2 0)) hsteps
  · rw [length_leBytes, hunseen.bytes]
    split
    next hb => exact getD_leBytes _ (by omega)
    next => rfl

end Atomic

end Sys2Proof.Machine
end

section
/-! Packets (R54, R55): gathers and scatters of entries, each served on its own. -/

namespace Sys2Proof.Machine

theorem entryOk_eq_served (base width offset : Nat) : entryOk base width offset = served base width offset := by
  rw [Bool.eq_iff_iff, entryOk, served, Bool.and_eq_true, Bool.and_eq_true, hbmRange_iff, decide_eq_true_iff]

theorem le_of_served {base width offset : Nat} (h : served base width offset = true) : base + offset + width ≤ 2 ^ 64 := by
  rw [served, Bool.and_eq_true, decide_eq_true_iff] at h
  obtain ⟨-, -, hend⟩ := h
  exact le_of_le_hbmEnd hend

/-- Whether a packet has entries of a width. -/
def packetWidth (width : Nat) : Prop := width = 1 ∨ width = 2 ∨ width = 4 ∨ width = 8

theorem widthRefused_eq_false_iff (width : Nat) :
    (width != 1 && width != 2 && width != 4 && width != 8) = false ↔ packetWidth width := by
  simp [packetWidth]
  omega

/-! ## Gathers -/

/-- One entry of a gather: the bytes it gives, its bit of the mask, and the status so far. -/
def gatherEntry (base width key : Nat) (acc : MainMem × List Byte × Nat × Nat) (e : (Nat × Nat) × Nat) :
    MainMem × List Byte × Nat × Nat :=
  if !entryOk base width e.1.2 then (acc.1, acc.2.1 ++ List.replicate width 0xFF, acc.2.2.1 + 2 ^ e.2, 3)
  else
    let y := dieReadBytes key (base + e.1.2) width acc.1
    (y.1, acc.2.1 ++ y.2.1, acc.2.2.1 + (if y.2.2 == 2 then 2 ^ e.2 else 0), max acc.2.2.2 y.2.2)

/-- What an entry gives: its bytes, or 0xFF in each where it is not served. -/
def entryBytes (m : MainMem) (base width key : Nat) (e : Nat × Nat) : List Byte :=
  if served base width e.2 then hbmBytes m key (base + e.2) width else List.replicate width 0xFF

/-- The status of a packet: MALFORMED where an entry is not served. -/
def packetStatus (base width : Nat) (entries : List (Nat × Nat)) : Nat :=
  if (entries.any fun e => !served base width e.2) then 3 else 0

theorem packetStatus_append (base width : Nat) (es : List (Nat × Nat)) (e : Nat × Nat) :
    packetStatus base width (es ++ [e]) = if served base width e.2 then packetStatus base width es else 3 := by
  simp only [packetStatus, List.any_append, List.any_cons, List.any_nil, Bool.or_false]
  by_cases h : served base width e.2 = true
  · simp only [h, Bool.not_true, Bool.or_false, if_true]
  · simp only [h, Bool.not_false, Bool.or_true, if_true, Bool.false_eq_true, if_false]

/-- A mask of entries names exactly those that are not served. -/
structure NamesUnserved (base width mask : Nat) (entries : List (Nat × Nat)) : Prop where
  lt : mask < 2 ^ entries.length
  bits : ∀ j, mask.testBit j = true ↔ ∃ e, entries[j]? = some e ∧ served base width e.2 = false

theorem NamesUnserved.append {base width mask : Nat} {es : List (Nat × Nat)} (h : NamesUnserved base width mask es)
    (e : Nat × Nat) :
    NamesUnserved base width (mask + if served base width e.2 then 0 else 2 ^ es.length) (es ++ [e]) where
  lt := by
    have := h.lt
    rw [List.length_append, List.length_singleton, Nat.pow_succ]
    split <;> omega
  bits j := by
    rw [List.getElem?_append]
    by_cases hj : j < es.length
    · rw [if_pos hj, ← h.bits]
      split
      · rfl
      · rw [Nat.add_comm, Nat.testBit_two_pow_add_gt hj]
    · have hmask : mask.testBit j = false :=
        Nat.testBit_eq_false_of_lt (h.lt.trans_le (Nat.pow_le_pow_right (by decide) (not_lt.1 hj)))
      rw [if_neg hj]
      rcases (not_lt.1 hj).eq_or_lt with rfl | hlt
      · cases hserved : served base width e.2 <;> simp [hserved, hmask, Nat.add_comm mask, Nat.testBit_two_pow_add_eq]
      · have hmore : (mask + if served base width e.2 = true then 0 else 2 ^ es.length).testBit j = false := by
          have := h.lt
          have := Nat.pow_le_pow_right (show 0 < 2 by decide) (Nat.succ_le_of_lt hlt)
          rw [Nat.pow_succ] at this
          exact Nat.testBit_eq_false_of_lt (by split <;> omega)
        rw [hmore, List.getElem?_eq_none (by rw [List.length_singleton]; omega)]
        simp

theorem foldl_gatherEntry {m₀ : MainMem} (hm : m₀.Quiet) (base width key : Nat) (entries : List (Nat × Nat)) :
    ∃ m' mask, Unseen m₀ m' ∧ NamesUnserved base width mask entries
      ∧ entries.zipIdx.foldl (gatherEntry base width key) (m₀, [], 0, 0)
        = (m', entries.flatMap (entryBytes m₀ base width key), mask, packetStatus base width entries) := by
  induction entries using List.reverseRecOn with
  | nil => exact ⟨m₀, 0, .refl hm, ⟨by simp, by simp⟩, rfl⟩
  | append_singleton es e ih =>
    obtain ⟨m, mask, hunseen, hmask, hfold⟩ := ih
    rw [List.zipIdx_append, List.foldl_append, hfold, List.flatMap_append, packetStatus_append]
    cases hserved : served base width e.2 with
    | false =>
      refine ⟨m, _, hunseen, hmask.append e, ?_⟩
      simp [gatherEntry, entryOk_eq_served, entryBytes, hserved]
    | true =>
      obtain ⟨m', hstep, hread⟩ := dieReadBytes_of_quiet hunseen.quiet key (le_of_served hserved)
      refine ⟨m', _, hunseen.trans hstep, hmask.append e, ?_⟩
      simp [gatherEntry, entryOk_eq_served, entryBytes, hserved, hread, hunseen.hbmBytes_eq]

theorem execGatherPacket_of_width {base width key : Nat} {entries : List (Nat × Nat)} {s : State} (hm : s.mem.Quiet)
    (h : packetWidth width) : execGatherPacket base width key entries s =
      let r := entries.zipIdx.foldl (gatherEntry base width key) (s.mem, [], 0, 0)
      .next (({ s with mem := r.1 }).answered r.2.2.2 (padTo32 r.2.1) r.2.2.1) := by
  rw [execGatherPacket, (widthRefused_eq_false_iff width).2 h, hm.countAccess_eq]
  rfl

theorem gatherPacket_malformed {width : Nat} (s : State) (base key : Nat) (entries : List (Nat × Nat))
    (h : ¬packetWidth width) :
    exec (.gatherPacket base width key entries) s = .next { s with answer := ⟨3, [], 0⟩ } := by
  have hbad := eq_true_of_ne_false (mt (widthRefused_eq_false_iff width).1 h)
  simp only [exec_gatherPacket, execGatherPacket, hbad, if_true, malformed_eq]

theorem gatherPacket_answers {s : State} (hm : s.mem.Quiet) {width : Nat} (base key : Nat) (entries : List (Nat × Nat))
    (h : packetWidth width) : ∃ t mask, Answers (.gatherPacket base width key entries) s (packetStatus base width entries)
        (padTo32 (entries.flatMap (entryBytes s.mem base width key))) mask t
      ∧ NamesUnserved base width mask entries := by
  obtain ⟨m', mask, -, hmask, hfold⟩ := foldl_gatherEntry hm base width key entries
  refine ⟨_, mask, answers_of_exec (m := m') ?_, hmask⟩
  rw [exec_gatherPacket, execGatherPacket_of_width hm h, hfold]

/-! ## Scatters -/

/-- One entry of a scatter and the status so far. -/
def scatterEntry (base width key : Nat) (acc : MainMem × Nat) (e : (Nat × Nat) × Nat) : MainMem × Nat :=
  if !entryOk base width e.1.2 then (acc.1, 3) else (dieWriteBytes key (base + e.1.2) (leBytes width e.2) acc.1, acc.2)

/-- Whether an entry of a scatter writes a byte. -/
def entryWrites (base width b : Nat) (e : (Nat × Nat) × Nat) : Bool :=
  served base width e.1.2 && decide (base + e.1.2 ≤ b ∧ b < base + e.1.2 + width)

/-- A byte after the entries of a scatter: of the last one that writes it, or what it was. -/
def scatteredByte (m : MainMem) (base width key : Nat) (es : List ((Nat × Nat) × Nat)) (b : Nat) : Byte :=
  match es.reverse.find? (entryWrites base width b) with
  | some e => BitVec.ofNat 8 (e.2 / 256 ^ (b - (base + e.1.2)))
  | none => hbmByte m key b

theorem scatteredByte_append (m : MainMem) (base width key : Nat) (es : List ((Nat × Nat) × Nat)) (e : (Nat × Nat) × Nat)
    (b : Nat) : scatteredByte m base width key (es ++ [e]) b =
      if entryWrites base width b e then byteOf e.2 (b - (base + e.1.2)) else scatteredByte m base width key es b := by
  rw [scatteredByte, scatteredByte, List.reverse_append, List.reverse_singleton, List.singleton_append, List.find?_cons]
  cases entryWrites base width b e <;> rfl

theorem foldl_scatterEntry {m : MainMem} (hm : m.Quiet) (base width key : Nat) (es : List ((Nat × Nat) × Nat)) :
    ∃ m', es.foldl (scatterEntry base width key) (m, 0) = (m', packetStatus base width (es.map (·.1)))
      ∧ m'.Quiet ∧ ∀ b, hbmByte m' key b = scatteredByte m base width key es b := by
  induction es using List.reverseRecOn with
  | nil => exact ⟨m, rfl, hm, fun _ => rfl⟩
  | append_singleton es e ih =>
    obtain ⟨m', hfold, hquiet, hbytes⟩ := ih
    rw [List.foldl_append, hfold, List.map_append, List.map_singleton, packetStatus_append]
    by_cases hserved : served base width e.1.2 = true
    · have hend : base + e.1.2 + (leBytes width e.2).length ≤ 2 ^ 64 := by
        rw [length_leBytes]; exact le_of_served hserved
      obtain ⟨hquiet', hbytes'⟩ := dieWriteBytes_of_quiet hquiet key (leBytes width e.2) hend
      refine ⟨_, by simp [scatterEntry, entryOk_eq_served, hserved], hquiet', fun b => (hbytes' b).trans ?_⟩
      simp only [scatteredByte_append, entryWrites, hserved, length_leBytes, Bool.true_and, decide_eq_true_iff, hbytes]
      split
      next hb => exact getD_leBytes _ (by omega)
      next => rfl
    · refine ⟨m', by simp [scatterEntry, entryOk_eq_served, hserved], hquiet, fun b => (hbytes b).trans ?_⟩
      simp [scatteredByte_append, entryWrites, hserved]

theorem execScatterPacket_of_width {base width key : Nat} {entries : List (Nat × Nat)} {values : List Nat} {s : State}
    (hm : s.mem.Quiet) (h : packetWidth width) : execScatterPacket base width key entries values s =
      let r := (entries.zip values).foldl (scatterEntry base width key) (s.mem, 0)
      .next (({ s with mem := r.1 }).answered r.2 [] 0) := by
  rw [execScatterPacket, (widthRefused_eq_false_iff width).2 h, hm.countAccess_eq]
  rfl

theorem scatterPacket_malformed {width : Nat} (s : State) (base key : Nat) (entries : List (Nat × Nat)) (values : List Nat)
    (h : ¬packetWidth width) :
    exec (.scatterPacket base width key entries values) s = .next { s with answer := ⟨3, [], 0⟩ } := by
  have hbad := eq_true_of_ne_false (mt (widthRefused_eq_false_iff width).1 h)
  simp only [exec_scatterPacket, execScatterPacket, hbad, if_true, malformed_eq]

theorem scatterPacket_answers {s : State} (hm : s.mem.Quiet) {width : Nat} (base key : Nat) {entries : List (Nat × Nat)}
    {values : List Nat} (h : packetWidth width) (hlen : values.length = entries.length) :
    ∃ t, Answers (.scatterPacket base width key entries values) s (packetStatus base width entries) [] 0 t
      ∧ ∀ b, hbmByte t.mem key b = scatteredByte s.mem base width key (entries.zip values) b := by
  obtain ⟨m', hfold, -, hbytes⟩ := foldl_scatterEntry hm base width key (entries.zip values)
  rw [List.map_fst_zip hlen.ge] at hfold
  refine ⟨_, answers_of_exec (m := m') ?_, hbytes⟩
  rw [exec_scatterPacket, execScatterPacket_of_width hm h, hfold]

/-- Settles O49: every request is answered from the bytes of HBM that its key id reads, and a write reaches its own bytes
alone. -/
theorem memoryRequestsAreServed : Obligations.MemoryRequestsAreServed := by
  refine ⟨fun s addr key n src data hquiet => ?_, fun s base width key entries values hquiet => ?_⟩
  · have hm := (quiet_iff s).1 hquiet
    exact ⟨read_answers hm key src,
      fun h => ⟨read_malformed s key src h, fun e p w => blockRead_malformed_bytes s key e p w h⟩,
      fun h e p w => blockRead_answers_bytes hm key e p w h, write_answers hm key src, write_malformed s key src,
      evictL2_leaves key src s, fun lay e pln pitch hlay f hf =>
        ⟨blockRead_answers_rows key n hlay hf hm, blockRead_malformed_rows key n hlay hf s⟩,
      fun op w steps => ⟨memorySideAtomic_malformed key steps s, memorySideAtomic_answers key steps hm⟩⟩
  · have hm := (quiet_iff s).1 hquiet
    refine ⟨fun h => ⟨gatherPacket_malformed s base key entries h, scatterPacket_malformed s base key entries values h⟩,
      fun h => ?_, scatterPacket_answers hm base key⟩
    obtain ⟨t, mask, hanswers, hmask⟩ := gatherPacket_answers hm base key entries h
    exact ⟨t, mask, hanswers, hmask.bits⟩

end Sys2Proof.Machine
end

section
/-! The machine right after reset. -/

namespace Sys2Proof.Machine

/-- After reset the power sum reads 0, whatever BOOTSTAT holds. -/
theorem hostRead_pwrsum_reset (b : BitVec 64) :
    hostRead { State.reset with host := { State.reset.host with bootstat := b } } .pwrsum = 0 := by
  rw [hostRead]
  split <;> rfl

/-- Settles O60: every register is read off the reset state. -/
theorem resetLeavesTheStatedValues : Obligations.ResetLeavesTheStatedValues := by
  have htime : State.reset.clock = BitVec.ofNat 64 (clockSum State.reset.tick) := rfl
  have hmem : memoriesOk State.reset := ⟨Memory.wf_nil, Memory.wf_nil, Memory.wf_nil⟩
  exact ⟨rfl, htime, hmem, rfl, rfl, rfl, rfl, rfl, rfl, rfl, rfl, fun _ => ⟨rfl, rfl⟩, fun _ => rfl, rfl, rfl, rfl, rfl,
    fun _ => rfl, rfl, rfl, rfl, fun _ => rfl, rfl, rfl, rfl, rfl, fun _ => ⟨rfl, rfl⟩, rfl, rfl, rfl, rfl, rfl, rfl, rfl,
    rfl, rfl, hostRead_pwrsum_reset, rfl, rfl, fun _ _ => rfl, fun _ => rfl⟩

end Sys2Proof.Machine
end

section
/-! A bank beyond the package's stacks (R44, R57). R56 gives handles below 12 × 4096 = 49152; the statement on streams
takes any handle that the state lists, and there the addresses of a row pass 2^64. -/

namespace Sys2Proof.Machine

/-- The granules of this bank lie from byte 2^64 on. -/
def farHandle : Nat := 2 ^ 68

/-- The bank `farHandle` is held, and byte 0 of HBM is 1. -/
def farBankState : State :=
  { State.reset with
    mem := { MainMem.reset with dram := [(0, 1)], banks := [(farHandle, ⟨0, 0, 0, [], false⟩)] } }

theorem quiet_farBankState : quiet farBankState := ⟨rfl, rfl, rfl, fun _ _ h => by cases h⟩

/-- A read of one row of the bank wraps round the addresses and answers with byte 0 of HBM first. -/
theorem farBank_answer : (match exec (.streamRequest farHandle false 0 1 0 []) farBankState with
    | .next t => t.answer.data.head?
    | _ => none) = some 1 := by decide +kernel

/-- The row's first granule holds no such byte. -/
theorem farBank_byte : hbmByte farBankState.mem 0 (256 * bankGranule farHandle 0 0) = 0 := by decide +kernel

/-- Refutes O50: a stream from a bank past the last stack, whose rows lie past the addresses' 64 bits, answers other bytes
than the row's granules hold. -/
theorem not_banksAndRangesAreServed : ¬ Obligations.BanksAndRangesAreServed := by
  rintro ⟨-, hstream, -⟩
  obtain ⟨-, hheld⟩ := hstream farBankState farHandle 0 1 0 []
  obtain ⟨-, hserved, -⟩ := hheld ⟨0, 0, 0, [], false⟩ rfl
  obtain ⟨t, hexec, hstreamed⟩ := hserved (by decide) (by decide) quiet_farBankState rfl rfl false
  obtain ⟨-, hanswer, -⟩ := hstreamed.bank
  have hhead : t.answer.data.head? = some (hbmByte farBankState.mem 0 (256 * bankGranule farHandle 0 0)) := by
    rw [hanswer]; rfl
  have hread := farBank_answer
  rw [hexec] at hread
  exact absurd (hread.symm.trans (hhead.trans (congrArg some farBank_byte))) (by decide)

end Sys2Proof.Machine
end

section
/-! What the homes leave alone (R107, R191): a read or a write there changes nothing that tiles and clusters hold. -/

namespace Sys2Proof.Machine

/-- What the tiles and the clusters hold. -/
def State.holders (s : State) : Map Tile × Map Cluster := (s.tiles, s.clusters)

@[simp] theorem holders_hostWriteLine (s : State) (line data mask : Nat) :
    (hostWriteLine s line data mask).holders = s.holders := by
  unfold hostWriteLine
  split <;> rfl

@[simp] theorem holders_l2Evict (line : Nat) (s : State) : (l2Evict line s).holders = s.holders := by
  unfold l2Evict
  split
  · dsimp only; split <;> rfl
  · rfl

@[simp] theorem holders_l2Room (line : Nat) (s : State) : (l2Room line s).holders = s.holders := by
  unfold l2Room
  split
  · rfl
  · dsimp only; split
    · rfl
    · split
      · exact holders_l2Evict _ _
      · rfl

@[simp] theorem holders_l2Fill (line : Nat) (l : L2Line) (s : State) : (l2Fill line l s).holders = s.holders :=
  holders_l2Room line s

/-! ## Reads -/

/-- A home's copy of a line given up where it is stale. -/
def l2Renew (stale : L2Line → Bool) (line : Nat) (s : State) : State :=
  match Map.find line s.l2 with
  | some l => if stale l then l2Evict line s else s
  | none => s

@[simp] theorem holders_l2Renew (stale : L2Line → Bool) (line : Nat) (s : State) :
    (l2Renew stale line s).holders = s.holders := by
  unfold l2Renew
  split
  · split
    · exact holders_l2Evict _ _
    · rfl
  · rfl

/-- A line as its home serves it, once a stale copy is given up. -/
def homeServe (r : HomeReq) (line : Nat) (s : State) : State × LineView :=
  match Map.find line s.l2 with
  | some l => (s, ⟨poisonSectors l.data l.bad, l.bad, false⟩)
  | none =>
    if inHost (256 * line) then
      (if r.alloc then l2Fill line ⟨0, hostLine s line, 0, 0, s.tick⟩ s else s, ⟨hostLine s line, 0, false⟩)
    else
      let g := granuleRead (if r.counted then countAccess r.src r.key (256 * line) s.mem else s.mem) r.key line
      let bad := badOf g.1 line
      let s := { s with mem := g.1 }
      (if r.alloc then l2Fill line ⟨r.key, g.2, 0, bad, s.tick⟩ s else s, ⟨poisonSectors g.2 bad, bad, false⟩)

theorem homeRead_eq (r : HomeReq) (line : Nat) (s : State) : homeRead r line s =
    if inHost (256 * line) && hostGone s then (s, ⟨256 ^ 256 - 1, 0, true⟩)
    else homeServe r line
      (l2Renew (fun l => if inHost (256 * line) then l.filled < r.fresh else l.key != r.key) line s) := rfl

@[simp] theorem holders_homeServe (r : HomeReq) (line : Nat) (s : State) : (homeServe r line s).1.holders = s.holders := by
  unfold homeServe
  split
  · rfl
  · dsimp only
    split <;> dsimp only <;> split
    · exact holders_l2Fill _ _ _
    · rfl
    · exact holders_l2Fill _ _ _
    · rfl

@[simp] theorem holders_homeRead (r : HomeReq) (line : Nat) (s : State) : (homeRead r line s).1.holders = s.holders := by
  rw [homeRead_eq]
  split
  · rfl
  · simp

/-! ## Writes -/

/-- Bytes merged into the copy of a line that its home holds, or else into main memory. -/
def homeMerge (r : HomeReq) (line data mask : Nat) (s : State) : State :=
  match Map.find line s.l2 with
  | some l =>
    { s with
      l2 := Map.insert line
        { l with data := blend l.data data mask, dirty := l.dirty ||| mask, bad := clearSectors l.bad mask } s.l2 }
  | none =>
    { s with mem := granuleWrite (if r.counted then countAccess r.src r.key (256 * line) s.mem else s.mem) r.key line data mask }

@[simp] theorem holders_homeMerge (r : HomeReq) (line data mask : Nat) (s : State) :
    (homeMerge r line data mask s).holders = s.holders := by
  unfold homeMerge
  split <;> rfl

/-- Bytes of the host range merged into the copy of their line that the home holds. -/
def hostMerge (line data mask : Nat) (s : State) : State :=
  match Map.find line s.l2 with
  | some l => { s with l2 := Map.insert line { l with data := blend l.data data mask } s.l2 }
  | none => s

@[simp] theorem holders_hostMerge (line data mask : Nat) (s : State) :
    (hostMerge line data mask s).holders = s.holders := by
  unfold hostMerge
  split <;> rfl

theorem homeWrite_eq (r : HomeReq) (line data mask : Nat) (s : State) : homeWrite r line data mask s =
    if inHost (256 * line) then hostWriteLine (hostMerge line data mask s) line data mask
    else
      let s := l2Renew (fun l => l.key != r.key) line s
      homeMerge r line data mask (if r.alloc then (homeRead r line s).1 else s) := rfl

@[simp] theorem holders_homeWrite (r : HomeReq) (line data mask : Nat) (s : State) :
    (homeWrite r line data mask s).holders = s.holders := by
  rw [homeWrite_eq]
  split
  · simp
  · dsimp only
    split <;> simp

@[simp] theorem holders_writeBack (tile : Nat) (l : L1Line) (s : State) : (writeBack tile l s).holders = s.holders := by
  unfold writeBack
  split
  · rfl
  · exact holders_homeWrite _ _ _ _ _

@[simp] theorem holders_wcWrite (e : WcEntry) (s : State) : (wcWrite e s).holders = s.holders := holders_homeWrite _ _ _ _ _

theorem holders_foldl {α : Type} {f : State → α → State} (h : ∀ s x, (f s x).holders = s.holders) (l : List α) (s : State) :
    (l.foldl f s).holders = s.holders := by
  induction l generalizing s with
  | nil => rfl
  | cons x l ih => exact (ih (f s x)).trans (h s x)

end Sys2Proof.Machine
end

section
/-! The sweep of an invalidation (R83): what it removes at the clusters and tiles, and what it leaves. -/

namespace Sys2Proof.Machine

theorem Map.find_map {α β : Type} (f : α → β) (m : Map α) (k : Nat) :
    Map.find k (m.map fun x => (x.1, f x.2)) = (Map.find k m).map f := by
  induction m with
  | nil => rfl
  | cons x m ih =>
    by_cases h : x.1 = k
    · simp [Map.find, h]
    · simpa [Map.find, h] using ih

theorem Map.find_eq_none {α : Type} {m : Map α} {k : Nat} (h : k ∉ m.map (·.1)) : Map.find k m = none := by
  induction m with
  | nil => rfl
  | cons x m ih =>
    rw [List.map_cons, List.mem_cons, not_or] at h
    obtain ⟨hx, hm⟩ := h
    simpa [Map.find, Ne.symm hx] using ih hm

/-- A cluster without what an invalidation names. -/
def Shoot.sweptCluster (x : Shoot) (k : Cluster) : Cluster :=
  ⟨k.tlb.filter fun e => !x.hitsTlb e, k.walk.filter fun e => !x.hitsWalk e⟩

/-- A tile without what an invalidation names. -/
def Shoot.sweptTile (x : Shoot) (y : Tile) : Tile :=
  { y with l1 := y.l1.filter fun l => !x.hitsLine l, wc := y.wc.filter fun e => !x.hitsStores e }

theorem Shoot.sweptTile_sweptTile (x : Shoot) (y : Tile) : x.sweptTile (x.sweptTile y) = x.sweptTile y := by
  simp [Shoot.sweptTile]

theorem Shoot.sweptTile_empty (x : Shoot) : x.sweptTile Tile.empty = Tile.empty := rfl

/-- A tile's named lines and stores written to their homes. -/
def Shoot.writeOut (x : Shoot) (s : State) (t : Nat × Tile) : State :=
  (t.2.wc.filter x.hitsStores).foldl (fun s e => wcWrite e s)
    ((t.2.l1.filter x.hitsLine).foldl (fun s l => writeBack t.1 l s) s)

/-- The sweep of one tile: what it names is written out and removed. -/
def Shoot.sweepTile (x : Shoot) (s : State) (t : Nat × Tile) : State :=
  (x.writeOut s t).setTile t.1 (x.sweptTile ((x.writeOut s t).tile t.1))

theorem Shoot.sweep_eq (x : Shoot) (s : State) : x.sweep s =
    s.tiles.foldl x.sweepTile { s with clusters := s.clusters.map fun c => (c.1, x.sweptCluster c.2) } := rfl

/-! ## Tiles -/

theorem Shoot.holders_writeOut (x : Shoot) (s : State) (t : Nat × Tile) : (x.writeOut s t).holders = s.holders :=
  (holders_foldl (fun s e => holders_wcWrite e s) _ _).trans (holders_foldl (fun s l => holders_writeBack _ l s) _ _)

theorem tile_eq_of_holders {s t : State} (h : t.holders = s.holders) (n : Nat) : t.tile n = s.tile n := by
  unfold State.tile
  rw [show t.tiles = s.tiles from congrArg Prod.fst h]

theorem Shoot.tile_sweepTile (x : Shoot) (s : State) (t : Nat × Tile) (n : Nat) :
    (x.sweepTile s t).tile n = if n = t.1 then x.sweptTile (s.tile n) else s.tile n := by
  rw [Shoot.sweepTile, tile_setTile]
  split
  next h => rw [h, tile_eq_of_holders (x.holders_writeOut s t)]
  next => rw [tile_eq_of_holders (x.holders_writeOut s t)]

theorem Shoot.tile_foldl_sweepTile (x : Shoot) (ts : List (Nat × Tile)) (s : State) (n : Nat) :
    (ts.foldl x.sweepTile s).tile n = if n ∈ ts.map (·.1) then x.sweptTile (s.tile n) else s.tile n := by
  induction ts generalizing s with
  | nil => rfl
  | cons t ts ih =>
    rw [List.foldl_cons, ih, Shoot.tile_sweepTile, List.map_cons]
    by_cases h : n = t.1
    · rw [if_pos h, if_pos (show n ∈ t.1 :: ts.map (·.1) from List.mem_cons.2 (.inl h)), Shoot.sweptTile_sweptTile, ite_self]
    · rw [if_neg h]
      exact if_congr (List.mem_cons.trans (or_iff_right h)).symm rfl rfl

/-- A tile that the state does not list is empty, and stays so. -/
theorem Shoot.tile_sweep (x : Shoot) (s : State) (n : Nat) : (x.sweep s).tile n = x.sweptTile (s.tile n) := by
  rw [Shoot.sweep_eq, Shoot.tile_foldl_sweepTile]
  change (if _ then x.sweptTile (s.tile n) else s.tile n) = _
  split
  next => rfl
  next h => rw [State.tile, Map.find_eq_none h]; exact x.sweptTile_empty.symm

/-! ## Clusters and the rest -/

theorem Shoot.clusters_sweepTile (x : Shoot) (s : State) (t : Nat × Tile) : (x.sweepTile s t).clusters = s.clusters :=
  congrArg Prod.snd (x.holders_writeOut s t)

theorem Shoot.clusters_foldl_sweepTile (x : Shoot) (ts : List (Nat × Tile)) (s : State) :
    (ts.foldl x.sweepTile s).clusters = s.clusters := by
  induction ts generalizing s with
  | nil => rfl
  | cons t ts ih => exact (ih (x.sweepTile s t)).trans (x.clusters_sweepTile s t)

theorem Shoot.find_clusters_sweep (x : Shoot) (s : State) (c : Nat) :
    Map.find c (x.sweep s).clusters = (Map.find c s.clusters).map x.sweptCluster := by
  rw [Shoot.sweep_eq, Shoot.clusters_foldl_sweepTile]
  exact Map.find_map x.sweptCluster s.clusters c

theorem Shoot.writeOut_alone (x : Shoot) (s : State) (t : Nat × Tile) : MemoryAlone s (x.writeOut s t) :=
  (MemoryAlone.foldl _ (fun s l => writeBack_alone _ l s) _ _).trans (MemoryAlone.foldl _ (fun s e => wcWrite_alone e s) _ _)

theorem Shoot.sweep_alone (x : Shoot) (s : State) : MemoryAlone s (x.sweep s) :=
  have clusters : MemoryAlone s { s with clusters := s.clusters.map fun c => (c.1, x.sweptCluster c.2) } :=
    ⟨⟨rfl, fun _ => rfl⟩, rfl, fun _ => ⟨rfl, rfl⟩⟩
  clusters.trans (MemoryAlone.foldl _ (fun s t => (x.writeOut_alone s t).trans (.setTile _ _ _ rfl)) _ _)

/-! ## The messages to other packages (R354) -/

/-- A message to another package touches the fabric's queues and the numbers that it draws. -/
structure Posted (s t : State) : Prop where
  rest : t = { s with fabric := t.fabric, nextId := t.nextId, fresh := t.fresh }

theorem Posted.refl (s : State) : Posted s s := ⟨rfl⟩

theorem Posted.trans {s t u : State} (h : Posted s t) (k : Posted t u) : Posted s u :=
  ⟨k.rest.trans (by rw [h.rest])⟩

theorem ferryVia_posted (s : State) (q : Nat) : Posted s (ferryVia s q).2 := by
  unfold ferryVia
  dsimp only
  split
  · exact .refl s
  · exact ⟨rfl⟩

theorem sendBrief_posted (q : Nat) (small : Bool) (f : Flit) (s : State) : Posted s (sendBrief q small f s) := by
  have hid : Posted s s.newId.2 := ⟨rfl⟩
  unfold sendBrief
  dsimp only
  have hvia : Posted s (if pairDown s.newId.2 q then ferryVia s.newId.2 q else (none, s.newId.2)).2 := by
    split
    · exact hid.trans (ferryVia_posted _ _)
    · exact hid
  split
  · exact hvia.trans ⟨rfl⟩
  · exact hvia.trans ⟨rfl⟩

theorem foldl_posted {α : Type} {f : State → α → State} (h : ∀ s x, Posted s (f s x)) (l : List α) (s : State) :
    Posted s (l.foldl f s) := by
  induction l generalizing s with
  | nil => exact .refl s
  | cons x l ih => exact (h s x).trans (ih _)

/-! ## The invalidation -/

theorem Shoot.sentTo_sweep (x : Shoot) (s : State) : x.sentTo (x.sweep s) = x.sentTo s := by
  have h : (x.sweep s).fabric = s.fabric := by rw [(x.sweep_alone s).touched.rest]
  unfold Shoot.sentTo State.self isMember State.peer podSize State.self
  simp only [h]

/-- The message of an invalidation to a package that may hold translations of an ASID. -/
def Shoot.send (x : Shoot) (s : State) (t : Nat × Nat) : State :=
  sendControl t.2 ctlInval
    (match x.va with
      | some r => { asid := t.1, addr := r.1 / 2 ^ r.2 * 2 ^ r.2, len := r.2 }
      | none => { asid := t.1, addr := 0, len := 64 }) s

/-- The sweep and the messages of an invalidation. -/
def Shoot.sent (x : Shoot) (s : State) : State := (x.sentTo (x.sweep s)).foldl x.send (x.sweep s)

theorem Shoot.run_eq_sent (x : Shoot) (s : State) : x.run s =
    let others := x.sentTo (x.sweep s)
    let t := { x.sent s with tlbi := { (x.sent s).tlbi with waiting := others.map (·.2) } }
    if others == [] then t.later .tlbiDone else t := rfl

theorem Shoot.sent_posted (x : Shoot) (s : State) : Posted (x.sweep s) (x.sent s) :=
  foldl_posted (fun s _ => sendBrief_posted _ _ _ s) _ _

/-- An invalidation in progress, the fabric's queues apart. -/
theorem Shoot.run_eq (x : Shoot) (s : State) : x.run s =
    { x.sweep s with
      fabric := (x.run s).fabric, nextId := (x.run s).nextId, fresh := (x.run s).fresh
      tlbi := { s.tlbi with waiting := (x.sentTo s).map (·.2) }
      plan := if x.sentTo s = [] then s.plan ++ [.event .tlbiDone] else s.plan } := by
  have htlbi : (x.sweep s).tlbi = s.tlbi := by rw [(x.sweep_alone s).touched.rest]
  have hplan : (x.sweep s).plan = s.plan := by rw [(x.sweep_alone s).touched.rest]
  rw [Shoot.run_eq_sent, Shoot.sentTo_sweep, ← htlbi, ← hplan]
  generalize x.sentTo s = others
  rw [(x.sent_posted s).rest]
  cases others <;> rfl

theorem bitOf_toNat {w : Nat} (v : BitVec w) (i : Nat) : bitOf v.toNat i = v.getLsbD i := by
  rw [bitOf, BitVec.getLsbD, Nat.testBit_eq_decide_div_mod_eq, beq_eq_decide]

theorem exec_of_shootOf {i : Instr} {x : Shoot} (h : shootOf i = some x) (s : State) :
    exec i s = .next (if s.tlbi.stat.getLsbD 63 then x.run s else s) := by
  rw [← bitOf_toNat]
  unfold shootOf at h
  split at h <;> cases h <;> rfl

/-- What an invalidation in progress does, the fabric's queues apart. -/
theorem Shoot.run_invalidates (x : Shoot) (s : State) :
    (∀ c, Map.find c (x.run s).clusters = (Map.find c s.clusters).map x.sweptCluster)
    ∧ (∀ n, (x.run s).tile n = x.sweptTile (s.tile n))
    ∧ (x.run s).strands = s.strands ∧ (x.run s).held = s.held ∧ (x.run s).launches = s.launches
    ∧ (x.run s).items = s.items := by
  have hrest := (x.sweep_alone s).touched.rest
  have htiles : (x.run s).tiles = (x.sweep s).tiles := by rw [Shoot.run_eq]
  refine ⟨fun c => ?_, fun n => ?_, ?_, ?_, ?_, ?_⟩
  · rw [Shoot.run_eq]; exact x.find_clusters_sweep s c
  · rw [← Shoot.tile_sweep, State.tile, htiles]; rfl
  all_goals rw [Shoot.run_eq, hrest]

end Sys2Proof.Machine
end

section
/-! The registers of invalidations (R82, R83): TLBI_DONE, and what a write of TLBICMD starts. -/

namespace Sys2Proof.Machine

/-- TLBISTAT once an invalidation is done. -/
def doneStat (v : BitVec 64) : BitVec 64 :=
  BitVec.ofNat 64 (putBits (putBits v.toNat 63 63 0) 31 0 ((bitsOf v.toNat 31 0 + 1) % 2 ^ 32))

theorem toNat_doneStat (v : BitVec 64) :
    (doneStat v).toNat = 2 ^ 32 * (v.toNat % 2 ^ 63 / 2 ^ 32) + (v.toNat + 1) % 2 ^ 32 := by
  have := v.isLt
  simp only [doneStat, BitVec.toNat_ofNat, putBits, bitsOf]
  omega

theorem getLsbD_doneStat_busy (v : BitVec 64) : (doneStat v).getLsbD 63 = false := by
  have h : (doneStat v).toNat < 2 ^ 63 := by rw [toNat_doneStat]; omega
  exact Nat.testBit_eq_false_of_lt h

theorem toNat_doneStat_count (v : BitVec 64) : (doneStat v).toNat % 2 ^ 32 = (v.toNat + 1) % 2 ^ 32 := by
  rw [toNat_doneStat]
  omega

theorem getLsbD_doneStat {v : BitVec 64} {k : Nat} (hlo : 32 ≤ k) (hhi : k < 63) :
    (doneStat v).getLsbD k = v.getLsbD k := by
  have hcount : (v.toNat + 1) % 2 ^ 32 < 2 ^ 32 := Nat.mod_lt _ (by decide)
  rw [BitVec.getLsbD, toNat_doneStat, Nat.testBit_two_pow_mul_add _ hcount, if_neg (not_lt.2 hlo),
    Nat.testBit_div_two_pow, Nat.testBit_mod_two_pow, Nat.sub_add_cancel hlo, decide_eq_true hhi, Bool.true_and]
  rfl

theorem exec_tlbiDone (s : State) : exec .tlbiDone s =
    .next (if !s.tlbi.stat.getLsbD 63 || s.tlbi.waiting != [] then s
      else { s with tlbi := { s.tlbi with stat := doneStat s.tlbi.stat } }) := by
  rw [← bitOf_toNat]
  change execTlbiDone s = _
  rw [execTlbiDone]
  split <;> rfl

/-! ## TLBICMD -/

/-- The fields that TLBICMD keeps: LOG2SZ, ASID and TYPE. -/
theorem tlbicmd_kept (v : BitVec 64) :
    BitVec.ofNat 64 (bitsOf v.toNat 29 24 * 2 ^ 24 + bitsOf v.toNat 20 12 * 2 ^ 12 + bitsOf v.toNat 2 0)
      = v &&& 0x3F1FF007 := by
  have hlow : v.toNat % 2 ^ 3 < 2 ^ 12 := by omega
  have hmid : 2 ^ 12 * (v.toNat / 2 ^ 12 % 2 ^ 9) + v.toNat % 2 ^ 3 < 2 ^ 24 := by omega
  have hfields : bitsOf v.toNat 29 24 * 2 ^ 24 + bitsOf v.toNat 20 12 * 2 ^ 12 + bitsOf v.toNat 2 0
      = 2 ^ 24 * (v.toNat / 2 ^ 24 % 2 ^ 6) + (2 ^ 12 * (v.toNat / 2 ^ 12 % 2 ^ 9) + v.toNat % 2 ^ 3) := by
    simp only [bitsOf]; omega
  have hmask : (0x3F1FF007 : BitVec 64) = BitVec.ofNat 64 (2 ^ 24 * (2 ^ 6 - 1) + (2 ^ 12 * (2 ^ 9 - 1) + (2 ^ 3 - 1))) := rfl
  apply BitVec.eq_of_getLsbD_eq
  intro i hi
  rw [hfields, hmask, BitVec.getLsbD_and, BitVec.getLsbD_ofNat, BitVec.getLsbD_ofNat, Nat.testBit_two_pow_mul_add _ hmid,
    Nat.testBit_two_pow_mul_add _ hlow, Nat.testBit_two_pow_mul_add _ (show 2 ^ 12 * (2 ^ 9 - 1) + (2 ^ 3 - 1) < 2 ^ 24 by decide),
    Nat.testBit_two_pow_mul_add _ (show 2 ^ 3 - 1 < 2 ^ 12 by decide)]
  simp only [hi, decide_true, Bool.true_and, Nat.testBit_two_pow_sub_one, Nat.testBit_mod_two_pow,
    Nat.testBit_div_two_pow]
  split
  · split
    · rw [Bool.and_comm]; rfl
    · next h => rw [Nat.sub_add_cancel (not_lt.1 h), Bool.and_comm]; rfl
  · next h => rw [Nat.sub_add_cancel (not_lt.1 h), Bool.and_comm]; rfl

/-- The event that starts an invalidation. -/
def tlbiEvent (x va : Nat) : Instr :=
  if x % 8 = 0 then .tlbiAll else if x % 8 = 1 then .tlbiAsid (x / 2 ^ 12 % 2 ^ 9)
  else if x % 8 = 2 then .tlbiVa (x / 2 ^ 12 % 2 ^ 9) va (x / 2 ^ 24 % 2 ^ 6)
  else .tlbiPa (va / 2 ^ 12 % 2 ^ 40 * 2 ^ 12) (x / 2 ^ 24 % 2 ^ 6)

/-- A write of TLBICMD with GO: discarded while an invalidation is in progress or with a reserved TYPE, else it starts one. -/
theorem writeTlbicmd_go {v : BitVec 64} (s : State) (hgo : v.getLsbD 63 = true) : writeTlbicmd v s =
    if s.tlbi.stat.getLsbD 63 then { s with tlbi := { s.tlbi with stat := s.tlbi.stat ||| 0x4000000000000000 } }
    else if 4 ≤ v.toNat % 8 then
      { s with tlbi := { s.tlbi with cmd := v &&& 0x3F1FF007, stat := s.tlbi.stat ||| 0x4000000000000000 } }
    else
      { s with
        tlbi := { s.tlbi with cmd := v &&& 0x3F1FF007, stat := s.tlbi.stat ||| 0x8000000000000000 }
        plan := s.plan ++ [.event (tlbiEvent v.toNat s.tlbi.va.toNat)] } := by
  have hbit : bitOf v.toNat 63 = true := (bitOf_toNat v 63).trans hgo
  have htype : bitsOf v.toNat 2 0 = v.toNat % 8 := by simp [bitsOf]
  rw [writeTlbicmd, tlbicmd_kept, hbit, bitOf_toNat, htype]
  generalize v &&& 0x3F1FF007 = kept
  split
  next h => cases h
  split
  · rfl
  split
  · rfl
  next h =>
    rw [tlbiEvent]
    generalize v.toNat % 8 = type at h
    match type, h with
    | 0, _ | 1, _ | 2, _ | 3, _ => rfl
    | n + 4, h => omega

/-! ## SYSW to TLBICMD -/

/-- An instruction that leaves its strand to go on and changes other state, as `u` has it. -/
theorem retired_done {i : Instr} {s u : State} {c : Issue} (h : clear i s = some c) (hu : u.strands = s.strands) :
    Retired c {} u (c.finish (.done u)) := by
  have hstrand : u.strand c.key = some c.st := by
    rw [State.strand, hu]
    exact clear_strand h
  have hadj : u.adjStrand c.key (fun st => c.count (c.advance st)) = u.setStrand c.key (c.count (c.advance c.st)) := by
    simp only [State.adjStrand, State.setStrand, Map.adjust, show Map.find c.key u.strands = some c.st from hstrand]
  have hready : (c.count (c.advance c.st)).pend.any (·.ready) = false := by
    rw [count_pend]
    exact countWindow_ready _ _ (clear_answers h)
  rw [Issue.finish, hadj, afterwards_none (strand_setStrand _ _ _) hready (clear_step h)]
  exact retired_of (moved_strand rfl (fun _ _ => rfl) (fun _ _ => rfl) (fun _ => rfl) (fun _ => by simp)
    (by simp) (fun _ _ => by simp))

theorem sysw_tlbicmd {g : Guard} {a : Opnd} {s : State} {c : Issue} {l : Nat} (h : clear (.sysw g a 0x1201) s = some c)
    (hl : c.first = some l) {u : State} (hu : writeTlbicmd (c.pair l a) s = u) (hstrands : u.strands = s.strands) :
    Does (.sysw g a 0x1201) c {} s u := by
  refine ⟨c.finish (.done u), ?_, retired_done h hstrands⟩
  change execSysw g a 0x1201 s = _
  rw [execSysw, issue_clear h]
  have hframe : (if c.crew.isSome then frameReg (BitVec.toNat (0x1201 : BitVec 16)) else none) = none := by
    split <;> rfl
  have hassigned : c.sysFails (BitVec.toNat (0x1201 : BitVec 16)) = none := rfl
  simp only [hl, hframe, hassigned]
  rw [← hu]
  rfl

end Sys2Proof.Machine
end

section
/-! Page walks as steps of their own (R75, R79): a walk that finds a leaf fills its cluster's TLB with it, one that
faults changes nothing, and the space matters to the checks alone. -/

namespace Sys2Proof.Machine

/-- The table entries that a walk reads, and where they lead: from the lowest level that the walk cache knows. -/
def walkReads (cl asid va : Nat) (s : State) : List (Nat × Nat) × Except PageFault (Nat × Nat × Nat) :=
  let start := walkStart (s.cluster cl).walk asid va (bitsOf (Table.get 0 asid s.asidctx).toNat 51 12 * 4096)
  walkFrom s va start.1 start.2 []

/-- The bits that an access sets in the leaf it uses: A, and D where it writes (R75). -/
def usedBits (k : AccKind) : Nat := 0x20 + (if k.writes then 0x40 else 0)

/-- The TLB entry of a leaf for an address. -/
def leafEntry (asid va leaf : Nat) : TlbEntry :=
  ⟨asid, va / 2 ^ szLog (leafSZ leaf) * 2 ^ szLog (leafSZ leaf), leafSZ leaf, leaf⟩

/-- What a walk installs that has read the entries `seen` and found a leaf at an address. -/
def walkInstall (cl asid : Nat) (k : AccKind) (va : Nat) (seen : List (Nat × Nat)) (leaf a : Nat) (s : State) : State :=
  let fresh : List WalkEntry := seen.map fun x => ⟨asid, x.1, va / 2 ^ (12 + 9 * x.1), x.2⟩
  let keep := (s.cluster cl).walk.filter fun e => !fresh.contains e
  let u := if leaf &&& usedBits k == usedBits k then s else tableOr s a (usedBits k)
  u.setCluster cl
    { tlb := tlbTouch (s.cluster cl).tlb (leafEntry asid va (leaf ||| usedBits k)), walk := (fresh.reverse ++ keep).take 64 }

section Walk

variable {cl asid : Nat} {priv : Bool} {k : AccKind} {sp : Space} {va : Nat} {s t : State}

/-- What a walk can do: fault with no effect, or find a leaf and install it, whatever the space. -/
theorem walk_cases (cl asid : Nat) (priv : Bool) (k : AccKind) (sp : Space) (va : Nat) (s : State) :
    (∃ f, walk cl asid priv k sp va s = (s, .error f))
    ∨ ∃ leaf a level y, (walkReads cl asid va s).2 = .ok (leaf, a, level)
      ∧ walk cl asid priv k sp va s = (walkInstall cl asid k va (walkReads cl asid va s).1 leaf a s, .ok y) := by
  rw [walk]
  dsimp only
  split
  · exact .inl ⟨_, rfl⟩
  · split
    next f _ => exact .inl ⟨f, rfl⟩
    next leaf a level hleaf =>
      split
      next cause _ => exact .inl ⟨⟨cause, level⟩, rfl⟩
      next => exact .inr ⟨leaf, a, level, _, hleaf, rfl⟩

theorem walk_of_error {f : PageFault} (h : (walk cl asid priv k sp va s).2 = .error f) :
    (walk cl asid priv k sp va s).1 = s := by
  rcases walk_cases cl asid priv k sp va s with ⟨f', hwalk⟩ | ⟨_, _, _, _, _, hwalk⟩
  · rw [hwalk]
  · rw [hwalk] at h
    cases h

theorem walk_of_ok {y : Xlat} (h : walk cl asid priv k sp va s = (t, .ok y)) :
    ∃ leaf a level, (walkReads cl asid va s).2 = .ok (leaf, a, level)
      ∧ t = walkInstall cl asid k va (walkReads cl asid va s).1 leaf a s := by
  rcases walk_cases cl asid priv k sp va s with ⟨f, hwalk⟩ | ⟨leaf, a, level, _, hleaf, hwalk⟩
  · rw [hwalk] at h
    cases h
  · rw [hwalk] at h
    exact ⟨leaf, a, level, hleaf, (congrArg Prod.fst h).symm⟩

/-- Walks of one address that find its leaf leave one state, whatever their spaces. -/
theorem walk_ok_unique {sp' : Space} {t' : State} {y y' : Xlat} (h : walk cl asid priv k sp va s = (t, .ok y))
    (h' : walk cl asid priv k sp' va s = (t', .ok y')) : t' = t := by
  obtain ⟨leaf, a, level, hleaf, rfl⟩ := walk_of_ok h
  obtain ⟨leaf', a', level', hleaf', rfl⟩ := walk_of_ok h'
  cases hleaf.symm.trans hleaf'
  rfl

theorem walk_frame {r : Except PageFault Xlat} (h : walk cl asid priv k sp va s = (t, r)) :
    t.strands = s.strands ∧ t.plan = s.plan ∧ t.held = s.held := by
  have hrest := (walk_alone cl asid priv k sp va s).touched.rest
  rw [h] at hrest
  dsimp only at hrest
  refine ⟨?_, ?_, ?_⟩ <;> rw [hrest]

end Walk

/-! ## The entry installed -/

theorem szAllowed_le {level sz : Nat} (h : szAllowed level sz = true) : sz ≤ 6 := by
  unfold szAllowed at h
  split at h
  · exact (of_decide_eq_true h).trans (by decide)
  · have : sz = 3 ∨ sz = 4 := by simpa using h
    omega
  · have : sz = 5 ∨ sz = 6 := by simpa using h
    omega
  · cases h

/-- The leaf that a walk finds is of a size that its level allows (R74). -/
theorem leafSZ_of_walkFrom {s : State} {va level t : Nat} {seen : List (Nat × Nat)} {leaf a l : Nat}
    (h : (walkFrom s va level t seen).2 = .ok (leaf, a, l)) : leafSZ leaf ≤ 6 := by
  fun_induction walkFrom s va level t seen
  case case5 ih => exact ih h
  case case10 level _ _ _ e _ _ _ hlevel _ _ head _ hhead _ =>
    have hleaf : head = leaf := congrArg Prod.fst (Except.ok.inj h)
    simp only [Bool.or_eq_true, not_or, Bool.not_eq_true', bne_iff_ne, ne_eq, not_not] at hlevel hhead
    obtain ⟨⟨⟨-, hallowed⟩, -⟩, -⟩ := hlevel
    obtain ⟨-, hsize⟩ := hhead
    rw [← hleaf, hsize]
    exact szAllowed_le (eq_true_of_ne_false hallowed)
  all_goals cases h

theorem leafSZ_or_usedBits (leaf : Nat) (k : AccKind) : leafSZ (leaf ||| usedBits k) = leafSZ leaf := by
  have hbits : usedBits k >>> 52 = 0 := by unfold usedBits; split <;> rfl
  simp only [leafSZ, bitsOf, ← Nat.shiftRight_eq_div_pow, Nat.shiftRight_or_distrib, hbits, Nat.or_zero]

theorem exists_tlbTouch_eq_cons (tlb : List TlbEntry) (e : TlbEntry) : ∃ rest, tlbTouch tlb e = e :: rest := by
  unfold tlbTouch
  dsimp only
  split
  · exact ⟨_, rfl⟩
  · exact ⟨_, rfl⟩

theorem leafEntry_hits (asid va leaf : Nat) : (leafEntry asid va leaf).hits asid va = true := by
  simp [TlbEntry.hits, leafEntry]

theorem tlbLookup_tlbTouch (tlb : List TlbEntry) {e : TlbEntry} {asid va : Nat} (hsz : e.sz ≤ 6) (hhits : e.hits asid va = true) :
    (tlbLookup (tlbTouch tlb e) asid va).isSome = true := by
  obtain ⟨rest, hrest⟩ := exists_tlbTouch_eq_cons tlb e
  rw [tlbLookup, List.findSome?_isSome_iff]
  refine ⟨e.sz, List.mem_range.2 (by omega), ?_⟩
  simp [hrest, hhits]

theorem cluster_setCluster (cl : Nat) (x : Cluster) (s : State) : (s.setCluster cl x).cluster cl = x := by
  rw [State.cluster, State.setCluster_clusters, Map.find_insert_self, Option.getD_some]

theorem tlbLookup_of_walk {cl asid : Nat} {priv : Bool} {k : AccKind} {sp : Space} {va : Nat} {s t : State} {y : Xlat}
    (h : walk cl asid priv k sp va s = (t, .ok y)) : (tlbLookup (t.cluster cl).tlb asid va).isSome = true := by
  obtain ⟨leaf, a, level, hleaf, rfl⟩ := walk_of_ok h
  rw [walkInstall, cluster_setCluster]
  refine tlbLookup_tlbTouch _ ?_ (leafEntry_hits _ _ _)
  exact (leafSZ_or_usedBits leaf k).trans_le (leafSZ_of_walkFrom hleaf)

/-! ## PAGE_WALK -/

section PageWalk

variable {cluster asid va : Nat} {store : Bool} {s : State}

/-- The space of a page is one of these. -/
def walkedSpace (sp : Space) : Prop := sp = .global ∨ sp = .host ∨ sp = .dieScratch

/-- A walk by a cluster's walker for an access of a space. -/
def walkerGo (cluster asid va : Nat) (store : Bool) (s : State) (sp : Space) : State × Except PageFault Xlat :=
  walk cluster asid true (if store then .store else .load) sp (va % 2 ^ 57) s

theorem pageWalk_noncanonical (h : canonical va = false) : exec (.pageWalk cluster asid va store) s = .next s := by
  change execPageWalk cluster asid va store s = _
  rw [execPageWalk, h]
  rfl

theorem exec_pageWalk (h : canonical va = true) : exec (.pageWalk cluster asid va store) s =
    .next (match (walkerGo cluster asid va store s .global).2, (walkerGo cluster asid va store s .host).2 with
      | .ok _, _ => (walkerGo cluster asid va store s .global).1
      | .error _, .ok _ => (walkerGo cluster asid va store s .host).1
      | .error _, .error _ => (walkerGo cluster asid va store s .dieScratch).1) := by
  change execPageWalk cluster asid va store s = _
  rw [execPageWalk, h]
  rfl

/-- A page walk stands as the walk of one of the spaces, of one that finds a leaf where there is one. -/
theorem pageWalk_eq (h : canonical va = true) : ∃ sp, walkedSpace sp
    ∧ exec (.pageWalk cluster asid va store) s = .next (walkerGo cluster asid va store s sp).1
    ∧ ∀ f, (walkerGo cluster asid va store s sp).2 = .error f →
      ∀ sp', walkedSpace sp' → ∃ f', (walkerGo cluster asid va store s sp').2 = .error f' := by
  rw [exec_pageWalk h]
  cases hglobal : (walkerGo cluster asid va store s .global).2 with
  | ok y => exact ⟨.global, .inl rfl, rfl, fun f hf => by cases hglobal.symm.trans hf⟩
  | error f₀ =>
    cases hhost : (walkerGo cluster asid va store s .host).2 with
    | ok y => exact ⟨.host, .inr (.inl rfl), rfl, fun f hf => by cases hhost.symm.trans hf⟩
    | error f₁ =>
      refine ⟨.dieScratch, .inr (.inr rfl), rfl, fun f hf sp' hsp => ?_⟩
      rcases hsp with rfl | rfl | rfl
      · exact ⟨f₀, hglobal⟩
      · exact ⟨f₁, hhost⟩
      · exact ⟨f, hf⟩

theorem pageWalk_fills (h : canonical va = true) {sp : Space} {t : State} {y : Xlat} (hsp : walkedSpace sp)
    (hgo : walkerGo cluster asid va store s sp = (t, .ok y)) : exec (.pageWalk cluster asid va store) s = .next t := by
  obtain ⟨sp', -, hexec, hfault⟩ := pageWalk_eq (cluster := cluster) (asid := asid) (store := store) (s := s) h
  rw [hexec]
  cases hres : (walkerGo cluster asid va store s sp').2 with
  | error f =>
    obtain ⟨f', hf'⟩ := hfault f hres sp hsp
    rw [hgo] at hf'
    cases hf'
  | ok y' => exact congrArg Host.Outcome.next (walk_ok_unique hgo (Prod.ext rfl hres))

theorem pageWalk_faults (h : canonical va = true)
    (hgo : ∀ sp t y, walkedSpace sp → walkerGo cluster asid va store s sp ≠ (t, .ok y)) :
    exec (.pageWalk cluster asid va store) s = .next s := by
  obtain ⟨sp, hsp, hexec, -⟩ := pageWalk_eq (cluster := cluster) (asid := asid) (store := store) (s := s) h
  rw [hexec]
  cases hres : (walkerGo cluster asid va store s sp).2 with
  | error f => rw [walkerGo, walk_of_error hres]
  | ok y => exact (hgo sp _ y hsp (Prod.ext rfl hres)).elim

end PageWalk

/-! ## The statement -/

theorem exec_tlbi {i : Instr} {x : Shoot} (h : shootOf i = some x) {s : State} (hbusy : s.tlbi.stat.getLsbD 63 = true) :
    ∃ t : State, exec i s = .next t
      ∧ (∀ c, Map.find c t.clusters = (Map.find c s.clusters).map x.sweptCluster)
      ∧ (∀ n, (t.tile n).l1 = (x.sweptTile (s.tile n)).l1)
      ∧ (∀ n, (t.tile n).wc = (x.sweptTile (s.tile n)).wc)
      ∧ (∀ n, t.tile n = { s.tile n with l1 := (t.tile n).l1, wc := (t.tile n).wc })
      ∧ t.strands = s.strands ∧ t.held = s.held ∧ t.launches = s.launches ∧ t.items = s.items
      ∧ (x.sentTo s = [] → t.plan = s.plan ++ [.event .tlbiDone] ∧ t.tlbi = { s.tlbi with waiting := [] })
      ∧ (x.sentTo s ≠ [] → t.plan = s.plan ∧ t.tlbi = { s.tlbi with waiting := (x.sentTo s).map (·.2) }) := by
  obtain ⟨hclusters, htiles, hstrands, hheld, hlaunches, hitems⟩ := x.run_invalidates s
  refine ⟨x.run s, by rw [exec_of_shootOf h, hbusy, if_pos rfl], hclusters, fun n => by rw [htiles], fun n => by rw [htiles],
    fun n => by rw [htiles]; rfl, hstrands, hheld, hlaunches, hitems, fun hnone => ?_, fun hsome => ?_⟩
  · rw [Shoot.run_eq, hnone]
    exact ⟨rfl, rfl⟩
  · rw [Shoot.run_eq, if_neg hsome]
    exact ⟨rfl, rfl⟩

/-- Settles O48: the sweep filters every cluster and tile, its writes to the homes and its messages reach neither, and a page
walk stands as the walk of any space that finds the leaf. -/
theorem translationsAreInvalidated : Obligations.TranslationsAreInvalidated := by
  refine ⟨fun i s x hx => ⟨fun hidle => by rw [exec_of_shootOf hx, hidle]; rfl, exec_tlbi hx⟩, fun s => ⟨?_, ?_⟩,
    fun g a s c l hc hl => ?_, fun cluster asid va store s => ⟨pageWalk_noncanonical, fun hva => ⟨?_, pageWalk_faults hva⟩⟩⟩
  · intro hbusy hnone
    refine ⟨doneStat s.tlbi.stat, ?_, getLsbD_doneStat_busy _, toNat_doneStat_count _, fun k => getLsbD_doneStat⟩
    simp [exec_tlbiDone, hbusy, hnone]
  · intro h
    rw [exec_tlbiDone, if_pos]
    simpa using h
  · intro v kept type hgo
    refine ⟨fun hbusy => ?_, fun hidle htype => ?_, fun hidle htype => ?_⟩
    · exact sysw_tlbicmd hc hl (by rw [writeTlbicmd_go s hgo, if_pos hbusy]) rfl
    · refine sysw_tlbicmd hc hl ?_ rfl
      rw [writeTlbicmd_go s hgo, hidle, if_neg Bool.false_ne_true, if_pos htype]
    · refine sysw_tlbicmd hc hl ?_ rfl
      rw [writeTlbicmd_go s hgo, hidle, if_neg Bool.false_ne_true, if_neg (not_le.2 htype)]
      rfl
  · intro sp t y hsp hgo
    obtain ⟨hstrands, hplan, hheld⟩ := walk_frame hgo
    exact ⟨pageWalk_fills hva hsp hgo, hstrands, hplan, hheld, tlbLookup_of_walk hgo⟩

end Sys2Proof.Machine
end

section
/-! What the events of items and launches leave alone (R399 to R406): turns that are planned, accesses to memory and causes
that are raised change no launch, and most of them no item. -/

namespace Sys2Proof.Machine

/-! ## Three frames -/

/-- Turns have been planned, and nothing else has changed. -/
structure Plans (s t : State) : Prop where
  rest : t = { s with plan := t.plan }
  plan : s.plan ⊆ t.plan

/-- What the tiles hold has changed, and nothing else. -/
structure TilesOnly (s t : State) : Prop where
  rest : t = { s with tiles := t.tiles }

/-- The launches and the pre-emption registers are as they were, and every planned turn still stands. -/
structure LaunchesStand (s t : State) : Prop where
  launches : t.launches = s.launches
  pre : t.pre = s.pre
  plan : s.plan ⊆ t.plan

/-- The same of the items. -/
structure ItemsStand (s t : State) : Prop extends LaunchesStand s t where
  items : t.items = s.items

section Frames

variable {s t u : State}

theorem Plans.refl (s : State) : Plans s s := ⟨rfl, List.Subset.refl _⟩

theorem Plans.trans (h : Plans s t) (k : Plans t u) : Plans s u :=
  ⟨k.rest.trans (by rw [h.rest]), List.Subset.trans h.plan k.plan⟩

theorem Plans.itemsStand (h : Plans s t) : ItemsStand s t where
  launches := by rw [h.rest]
  pre := by rw [h.rest]
  plan := h.plan
  items := by rw [h.rest]

theorem Plans.strands (h : Plans s t) : t.strands = s.strands := by rw [h.rest]

theorem LaunchesStand.refl (s : State) : LaunchesStand s s := ⟨rfl, rfl, List.Subset.refl _⟩

theorem LaunchesStand.trans (h : LaunchesStand s t) (k : LaunchesStand t u) : LaunchesStand s u :=
  ⟨k.launches.trans h.launches, k.pre.trans h.pre, List.Subset.trans h.plan k.plan⟩

theorem ItemsStand.refl (s : State) : ItemsStand s s := ⟨.refl s, rfl⟩

theorem ItemsStand.trans (h : ItemsStand s t) (k : ItemsStand t u) : ItemsStand s u :=
  ⟨h.toLaunchesStand.trans k.toLaunchesStand, k.items.trans h.items⟩

theorem LaunchesStand.of_fields (hlaunches : t.launches = s.launches) (hpre : t.pre = s.pre) (hplan : t.plan = s.plan) :
    LaunchesStand s t := ⟨hlaunches, hpre, by rw [hplan]; exact List.Subset.refl _⟩

theorem ItemsStand.of_fields (hlaunches : t.launches = s.launches) (hpre : t.pre = s.pre) (hplan : t.plan = s.plan)
    (hitems : t.items = s.items) : ItemsStand s t := ⟨.of_fields hlaunches hpre hplan, hitems⟩

theorem ItemsStand.ite {p : Prop} [Decidable p] (h : ItemsStand s t) (k : ItemsStand s u) : ItemsStand s (if p then t else u) := by
  split <;> assumption

theorem TilesOnly.refl (s : State) : TilesOnly s s := ⟨rfl⟩

theorem TilesOnly.trans (h : TilesOnly s t) (k : TilesOnly t u) : TilesOnly s u := ⟨k.rest.trans (by rw [h.rest])⟩

theorem TilesOnly.itemsStand (h : TilesOnly s t) : ItemsStand s t :=
  .of_fields (by rw [h.rest]) (by rw [h.rest]) (by rw [h.rest]) (by rw [h.rest])

theorem TilesOnly.strands (h : TilesOnly s t) : t.strands = s.strands := by rw [h.rest]

/-- What memory accesses write is apart from launches, items and turns. -/
theorem MemoryAlone.itemsStand (h : MemoryAlone s t) : ItemsStand s t := by
  have hrest := h.touched.rest
  refine ⟨⟨?_, ?_, fun x hx => ?_⟩, ?_⟩ <;> rw [hrest]
  exact hx

end Frames

/-- A chain of steps stands in a frame that each of them stands in. -/
theorem Plans.foldl {α : Type} {f : State → α → State} (h : ∀ s x, Plans s (f s x)) (l : List α) (s : State) :
    Plans s (l.foldl f s) :=
  List.foldlRecOn l f (.refl s) fun t ht x _ => ht.trans (h t x)

theorem TilesOnly.foldl {α : Type} {f : State → α → State} (h : ∀ s x, TilesOnly s (f s x)) (l : List α) (s : State) :
    TilesOnly s (l.foldl f s) :=
  List.foldlRecOn l f (.refl s) fun t ht x _ => ht.trans (h t x)

theorem LaunchesStand.foldl {α : Type} {f : State → α → State} (h : ∀ s x, LaunchesStand s (f s x)) (l : List α) (s : State) :
    LaunchesStand s (l.foldl f s) :=
  List.foldlRecOn l f (.refl s) fun t ht x _ => ht.trans (h t x)

theorem ItemsStand.foldl {α : Type} {f : State → α → State} (h : ∀ s x, ItemsStand s (f s x)) (l : List α) (s : State) :
    ItemsStand s (l.foldl f s) :=
  List.foldlRecOn l f (.refl s) fun t ht x _ => ht.trans (h t x)

/-! ## Turns -/

theorem later_plans (i : Instr) (s : State) : Plans s (s.later i) := ⟨rfl, List.subset_append_left _ _⟩

theorem once_plans (i : Instr) (s : State) : Plans s (s.once i) := by
  unfold State.once
  split
  · exact .refl s
  · exact later_plans i s

theorem mem_once {x : Turn} {i : Instr} {s : State} : x ∈ (s.once i).plan ↔ x ∈ s.plan ∨ x = .event i := by
  unfold State.once
  split
  next h =>
    have hi : .event i ∈ s.plan := by simpa using h
    exact ⟨.inl, fun h => h.elim id fun h => h ▸ hi⟩
  next => simp

theorem mem_plan_once (i : Instr) (s : State) : .event i ∈ (s.once i).plan := mem_once.2 (.inr rfl)

theorem wakeTile_plans (tile : Nat) (s : State) : Plans s (wakeTile tile s) := once_plans _ s

theorem wakeLaunch_plans (launch : Nat) (s : State) : Plans s (wakeLaunch launch s) := by
  unfold wakeLaunch
  split
  · exact .foldl (fun s t => wakeTile_plans t s) _ s
  · exact .refl s

theorem wakeTiles_plans (la : Launch) (s : State) : Plans s (wakeTiles la s) := by
  unfold wakeTiles
  split
  · exact .refl s
  · exact .foldl (fun s t => wakeTile_plans t s) _ s

theorem wakeRestore_plans (s : State) : Plans s (wakeRestore s) := by
  unfold wakeRestore
  split
  · exact once_plans _ s
  · exact .refl s

theorem endIfOver_plans (h : Nat) (s : State) : Plans s (endIfOver h s) := by
  unfold endIfOver
  split
  · split
    · exact once_plans _ s
    · exact .refl s
  · exact .refl s

theorem wakePrograms_plans (s : State) : Plans s (wakePrograms s) := by
  refine .foldl (fun s x => .foldl (fun s p => ?_) x.2.progs s) s.items s
  split
  · exact once_plans _ s
  · exact .refl s

theorem wakeGuard_plans (e : Command) (s : State) : Plans s (wakeGuard e s) := by
  unfold wakeGuard
  split
  · split
    · exact once_plans _ s
    · exact .refl s
  · exact .refl s

theorem arrayNext_plans (tile item : Nat) (s : State) : Plans s (arrayNext tile item s) := by
  unfold arrayNext
  split
  · split
    · exact wakeGuard_plans _ s
    · split
      · exact later_plans _ s
      · exact later_plans _ s
  · exact .refl s

/-! ## Parts of the state -/

theorem TilesOnly.setTile (k : Nat) (x : Tile) (s : State) : TilesOnly s (s.setTile k x) := ⟨rfl⟩

theorem TilesOnly.adjLeft (k : Nat) (f : Leftovers → Leftovers) (s : State) : TilesOnly s (s.adjLeft k f) := ⟨rfl⟩

theorem moveRows_tilesOnly (h t base u base' rows : Nat) (s : State) : TilesOnly s (moveRows h t base u base' rows s) := ⟨rfl⟩

theorem takeShare_tilesOnly (h cluster base size : Nat) (keep : Bool) (s : State) :
    TilesOnly s (takeShare h cluster base size keep s).2 := by
  refine List.foldlRecOn (motive := fun (r : (Memory × List Nat) × State) => TilesOnly s r.2) _ _ (.refl s) fun r hr m _ => ?_
  dsimp only
  split
  · exact hr
  · exact hr.trans (.adjLeft _ _ _)

theorem leaveShare_tilesOnly (cv : Convoy) (s : State) : TilesOnly s (leaveShare cv s) := by
  refine .foldl (fun s m => ?_) _ s
  dsimp only
  split
  · exact .refl s
  · exact .adjLeft _ _ s

theorem leaveWindows_tilesOnly (it : Item) (s : State) : TilesOnly s (leaveWindows it s) := by
  refine .foldl (fun s k => ?_) _ s
  split
  · exact .adjLeft _ _ s
  · exact .refl s

theorem ItemsStand.setDie (k : Nat) (x : Die) (s : State) : ItemsStand s (s.setDie k x) := .of_fields rfl rfl rfl rfl

theorem ItemsStand.adjHeld (tile h : Nat) (f : TileLaunch → TileLaunch) (s : State) : ItemsStand s (s.adjHeld tile h f) :=
  .of_fields rfl rfl rfl rfl

theorem ItemsStand.adjStrand (k : Nat) (f : Strand → Strand) (s : State) : ItemsStand s (s.adjStrand k f) :=
  .of_fields rfl rfl rfl rfl

theorem LaunchesStand.adjItem (k : Nat) (f : Item → Item) (s : State) : LaunchesStand s (s.adjItem k f) :=
  .of_fields rfl rfl rfl

theorem enterStrand_itemsStand (tile h size : Nat) (keep : Bool) (st : Strand) (s : State) :
    ItemsStand s (enterStrand tile h size keep st s) := .of_fields rfl rfl rfl rfl

/-! ## Causes that are raised -/

theorem report_itemsStand (tile launch strand cause : Nat) (r : FaultRec) (s : State) :
    ItemsStand s (report tile launch strand cause r s) := by
  unfold report
  dsimp only
  split
  · exact .of_fields rfl rfl rfl rfl
  · exact ⟨⟨rfl, rfl, List.subset_append_left _ _⟩, rfl⟩

theorem report_strands (tile launch strand cause : Nat) (r : FaultRec) (s : State) :
    (report tile launch strand cause r s).strands = s.strands := by
  unfold report
  dsimp only
  split <;> rfl

theorem reportStrand_itemsStand (k cause : Nat) (r : Raise) (s : State) : ItemsStand s (reportStrand k cause r s) := by
  unfold reportStrand
  split
  · exact .refl s
  · split
    · exact .refl s
    · split
      · exact .refl s
      · exact report_itemsStand _ _ _ _ _ s

theorem reportStrand_strands (k cause : Nat) (r : Raise) (s : State) : (reportStrand k cause r s).strands = s.strands := by
  unfold reportStrand
  split
  · rfl
  · split
    · rfl
    · split
      · rfl
      · exact report_strands _ _ _ _ _ s

/-- A charge puts its cause into the queue of one strand, or becomes a report. -/
theorem charge_cases (k : Nat) (r : Raise) (s : State) :
    (∃ e, charge k r s = s.adjStrand e (·.enqueue r)) ∨ charge k r s = reportStrand k r.code r s ∨ charge k r s = s := by
  unfold charge
  split
  · exact .inr (.inr rfl)
  · split
    · exact .inl ⟨k, rfl⟩
    · split
      next e _ => exact .inl ⟨e, rfl⟩
      next => exact .inr (.inl rfl)

theorem charge_itemsStand (k : Nat) (r : Raise) (s : State) : ItemsStand s (charge k r s) := by
  rcases charge_cases k r s with ⟨e, h⟩ | h | h <;> rw [h]
  · exact .adjStrand e _ s
  · exact reportStrand_itemsStand _ _ _ s
  · exact .refl s

theorem chargeElected_itemsStand (item : Nat) (r : Raise) (s : State) : ItemsStand s (chargeElected item r s) := by
  unfold chargeElected
  split
  · exact .refl s
  · split
    · exact charge_itemsStand _ _ s
    · split
      · exact report_itemsStand _ _ _ _ _ s
      · exact .refl s

theorem raiseHeld_launchesStand (item : Nat) (s : State) : LaunchesStand s (raiseHeld item s) := by
  unfold raiseHeld
  split
  · exact .refl s
  · exact (LaunchesStand.adjItem item _ s).trans (chargeElected_itemsStand _ _ _).toLaunchesStand

/-! ## Code that loads -/

theorem sourceLines_itemsStand (tile asid : Nat) (priv : Bool) (a n : Nat) (s : State) :
    ItemsStand s (sourceLines tile asid priv a n s).1 := by
  induction n generalizing s with
  | zero => exact .refl s
  | succ n ih =>
    have hstep := (translate_alone tile asid priv .fetch .global ((a + 256 * (15 - n)) % 2 ^ 64) s).itemsStand
    unfold sourceLines
    dsimp only
    split
    · exact hstep
    · exact hstep.trans (ih _)

theorem preload_itemsStand (tile h : Nat) (la : Launch) (n : Nat) (s : State) : ItemsStand s (preload tile h la n s) := by
  unfold preload
  dsimp only
  split
  · exact (sourceLines_itemsStand _ _ _ _ _ s).trans ((ItemsStand.adjHeld _ _ _ _).trans (later_plans _ _).itemsStand)
  · exact (sourceLines_itemsStand _ _ _ _ _ s).trans (report_itemsStand _ _ _ _ _ _)

theorem reload_itemsStand (tile h : Nat) (la : Launch) (n : Nat) (g : Seg) (s : State) :
    ItemsStand s (reload tile h la n g s) := by
  unfold reload
  split
  · exact .refl s
  · dsimp only
    split
    · exact (sourceLines_itemsStand _ _ _ _ _ s).trans ((ItemsStand.adjHeld _ _ _ _).trans (later_plans _ _).itemsStand)
    · exact (sourceLines_itemsStand _ _ _ _ _ s).trans ((ItemsStand.adjHeld _ _ _ _).trans (report_itemsStand _ _ _ _ _ _))

end Sys2Proof.Machine
end

section
/-! Places on a tile (R96, R374): an item's contexts lie on distinct slices, one for each strand. -/

namespace Sys2Proof.Machine

theorem putBy_perm {α : Type} (le : α → α → Bool) (x : α) (l : List α) : (List.putBy le x l).Perm (x :: l) := by
  induction l with
  | nil => exact .refl _
  | cons y l ih =>
    unfold List.putBy
    split
    · exact .refl _
    · exact (ih.cons y).trans (.swap x y l)

theorem sortedBy_perm {α : Type} (l : List α) (le : α → α → Bool) : (l.sortedBy le).Perm l := by
  unfold List.sortedBy
  induction l with
  | nil => exact .refl _
  | cons x l ih => exact (putBy_perm le x _).trans (ih.cons x)

theorem slicesByUse_nodup (t : Taken) : (slicesByUse t).Nodup := (sortedBy_perm _ _).nodup_iff.2 List.nodup_range

theorem slice_of_freeContext {t : Taken} {slice c : Nat} (h : freeContext t slice = some c) : c / 8 = slice := by
  obtain ⟨i, hi, rfl⟩ := List.mem_map.1 (List.mem_of_find?_eq_some h)
  have : i < 8 := List.mem_range.1 hi
  omega

theorem length_pickContexts_le (t : Taken) (lpriv n : Nat) (sls : List Nat) : (pickContexts t lpriv n sls).length ≤ n := by
  fun_induction pickContexts t lpriv n sls with
  | case1 => simp
  | case2 => simp
  | case3 n sl sls b c _ _ ih => simpa using ih
  | case4 n sl sls _ ih => exact ih

/-- The contexts that are picked lie on some of the slices, each on its own. -/
theorem slices_pickContexts (t : Taken) (lpriv n : Nat) (sls : List Nat) :
    ((pickContexts t lpriv n sls).map fun c => c.1 / 8).Sublist sls := by
  fun_induction pickContexts t lpriv n sls with
  | case1 => simp
  | case2 => simp
  | case3 n sl sls b c hc _ ih =>
    rw [List.map_cons, slice_of_freeContext hc]
    exact ih.cons_cons sl
  | case4 n sl sls _ ih => exact ih.cons sl

/-- An item is placed on as many contexts as it has strands, and they are distinct. -/
theorem placeItem_contexts {d : Demand} {scrtile : Nat} {t : Taken} {r : Spot × Taken} (h : placeItem d scrtile t = some r) :
    r.1.contexts.length = d.width ∧ (r.1.contexts.map (·.1)).Nodup := by
  have hcontexts : ¬(pickContexts t d.lpriv d.width (slicesByUse t)).length < d.width
      ∧ r.1.contexts = pickContexts t d.lpriv d.width (slicesByUse t) := by
    unfold placeItem at h
    dsimp only at h
    split at h
    · cases h
    next hlen =>
      refine ⟨hlen, ?_⟩
      split at h
      · cases h
      · split at h <;> cases h
        rfl
  obtain ⟨hlen, hr⟩ := hcontexts
  rw [hr]
  refine ⟨le_antisymm (length_pickContexts_le _ _ _ _) (not_lt.1 hlen), ?_⟩
  have hslices := (slices_pickContexts t d.lpriv d.width (slicesByUse t)).nodup (slicesByUse_nodup t)
  exact List.Nodup.of_map (· / 8) (by rwa [List.map_map])

end Sys2Proof.Machine
end

section
/-! An item's strands as it is admitted (R112, R374): each stands at the entry of its stage, and what the admission does
afterwards leaves it there. -/

namespace Sys2Proof.Machine

/-- The strands at some keys are those of an item as it is admitted, in their order. -/
def StandAtEntry (item pc : Nat) (keys : List Nat) (s : State) : Prop :=
  ∀ (n k : Nat), keys[n]? = some k → ∃ b, s.strand k = some b ∧ Fresh item n pc b

theorem Fresh.enqueue {item inItem pc : Nat} {b : Strand} (h : Fresh item inItem pc b) (r : Raise) :
    Fresh item inItem pc (b.enqueue r) := by
  unfold Strand.enqueue
  split
  · exact h
  · split <;> exact h

section StandAtEntry

variable {item pc : Nat} {keys : List Nat} {s t : State}

theorem StandAtEntry.of_strands (h : StandAtEntry item pc keys s) (hst : t.strands = s.strands) : StandAtEntry item pc keys t := by
  unfold StandAtEntry State.strand at *
  rwa [hst]

theorem StandAtEntry.charge (h : StandAtEntry item pc keys s) (k : Nat) (r : Raise) : StandAtEntry item pc keys (charge k r s) := by
  rcases charge_cases k r s with ⟨e, hc⟩ | hc | hc
  · rw [hc]
    intro n j hj
    obtain ⟨b, hb, hfresh⟩ := h n j hj
    by_cases hje : j = e
    · subst hje
      exact ⟨_, strand_adjStrand_self hb _, hfresh.enqueue r⟩
    · exact ⟨b, (strand_adjStrand_ne s _ hje).trans hb, hfresh⟩
  · exact h.of_strands (by rw [hc, reportStrand_strands])
  · rwa [hc]

end StandAtEntry

theorem takeLanes_get (x : Leftovers) (h slice base size : Nat) (keep : Bool) (q : Quad Lane) {l : Nat} (hl : l < 4) :
    (takeLanes x h slice base size keep q).get l =
      { q.get l with lp := (x.lane h slice l base size keep).1, bad := (x.lane h slice l base size keep).2 } := by
  match l, hl with
  | 0, _ | 1, _ | 2, _ | 3, _ => rfl

/-- A strand that is put into its context is fresh there. -/
theorem enterStrand_fresh (tile h size : Nat) (keep : Bool) (item inItem context lpBase pc : Nat) (s : State) :
    ∃ b, (enterStrand tile h size keep (entryStrand item inItem context lpBase pc) s).strand (tile * 128 + context) = some b
      ∧ Fresh item inItem pc b := by
  refine ⟨_, strand_setStrand _ _ s, rfl, rfl, rfl, rfl, rfl, rfl, rfl, rfl, fun l hl => ?_⟩
  have hentry : (entryStrand item inItem context lpBase pc).lanes.get l = entryLane pc := by
    match l, hl with
    | 0, _ | 1, _ | 2, _ | 3, _ => rfl
  dsimp only
  rw [takeLanes_get _ _ _ _ _ _ _ hl, hentry]

theorem enterStrand_ne (tile h size : Nat) (keep : Bool) (b : Strand) (s : State) {k : Nat} (hk : k ≠ tile * 128 + b.context) :
    (enterStrand tile h size keep b s).strand k = s.strand k := strand_setStrand_ne _ s hk

/-- The strands of an item put into its contexts, each with its number in the item. -/
def enterStrands (tile h size : Nat) (keep : Bool) (item pc : Nat) (cs : List (Nat × Nat × Nat)) (s : State) : State :=
  cs.foldl (fun s x => enterStrand tile h size keep (entryStrand item x.1 x.2.1 x.2.2 pc) s) s

section EnterStrands

variable (tile h size : Nat) (keep : Bool) (item pc : Nat)

theorem enterStrands_itemsStand (cs : List (Nat × Nat × Nat)) (s : State) :
    ItemsStand s (enterStrands tile h size keep item pc cs s) :=
  .foldl (fun s _ => enterStrand_itemsStand tile h size keep _ s) cs s

theorem enterStrands_ne {cs : List (Nat × Nat × Nat)} {k : Nat} (hk : ∀ x ∈ cs, k ≠ tile * 128 + x.2.1) (s : State) :
    (enterStrands tile h size keep item pc cs s).strand k = s.strand k := by
  induction cs generalizing s with
  | nil => rfl
  | cons y cs ih =>
    obtain ⟨hy, hcs⟩ := List.forall_mem_cons.1 hk
    exact (ih hcs _).trans (enterStrand_ne _ _ _ _ (entryStrand item y.1 y.2.1 y.2.2 pc) s hy)

/-- Strands in distinct contexts are all fresh. -/
theorem enterStrands_fresh {cs : List (Nat × Nat × Nat)} (hcs : (cs.map (·.2.1)).Nodup) {x : Nat × Nat × Nat} (hx : x ∈ cs)
    (s : State) : ∃ b, (enterStrands tile h size keep item pc cs s).strand (tile * 128 + x.2.1) = some b
      ∧ Fresh item x.1 pc b := by
  induction cs generalizing s with
  | nil => cases hx
  | cons y cs ih =>
    rw [List.map_cons, List.nodup_cons] at hcs
    obtain ⟨hy, hcs⟩ := hcs
    rcases List.mem_cons.1 hx with rfl | hx
    · have hlater : ∀ z ∈ cs, tile * 128 + x.2.1 ≠ tile * 128 + z.2.1 := fun z hz heq =>
        hy (List.mem_map.2 ⟨z, hz, (Nat.add_left_cancel heq).symm⟩)
      obtain ⟨b, hb, hfresh⟩ := enterStrand_fresh tile h size keep item x.1 x.2.1 x.2.2 pc s
      exact ⟨b, (enterStrands_ne tile h size keep item pc hlater _).trans hb, hfresh⟩
    · exact ih hcs hx _

theorem mem_numbered {α : Type} {l : List α} {n : Nat} {x : α} (h : l[n]? = some x) : (n, x) ∈ numbered l := by
  obtain ⟨hn, rfl⟩ := List.getElem?_eq_some_iff.1 h
  rw [List.mem_iff_getElem]
  refine ⟨n, by simpa [numbered, upTo] using hn, ?_⟩
  simp [numbered, upTo]

theorem map_snd_numbered {α : Type} (l : List α) : (numbered l).map (·.2) = l :=
  List.map_snd_zip (by simp [upTo])

theorem enterStrands_standAtEntry {cs : List (Nat × Nat)} (hcs : (cs.map (·.1)).Nodup) (s : State) :
    StandAtEntry item pc (cs.map fun c => tile * 128 + c.1) (enterStrands tile h size keep item pc (numbered cs) s) := by
  intro n k hk
  rw [List.getElem?_map, Option.map_eq_some_iff] at hk
  obtain ⟨c, hc, rfl⟩ := hk
  refine enterStrands_fresh tile h size keep item pc (x := (n, c)) ?_ (mem_numbered hc) s
  rw [← map_snd_numbered cs, List.map_map] at hcs
  exact hcs

end EnterStrands

end Sys2Proof.Machine
end

section
/-! Admission (R374, R399): a waiting item that fits is admitted with its strands at their entry, and where none fits the crews
that it needs are released (R391). -/

namespace Sys2Proof.Machine

/-! ## Launches that are changed -/

/-- What a change of a launch leaves alone is as it was in every launch. -/
theorem find_adjLaunch_map {β : Type} (g : Launch → β) {f : Launch → Launch} (hf : ∀ la, g (f la) = g la) (k h : Nat) (s : State) :
    (Map.find h (s.adjLaunch k f).launches).map g = (Map.find h s.launches).map g := by
  rw [State.adjLaunch_launches, Map.find_adjust]
  split
  next heq =>
    rw [heq, Option.map_map]
    exact congrArg (fun g' => (Map.find k s.launches).map g') (funext hf)
  next => rfl

theorem takeTile_capture {tile h : Nat} {la : Launch} {s t : State} (ht : takeTile tile h la s = some t) :
    (Map.find h t.launches).map (·.capture) = (Map.find h s.launches).map (·.capture) := by
  unfold takeTile at ht
  split at ht
  · cases ht; rfl
  · split at ht
    · cases ht
    · obtain ⟨r, -, rfl⟩ := Option.map_eq_some_iff.1 ht
      rw [(ItemsStand.foldl (fun s (x : Nat × Nat) => preload_itemsStand tile h la x.1 s) _ _).launches]
      exact find_adjLaunch_map (·.capture) (fun _ => by rfl) h h _

/-- A launch that does not capture starts no contact sheet. -/
theorem startSheet_of_capture {h : Nat} {s : State} (hc : (Map.find h s.launches).map (·.capture) = some false) :
    startSheet h s = s := by
  obtain ⟨la, hla, hcap⟩ := Option.map_eq_some_iff.1 hc
  unfold startSheet
  simp [hla, hcap]

/-! ## One item -/

/-- The item that is made of a place (R374). -/
def admittedItem (h stage num convoy : Nat) (record : Option (Nat × Nat)) (tile : Nat) (p : Spot) : Item :=
  { launch := h, stage := stage, num := num, tile := tile, strands := p.contexts.map fun c => tile * 128 + c.1, convoy := convoy
    scrBase := p.scrBase, accBase := p.accBase, bars := [], poison := 0, deadMask := 0, engdetail := 0, cancel := false
    cpstat := 0, mstat := 0, record := record, popped := [], progs := [], deferred := [], passes := 0, reserved := p.reserved
    lost := false }

/-- The causes that a halt which covers an item charges to its strands (R474). -/
def chargeHalt (la : Launch) (it : Item) (s : State) : State :=
  match haltWord la it with
  | some w => it.strands.foldl (fun s k => charge k { code := 0x7A, origin := 5, pc := 0x3FFFF, precise := false, info0 := w } s) s
  | none => s

/-- A new item with its strands in their contexts. -/
def seatStrands (la : Launch) (it : Item) (p : Spot) (s : State) : State :=
  let st := la.stages.getD it.stage default
  enterStrands it.tile it.launch st.lpriv true s.nextId (st.eseg * 4096 + st.eoff) (numbered p.contexts)
    { s with items := Map.insert s.nextId it s.items, nextId := s.nextId + 1 }

/-- A new item takes its accumulator rows, outside a deterministic launch, and its place in its convoy. -/
def takeRows (id : Nat) (la : Launch) (it : Item) (p : Spot) (s : State) : State :=
  let s := (claimRows it.tile it.launch p.accBase (la.stages.getD it.stage default).accrows false s).adjHeld it.tile it.launch
    fun x => { x with lastAdmit := id }
  { s with convoys := Map.adjust it.convoy (fun cv => { cv with items := cv.items ++ [id] }) s.convoys }

/-- An item put on its tile outside a deterministic launch. -/
def seatItem (la : Launch) (it : Item) (p : Spot) (s : State) : State := takeRows s.nextId la it p (seatStrands la it p s)

/-- An item that is admitted takes what its launch has on the whole tile, a place, and its seat there. -/
theorem admitItem_eq_some {h stage num convoy tile : Nat} {record : Option (Nat × Nat)} {la : Launch} {s t : State}
    (hla : Map.find h s.launches = some la) (hdet : la.det = false) (ht : admitItem h stage num convoy record tile s = some t) :
    ∃ s₁ spot, takeTile tile h la s = some s₁
      ∧ placeItem (demandOf h la (la.stages.getD stage default)) la.scrtile (takenOn s₁ tile) = some spot
      ∧ t = chargeHalt la (admittedItem h stage num convoy record tile spot.1)
          (seatItem la (admittedItem h stage num convoy record tile spot.1) spot.1 s₁) := by
  unfold admitItem at ht
  simp only [hla, hdet] at ht
  split at ht
  · cases ht
  · obtain ⟨s₁, hs₁, hspot⟩ := Option.bind_eq_some_iff.1 ht
    obtain ⟨spot, hplace, rfl⟩ := Option.map_eq_some_iff.1 hspot
    exact ⟨s₁, spot, hs₁, hplace, rfl⟩

/-- An item of a launch stands on a tile, each of its strands at the entry of its stage with everything 0 (R112, R374). -/
def Admitted (h stage num tile : Nat) (st : Stage) (t : State) : Prop :=
  ∃ (id : Nat) (it : Item), Map.find id t.items = some it ∧ it.launch = h ∧ it.stage = stage ∧ it.num = num ∧ it.tile = tile
    ∧ it.strands.length = st.width ∧ it.strands.Nodup ∧ StandAtEntry id (st.eseg * 4096 + st.eoff) it.strands t

theorem Admitted.of_fields {h stage num tile : Nat} {st : Stage} {s t : State} (hs : Admitted h stage num tile st s)
    (hitems : t.items = s.items) (hstrands : t.strands = s.strands) : Admitted h stage num tile st t := by
  obtain ⟨id, it, hfind, hla, hstage, hnum, htile, hwidth, hnodup, hentry⟩ := hs
  exact ⟨id, it, by rwa [hitems], hla, hstage, hnum, htile, hwidth, hnodup, hentry.of_strands hstrands⟩

theorem Admitted.chargeHalt {h stage num tile : Nat} {st : Stage} {s : State} (hs : Admitted h stage num tile st s) (la : Launch)
    (it : Item) : Admitted h stage num tile st (Machine.chargeHalt la it s) := by
  unfold Machine.chargeHalt
  split
  · refine List.foldlRecOn (motive := Admitted h stage num tile st) _ _ hs fun t ht k _ => ?_
    obtain ⟨id, jt, hfind, hla, hstage, hnum, htile, hwidth, hnodup, hentry⟩ := ht
    exact ⟨id, jt, by rwa [(charge_itemsStand _ _ t).items], hla, hstage, hnum, htile, hwidth, hnodup, hentry.charge _ _⟩
  · exact hs

theorem takeRows_itemsStand (id : Nat) (la : Launch) (it : Item) (p : Spot) (s : State) :
    ItemsStand s (takeRows id la it p s) := .of_fields rfl rfl rfl rfl

theorem takeRows_strands (id : Nat) (la : Launch) (it : Item) (p : Spot) (s : State) :
    (takeRows id la it p s).strands = s.strands := rfl

theorem seatStrands_items (la : Launch) (it : Item) (p : Spot) (s : State) :
    (seatStrands la it p s).items = Map.insert s.nextId it s.items := (enterStrands_itemsStand _ _ _ _ _ _ _ _).items

theorem seatStrands_launches (la : Launch) (it : Item) (p : Spot) (s : State) :
    (seatStrands la it p s).launches = s.launches := (enterStrands_itemsStand _ _ _ _ _ _ _ _).launches

theorem seatItem_items (la : Launch) (it : Item) (p : Spot) (s : State) :
    (seatItem la it p s).items = Map.insert s.nextId it s.items :=
  (takeRows_itemsStand _ _ _ _ _).items.trans (seatStrands_items la it p s)

theorem seatItem_launches (la : Launch) (it : Item) (p : Spot) (s : State) : (seatItem la it p s).launches = s.launches :=
  (takeRows_itemsStand _ _ _ _ _).launches.trans (seatStrands_launches la it p s)

/-- An item takes its seat with its strands at their entry. -/
theorem seatItem_admitted (h stage num convoy tile : Nat) (record : Option (Nat × Nat)) (la : Launch) {p : Spot}
    (hlen : p.contexts.length = (la.stages.getD stage default).width) (hnodup : (p.contexts.map (·.1)).Nodup) (s : State) :
    Admitted h stage num tile (la.stages.getD stage default)
      (seatItem la (admittedItem h stage num convoy record tile p) p s) := by
  refine ⟨s.nextId, admittedItem h stage num convoy record tile p, ?_, rfl, rfl, rfl, rfl, by simpa [admittedItem] using hlen, ?_, ?_⟩
  · rw [seatItem_items]
    exact Map.find_insert_self _ _ _
  · have hkeys := hnodup.map (f := (tile * 128 + ·)) fun a b hab => Nat.add_left_cancel hab
    rw [List.map_map] at hkeys
    exact hkeys
  · refine StandAtEntry.of_strands ?_ (takeRows_strands _ _ _ _ _)
    exact enterStrands_standAtEntry tile h _ true s.nextId _ hnodup _

theorem chargeHalt_itemsStand (la : Launch) (it : Item) (s : State) : ItemsStand s (chargeHalt la it s) := by
  unfold chargeHalt
  split
  · exact .foldl (fun s k => charge_itemsStand _ _ s) _ s
  · exact .refl s

theorem admitItem_admitted {h stage num convoy tile : Nat} {record : Option (Nat × Nat)} {la : Launch} {s t : State}
    (hla : Map.find h s.launches = some la) (hdet : la.det = false) (ht : admitItem h stage num convoy record tile s = some t) :
    Admitted h stage num tile (la.stages.getD stage default) t
      ∧ (Map.find h t.launches).map (·.capture) = (Map.find h s.launches).map (·.capture) := by
  obtain ⟨s₁, spot, htake, hplace, rfl⟩ := admitItem_eq_some hla hdet ht
  obtain ⟨hlen, hnodup⟩ := placeItem_contexts hplace
  refine ⟨(seatItem_admitted h stage num convoy tile record la hlen hnodup s₁).chargeHalt la _, ?_⟩
  rw [(chargeHalt_itemsStand _ _ _).launches, seatItem_launches]
  exact takeTile_capture htake

/-! ## One convoy -/

/-- A convoy of one item admits it once its convoy and its region are there, which are no part of its launch. -/
theorem admitConvoy_eq_some {w : Waiting} {la : Launch} {tiles : List Nat} {s : State} {r : Nat × State} (hgroup : w.group = none)
    (hr : admitConvoy w la tiles s = some r) : ∃ convoy record s₁, s₁.launches = s.launches
      ∧ admitItems w.launch w.stage convoy record tiles [w.item] s₁ = some r.2 := by
  unfold admitConvoy at hr
  simp only [hgroup] at hr
  obtain ⟨base, -, hr⟩ := Option.bind_eq_some_iff.1 hr
  have hshare := (takeShare_tilesOnly w.launch (clusterOf (tiles.headD 0)) base (la.cshare / 4) (!la.det) s).itemsStand.launches
  generalize takeShare w.launch (clusterOf (tiles.headD 0)) base (la.cshare / 4) (!la.det) s = share at hr hshare
  obtain ⟨t, ht, hr⟩ := Option.bind_eq_some_iff.1 hr
  split at hr
  · cases hr
    refine ⟨_, _, _, ?_, ht⟩
    exact hshare
  · cases hr

theorem admitConvoy_admitted {w : Waiting} {la : Launch} {tile : Nat} {s : State} {r : Nat × State}
    (hla : Map.find w.launch s.launches = some la) (hdet : la.det = false) (hgroup : w.group = none)
    (hr : admitConvoy w la [tile] s = some r) :
    Admitted w.launch w.stage w.item tile (la.stages.getD w.stage default) r.2
      ∧ (Map.find w.launch r.2.launches).map (·.capture) = (Map.find w.launch s.launches).map (·.capture) := by
  obtain ⟨convoy, record, s₁, hlaunches, hitems⟩ := admitConvoy_eq_some hgroup hr
  have hadmit : admitItem w.launch w.stage w.item convoy record tile s₁ = some r.2 := by
    simpa [admitItems] using hitems
  rw [← hlaunches] at hla ⊢
  exact admitItem_admitted hla hdet hadmit

theorem noteAdmitted_capture (la : Launch) (w : Waiting) : (la.noteAdmitted w).capture = la.capture := by
  unfold Launch.noteAdmitted
  dsimp only
  split
  · rfl
  · split
    · rfl
    · split <;> rfl

theorem admitWaiting_admitted {tile : Nat} {w : Waiting} {la : Launch} {s u : State}
    (hla : Map.find w.launch s.launches = some la) (hdet : la.det = false) (hcapture : la.capture = false)
    (hgroup : w.group = none) (hu : admitWaiting tile w s = some u) :
    Admitted w.launch w.stage w.item tile (la.stages.getD w.stage default) u := by
  unfold admitWaiting at hu
  simp only [hla, hdet, hgroup, Option.isSome_none, Bool.false_eq_true, if_false, Option.map_map] at hu
  obtain ⟨r, hr, rfl⟩ := Option.map_eq_some_iff.1 hu
  obtain ⟨hadmitted, hkept⟩ := admitConvoy_admitted hla hdet hgroup hr
  have hoff : (Map.find w.launch (r.2.adjLaunch w.launch fun la => la.noteAdmitted w).launches).map (·.capture) = some false := by
    rw [find_adjLaunch_map (·.capture) fun la => noteAdmitted_capture la w, hkept, hla, Option.map_some, hcapture]
  rw [Function.comp_apply, startSheet_of_capture hoff]
  exact hadmitted.of_fields rfl rfl

/-! ## Crews that are released -/

/-- The crews that a waiting convoy needs, if any, are some that may be released, and it fits without them. -/
theorem neededCrews_cases (tile prio : Nat) (w : Waiting) (s : State) : neededCrews tile prio w s = []
    ∨ neededCrews tile prio w s ⊆ lesserCrews s tile prio ∧ fitsWithout tile w (neededCrews tile prio w s) s = true := by
  unfold neededCrews
  dsimp only
  split
  · exact .inl rfl
  next h =>
    right
    rw [Bool.or_eq_true, not_or, Bool.not_eq_true', Bool.not_eq_false] at h
    refine List.foldlRecOn (motive := fun need => need ⊆ lesserCrews s tile prio ∧ fitsWithout tile w need s = true) _ _
      ⟨List.Subset.refl _, h.2⟩ fun need hneed c _ => ?_
    split
    next hfits => exact ⟨List.Subset.trans (List.filter_subset_self _) hneed.1, hfits⟩
    next => exact hneed

/-- The releases of crews that an admission plans (R391). -/
def releaseCrews (cs : List Nat) (s : State) : State := cs.foldl (fun s c => s.once (.crewForcedRelease c)) s

theorem releaseCrews_plans (cs : List Nat) (s : State) : Plans s (releaseCrews cs s) := .foldl (fun s _ => once_plans _ s) cs s

theorem mem_releaseCrews {c : Nat} {cs : List Nat} {s : State} :
    .event (.crewForcedRelease c) ∈ (releaseCrews cs s).plan ↔ .event (.crewForcedRelease c) ∈ s.plan ∨ c ∈ cs := by
  induction cs generalizing s with
  | nil => simp [releaseCrews]
  | cons d cs ih =>
    refine (ih (s := s.once (.crewForcedRelease d))).trans ?_
    simp [mem_once, or_assoc]

/-! ## ITEM_ADMISSION -/

section Exec

variable {tile : Nat} {w : Waiting} {ws : List Waiting} {la : Launch} {s u : State}

theorem exec_itemAdmission (tile : Nat) (s : State) : exec (.itemAdmission tile) s = execItemAdmission tile s := rfl

theorem exec_itemAdmission_none (h : candidates s tile = []) : exec (.itemAdmission tile) s = .next s := by
  rw [exec_itemAdmission, execItemAdmission, h]
  rfl

theorem exec_itemAdmission_first (h : candidates s tile = w :: ws) (hu : admitWaiting tile w s = some u) :
    exec (.itemAdmission tile) s = .next (u.once (.itemAdmission tile)) := by
  rw [exec_itemAdmission, execItemAdmission, h]
  simp [hu]

theorem exec_itemAdmission_crowded (h : candidates s tile = [w]) (hnone : admitWaiting tile w s = none)
    (hla : Map.find w.launch s.launches = some la) :
    exec (.itemAdmission tile) s = .next (releaseCrews (neededCrews tile (effectivePrio la w) w s) s) := by
  rw [exec_itemAdmission, execItemAdmission, h]
  by_cases hcs : neededCrews tile (effectivePrio la w) w s = []
  · simp [hnone, hla, hcs, releaseCrews]
  · simp [hnone, hla, hcs, releaseCrews]

end Exec

end Sys2Proof.Machine
end

section
/-! Retirement (R147, R242, R382): an item that is over goes with its strands, its launch counts it, and its tile looks for
another. -/

namespace Sys2Proof.Machine

/-! ## Places of launches -/

/-- What a change of every launch leaves alone is as it was. -/
theorem find_map_kept {β : Type} (g : Launch → β) (f : Launch → Launch) (hf : ∀ la, g (f la) = g la) (h : Nat) (m : Map Launch) :
    (Map.find h (m.map fun x => (x.1, f x.2))).map g = (Map.find h m).map g := by
  rw [Map.find_map, Option.map_map]
  exact congrArg (fun g' => (Map.find h m).map g') (funext hf)

theorem dropHomes_retired (f : Nat → Bool) (h : Nat) (s : State) :
    (Map.find h (dropHomes f s).launches).map (·.retired) = (Map.find h s.launches).map (·.retired) :=
  find_map_kept (·.retired) (fun la => { la with home := match la.home with
    | some (key, k) => if f key then none else some (key, k)
    | none => none }) (fun _ => rfl) h s.launches

/-! ## The record of an item -/

theorem releaseRecord_others (item : Nat) (s : State) {j : Nat} (hj : j ≠ item) :
    Map.find j (releaseRecord item s).items = Map.find j s.items := by
  unfold releaseRecord
  split
  · rfl
  · split
    · rfl
    · rw [(wakeLaunch_plans _ _).itemsStand.items]
      exact Map.find_adjust_ne _ _ hj

theorem releaseRecord_retired (item h : Nat) (s : State) :
    (Map.find h (releaseRecord item s).launches).map (·.retired) = (Map.find h s.launches).map (·.retired) := by
  unfold releaseRecord
  split
  · rfl
  · split
    · rfl
    · rw [(wakeLaunch_plans _ _).itemsStand.launches]
      exact find_adjLaunch_map (·.retired) (fun _ => by rfl) _ h _

/-! ## What an item holds -/

/-- An item gone from the lists of items, strands, crews and convoys. -/
def clearItem (item : Nat) (it : Item) (s : State) : State :=
  let s := emptySlots item it (leaveWindows it s)
  { s with
    strands := s.strands.filter fun x => x.2.item != item
    crews := s.crews.filter fun x => !it.strands.contains x.2.recruiter
    items := Map.erase item s.items
    convoys := Map.adjust it.convoy (fun cv => { cv with items := cv.items.filter (· != item) }) s.convoys }

/-- An item's convoy ended, if it has no item left. -/
def endConvoy (it : Item) (s : State) : State :=
  match Map.find it.convoy s.convoys with
  | some cv => if cv.items == [] then { leaveShare cv s with convoys := Map.erase it.convoy s.convoys } else s
  | none => s

/-- What an item's launch holds on its tile freed, if no item of the launch is left there. -/
def endHolding (it : Item) (s : State) : State :=
  if s.items.any fun x => x.2.tile == it.tile && x.2.launch == it.launch then s
  else
    let key := heldKey it.tile it.launch
    dropHomes (· == key) { s with held := Map.erase key s.held }

theorem freeItem_eq (item : Nat) (it : Item) (s : State) :
    freeItem item it s = endHolding it (endConvoy it (clearItem item it s)) := rfl

section Free

variable (item : Nat) (it : Item) (s : State)

theorem endConvoy_itemsStand : ItemsStand s (endConvoy it s) := by
  unfold endConvoy
  split
  · split
    · exact (leaveShare_tilesOnly _ s).itemsStand.trans (.of_fields rfl rfl rfl rfl)
    · exact .refl s
  · exact .refl s

theorem endConvoy_strands : (endConvoy it s).strands = s.strands := by
  unfold endConvoy
  split
  · split
    · exact (leaveShare_tilesOnly _ s).strands
    · rfl
  · rfl

theorem endHolding_items : (endHolding it s).items = s.items := by
  unfold endHolding
  split <;> rfl

theorem endHolding_strands : (endHolding it s).strands = s.strands := by
  unfold endHolding
  split <;> rfl

theorem endHolding_retired (h : Nat) :
    (Map.find h (endHolding it s).launches).map (·.retired) = (Map.find h s.launches).map (·.retired) := by
  unfold endHolding
  split
  · rfl
  · exact dropHomes_retired _ h _

theorem freeItem_items : (freeItem item it s).items = Map.erase item s.items := by
  rw [freeItem_eq, endHolding_items, (endConvoy_itemsStand it _).items]
  exact congrArg (Map.erase item) (leaveWindows_tilesOnly it s).itemsStand.items

theorem freeItem_strands : (freeItem item it s).strands = s.strands.filter fun x => x.2.item != item := by
  rw [freeItem_eq, endHolding_strands, endConvoy_strands]
  exact congrArg (List.filter fun x => x.2.item != item) (leaveWindows_tilesOnly it s).strands

theorem freeItem_retired (h : Nat) :
    (Map.find h (freeItem item it s).launches).map (·.retired) = (Map.find h s.launches).map (·.retired) := by
  rw [freeItem_eq, endHolding_retired, (endConvoy_itemsStand it _).launches]
  exact congrArg (fun m : Map Launch => (Map.find h m).map (·.retired)) (leaveWindows_tilesOnly it s).itemsStand.launches

end Free

/-! ## ITEM_RETIRE -/

section Retire

variable {item : Nat} {it : Item} {la : Launch} {s : State}

/-- An item without commands has none to discard. -/
theorem discardGuarded_of_idle (hit : Map.find item s.items = some it) (hcopies : (s.tile it.tile).copies = [])
    (harray : (s.tile it.tile).array = []) (hroutes : (s.die (dieOf it.tile)).routes = []) : discardGuarded item s = s := by
  simp [discardGuarded, hit, engineCommands, hcopies, harray, hroutes]

theorem nothingLeft_of_idle (hcopies : (s.tile it.tile).copies = []) (harray : (s.tile it.tile).array = [])
    (hroutes : (s.die (dieOf it.tile)).routes = []) (hprogs : it.progs = []) (hkeys : s.keyJobs = [])
    (hsegs : ∀ g ∈ (s.heldAt it.tile it.launch).segs, g.2.k = none) : nothingLeft s item it = true := by
  unfold nothingLeft
  rw [hcopies, harray, hroutes, hprogs, hkeys]
  cases hh : Map.find (heldKey it.tile it.launch) s.held with
  | none => rfl
  | some h =>
    rw [State.heldAt, hh, Option.getD_some] at hsegs
    have hloading : (h.segs.any fun g => g.2.state == 1 && g.2.k.isSome && g.2.item == item) = false :=
      List.any_eq_false.2 fun g hg => by simp [hsegs g hg]
    simp [hloading]

/-- What the retirement of an item leaves: the item is freed, and counted in its launch. -/
def retire (item : Nat) (it : Item) (s : State) : State :=
  (freeItem item it (releaseRecord item s)).adjLaunch it.launch fun la => { la with retired := la.retired + 1 }

theorem exec_itemRetire (item : Nat) (s : State) : exec (.itemRetire item) s = execItemRetire item s := rfl

theorem exec_itemRetire_none (hit : Map.find item s.items = none) : exec (.itemRetire item) s = .next s := by
  rw [exec_itemRetire, execItemRetire, hit]

theorem exec_itemRetire_running (hit : Map.find item s.items = some it) (hover : itemOver s it = false) :
    exec (.itemRetire item) s = .next s := by
  rw [exec_itemRetire, execItemRetire, hit]
  simp [hover]

theorem exec_itemRetire_over (hit : Map.find item s.items = some it) (hla : Map.find it.launch s.launches = some la)
    (hover : itemOver s it = true) (hdet : la.det = false) (hlive : la.state = .live) (hlost : it.lost = false)
    (hdiscard : discardGuarded item s = s) (hleft : nothingLeft s item it = true) :
    exec (.itemRetire item) s = .next (endIfOver it.launch (wakeRestore (wakeTile it.tile (retire item it s)))) := by
  rw [exec_itemRetire, execItemRetire, hit]
  simp [hover, hdiscard, hit, hla, hlive, hlost, hdet, hleft, retire]

theorem retire_items (item : Nat) (it : Item) (s : State) : Map.find item (retire item it s).items = none
    ∧ ∀ j, j ≠ item → Map.find j (retire item it s).items = Map.find j s.items := by
  have hitems : (retire item it s).items = Map.erase item (releaseRecord item s).items := freeItem_items _ _ _
  rw [hitems]
  refine ⟨by rw [Map.find_erase, if_pos rfl], fun j hj => ?_⟩
  rw [Map.find_erase, if_neg hj, releaseRecord_others item s hj]

theorem retire_strands (item : Nat) (it : Item) (s : State) : ∀ x ∈ (retire item it s).strands, x.2.item ≠ item := by
  intro x hx
  have hstrands : (retire item it s).strands = (releaseRecord item s).strands.filter fun x => x.2.item != item :=
    freeItem_strands _ _ _
  rw [hstrands, List.mem_filter] at hx
  simpa using hx.2

theorem retire_counts (item : Nat) (hla : Map.find it.launch s.launches = some la) :
    ∃ lb, Map.find it.launch (retire item it s).launches = some lb ∧ lb.retired = la.retired + 1 := by
  have hkept := (freeItem_retired item it (releaseRecord item s) it.launch).trans (releaseRecord_retired item it.launch s)
  rw [hla, Option.map_some, Option.map_eq_some_iff] at hkept
  obtain ⟨lb, hlb, hretired⟩ := hkept
  refine ⟨{ lb with retired := lb.retired + 1 }, ?_, congrArg (· + 1) hretired⟩
  exact (Map.find_adjust_self _ _ _).trans (by rw [hlb]; rfl)

/-- The turns that follow a retirement. -/
theorem retire_plans (item : Nat) (it : Item) (s : State) :
    Plans (wakeTile it.tile (retire item it s)) (endIfOver it.launch (wakeRestore (wakeTile it.tile (retire item it s)))) :=
  (wakeRestore_plans _).trans (endIfOver_plans _ _)

/-- ITEM_RETIRE of an item that is over and has nothing outstanding: the item and its strands go, its launch counts it, and its
tile looks for another. -/
theorem itemRetire_over (hit : Map.find item s.items = some it) (hla : Map.find it.launch s.launches = some la)
    (hover : itemOver s it = true) (hdet : la.det = false) (hlive : la.state = .live) (hlost : it.lost = false)
    (hdiscard : discardGuarded item s = s) (hleft : nothingLeft s item it = true) :
    ∃ (t : State) (lb : Launch), exec (.itemRetire item) s = .next t ∧ Map.find item t.items = none
      ∧ (∀ j, j ≠ item → Map.find j t.items = Map.find j s.items) ∧ (∀ x ∈ t.strands, x.2.item ≠ item)
      ∧ Map.find it.launch t.launches = some lb ∧ lb.retired = la.retired + 1 ∧ .event (.itemAdmission it.tile) ∈ t.plan := by
  have hlater := retire_plans item it s
  have hplans := (wakeTile_plans it.tile (retire item it s)).trans hlater
  obtain ⟨lb, hlb, hretired⟩ := retire_counts item hla
  obtain ⟨hgone, hothers⟩ := retire_items item it s
  refine ⟨_, lb, exec_itemRetire_over hit hla hover hdet hlive hlost hdiscard hleft, ?_, ?_, ?_, ?_, hretired,
    hlater.plan (mem_plan_once _ _)⟩
  · rwa [hplans.itemsStand.items]
  · rwa [hplans.itemsStand.items]
  · rw [hplans.strands]
    exact retire_strands item it s
  · rwa [hplans.itemsStand.launches]

end Retire

end Sys2Proof.Machine
end

section
/-! Aging (R401): an item that waits grows older by one, and its launch looks for room. -/

namespace Sys2Proof.Machine

section Aging

variable {launch stage item : Nat} {la : Launch} {s : State}

/-- What waits stands in its launch's list, in its stage's range, or behind the records that are bound. -/
theorem itemWaits_iff : itemWaits launch la stage item = true ↔
    (∃ w ∈ waitingIn launch la, w.stage = stage ∧ w.item = item)
    ∨ (∃ st, la.stages[stage]? = some st ∧ st.inq = false ∧ st.rbase + Table.get 0 stage la.cursors ≤ item
        ∧ item < st.rbase + st.count ∧ item - st.rbase ∉ skippedOffsets la stage)
    ∨ ∃ st q i, la.stages[stage]? = some st ∧ st.inq = true ∧ la.queues[st.qin]? = some q
        ∧ i < q.appended - q.bound ∧ (q.bound + i) % 2 ^ 32 = item := by
  have hlisted : (waitingIn launch la).any (fun w => w.stage == stage && w.item == item) = true
      ↔ ∃ w ∈ waitingIn launch la, w.stage = stage ∧ w.item = item := by simp
  unfold itemWaits
  rw [Bool.or_eq_true, hlisted]
  refine or_congr_right ?_
  cases la.stages[stage]? with
  | none => simp
  | some st =>
    cases hinq : st.inq with
    | false => simp [hinq, and_assoc]
    | true =>
      cases hq : la.queues[st.qin]? with
      | none => simp [hinq, hq]
      | some q => simp [hinq, hq, upTo]

theorem seven_le_effectivePrio_iff : 7 ≤ effectivePrio la ⟨launch, stage, item, none⟩ ↔
    7 ≤ la.prio + Table.get 0 (stage * 2 ^ 32 + item) la.ages := by
  unfold effectivePrio ageKey
  exact le_min_iff.trans (and_iff_right (le_refl 7))

/-- A launch in which an item is older by one. -/
def Launch.aged (stage item : Nat) (la : Launch) : Launch :=
  { la with ages := Table.put 0 (ageKey stage item) (Table.get 0 (ageKey stage item) la.ages + 1) la.ages }

theorem Launch.get_ages_aged (stage item : Nat) (la : Launch) :
    Table.get 0 (ageKey stage item) (la.aged stage item).ages = Table.get 0 (ageKey stage item) la.ages + 1 := by
  unfold Launch.aged
  rw [Table.get_put, if_pos rfl]

theorem exec_priorityAging (launch stage item : Nat) (s : State) :
    exec (.priorityAging launch stage item) s = execPriorityAging launch stage item s := rfl

theorem exec_priorityAging_none (hla : Map.find launch s.launches = none) :
    exec (.priorityAging launch stage item) s = .next s := by
  rw [exec_priorityAging, execPriorityAging, hla]

theorem exec_priorityAging_stays (hla : Map.find launch s.launches = some la)
    (h : ¬itemWaits launch la stage item = true ∨ la.state ≠ .live ∨ 7 ≤ effectivePrio la ⟨launch, stage, item, none⟩) :
    exec (.priorityAging launch stage item) s = .next s := by
  rw [exec_priorityAging, execPriorityAging, hla]
  rcases h with h | h | h <;> simp [h]

theorem exec_priorityAging_ages (hla : Map.find launch s.launches = some la) (hwaits : itemWaits launch la stage item = true)
    (hlive : la.state = .live) (htop : ¬7 ≤ effectivePrio la ⟨launch, stage, item, none⟩) :
    exec (.priorityAging launch stage item) s = .next (wakeLaunch launch (s.adjLaunch launch (·.aged stage item))) := by
  rw [exec_priorityAging, execPriorityAging, hla]
  simp only [hwaits, hlive, htop]
  rfl

/-- PRIORITY_AGING of an item that waits: turns apart, its age is all that changes. -/
theorem priorityAging_ages (hla : Map.find launch s.launches = some la) (hwaits : itemWaits launch la stage item = true)
    (hlive : la.state = .live) (htop : ¬7 ≤ effectivePrio la ⟨launch, stage, item, none⟩) :
    ∃ (t : State) (lb : Launch), exec (.priorityAging launch stage item) s = .next t ∧ Map.find launch t.launches = some lb
      ∧ t = { s with launches := t.launches, plan := t.plan } ∧ lb = { la with ages := lb.ages }
      ∧ Table.get 0 (ageKey stage item) lb.ages = Table.get 0 (ageKey stage item) la.ages + 1 := by
  have hplans := wakeLaunch_plans launch (s.adjLaunch launch (·.aged stage item))
  refine ⟨_, la.aged stage item, exec_priorityAging_ages hla hwaits hlive htop, ?_, ?_, rfl, la.get_ages_aged stage item⟩
  · rw [hplans.itemsStand.launches, State.adjLaunch_launches, Map.find_adjust_self, hla, Option.map_some]
  · rw [hplans.rest]
    rfl

end Aging

end Sys2Proof.Machine
end

section
/-! The pre-emption registers (R403, R407): an operation ends with BUSY 0, and where its launch is gone with an error. -/

namespace Sys2Proof.Machine

@[simp] theorem preEnd_launches (refusal : Option Nat) (s : State) : (preEnd refusal s).launches = s.launches := rfl
@[simp] theorem preEnd_items (refusal : Option Nat) (s : State) : (preEnd refusal s).items = s.items := rfl
@[simp] theorem preEnd_plan (refusal : Option Nat) (s : State) : (preEnd refusal s).plan = s.plan := rfl

/-- PRESTAT once an operation has ended. -/
theorem preEnd_ended {refusal : Option Nat} (hcode : ∀ code ∈ refusal, code < 256) {s u t : State} (hu : u.pre = s.pre)
    (ht : t.pre = (preEnd refusal u).pre) : PreEnded refusal s t := by
  have hlt := s.pre.stat.isLt
  have hstat : t.pre.stat = (preEnd refusal u).pre.stat := by rw [ht]
  unfold PreEnded
  rw [hstat, ← bitOf_toNat, ← bitOf_toNat]
  cases refusal with
  | none =>
    simp only [preEnd, hu, bitOf, putBits, bitsOf, BitVec.toNat_ofNat, beq_eq_false_iff_ne]
    exact ⟨by omega, by omega, fun _ h => by cases h⟩
  | some code =>
    have := hcode code rfl
    simp only [preEnd, hu, bitOf, putBits, bitsOf, BitVec.toNat_ofNat, beq_eq_false_iff_ne, beq_iff_eq]
    refine ⟨by omega, by omega, fun _ h => ?_⟩
    cases h
    exact ⟨by omega, by omega⟩

/-- The launch that the operation in progress names. -/
def State.preLaunch (s : State) : Nat := s.pre.goCmd.toNat % 2 ^ 16

theorem bitsOf_goCmd (s : State) : bitsOf s.pre.goCmd.toNat 15 0 = s.preLaunch := by simp [bitsOf, State.preLaunch]

/-- The operation, 0 a pre-emption and 1 a restore, whose event this is. -/
def operationOf : Instr → Option Nat
  | .preempt | .saveComplete => some 0
  | .restore | .restoreFill => some 1
  | _ => none

/-- An event of an operation that is not in progress does nothing. -/
theorem exec_of_idle {i : Instr} {op : Nat} {s : State} (hi : operationOf i = some op)
    (hidle : preBusy s op s.preLaunch = false) : exec i s = .next s := by
  unfold operationOf at hi
  split at hi <;> cases hi
  case h_1 => change execPreempt s = _; simp [execPreempt, bitsOf_goCmd, hidle]
  case h_2 => change execSaveComplete s = _; simp [execSaveComplete, bitsOf_goCmd, hidle]
  case h_3 => change execRestore s = _; simp [execRestore, bitsOf_goCmd, hidle]
  case h_4 => change execRestoreFill s = _; simp [execRestoreFill, bitsOf_goCmd, hidle]

/-- An operation whose launch is gone is refused. -/
theorem exec_of_gone {i : Instr} {op : Nat} {s : State} (hi : operationOf i = some op)
    (hbusy : preBusy s op s.preLaunch = true) (hgone : Map.find s.preLaunch s.launches = none) :
    exec i s = .next (preEnd (some 1) s) := by
  unfold operationOf at hi
  split at hi <;> cases hi
  case h_1 => change execPreempt s = _; simp [execPreempt, bitsOf_goCmd, hbusy, hgone]
  case h_2 => change execSaveComplete s = _; simp [execSaveComplete, bitsOf_goCmd, hbusy, hgone]
  case h_3 => change execRestore s = _; simp [execRestore, bitsOf_goCmd, hbusy, hgone]
  case h_4 => change execRestoreFill s = _; simp [execRestoreFill, bitsOf_goCmd, hbusy, hgone]

end Sys2Proof.Machine
end

section
/-! PREEMPT (R404): a launch that has stopped publishes and closes its banks, and of its items CPSTAT alone changes. -/

namespace Sys2Proof.Machine

/-- Banks have closed: the launches stand, and of an item CPSTAT alone may have changed. -/
structure BanksClosed (s t : State) : Prop where
  launches : t.launches = s.launches
  items : ∀ id it, Map.find id s.items = some it → ∃ x, Map.find id t.items = some x ∧ x = { it with cpstat := x.cpstat }

theorem BanksClosed.of_itemsStand {s t : State} (h : ItemsStand s t) : BanksClosed s t :=
  ⟨h.launches, fun _ it hit => ⟨it, by rwa [h.items], rfl⟩⟩

theorem BanksClosed.trans {s t u : State} (h : BanksClosed s t) (k : BanksClosed t u) : BanksClosed s u := by
  refine ⟨k.launches.trans h.launches, fun id it hit => ?_⟩
  obtain ⟨x, hx, hxit⟩ := h.items id it hit
  obtain ⟨y, hy, hyx⟩ := k.items id x hx
  exact ⟨y, hy, hyx.trans (by rw [hxit])⟩

theorem closeBank_closed (tile handle reason : Nat) (s : State) : BanksClosed s (closeBank tile handle reason s) := by
  unfold closeBank
  dsimp only
  split
  · exact .of_itemsStand (.refl s)
  · refine ⟨rfl, fun id it hit => ?_⟩
    rw [State.adjItem_items, Map.find_adjust]
    split
    next heq =>
      subst heq
      exact ⟨_, by rw [State.setTile_items, hit]; rfl, rfl⟩
    next => exact ⟨it, hit, rfl⟩

theorem closeBanks_closed (reason h : Nat) (s : State) : BanksClosed s (closeBanks reason h s) := by
  refine List.foldlRecOn (motive := BanksClosed s) _ _ (.of_itemsStand (.refl s)) fun t ht x _ => ht.trans ?_
  refine BanksClosed.trans ?_ (closeBank_closed _ _ _ _)
  exact .of_itemsStand (.of_fields rfl rfl rfl rfl)

/-- A strand's publish at system scope, on its item's tile. -/
def publishStrand (s : State) (x : Nat × Strand) : State :=
  match Map.find x.2.item s.items with
  | some it => publish it.tile x.1 .system s
  | none => s

theorem publishStrand_alone (s : State) (x : Nat × Strand) : MemoryAlone s (publishStrand s x) := by
  unfold publishStrand
  split
  · exact publish_alone _ _ _ s
  · exact .refl s

/-- A launch's strands have published, and its banks are closed. -/
def drained (h : Nat) (s : State) : State := closeBanks 3 h ((strandsOf s h).foldl publishStrand s)

theorem drained_closed (h : Nat) (s : State) : BanksClosed s (drained h s) :=
  (BanksClosed.of_itemsStand (MemoryAlone.foldl _ publishStrand_alone _ s).itemsStand).trans (closeBanks_closed _ _ _)

section Preempt

variable {la : Launch} {s : State}

theorem exec_preempt_running (hbusy : preBusy s 0 s.preLaunch = true) (hla : Map.find s.preLaunch s.launches = some la)
    (hrun : ¬(la.state = .preempting ∧ launchStopped s s.preLaunch la = true)) : exec .preempt s = .next s := by
  change execPreempt s = _
  by_cases hstate : la.state = .preempting
  · have hstopped : launchStopped s s.preLaunch la = false := by simpa [hstate] using hrun
    simp [execPreempt, bitsOf_goCmd, hbusy, hla, hstopped]
  · simp [execPreempt, bitsOf_goCmd, hbusy, hla, hstate]

theorem exec_preempt_stopped (hbusy : preBusy s 0 s.preLaunch = true) (hla : Map.find s.preLaunch s.launches = some la)
    (hstate : la.state = .preempting) (hstopped : launchStopped s s.preLaunch la = true) :
    exec .preempt s = .next ((drained s.preLaunch s).later .saveComplete) := by
  change execPreempt s = _
  simp only [execPreempt, bitsOf_goCmd, hbusy, hla, hstate, hstopped]
  rfl

/-- PREEMPT of a launch that has stopped: its image is saved next, and of its items CPSTAT alone has changed. -/
theorem preempt_stopped (hbusy : preBusy s 0 s.preLaunch = true) (hla : Map.find s.preLaunch s.launches = some la)
    (hstate : la.state = .preempting) (hstopped : launchStopped s s.preLaunch la = true) :
    ∃ t : State, exec .preempt s = .next t ∧ .event .saveComplete ∈ t.plan ∧ t.launches = s.launches
      ∧ ∀ id it, Map.find id s.items = some it →
        ∃ x, Map.find id t.items = some x ∧ x = { it with cpstat := x.cpstat } :=
  have hclosed := drained_closed s.preLaunch s
  ⟨_, exec_preempt_stopped hbusy hla hstate hstopped, List.mem_append_right _ (List.mem_singleton_self _), hclosed.launches,
    hclosed.items⟩

end Preempt

end Sys2Proof.Machine
end

section
/-! SAVE_COMPLETE (R404, R405): the launch's parts go to the places of an image, its items to shadow tiles, and the operation
ends. -/

namespace Sys2Proof.Machine

/-! ## The image's bytes -/

theorem writeOpen_itemsStand (a n : Nat) (s : State) : ItemsStand s (writeOpen a n s) := by
  induction n generalizing a s with
  | zero => exact .refl s
  | succ n ih =>
    have hfree : ItemsStand s s.free.2 := .of_fields rfl rfl rfl rfl
    exact hfree.trans ((physWrite_alone _ _ _ _ _).itemsStand.trans (ih _ _))

theorem writeImage_itemsStand (h base pages : Nat) (s : State) : ItemsStand s (writeImage h base pages s) :=
  (physWrite_alone _ _ _ _ s).itemsStand.trans ((physWrite_alone _ _ _ _ _).itemsStand.trans (writeOpen_itemsStand _ _ _))

/-! ## The parts that move -/

/-- An item at its new place. -/
def Move.item (m : Move) (it : Item) : Item :=
  if it.launch == m.launch then
    { it with
      tile := m.tile it.tile, strands := it.strands.map m.key
      reserved := it.reserved.map fun c => m.key (crewKey it.tile c) % 128
      progs := it.progs.map fun p => (p.1, { p.2 with strand := m.key p.2.strand }) }
  else it

theorem moveParts_items (m : Move) (s : State) : (moveParts m s).items = s.items.map fun x => (x.1, m.item x.2) := by
  refine List.map_congr_left fun x _ => ?_
  unfold Move.item
  split <;> rfl

theorem moveParts_pre (m : Move) (s : State) : (moveParts m s).pre = s.pre := rfl

theorem moveParts_state (m : Move) (h : Nat) (s : State) :
    (Map.find h (moveParts m s).launches).map (·.state) = (Map.find h s.launches).map (·.state) :=
  find_map_kept (·.state) (fun la => { la with home := match la.home with
    | some (k, c) => if k % 65536 == m.launch then some (heldKey (m.tile (k / 65536)) m.launch, c) else some (k, c)
    | none => none }) (fun _ => rfl) h s.launches

theorem moveCommands_itemsStand {m : Move} {t u : Nat} {limited : Bool} {s s' : State}
    (h : moveCommands m t u limited s = some s') : ItemsStand s s' := by
  unfold moveCommands at h
  obtain ⟨copies, -, h⟩ := Option.bind_eq_some_iff.1 h
  obtain ⟨array, -, h⟩ := Option.bind_eq_some_iff.1 h
  obtain ⟨ctxs, -, rfl⟩ := Option.map_eq_some_iff.1 h
  have htaken (x z : Tile) (y : Die) : ItemsStand s (((s.setTile t x).setDie (dieOf t) y).setTile u z) :=
    .of_fields rfl rfl rfl rfl
  refine ItemsStand.trans ?_ (.setDie _ _ _)
  exact .ite ((htaken _ _ _).trans (.setDie _ _ _)) ((htaken _ _ _).trans ((ItemsStand.setDie _ _ _).trans (.setDie _ _ _)))

/-! ## The image -/

/-- Where a pre-emption takes a launch: its tiles to their shadows. -/
def saveMove (h : Nat) : Move := ⟨h, fun t => if t < 768 then shadowTile t else t, fun k => k + 128 * 3072⟩

theorem saveMove_item {h : Nat} {it : Item} (hla : it.launch = h) (htile : it.tile < 768) :
    let kept := (saveMove h).item it
    kept.tile = shadowTile it.tile ∧ kept.num = it.num ∧ kept.stage = it.stage ∧ kept.record = it.record := by
  have hmine : (it.launch == (saveMove h).launch) = true := beq_iff_eq.2 hla
  rw [Move.item, if_pos hmine]
  exact ⟨if_pos htile, rfl, rfl, rfl⟩

/-- What a launch holds on tiles, its convoys, rows and commands, taken to the places of an image. -/
def moveHoldings (h : Nat) (la : Launch) (tiles : List Nat) (items : Map Item) (s : State) : State :=
  let m := saveMove h
  let s := { s with
    held := rekey (fun k => if k % 65536 == h then heldKey (m.tile (k / 65536)) h else k) s.held
    convoys := s.convoys.map fun x => if x.2.launch == h then (x.1, { x.2 with cluster := x.2.cluster + 768 }) else x }
  let s := items.foldl (fun s x => moveRows h x.2.tile x.2.accBase (m.tile x.2.tile) x.2.accBase (stageOf la x.2).accrows s) s
  tiles.foldl (fun s t => (moveCommands m t (m.tile t) false s).getD s) s

theorem moveHoldings_itemsStand (h : Nat) (la : Launch) (tiles : List Nat) (items : Map Item) (s : State) :
    ItemsStand s (moveHoldings h la tiles items s) := by
  have hheld : ItemsStand s { s with
    held := rekey (fun k => if k % 65536 == h then heldKey ((saveMove h).tile (k / 65536)) h else k) s.held
    convoys := s.convoys.map fun x => if x.2.launch == h then (x.1, { x.2 with cluster := x.2.cluster + 768 }) else x } :=
    .of_fields rfl rfl rfl rfl
  refine hheld.trans (ItemsStand.trans (.foldl (fun s x => (moveRows_tilesOnly _ _ _ _ _ _ s).itemsStand) items _)
    (.foldl (fun s t => ?_) tiles _))
  cases hmoved : moveCommands (saveMove h) t ((saveMove h).tile t) false s with
  | none => exact .refl s
  | some s' => exact moveCommands_itemsStand hmoved

/-- The state of a package in which a launch's image stands, at an address and of some pages. -/
def imaged (h : Nat) (la : Launch) (base pages : Nat) (s : State) : State :=
  moveHoldings h la (heldTiles s h) (s.items.filter fun x => x.2.launch == h) (moveParts (saveMove h) (writeImage h base pages s))

/-- The address of an image, as PREBASE stood at GO. -/
def imageBase (s : State) : Nat := s.pre.goBase.toNat / 2 ^ 12 % 2 ^ 40 * 4096

/-- A launch that is saved. -/
def Launch.saved (image : Image) (la : Launch) : Launch := { la with state := .preempted, image := some image }

section Save

variable {la : Launch} {s : State}

theorem exec_saveComplete_running (hbusy : preBusy s 0 s.preLaunch = true) (hla : Map.find s.preLaunch s.launches = some la)
    (hrun : ¬(la.state = .preempting ∧ launchStopped s s.preLaunch la = true)) : exec .saveComplete s = .next s := by
  change execSaveComplete s = _
  by_cases hstate : la.state = .preempting
  · have hstopped : launchStopped s s.preLaunch la = false := by simpa [hstate] using hrun
    simp [execSaveComplete, bitsOf_goCmd, hbusy, hla, hstopped]
  · simp [execSaveComplete, bitsOf_goCmd, hbusy, hla, hstate]

/-- A launch saved, its allotments given up. -/
def savedState (h : Nat) (la : Launch) (base pages : Nat) (s : State) : State :=
  disown h ((imaged h la base pages s).adjLaunch h (·.saved ⟨base, pages⟩))

theorem exec_saveComplete_stopped (hbusy : preBusy s 0 s.preLaunch = true) (hla : Map.find s.preLaunch s.launches = some la)
    (hstate : la.state = .preempting) (hstopped : launchStopped s s.preLaunch la = true) : exec .saveComplete s =
    .next (wakeTiles la (preEnd none (savedState s.preLaunch la (imageBase s) (s.pre.stat.toNat % 2 ^ 32) s))) := by
  have hpages : s.pre.stat.toNat % 2 ^ 32 = bitsOf s.pre.stat.toNat 31 0 := by simp [bitsOf]
  rw [hpages]
  change execSaveComplete s = _
  simp only [execSaveComplete, bitsOf_goCmd, hbusy, hla, hstate, hstopped]
  rfl

theorem imaged_items (h : Nat) (la : Launch) (base pages : Nat) (s : State) :
    (imaged h la base pages s).items = s.items.map fun x => (x.1, (saveMove h).item x.2) := by
  rw [imaged, (moveHoldings_itemsStand _ _ _ _ _).items, moveParts_items, (writeImage_itemsStand _ _ _ _).items]

theorem imaged_pre (h : Nat) (la : Launch) (base pages : Nat) (s : State) : (imaged h la base pages s).pre = s.pre := by
  rw [imaged, (moveHoldings_itemsStand _ _ _ _ _).pre, moveParts_pre, (writeImage_itemsStand _ _ _ _).pre]

theorem imaged_state (h : Nat) (la : Launch) (base pages : Nat) (s : State) :
    (Map.find h (imaged h la base pages s).launches).map (·.state) = (Map.find h s.launches).map (·.state) := by
  rw [imaged, (moveHoldings_itemsStand _ _ _ _ _).launches, moveParts_state, (writeImage_itemsStand _ _ _ _).launches]

/-- A launch that is saved is pre-empted, and its image stands where it was saved. -/
theorem savedState_launch {h : Nat} (hla : Map.find h s.launches = some la) (base pages : Nat) :
    ∃ lb, Map.find h (savedState h la base pages s).launches = some lb ∧ lb.state = .preempted
      ∧ lb.image = some ⟨base, pages⟩ := by
  have hkept := imaged_state h la base pages s
  rw [hla, Option.map_some, Option.map_eq_some_iff] at hkept
  obtain ⟨lb, hlb, -⟩ := hkept
  exact ⟨lb.saved ⟨base, pages⟩, (Map.find_adjust_self _ _ _).trans (by rw [hlb]; rfl), rfl, rfl⟩

theorem savedState_pre (h : Nat) (la : Launch) (base pages : Nat) (s : State) : (savedState h la base pages s).pre = s.pre :=
  imaged_pre h la base pages s

/-- The items of a launch that is saved stand on shadow tiles. -/
theorem savedState_item {h id : Nat} {it : Item} (hit : Map.find id s.items = some it) (hla : it.launch = h)
    (htile : it.tile < 768) (l : Launch) (base pages : Nat) :
    ∃ kept, Map.find id (savedState h l base pages s).items = some kept ∧ kept.tile = shadowTile it.tile ∧ kept.num = it.num
      ∧ kept.stage = it.stage ∧ kept.record = it.record := by
  refine ⟨(saveMove h).item it, ?_, saveMove_item hla htile⟩
  change Map.find id (imaged h l base pages s).items = _
  rw [imaged_items, Map.find_map, hit, Option.map_some]

/-- SAVE_COMPLETE of a launch that has stopped: the operation ends, the launch is pre-empted with its image, and its items
stand on shadow tiles. -/
theorem saveComplete_stopped (hbusy : preBusy s 0 s.preLaunch = true) (hla : Map.find s.preLaunch s.launches = some la)
    (hstate : la.state = .preempting) (hstopped : launchStopped s s.preLaunch la = true) :
    ∃ (t : State) (lb : Launch), exec .saveComplete s = .next t ∧ PreEnded none s t
      ∧ Map.find s.preLaunch t.launches = some lb ∧ lb.state = .preempted
      ∧ lb.image = some ⟨imageBase s, s.pre.stat.toNat % 2 ^ 32⟩
      ∧ ∀ (id : Nat) (it : Item), Map.find id s.items = some it → it.launch = s.preLaunch → it.tile < 768 →
        ∃ kept, Map.find id t.items = some kept ∧ kept.tile = shadowTile it.tile ∧ kept.num = it.num
          ∧ kept.stage = it.stage ∧ kept.record = it.record := by
  obtain ⟨lb, hlb, hsaved, himage⟩ := savedState_launch hla (imageBase s) (s.pre.stat.toNat % 2 ^ 32)
  have hstand := (wakeTiles_plans la (preEnd none
    (savedState s.preLaunch la (imageBase s) (s.pre.stat.toNat % 2 ^ 32) s))).itemsStand
  refine ⟨_, lb, exec_saveComplete_stopped hbusy hla hstate hstopped, ?_, ?_, hsaved, himage, fun id it hit hmine htile => ?_⟩
  · exact preEnd_ended (by simp) (savedState_pre _ _ _ _ s) hstand.pre
  · rwa [hstand.launches, preEnd_launches]
  · rw [hstand.items, preEnd_items]
    exact savedState_item hit hmine htile la _ _

end Save

end Sys2Proof.Machine
end

section
/-! RESTORE (R406): where the whole image fits it is brought back, its launch restoring; else nothing changes. -/

namespace Sys2Proof.Machine

/-! ## Sections and convoys -/

/-- A launch that is there is in the state it was in. -/
def StateKept (h : Nat) (s t : State) : Prop :=
  (Map.find h t.launches).map (·.state) = (Map.find h s.launches).map (·.state)

theorem StateKept.refl (h : Nat) (s : State) : StateKept h s s := rfl

theorem StateKept.trans {h : Nat} {s t u : State} (k : StateKept h s t) (k' : StateKept h t u) : StateKept h s u :=
  Eq.trans k' k

theorem StateKept.of_launches {s t : State} (hl : t.launches = s.launches) (h : Nat) : StateKept h s t := by
  unfold StateKept
  rw [hl]

theorem restoreConvoys_kept {h : Nat} {la : Launch} {shift : Int} {cs : List (Nat × Convoy)} {s t : State}
    (ht : restoreConvoys h la shift cs s = some t) : StateKept h s t := by
  induction cs generalizing s with
  | nil => cases ht; exact .refl h _
  | cons c cs ih =>
    unfold restoreConvoys at ht
    obtain ⟨b, -, ht⟩ := Option.bind_eq_some_iff.1 ht
    refine StateKept.trans ?_ (ih ht)
    exact .of_launches (takeShare_tilesOnly h _ b (la.cshare / 4) false s).itemsStand.launches h

theorem restoreTile_launches {h : Nat} {la : Launch} {t u : Nat} {s s' : State} (hs : restoreTile h la t u s = some s') :
    s'.launches = s.launches := by
  unfold restoreTile at hs
  split at hs
  · cases hs
  · obtain ⟨r, -, rfl⟩ := Option.map_eq_some_iff.1 hs
    rfl

theorem rebase_itemsStand (h tile context base size : Nat) (s : State) : ItemsStand s (rebase h tile context base size s) :=
  .of_fields rfl rfl rfl rfl

/-- An item of an image put into its place: its windows, and its rows. -/
def placeRestored (h : Nat) (la : Launch) (t u : Nat) (spots : List (Nat × Spot)) (s : State) (x : Nat × Item) : State :=
  match spots.find? fun y => y.1 == x.1 with
  | some y =>
    let s := y.2.contexts.foldl (fun s c => rebase h t c.1 c.2 (stageOf la x.2).lpriv s) s
    (moveRows h u x.2.accBase t y.2.accBase (stageOf la x.2).accrows s).adjItem x.1 fun it => { it with accBase := y.2.accBase }
  | none => s

theorem placeRestored_launchesStand (h : Nat) (la : Launch) (t u : Nat) (spots : List (Nat × Spot)) (s : State)
    (x : Nat × Item) : LaunchesStand s (placeRestored h la t u spots s x) := by
  unfold placeRestored
  split
  · exact (ItemsStand.foldl (fun s _ => rebase_itemsStand _ _ _ _ _ s) _ s).toLaunchesStand.trans
      ((moveRows_tilesOnly _ _ _ _ _ _ _).itemsStand.toLaunchesStand.trans (.adjItem _ _ _))
  · exact .refl s

theorem restoreSection_kept {h : Nat} {la : Launch} {t u : Nat} {s s' : State} (hs : restoreSection h la t u s = some s') :
    StateKept h s s' := by
  unfold restoreSection at hs
  obtain ⟨s₁, hs₁, hs⟩ := Option.bind_eq_some_iff.1 hs
  obtain ⟨r, -, hs⟩ := Option.bind_eq_some_iff.1 hs
  refine (StateKept.of_launches (restoreTile_launches hs₁) h).trans (StateKept.trans ?_
    (.of_launches (moveCommands_itemsStand hs).launches h))
  refine StateKept.trans ?_ (.of_launches (LaunchesStand.foldl (placeRestored_launchesStand h la t u r.1) _ _).launches h)
  exact moveParts_state _ h _

theorem restoreSections_kept {h : Nat} {la : Launch} {shift : Int} {us : List Nat} {s t : State}
    (ht : restoreSections h la shift us s = some t) : StateKept h s t := by
  induction us generalizing s with
  | nil => cases ht; exact .refl h _
  | cons u us ih =>
    obtain ⟨s₁, hs₁, ht⟩ := Option.bind_eq_some_iff.1 ht
    exact (restoreSection_kept hs₁).trans (ih ht)

/-- An image is brought back without a change of its launch's state. -/
theorem restoreAll_kept {h : Nat} {la : Launch} {shift : Int} {s t : State} (ht : restoreAll h la shift s = some t) :
    StateKept h s t := by
  unfold restoreAll at ht
  obtain ⟨s₁, hconvoys, ht⟩ := Option.bind_eq_some_iff.1 ht
  obtain ⟨s₂, hsections, ht⟩ := Option.bind_eq_some_iff.1 ht
  refine (restoreConvoys_kept hconvoys).trans ((restoreSections_kept hsections).trans ?_)
  split at ht
  · cases ht
  · cases ht
    refine .of_launches (ItemsStand.foldl (fun s u => ?_) _ s₂).launches h
    exact .foldl (fun s g => reload_itemsStand _ _ _ _ _ s) _ s

/-! ## The event -/

/-- The first cluster of a launch once it is restored. -/
def newBase (s : State) (la : Launch) : Nat :=
  if s.pre.goCmd.getLsbD 57 then s.pre.goCmd.toNat / 2 ^ 40 % 2 ^ 8 else la.clbase

/-- A launch on its way back, its clusters moved by `newBase - clbase`. -/
def movedLaunch (s : State) (la : Launch) : Launch :=
  { la with
    clbase := newBase s la, state := .restoring
    shape := la.shape.map fun x => (((x.1 : Int) + ((newBase s la : Int) - la.clbase)).toNat, x.2) }

/-- The package with a launch's image brought back, if it fits. -/
def broughtBack (s : State) (la : Launch) : Option State :=
  restoreAll s.preLaunch (movedLaunch s la) ((newBase s la : Int) - la.clbase)
    { s with launches := Map.insert s.preLaunch (movedLaunch s la) s.launches }

section Restore

variable {la : Launch} {s u : State}

theorem exec_restore_busy (hbusy : preBusy s 1 s.preLaunch = true) (hla : Map.find s.preLaunch s.launches = some la) :
    exec .restore s = if la.state != .preempted then .next s
      else match broughtBack s la with
        | some u => .next (u.later .restoreFill)
        | none => .next s := by
  change execRestore s = _
  simp only [execRestore, bitsOf_goCmd, hbusy, hla]
  rfl

theorem exec_restore_waits (hbusy : preBusy s 1 s.preLaunch = true) (hla : Map.find s.preLaunch s.launches = some la)
    (h : la.state ≠ .preempted ∨ broughtBack s la = none) : exec .restore s = .next s := by
  rw [exec_restore_busy hbusy hla]
  rcases h with h | h
  · simp [h]
  · rw [h, ite_self]

theorem exec_restore_fits (hbusy : preBusy s 1 s.preLaunch = true) (hla : Map.find s.preLaunch s.launches = some la)
    (hstate : la.state = .preempted) (hu : broughtBack s la = some u) : exec .restore s = .next (u.later .restoreFill) := by
  rw [exec_restore_busy hbusy hla, hstate, hu]
  rfl

theorem broughtBack_state (hu : broughtBack s la = some u) : (Map.find s.preLaunch u.launches).map (·.state) = some .restoring := by
  have hkept : StateKept s.preLaunch _ u := restoreAll_kept hu
  rw [StateKept, Map.find_insert_self] at hkept
  exact hkept

end Restore

end Sys2Proof.Machine
end

section
/-! RESTORE_FILL (R406): the launch is live again, and each of its tiles looks for items. -/

namespace Sys2Proof.Machine

section ResumeTile

variable (h tile : Nat) (s : State)

theorem resumeItem_launchesStand (x : Nat × Item) : LaunchesStand s
    (let s := raiseHeld x.1 (arrayNext tile x.1 s)
     if itemOver s x.2 then s.once (.itemRetire x.1) else s.later (.laneOpPerform x.1)) := by
  refine (arrayNext_plans tile x.1 s).itemsStand.toLaunchesStand.trans ((raiseHeld_launchesStand x.1 _).trans ?_)
  dsimp only
  split
  · exact (once_plans _ _).itemsStand.toLaunchesStand
  · exact (later_plans _ _).itemsStand.toLaunchesStand

/-- The engines of a tile, and its search for items, after a refresh. -/
def refreshTile : State := wakeTile tile ((refresh tile .system s).later (.copyEntryStart tile))

theorem refreshTile_launchesStand : LaunchesStand s (refreshTile tile s) :=
  ((refresh_alone tile .system s).itemsStand.trans
    ((later_plans _ _).itemsStand.trans (wakeTile_plans _ _).itemsStand)).toLaunchesStand

theorem refreshTile_resumeTile : LaunchesStand (refreshTile tile s) (resumeTile h tile s) :=
  (later_plans _ _).itemsStand.toLaunchesStand.trans (.foldl (fun s x => resumeItem_launchesStand tile s x) _ _)

theorem resumeTile_launchesStand : LaunchesStand s (resumeTile h tile s) :=
  (refreshTile_launchesStand tile s).trans (refreshTile_resumeTile h tile s)

theorem mem_plan_resumeTile : .event (.itemAdmission tile) ∈ (resumeTile h tile s).plan :=
  (refreshTile_resumeTile h tile s).plan (mem_plan_once _ _)

end ResumeTile

/-- What goes on again on some tiles. -/
def resumeTiles (h : Nat) (tiles : List Nat) (s : State) : State := tiles.foldl (fun s t => resumeTile h t s) s

theorem resumeTiles_launchesStand (h : Nat) (tiles : List Nat) (s : State) : LaunchesStand s (resumeTiles h tiles s) :=
  .foldl (fun s t => resumeTile_launchesStand h t s) tiles s

theorem mem_plan_resumeTiles (h : Nat) {tiles : List Nat} {tile : Nat} (ht : tile ∈ tiles) (s : State) :
    .event (.itemAdmission tile) ∈ (resumeTiles h tiles s).plan := by
  induction tiles generalizing s with
  | nil => cases ht
  | cons t tiles ih =>
    rcases List.mem_cons.1 ht with rfl | ht
    · exact (resumeTiles_launchesStand h tiles _).plan (mem_plan_resumeTile h tile s)
    · exact ih ht _

section RestoreFill

variable {la : Launch} {s : State}

/-- A launch that goes on after a restore. -/
def Launch.resumed (la : Launch) : Launch := { la with state := .live, image := none }

/-- A launch's tiles go on. -/
def resumedState (s : State) : State :=
  resumeTiles s.preLaunch (heldTiles s s.preLaunch) (s.adjLaunch s.preLaunch (·.resumed))

theorem exec_restoreFill_other (hbusy : preBusy s 1 s.preLaunch = true) (hla : Map.find s.preLaunch s.launches = some la)
    (hstate : la.state ≠ .restoring) : exec .restoreFill s = .next s := by
  change execRestoreFill s = _
  simp [execRestoreFill, bitsOf_goCmd, hbusy, hla, hstate]

theorem exec_restoreFill_restoring (hbusy : preBusy s 1 s.preLaunch = true) (hla : Map.find s.preLaunch s.launches = some la)
    (hstate : la.state = .restoring) :
    exec .restoreFill s = .next (endIfOver s.preLaunch (wakePrograms (preEnd none (resumedState s)))) := by
  change execRestoreFill s = _
  simp only [execRestoreFill, bitsOf_goCmd, hbusy, hla, hstate]
  rfl

theorem resumedState_pre (s : State) : (resumedState s).pre = s.pre := (resumeTiles_launchesStand _ _ _).pre

theorem resumedState_launch (hla : Map.find s.preLaunch s.launches = some la) :
    Map.find s.preLaunch (resumedState s).launches = some la.resumed := by
  rw [resumedState, (resumeTiles_launchesStand _ _ _).launches, State.adjLaunch_launches, Map.find_adjust_self, hla,
    Option.map_some]

/-- RESTORE_FILL of a launch that is restoring: the operation ends, the launch is live, and its tiles look for items. -/
theorem restoreFill_restoring (hbusy : preBusy s 1 s.preLaunch = true) (hla : Map.find s.preLaunch s.launches = some la)
    (hstate : la.state = .restoring) :
    ∃ (t : State) (lb : Launch), exec .restoreFill s = .next t ∧ PreEnded none s t
      ∧ Map.find s.preLaunch t.launches = some lb ∧ lb.state = .live ∧ lb.image = none
      ∧ ∀ tile ∈ heldTiles s s.preLaunch, .event (.itemAdmission tile) ∈ t.plan := by
  have hwoken := (wakePrograms_plans (preEnd none (resumedState s))).trans (endIfOver_plans s.preLaunch _)
  refine ⟨_, la.resumed, exec_restoreFill_restoring hbusy hla hstate, ?_, ?_, rfl, rfl, fun tile htile => ?_⟩
  · exact preEnd_ended (by simp) (resumedState_pre s) hwoken.itemsStand.pre
  · rw [hwoken.itemsStand.launches, preEnd_launches]
    exact resumedState_launch hla
  · refine hwoken.plan ?_
    rw [preEnd_plan]
    exact mem_plan_resumeTiles s.preLaunch htile _

end RestoreFill

end Sys2Proof.Machine
end

section
/-! Items are admitted and retired; launches are pre-empted and restored (R112, R147, R374, R382, R399, R401, R403 to R406). -/

namespace Sys2Proof.Machine

/-- Settles O59: an admission seats its item with fresh strands, a retirement erases it and counts it, a save maps the items
to shadow tiles, and a restore keeps what `restoreAll` brings back; memory accesses and turns leave all of these alone. -/
theorem itemsAndImagesComeAndGo : Obligations.ItemsAndImagesComeAndGo := by
  refine ⟨fun tile s => ⟨exec_itemAdmission_none, fun w la hw hnone hla => ?_, fun w ws u hw hu => ?_⟩,
    fun item s => ⟨exec_itemRetire_none, fun it hit => ⟨exec_itemRetire_running hit, ?_⟩⟩,
    fun launch stage item s => ⟨exec_priorityAging_none, fun la hla => ⟨fun h => ?_, fun hwaits hlive htop => ?_⟩⟩,
    fun s => ⟨fun hidle => ⟨exec_of_idle rfl hidle, exec_of_idle rfl hidle⟩,
      fun hidle => ⟨exec_of_idle rfl hidle, exec_of_idle rfl hidle⟩, fun hgone i hi => ?_,
      fun la hla => ⟨fun hbusy => ?preemption, fun hbusy => ?restore⟩⟩⟩
  · refine ⟨fun c hc => ?_, fun hne => ?_, _, exec_itemAdmission_crowded hw hnone hla, (releaseCrews_plans _ s).rest,
      fun c => mem_releaseCrews⟩
    · rcases neededCrews_cases tile (effectivePrio la w) w s with hnil | ⟨hsub, -⟩
      · rw [hnil] at hc
        cases hc
      · exact hsub hc
    · exact ((neededCrews_cases tile (effectivePrio la w) w s).resolve_left hne).2
  · have hplans := once_plans (.itemAdmission tile) u
    refine ⟨_, exec_itemAdmission_first hw hu, mem_plan_once _ u, hplans.rest, fun la hla hdet hcapture hgroup => ?_⟩
    exact (admitWaiting_admitted hla hdet hcapture hgroup hu).of_fields hplans.itemsStand.items hplans.strands
  · intro la hla hover hdet hlive hlost hcopies harray hroutes hprogs hkeys hsegs
    exact itemRetire_over hit hla hover hdet hlive hlost (discardGuarded_of_idle hit hcopies harray hroutes)
      (nothingLeft_of_idle hcopies harray hroutes hprogs hkeys hsegs)
  · rw [← itemWaits_iff, ← seven_le_effectivePrio_iff (launch := launch)] at h
    exact exec_priorityAging_stays hla h
  · rw [← itemWaits_iff] at hwaits
    rw [← seven_le_effectivePrio_iff (launch := launch)] at htop
    exact priorityAging_ages hla hwaits hlive htop
  · refine ⟨preEnd (some 1) s, ?_, rfl, preEnd_ended (by simp) rfl rfl⟩
    rcases hi with ⟨hbusy, rfl | rfl⟩ | ⟨hbusy, rfl | rfl⟩ <;> exact exec_of_gone rfl hbusy hgone
  case preemption =>
    exact ⟨fun hrun => ⟨exec_preempt_running hbusy hla hrun, exec_saveComplete_running hbusy hla hrun⟩,
      fun ⟨hstate, hstopped⟩ =>
        ⟨preempt_stopped hbusy hla hstate hstopped, saveComplete_stopped hbusy hla hstate hstopped⟩⟩
  case restore =>
    refine ⟨exec_restore_waits hbusy hla, fun u hstate hu => ?_, exec_restoreFill_other hbusy hla,
      restoreFill_restoring hbusy hla⟩
    have hback : broughtBack s la = some u := hu
    exact ⟨_, exec_restore_fits hbusy hla hstate hback, rfl, broughtBack_state (u := u) hback⟩

end Sys2Proof.Machine
end

section
/-! What the end of an engine's command leaves alone (R147, R170): answers, deaths, reports and causes change strands,
launches and turns, and of an item neither its tile nor its deferred decrements. -/

namespace Sys2Proof.Machine

/-- The tiles, the dies, the health registers and what launches hold on tiles are as they were, and every item is still
there with its tile and its deferred decrements. -/
structure EnginesStand (s t : State) : Prop where
  held : t.held = s.held
  tiles : t.tiles = s.tiles
  dies : t.dies = s.dies
  health : t.health = s.health
  items : ∀ k it, Map.find k s.items = some it →
    ∃ it', Map.find k t.items = some it' ∧ it'.tile = it.tile ∧ it'.deferred = it.deferred

section Frame

variable {s t u : State}

theorem EnginesStand.of_fields (hheld : t.held = s.held) (htiles : t.tiles = s.tiles) (hdies : t.dies = s.dies)
    (hhealth : t.health = s.health) (hitems : t.items = s.items) : EnginesStand s t :=
  ⟨hheld, htiles, hdies, hhealth, fun _ it h => ⟨it, hitems ▸ h, rfl, rfl⟩⟩

theorem EnginesStand.refl (s : State) : EnginesStand s s := .of_fields rfl rfl rfl rfl rfl

theorem EnginesStand.trans (h : EnginesStand s t) (k : EnginesStand t u) : EnginesStand s u where
  held := k.held.trans h.held
  tiles := k.tiles.trans h.tiles
  dies := k.dies.trans h.dies
  health := k.health.trans h.health
  items n it hit := by
    obtain ⟨it', hit', htile, hdeferred⟩ := h.items n it hit
    obtain ⟨it'', hit'', htile', hdeferred'⟩ := k.items n it' hit'
    exact ⟨it'', hit'', htile'.trans htile, hdeferred'.trans hdeferred⟩

theorem EnginesStand.foldl {α : Type} {f : State → α → State} (h : ∀ s x, EnginesStand s (f s x)) (l : List α) (s : State) :
    EnginesStand s (l.foldl f s) :=
  List.foldlRecOn l f (.refl s) fun t ht x _ => ht.trans (h t x)

theorem EnginesStand.tile (h : EnginesStand s t) (n : Nat) : t.tile n = s.tile n := by rw [State.tile, h.tiles, State.tile]

theorem EnginesStand.die (h : EnginesStand s t) (n : Nat) : t.die n = s.die n := by rw [State.die, h.dies, State.die]

theorem EnginesStand.tileDown (h : EnginesStand s t) (n : Nat) : tileDown t n = tileDown s n := by
  simp only [Machine.tileDown, tileState, h.health]

theorem EnginesStand.counterAt (h : EnginesStand s t) (tile launch k : Nat) :
    counterAt t tile launch k = counterAt s tile launch k := by simp only [Machine.counterAt, State.heldAt, h.held]

theorem EnginesStand.crews (h : EnginesStand s t) (m : Map Crew) : EnginesStand s { t with crews := m } :=
  h.trans (.of_fields rfl rfl rfl rfl rfl)

theorem Plans.enginesStand (h : Plans s t) : EnginesStand s t :=
  .of_fields (by rw [h.rest]) (by rw [h.rest]) (by rw [h.rest]) (by rw [h.rest]) (by rw [h.rest])

end Frame

/-! ## Parts of the state -/

theorem adjStrand_enginesStand (k : Nat) (f : Strand → Strand) (s : State) : EnginesStand s (s.adjStrand k f) :=
  .of_fields rfl rfl rfl rfl rfl

theorem setStrand_enginesStand (k : Nat) (x : Strand) (s : State) : EnginesStand s (s.setStrand k x) :=
  .of_fields rfl rfl rfl rfl rfl

theorem adjLaunch_enginesStand (k : Nat) (f : Launch → Launch) (s : State) : EnginesStand s (s.adjLaunch k f) :=
  .of_fields rfl rfl rfl rfl rfl

theorem soon_enginesStand (i : Instr) (s : State) : EnginesStand s (s.soon i) := .of_fields rfl rfl rfl rfl rfl

theorem free_enginesStand (s : State) : EnginesStand s s.free.2 := .of_fields rfl rfl rfl rfl rfl

theorem goFatal_enginesStand (launch cause k : Nat) (s : State) : EnginesStand s (goFatal launch cause k s) :=
  .of_fields rfl rfl rfl rfl rfl

theorem find_adjItem {s : State} {n : Nat} {it : Item} (hit : Map.find n s.items = some it) (k : Nat) (f : Item → Item) :
    Map.find n (s.adjItem k f).items = some (if n = k then f it else it) := by
  rw [State.adjItem_items, Map.find_adjust]
  split
  next h => rw [← h, hit, Option.map_some]
  next => exact hit

/-- A change of an item that keeps its tile and its deferred decrements. -/
theorem adjItem_enginesStand (k : Nat) (f : Item → Item) (s : State) (htile : ∀ it, (f it).tile = it.tile := by intro; rfl)
    (hdeferred : ∀ it, (f it).deferred = it.deferred := by intro; rfl) : EnginesStand s (s.adjItem k f) where
  held := rfl
  tiles := rfl
  dies := rfl
  health := rfl
  items n it hit := by
    refine ⟨_, find_adjItem hit k f, ?_⟩
    split
    · exact ⟨htile it, hdeferred it⟩
    · exact ⟨rfl, rfl⟩

/-! ## Causes and reports -/

theorem report_enginesStand (tile launch strand cause : Nat) (r : FaultRec) (s : State) :
    EnginesStand s (report tile launch strand cause r s) := by
  unfold report
  dsimp only
  split <;> exact .of_fields rfl rfl rfl rfl rfl

theorem reportStrand_enginesStand (k cause : Nat) (r : Raise) (s : State) : EnginesStand s (reportStrand k cause r s) := by
  unfold reportStrand
  split
  · exact .refl s
  · split
    · exact .refl s
    · split
      · exact .refl s
      · exact report_enginesStand _ _ _ _ _ s

theorem charge_enginesStand (k : Nat) (r : Raise) (s : State) : EnginesStand s (charge k r s) := by
  rcases charge_cases k r s with ⟨e, h⟩ | h | h <;> rw [h]
  · exact adjStrand_enginesStand e _ s
  · exact reportStrand_enginesStand _ _ _ s
  · exact .refl s

theorem chargeElected_enginesStand (item : Nat) (r : Raise) (s : State) : EnginesStand s (chargeElected item r s) := by
  unfold chargeElected
  split
  · exact .refl s
  · split
    · exact charge_enginesStand _ _ s
    · split
      · exact report_enginesStand _ _ _ _ _ s
      · exact .refl s

/-! ## Ends of lanes -/

theorem settleBarriers_enginesStand (item : Nat) (s : State) : EnginesStand s (settleBarriers item s) := by
  unfold settleBarriers
  split
  · exact .refl s
  next it _ =>
    have hown := adjItem_enginesStand item
      (fun x => { x with bars := it.bars.map fun y => (y.1, y.2.settle (liveStrands s it)) }) s
    dsimp only
    split
    · exact hown.trans (.of_fields rfl rfl rfl rfl rfl)
    · exact hown

theorem adjQueue_enginesStand (launch n : Nat) (f : Queue → Queue) (s : State) : EnginesStand s (adjQueue launch n f s) :=
  adjLaunch_enginesStand launch _ s

theorem releaseRecord_enginesStand (item : Nat) (s : State) : EnginesStand s (releaseRecord item s) := by
  unfold releaseRecord
  split
  · exact .refl s
  · split
    · exact .refl s
    · dsimp only
      refine .trans (.trans ?_ (adjQueue_enginesStand _ _ _ _)) (wakeLaunch_plans _ _).enginesStand
      exact adjItem_enginesStand item _ s

theorem releaseIfPopped_enginesStand (item : Nat) (s : State) : EnginesStand s (releaseIfPopped item s) := by
  unfold releaseIfPopped
  split
  · exact .refl s
  · split
    · exact releaseRecord_enginesStand _ s
    · exact .refl s

theorem afterExit_enginesStand (item : Nat) (s : State) : EnginesStand s (afterExit item s) := by
  refine ((settleBarriers_enginesStand item s).trans (releaseIfPopped_enginesStand item _)).trans ?_
  unfold afterExit
  dsimp only
  split
  · exact .refl _
  · split
    · exact (later_plans _ _).enginesStand
    · split
      · exact (later_plans _ _).enginesStand
      · exact .refl _

theorem wakeOthers_enginesStand (k : Nat) (ids : List Nat) (s : State) : EnginesStand s (wakeOthers k ids s) := by
  unfold wakeOthers
  split
  · exact .refl s
  · split
    · exact .refl s
    · refine .foldl (fun s j => ?_) _ s
      split
      · exact .foldl (fun s p => (later_plans _ s).enginesStand) _ s
      · exact .refl s

theorem doubleFault_enginesStand (k second : Nat) (s : State) : EnginesStand s (doubleFault k second s) := by
  unfold doubleFault
  split
  · exact .refl s
  · dsimp only
    refine .trans ?_ (afterExit_enginesStand _ _)
    have hends := fun ids x => (setStrand_enginesStand k x s).trans (wakeOthers_enginesStand k ids _)
    split
    · split
      · exact (hends _ _).trans (report_enginesStand _ _ _ _ _ _)
      · exact hends _ _
    · exact hends _ _

theorem chargeOwn_enginesStand (k : Nat) (r : Raise) (s : State) : EnginesStand s (chargeOwn k r s) := by
  unfold chargeOwn
  split
  · exact .refl s
  · split
    · exact soon_enginesStand _ s
    · split
      · exact doubleFault_enginesStand _ _ s
      · exact charge_enginesStand _ _ s

theorem killLane_enginesStand (k lane source : Nat) (s : State) : EnginesStand s (killLane k lane source s) := by
  unfold killLane
  split
  · exact .refl s
  · split
    · exact .refl s
    · dsimp only
      refine .trans (.trans (.trans ?_ (adjItem_enginesStand _ _ _)) (reportStrand_enginesStand _ _ _ _))
        (afterExit_enginesStand _ _)
      exact (setStrand_enginesStand _ _ s).trans (wakeOthers_enginesStand _ _ _)

theorem markDead_enginesStand (k lane source : Nat) (s : State) : EnginesStand s (markDead k lane source s) := by
  unfold markDead
  split
  · exact .refl s
  · split
    · exact killLane_enginesStand _ _ _ s
    · split
      · exact .refl s
      · dsimp only
        have hdies := fun x i => (setStrand_enginesStand k x s).trans (soon_enginesStand i _)
        split
        · split
          · exact (hdies _ _).trans (killLane_enginesStand _ _ _ _)
          · exact hdies _ _
        · exact hdies _ _

/-! ## Answers -/

theorem complete_enginesStand (k : Nat) (p : Pending) (s : State) : EnginesStand s (complete k p s) := by
  unfold complete
  dsimp only
  have haccept := fun f => adjStrand_enginesStand k f s
  split
  · exact haccept _
  · refine .trans (.trans ?_ (.foldl (fun s l => markDead_enginesStand k l 1 s) _ _))
      (.foldl (fun s c => chargeOwn_enginesStand k _ s) _ _)
    split
    · exact haccept _
    · split
      · exact .crews (haccept _) _
      · exact (haccept _).trans (adjItem_enginesStand _ _ _)

theorem settle_enginesStand (force : Bool) (k : Nat) (s : State) : EnginesStand s (settle force k s) := by
  unfold settle
  split
  · exact .refl s
  · exact .foldl (fun s p => complete_enginesStand k p s) _ s

theorem respond_enginesStand (k id : Nat) (s : State) : EnginesStand s (respond k id s) := by
  unfold respond
  split
  · exact .refl s
  · exact (adjStrand_enginesStand k _ s).trans (settle_enginesStand _ _ _)

theorem giveResult_enginesStand (e : Command) (s : State) : EnginesStand s (giveResult e s) := by
  unfold giveResult
  split
  · exact .refl s
  · exact (adjStrand_enginesStand _ _ s).trans (respond_enginesStand _ _ _)

theorem giveOpen_enginesStand (e : Command) (s : State) : EnginesStand s (giveOpen e s) := by
  unfold giveOpen
  split
  · exact giveResult_enginesStand e s
  · exact (free_enginesStand s).trans (giveResult_enginesStand _ _)

end Sys2Proof.Machine
end

section
/-! How an engine's command ends (R147, R170): its result is given, its errors are reported, its counter goes down by one, and
what waited for it looks again. -/

namespace Sys2Proof.Machine

theorem die_setDie (s : State) (k n : Nat) (x : Die) : (s.setDie k x).die n = if n = k then x else s.die n := by
  simp only [State.die, State.setDie, Map.find_insert]
  split <;> rfl

/-! ## Counters (R246, R247) -/

theorem counterAt_adjHeld {s : State} {tile launch : Nat} {h : TileLaunch} (hheld : Map.find (heldKey tile launch) s.held = some h)
    (k : Nat) (x : BitVec 32) :
    counterAt (s.adjHeld tile launch fun h => { h with counters := Table.put 0 k x h.counters }) tile launch k = x := by
  simp only [counterAt, State.heldAt, State.adjHeld, Map.find_adjust_self, hheld, Option.map_some, Option.getD_some]
  rw [Table.get_put, if_pos rfl]

/-- A counter is set in what its launch holds; beyond that a turn may be planned. -/
theorem setCounter_plans (tile launch k : Nat) (x : BitVec 32) (s : State) :
    Plans (s.adjHeld tile launch fun h => { h with counters := Table.put 0 k x h.counters }) (setCounter tile launch k x s) := by
  have hwoken (b : Bool) (u : State) : Plans u (if b then u.later (.itemAdmission tile) else u) := by
    cases b
    · exact .refl u
    · exact later_plans _ u
  exact hwoken _ _

theorem toInt_clampCounter_pred (v : BitVec 32) :
    (clampCounter (v.toInt - 1)).1.toInt = max (-(2 ^ 31)) (v.toInt - 1) := by
  have hlo := BitVec.le_toInt v
  have hhi := BitVec.toInt_lt (x := v)
  unfold clampCounter
  split
  · have : (0x80000000 : BitVec 32).toInt = -(2 ^ 31) := by decide
    rw [this]
    omega
  · rw [if_neg (by omega), BitVec.toInt_ofInt_eq_self (by decide) (by omega) (by omega)]
    omega

theorem counterAt_countDown {s : State} {tile launch : Nat} {h : TileLaunch}
    (hheld : Map.find (heldKey tile launch) s.held = some h) (k : Nat) :
    (counterAt (countDown tile launch k s) tile launch k).toInt = max (-(2 ^ 31)) ((counterAt s tile launch k).toInt - 1) := by
  rw [countDown, (setCounter_plans _ _ _ _ _).enginesStand.counterAt, counterAt_adjHeld hheld, toInt_clampCounter_pred]

/-- Counting down touches what the launch holds and the turns. -/
theorem countDown_rest (tile launch k : Nat) (s : State) :
    countDown tile launch k s = { s with held := (countDown tile launch k s).held, plan := (countDown tile launch k s).plan } := by
  rw [countDown, (setCounter_plans _ _ _ _ _).rest]
  rfl

theorem countEnd_undeferred {s : State} {item id : Nat} {it : Item} (hit : Map.find item s.items = some it)
    (hdeferred : ∀ d ∈ it.deferred, d.id ≠ id) (tile launch k : Nat) :
    countEnd tile launch item id k s = countDown tile launch k s := by
  simp only [countEnd, hit]
  rw [if_neg]
  simpa using hdeferred

/-! ## What follows -/

theorem noteProgram_enginesStand (e : Command) (engine : Nat) (s : State) : EnginesStand s (noteProgram e engine s) := by
  unfold noteProgram
  split
  · exact .refl s
  · exact adjItem_enginesStand _ _ s

theorem retireIfOver_plans (item : Nat) (s : State) : Plans s (retireIfOver item s) := by
  unfold retireIfOver
  split
  · split
    · exact later_plans _ s
    · exact .refl s
  · exact .refl s

theorem afterCommand_enginesStand (e : Command) (engine : Nat) (s : State) : EnginesStand s (afterCommand e engine s) :=
  ((noteProgram_enginesStand e engine s).trans (wakePrograms_plans _).enginesStand).trans (retireIfOver_plans _ _).enginesStand

/-- What follows a command's end leaves CPSTAT of every item. -/
theorem afterCommand_cpstat {s : State} {k : Nat} {it : Item} (hit : Map.find k s.items = some it) (e : Command) (engine : Nat) :
    ∃ x, Map.find k (afterCommand e engine s).items = some x ∧ x.cpstat = it.cpstat := by
  have hitems : (afterCommand e engine s).items = (noteProgram e engine s).items :=
    ((wakePrograms_plans _).trans (retireIfOver_plans _ _)).itemsStand.items
  rw [hitems]
  unfold noteProgram
  split
  · exact ⟨it, hit, rfl⟩
  · exact ⟨_, find_adjItem hit _ _, by split <;> rfl⟩

/-! ## Errors (R169, R170, R436) -/

/-- CPSTAT and ENGDETAIL of the item of a command in error. -/
def noteError (routing : Bool) (e : Command) (s : State) : State :=
  s.adjItem e.item fun it => { it with
    cpstat := BitVec.ofNat 64 (putBits (putBits it.cpstat.toNat 28 28 1) 27 22 e.err)
    engdetail := if heldCommands e.item s == [] then BitVec.ofNat 64 (engDetail routing e) else it.engdetail }

/-- The cause of a detail code that a command met, beside its own. -/
def raiseMet (routing strict : Bool) (e : Command) (detail code info0 : Nat) (s : State) : State :=
  match e.met.find? fun m => m.1 == detail with
  | none => s
  | some m =>
    let s := if detail == 3 then s.adjLaunch e.launch fun la => { la with lostrem := true } else s
    if detail == 3 && strict then goFatal e.launch code e.strand s
    else chargeElected e.item { engineRaise 0x53 routing e with code := code, info0 := info0, info1 := m.2 } s

/-- Whether a command's launch ends at a lost access. -/
def strictLaunch (e : Command) (s : State) : Bool :=
  match Map.find e.launch s.launches with
  | some la => la.strict
  | none => false

/-- The peer of a command, which INFO0 of a lost access names. -/
def commandPeer (e : Command) : Nat :=
  match e.op with
  | .copy _ _ _ _ _ p | .fill _ _ _ _ _ p => p.toNat
  | _ => 0

theorem reportError_eq (routing : Bool) (e : Command) (s : State) : reportError routing e s =
    if e.err == 0 then s
    else
      let u := noteError routing e s
      let strict := strictLaunch e u
      let u := raiseMet routing strict e 3 0x60 (commandPeer e)
        (raiseMet routing strict e 4 0x64 0x7F (raiseMet routing strict e 2 0x2D 7 u))
      if e.err == 3 && strict then goFatal e.launch 0x53 e.strand u else chargeElected e.item (engineRaise 0x53 routing e) u := rfl

theorem raiseMet_enginesStand (routing strict : Bool) (e : Command) (detail code info0 : Nat) (s : State) :
    EnginesStand s (raiseMet routing strict e detail code info0 s) := by
  unfold raiseMet
  split
  · exact .refl s
  · have hlost : EnginesStand s (if detail == 3 then s.adjLaunch e.launch fun la => { la with lostrem := true } else s) := by
      split
      · exact adjLaunch_enginesStand _ _ s
      · exact .refl s
    dsimp only
    split
    · exact hlost.trans (goFatal_enginesStand _ _ _ _)
    · exact hlost.trans (chargeElected_enginesStand _ _ _)

theorem raiseMet_items (routing strict : Bool) (e : Command) (detail code info0 : Nat) (s : State) :
    (raiseMet routing strict e detail code info0 s).items = s.items := by
  unfold raiseMet
  split
  · rfl
  · have hlost : (if detail == 3 then s.adjLaunch e.launch fun la => { la with lostrem := true } else s).items = s.items := by
      split <;> rfl
    dsimp only
    split
    · exact hlost
    · exact (chargeElected_itemsStand _ _ _).items.trans hlost

theorem reportError_enginesStand (routing : Bool) (e : Command) (s : State) : EnginesStand s (reportError routing e s) := by
  rw [reportError_eq]
  split
  · exact .refl s
  · have hmet : ∀ strict, EnginesStand s (raiseMet routing strict e 3 0x60 (commandPeer e)
        (raiseMet routing strict e 4 0x64 0x7F (raiseMet routing strict e 2 0x2D 7 (noteError routing e s)))) := fun strict =>
      (((adjItem_enginesStand e.item _ s).trans (raiseMet_enginesStand _ _ _ _ _ _ _)).trans
        (raiseMet_enginesStand _ _ _ _ _ _ _)).trans (raiseMet_enginesStand _ _ _ _ _ _ _)
    dsimp only
    split
    · exact (hmet _).trans (goFatal_enginesStand _ _ _ _)
    · exact (hmet _).trans (chargeElected_enginesStand _ _ _)

/-- Of a command in error, what is raised changes no item beyond CPSTAT and ENGDETAIL of its own. -/
theorem reportError_items {e : Command} (h : e.err ≠ 0) (routing : Bool) (s : State) :
    (reportError routing e s).items = (noteError routing e s).items := by
  rw [reportError_eq, if_neg (by simpa using h)]
  dsimp only
  split
  · exact (raiseMet_items _ _ _ _ _ _ _).trans ((raiseMet_items _ _ _ _ _ _ _).trans (raiseMet_items _ _ _ _ _ _ _))
  · exact (chargeElected_itemsStand _ _ _).items.trans
      ((raiseMet_items _ _ _ _ _ _ _).trans ((raiseMet_items _ _ _ _ _ _ _).trans (raiseMet_items _ _ _ _ _ _ _)))

end Sys2Proof.Machine
end

section
/-! The contexts of dispatches and the ends of RTDISP and RTCOMB (R172, R181, R182). -/

namespace Sys2Proof.Machine

theorem setDie_die (k : Nat) (x : Die) (s : State) : (s.setDie k x).die k = x := by rw [die_setDie, if_pos rfl]

/-! ## Contexts -/

theorem findCtx_eq_some {s : State} {die launch id : Nat} {c : Dispatch} (h : findCtx s die launch id = some c) :
    c.launch = launch ∧ c.id = id := by
  simpa using List.find?_some h

/-- The contexts of a die, one of a dispatch changed. -/
def mapCtx (launch id : Nat) (f : Dispatch → Dispatch) (cs : List Dispatch) : List Dispatch :=
  cs.map fun c => if c.launch == launch && c.id == id then f c else c

theorem mapCtx_of_none {launch id : Nat} {f : Dispatch → Dispatch} {cs : List Dispatch}
    (h : ¬(cs.any fun c => c.launch == launch && c.id == id) = true) : mapCtx launch id f cs = cs := by
  simp only [List.any_eq_true, not_exists, not_and] at h
  exact (List.map_congr_left fun c hc => if_neg (h c hc)).trans (List.map_id _)

/-- One die whose context of a dispatch is changed. -/
def adjCtxOn (launch id : Nat) (f : Dispatch → Dispatch) (d : Nat) (s : State) : State :=
  if (s.die d).ctxs.any fun c => c.launch == launch && c.id == id then
    s.setDie d { s.die d with ctxs := mapCtx launch id f (s.die d).ctxs }
  else s

theorem adjCtx_eq (die launch id : Nat) (f : Dispatch → Dispatch) (s : State) :
    adjCtx die launch id f s = adjCtxOn launch id f (die + 32) (adjCtxOn launch id f die s) := rfl

theorem die_adjCtxOn (launch id : Nat) (f : Dispatch → Dispatch) (d n : Nat) (s : State) :
    (adjCtxOn launch id f d s).die n = if n = d then { s.die d with ctxs := mapCtx launch id f (s.die d).ctxs } else s.die n := by
  unfold adjCtxOn
  split
  · exact die_setDie s d n _
  next h =>
    split
    next hn => rw [mapCtx_of_none h, hn]
    next => rfl

/-- A context is changed where a die holds it, and where the image of a pre-empted dispatch does (R185). -/
theorem die_adjCtx (die launch id : Nat) (f : Dispatch → Dispatch) (n : Nat) (s : State) :
    (adjCtx die launch id f s).die n =
      if n = die ∨ n = die + 32 then { s.die n with ctxs := mapCtx launch id f (s.die n).ctxs } else s.die n := by
  simp only [adjCtx_eq, die_adjCtxOn]
  by_cases hn : n = die + 32
  · rw [if_pos hn, if_neg (by omega), if_pos (.inr hn), hn]
  · simp only [hn, or_false, if_false]
    split
    next h => rw [h]
    next => rfl

theorem adjCtx_rest (die launch id : Nat) (f : Dispatch → Dispatch) (s : State) :
    adjCtx die launch id f s = { s with dies := (adjCtx die launch id f s).dies } := by
  have hon (d : Nat) (s : State) : adjCtxOn launch id f d s = { s with dies := (adjCtxOn launch id f d s).dies } := by
    unfold adjCtxOn
    split <;> rfl
  rw [adjCtx_eq, hon, hon die]

/-- The context of a dispatch after a change that keeps what names it. -/
theorem findCtx_adjCtx {die launch id : Nat} {f : Dispatch → Dispatch} {s : State} {c : Dispatch}
    (hlaunch : ∀ x, (f x).launch = x.launch) (hid : ∀ x, (f x).id = x.id) (h : findCtx s die launch id = some c) :
    findCtx (adjCtx die launch id f s) die launch id = some (f c) := by
  have hnamed := findCtx_eq_some h
  have hkept : (fun x : Dispatch => x.launch == launch && x.id == id)
      ∘ (fun x => if x.launch == launch && x.id == id then f x else x) = fun x => x.launch == launch && x.id == id := by
    funext x
    dsimp only [Function.comp]
    split
    · rw [hlaunch, hid]
    · rfl
  rw [findCtx, die_adjCtx, die_adjCtx, if_pos (.inl rfl), if_pos (.inr rfl)]
  dsimp only
  rw [mapCtx, mapCtx, ← List.map_append, List.find?_map, hkept]
  rw [findCtx] at h
  rw [h, Option.map_some, if_pos (by simp [hnamed])]

/-! ## The end of a routing command -/

/-- The status word of a routing command (R179). -/
def routeStatus (e : Command) (count : Nat) : BitVec 64 := BitVec.ofNat 64 (e.err % 256 * 2 ^ 24 + count % 2 ^ 20)

/-- A command with the value that it answers. -/
def Command.answering (e : Command) (v : BitVec 64) : Command := { e with value2 := v }

/-- The counter of a routing command at its end: that of a fenced tile is left (R184). -/
def countRoute (e : Command) (s : State) : State :=
  match Map.find e.item s.items with
  | some it => if tileDown s it.tile then s else countEnd it.tile e.launch e.item e.id (commandCounter e) s
  | none => s

/-- A routing command taken out of its die's queue. -/
def dropRoute (die id : Nat) (s : State) : State :=
  s.setDie die { s.die die with routes := (s.die die).routes.filter fun x => x.id != id }

/-- A routing command that ends with an answer: the result, the errors, the counter, the queue (R147). -/
def endRoute (die : Nat) (e : Command) (v : BitVec 64) (s : State) : State :=
  afterCommand (e.answering v) 2 ((dropRoute die e.id (countRoute (e.answering v) (reportError true (e.answering v)
    (giveResult (e.answering v) s)))).later (.copyEntryStart (routeQueue die)))

theorem completeRoute_eq (die : Nat) (e : Command) (count : Nat) (s : State) :
    completeRoute die e count s = endRoute die e (routeStatus e count) s := rfl

theorem countDown_die (tile launch k n : Nat) (s : State) : (countDown tile launch k s).die n = s.die n := by
  rw [countDown_rest, State.die, State.die]

/-- A command of a number has left a die's routing queue, and a counter has gone down by one. -/
structure RouteEnded (die id tile launch k : Nat) (s t : State) : Prop where
  routes : (t.die die).routes = (s.die die).routes.filter fun x => x.id != id
  ctxs : (t.die die).ctxs = (s.die die).ctxs
  counter : (counterAt t tile launch k).toInt = max (-(2 ^ 31)) ((counterAt s tile launch k).toInt - 1)

section Route

variable {s : State} {e : Command} {it : Item} {h : TileLaunch}

theorem RouteEnded.of_stand {die id tile launch k : Nat} {u v t : State} (h : RouteEnded die id tile launch k u v)
    (hsu : EnginesStand s u) (hvt : EnginesStand v t) : RouteEnded die id tile launch k s t where
  routes := by rw [hvt.die, h.routes, hsu.die]
  ctxs := by rw [hvt.die, h.ctxs, hsu.die]
  counter := by rw [hvt.counterAt, h.counter, hsu.counterAt]

theorem countRoute_of_up (hit : Map.find e.item s.items = some it) (hup : tileDown s it.tile = false)
    (hdeferred : ∀ d ∈ it.deferred, d.id ≠ e.id) :
    countRoute e s = countDown it.tile e.launch (commandCounter e) s := by
  simp only [countRoute, hit, hup]
  exact countEnd_undeferred hit hdeferred _ _ _

theorem dropRoute_countRoute_ended (die : Nat) (hit : Map.find e.item s.items = some it) (hup : tileDown s it.tile = false)
    (hdeferred : ∀ d ∈ it.deferred, d.id ≠ e.id) (hheld : Map.find (heldKey it.tile e.launch) s.held = some h) :
    RouteEnded die e.id it.tile e.launch (commandCounter e) s (dropRoute die e.id (countRoute e s)) := by
  rw [countRoute_of_up hit hup hdeferred]
  constructor
  · rw [dropRoute, setDie_die, countDown_die]
  · rw [dropRoute, setDie_die, countDown_die]
  · exact counterAt_countDown hheld _

theorem endRoute_ended (die : Nat) (v : BitVec 64) (hit : Map.find e.item s.items = some it) (hup : tileDown s it.tile = false)
    (hdeferred : ∀ d ∈ it.deferred, d.id ≠ e.id) (hheld : Map.find (heldKey it.tile e.launch) s.held = some h) :
    RouteEnded die e.id it.tile e.launch (commandCounter e) s (endRoute die e v s) := by
  have hanswered := (giveResult_enginesStand (e.answering v) s).trans (reportError_enginesStand true (e.answering v) _)
  unfold endRoute
  generalize reportError true (e.answering v) _ = u at hanswered
  obtain ⟨it', hit', htile, hdeferred'⟩ := hanswered.items _ _ hit
  rw [← hanswered.tileDown, ← htile] at hup
  rw [← hanswered.held, ← htile] at hheld
  rw [← hdeferred'] at hdeferred
  rw [← htile]
  exact (dropRoute_countRoute_ended (e := e.answering v) die hit' hup hdeferred hheld).of_stand hanswered
    ((later_plans _ _).enginesStand.trans (afterCommand_enginesStand _ _ _))

theorem completeRoute_ended (die count : Nat) (hit : Map.find e.item s.items = some it) (hup : tileDown s it.tile = false)
    (hdeferred : ∀ d ∈ it.deferred, d.id ≠ e.id) (hheld : Map.find (heldKey it.tile e.launch) s.held = some h) :
    RouteEnded die e.id it.tile e.launch (commandCounter e) s (completeRoute die e count s) := by
  rw [completeRoute_eq]
  exact endRoute_ended die _ hit hup hdeferred hheld

theorem rtdispCompletion_ends {die launch id tile : Nat} (he : dispCommand s die launch id = some e)
    (hfinished : e.finished = true) (hwait : e.wait = []) (hhomed : homedDone s die launch id = true)
    (hended : RouteEnded die e.id tile e.launch (commandCounter e) s (completeRoute die e e.count s)) :
    ∃ t, exec (.rtdispCompletion die launch id) s = .next t
      ∧ (t.die die).routes = (s.die die).routes.filter (fun x => x.id != e.id)
      ∧ (t.die die).ctxs = (s.die die).ctxs.filter (fun x => !(x.launch == launch && x.id == id))
      ∧ (counterAt t tile e.launch (commandCounter e)).toInt
          = max (-(2 ^ 31)) ((counterAt s tile e.launch (commandCounter e)).toInt - 1) := by
  refine ⟨closeCtx die launch id (completeRoute die e e.count s), ?_, ?_, ?_, hended.counter⟩
  · change execRtdispCompletion die launch id s = _
    simp [execRtdispCompletion, he, hfinished, hwait, hhomed]
  · rw [closeCtx, setDie_die, hended.routes]
  · rw [closeCtx, setDie_die, hended.ctxs]

theorem rtdispCompletion_waits {die launch id : Nat} (he : dispCommand s die launch id = some e)
    (hopen : ¬(e.finished = true ∧ e.wait = [] ∧ homedDone s die launch id = true)) :
    exec (.rtdispCompletion die launch id) s = .next s := by
  change execRtdispCompletion die launch id s = _
  simp only [execRtdispCompletion, he]
  rw [if_neg]
  simpa [and_assoc] using hopen

/-- The flags of a combination reach the elected strand (R182). -/
def giveFlags (e : Command) (s : State) : State :=
  match Map.find e.item s.items with
  | some it => match electedKey s it with
    | some k => s.adjStrand k fun st => { st with fstat := st.fstat ||| e.flags }
    | none => s
  | none => s

theorem giveFlags_enginesStand (e : Command) (s : State) : EnginesStand s (giveFlags e s) := by
  unfold giveFlags
  split
  · split
    · exact adjStrand_enginesStand _ _ s
    · exact .refl s
  · exact .refl s

theorem giveFlags_items (e : Command) (s : State) : (giveFlags e s).items = s.items := by
  unfold giveFlags
  split
  · split <;> rfl
  · rfl

theorem exec_rtcombCompletion {die : Nat} (hroutes : (s.die die).routes = [e]) (hcount : isCount e.op = false)
    (hdisp : isDisp e.op = false) (hfinished : e.finished = true) (hactive : e.state = .active) :
    exec (.rtcombCompletion die e.launch e.value.toNat) s = .next (completeRoute die e e.count (giveFlags e s)) := by
  change execRtcombCompletion die e.launch e.value.toNat s = _
  have hfind : (s.die die).routes.find? (fun x => !isCount x.op && !isDisp x.op && x.launch == e.launch
      && x.value.toNat == e.value.toNat && x.finished && x.state == .active) = some e := by
    simp [hroutes, hcount, hdisp, hfinished, hactive]
  simp only [execRtcombCompletion, hfind]
  rfl

end Route

end Sys2Proof.Machine
end

section
/-! What comes from other packages to a dispatch (R180, R181): vectors are kept until the exchange, and rows are noted as
written. -/

namespace Sys2Proof.Machine

/-! ## Bytes that an agent writes -/

theorem engineDropLine_alone (tile pline mask : Nat) (s : State) : MemoryAlone s (engineDropLine tile pline mask s) := by
  unfold engineDropLine
  split
  · exact (writeBack_alone _ _ s).trans (.setL1 _ _ _)
  · exact .refl s

theorem Agent.places_alone (g : Agent) (k : AccKind) (sp : Space) (ps : List (Nat × Nat × Nat)) (s : State) :
    MemoryAlone s (g.places k sp ps s).1 := by
  induction ps generalizing s with
  | nil => exact .refl s
  | cons p ps ih =>
    have hstep := translate_alone g.tile g.asid g.priv k sp p.1 s
    unfold Agent.places
    dsimp only
    split
    · exact hstep
    · exact hstep.trans (ih _)

theorem Agent.put_alone (g : Agent) (ps : List (Xlat × Nat × Nat)) (bytes : List Byte) (s : State) :
    MemoryAlone s (g.put ps bytes s).1 := by
  refine List.foldlRecOn (motive := fun (r : State × Bool) => MemoryAlone s r.1) _ _ (.refl s) fun r hr p _ => ?_
  exact hr.trans ((physWrite_alone _ _ _ _ _).trans (engineDropLine_alone _ _ _ _))

theorem Agent.write_alone (g : Agent) (sp : Space) (addr : Nat) (bytes : List Byte) (s : State) :
    MemoryAlone s (g.write sp addr bytes s).1 := by
  have hplaces := g.places_alone .store sp (lineParts addr bytes.length) s
  unfold Agent.write
  dsimp only
  split
  · exact hplaces
  · exact hplaces.trans (g.put_alone _ _ _)

theorem captureInput_of_not_capture {at_ : InputAt} {s : State} {la : Launch} (hla : Map.find at_.launch s.launches = some la)
    (hcapture : la.capture = false) (kind value : Nat) (bytes : List Byte) : captureInput at_ kind value bytes s = s := by
  simp [captureInput, hla, hcapture]

/-! ## The contexts of a dispatch over the dies -/

theorem dispatchCtxs_congr {s t : State} {h : Nat} (id : Nat) (hdies : t.dies = s.dies)
    (hmask : (Map.find h t.launches).map (·.diemask) = (Map.find h s.launches).map (·.diemask)) :
    dispatchCtxs t h id = dispatchCtxs s h id := by
  have hctx (d : Nat) : findCtx t d h id = findCtx s d h id := by simp only [findCtx, State.die, hdies]
  unfold dispatchCtxs
  cases ht : Map.find h t.launches <;> cases hs : Map.find h s.launches <;> simp_all

theorem of_dispatchCtxs {s : State} {h id die : Nat} {c : Dispatch} (hctxs : dispatchCtxs s h id = [(die, c)]) :
    findCtx s die h id = some c ∧ ∃ la, Map.find h s.launches = some la ∧ die ∈ diesIn la.diemask := by
  unfold dispatchCtxs at hctxs
  split at hctxs
  · cases hctxs
  next la hla =>
    have hmem : (die, c) ∈ (diesIn la.diemask).filterMap fun d => (findCtx s d h id).map fun c => (d, c) := by rw [hctxs]; simp
    obtain ⟨d, hd, hc⟩ := List.mem_filterMap.mp hmem
    obtain ⟨c', hc', heq⟩ := Option.map_eq_some_iff.mp hc
    cases heq
    exact ⟨hc', la, hla, hd⟩

/-! ## COUNT_VECTOR_ARRIVAL (R180) -/

/-- While a die has still to count, the exchange of its dispatch does not come about. -/
theorem exchange_of_unready {s : State} {h id die : Nat} {c : Dispatch} (hctxs : dispatchCtxs s h id = [(die, c)])
    (hready : c.ready = false) : exchange h id s = s := by
  obtain ⟨-, la, hla, hdie⟩ := of_dispatchCtxs hctxs
  have hopen : ∀ y ∈ openCtxs s h id, y.2.ready = false := by
    intro y hy
    rw [openCtxs, hctxs] at hy
    rw [List.mem_singleton.mp (List.mem_filter.mp hy).1]
    exact hready
  have hcounted : allCounted s h id = false := by
    simp only [allCounted, hla, List.all_eq_false]
    refine ⟨die, hdie, ?_⟩
    rw [List.any_eq_true]
    rintro ⟨y, hy, hyready⟩
    simp [hopen y hy] at hyready
  unfold exchange
  split
  · simp [hcounted]
  · rfl

theorem launch_of_countCommand {s : State} {die h id : Nat} {e : Command} (he : countCommand s die h id = some e) :
    e.launch = h := by
  have := List.find?_some he
  simp only [Bool.and_eq_true, beq_iff_eq] at this
  exact this.1.1.2

theorem launch_of_dispCommand {s : State} {die h id : Nat} {e : Command} (he : dispCommand s die h id = some e) :
    e.launch = h := by
  have := List.find?_some he
  simp only [Bool.and_eq_true, beq_iff_eq] at this
  exact this.1.1.2

theorem command_of_jobOf {e : Command} {s : State} {x : Job} (hx : jobOf e s = some x) : x.e = e := by
  unfold jobOf at hx
  split at hx <;> cases hx
  rfl

/-- A vector of a package logged by the commands that wait for it: in a launch without capture nothing is. -/
theorem captureVectors_of_not_capture {s : State} {h : Nat} {la : Launch} (hla : Map.find h s.launches = some la)
    (hcapture : la.capture = false) (id : Nat) (v : Vector) (ys : List (Nat × Dispatch)) :
    ys.foldl (fun s y => match countCommand s y.1 h id with
      | none => s
      | some e => match jobOf e s with
        | some x => captureInput (x.inputAt s) 7 0 v.bytes s
        | none => s) s = s := by
  induction ys with
  | nil => rfl
  | cons y ys ih =>
    rw [List.foldl_cons]
    refine Eq.trans (congrArg (fun t => ys.foldl _ t) ?_) ih
    split
    · rfl
    next e he =>
      split
      next x hx =>
        have hat : (x.inputAt s).launch = h := (congrArg Command.launch (command_of_jobOf hx)).trans (launch_of_countCommand he)
        exact captureInput_of_not_capture (hat ▸ hla) hcapture _ _ _
      · rfl

theorem countVectorArrival_kept {key id package h die : Nat} {sums : List Nat} {crc k nexp rowu : Nat} {s : State} {la : Launch}
    {c : Dispatch} (hfind : s.launches.find? (fun x => x.2.lkey == key && bitOf x.2.pkgmask package) = some (h, la))
    (hla : Map.find h s.launches = some la) (hctxs : dispatchCtxs s h id = [(die, c)]) (hready : c.ready = false)
    (hcapture : la.capture = false) :
    exec (.countVectorArrival key id package sums crc k nexp rowu) s
      = .next (noteVector h id ⟨package, sums, crc, k, nexp, rowu⟩ s) := by
  change execCountVectorArrival key id package sums crc k nexp rowu s = _
  set u := noteVector h id ⟨package, sums, crc, k, nexp, rowu⟩ s with hu
  have hla' : Map.find h u.launches = some { la with vectors := la.vectors ++ [(id, ⟨package, sums, crc, k, nexp, rowu⟩)] } := by
    rw [hu, noteVector, State.adjLaunch_launches, Map.find_adjust_self, hla, Option.map_some]
  have hctxs' : dispatchCtxs u h id = [(die, c)] := by
    rw [← hctxs]
    exact dispatchCtxs_congr id rfl (by rw [hla', hla]; rfl)
  have hlogged := captureVectors_of_not_capture hla' hcapture id ⟨package, sums, crc, k, nexp, rowu⟩ (openCtxs u h id)
  simp only [execCountVectorArrival, hfind]
  rw [← hu]
  refine congrArg _ ((congrArg (exchange h id) hlogged).trans (exchange_of_unready hctxs' hready))

/-! ## ROUTING_ROW_ARRIVAL (R181) -/

theorem checkDisps_plans (launch id : Nat) (s : State) : Plans s (checkDisps launch id s) := by
  refine .foldl (fun s y => ?_) _ s
  split
  · split
    · exact later_plans _ s
    · exact .refl s
  · exact .refl s

/-- A row noted among those that have been written. -/
def addRow (n : Nat) (c : Dispatch) : Dispatch := if c.rows.contains n then c else { c with rows := c.rows ++ [n] }

theorem addRow_eq (n : Nat) (c : Dispatch) : addRow n c = { c with rows := (addRow n c).rows } := by
  unfold addRow
  split <;> rfl

theorem mem_rows_addRow {n k : Nat} {c : Dispatch} : k ∈ (addRow n c).rows ↔ k ∈ c.rows ∨ k = n := by
  unfold addRow
  split
  next h =>
    have hn : n ∈ c.rows := by simpa using h
    exact ⟨.inl, fun hk => hk.elim id fun hk => hk ▸ hn⟩
  next => simp

theorem noteRow_eq {s : State} {h : Nat} {la : Launch} (hla : Map.find h s.launches = some la) (c : Dispatch) (x slot : Nat) :
    noteRow h c x slot s = adjCtx (homeDie la.diemask (c.table.getD x 0)) h c.id (addRow (x * 2 ^ 20 + slot)) s := by
  simp only [noteRow, hla]
  rfl

theorem find?_ready {die : Nat} {c : Dispatch} {mask expert : Nat} (hready : c.ready = true)
    (hhome : homeDie mask (c.table.getD expert 0) = die) :
    [(die, c)].find? (fun y => y.2.ready && homeDie mask (y.2.table.getD expert 0) == y.1) = some (die, c) := by
  simp only [List.find?_cons, hready, hhome]
  simp

/-- The tile in whose name a row of a dispatch is written: that of its RTDISP, where that is in the queue. -/
def rowTile (la : Launch) (job : Option Job) : Nat :=
  match job with
  | some x => x.it.tile
  | none => la.clbase * 4

/-- A row written at an expert's slot, with its inverse record. -/
def putRow (g : Agent) (en slot inverse : Nat) (row : List Byte) (s : State) : State :=
  (g.write .global (expInv en + 4 * slot) (leBytes 4 inverse) (g.write .global (expBuf en + slot * row.length) row s).1).1

theorem putRow_alone (g : Agent) (en slot inverse : Nat) (row : List Byte) (s : State) :
    MemoryAlone s (putRow g en slot inverse row s) := (g.write_alone _ _ _ s).trans (g.write_alone _ _ _ _)

/-- A row as an input from outside the package (R416, KIND 8). -/
def logRow (job : Option Job) (bytes : List Byte) (s : State) : State :=
  match job with
  | some x => captureInput (x.inputAt s) 8 0 bytes s
  | none => s

theorem logRow_of_not_capture {s u : State} {die h id : Nat} {la : Launch} (hla : Map.find h u.launches = some la)
    (hcapture : la.capture = false) (bytes : List Byte) :
    logRow ((dispCommand s die h id).bind fun e => jobOf e s) bytes u = u := by
  unfold logRow
  split
  next x hx =>
    obtain ⟨e, he, hxe⟩ := Option.bind_eq_some_iff.mp hx
    have hat : (x.inputAt u).launch = h := (congrArg Command.launch (command_of_jobOf hxe)).trans (launch_of_dispCommand he)
    exact captureInput_of_not_capture (hat ▸ hla) hcapture _ _ _
  · rfl

/-- The row and its inverse record are written, and the row is noted in its context. -/
theorem routingRowArrival_next {key id package rank token expert slot : Nat} {row : List Byte} {h die : Nat} {s : State}
    {la : Launch} {c : Dispatch}
    (hfind : s.launches.find? (fun x => x.2.lkey == key && bitOf x.2.pkgmask package) = some (h, la))
    (hla : Map.find h s.launches = some la) (hctxs : dispatchCtxs s h id = [(die, c)])
    (hhome : homeDie la.diemask (c.table.getD expert 0) = die) (hready : c.ready = true) (hcapture : la.capture = false) :
    ∃ u, MemoryAlone s u ∧ exec (.routingRowArrival key id package rank token expert slot row) s
      = .next (checkDisps h id (noteRow h c expert slot u)) := by
  let job := (dispCommand s die h id).bind fun e => jobOf e s
  let u := putRow (la.agent (rowTile la job)) (c.table.getD expert 0) slot
    (if row == [] then 0 else inverseWord package token rank) row s
  have halone : MemoryAlone s u := putRow_alone _ _ _ _ _ s
  have hlogged : ∀ bytes, logRow job bytes u = u :=
    logRow_of_not_capture (by rw [halone.itemsStand.launches, hla]) hcapture
  refine ⟨u, halone, ?_⟩
  have hexec : exec (.routingRowArrival key id package rank token expert slot row) s
      = .next (checkDisps h id (noteRow h c expert slot
        (logRow job (leBytes 4 package ++ leBytes 4 token ++ leBytes 4 expert ++ leBytes 4 slot ++ leBytes 4 rank ++ row) u))) := by
    change execRoutingRowArrival key id package rank token expert slot row s = _
    simp only [execRoutingRowArrival, hfind, hctxs, find?_ready hready hhome]
    rfl
  rw [hexec, hlogged]

theorem routingRowArrival_noted {key id package rank token expert slot : Nat} {row : List Byte} {h die : Nat} {s : State}
    {la : Launch} {c : Dispatch}
    (hfind : s.launches.find? (fun x => x.2.lkey == key && bitOf x.2.pkgmask package) = some (h, la))
    (hla : Map.find h s.launches = some la) (hctxs : dispatchCtxs s h id = [(die, c)])
    (hhome : homeDie la.diemask (c.table.getD expert 0) = die) (hready : c.ready = true) (hcapture : la.capture = false) :
    ∃ (t : State) (x : Dispatch), exec (.routingRowArrival key id package rank token expert slot row) s = .next t
      ∧ findCtx t die h id = some x ∧ x = { c with rows := x.rows }
      ∧ (∀ n, n ∈ x.rows ↔ n ∈ c.rows ∨ n = expert * 2 ^ 20 + slot)
      ∧ t.strands = s.strands ∧ t.held = s.held ∧ t.items = s.items := by
  obtain ⟨u, hu, hexec⟩ := routingRowArrival_next (rank := rank) (token := token) (slot := slot) (row := row)
    hfind hla hctxs hhome hready hcapture
  have hrest := hu.touched.rest
  have hctx : findCtx u die h id = some c := by
    rw [← (of_dispatchCtxs hctxs).1, hrest]
    rfl
  have hnoted : noteRow h c expert slot u = adjCtx die h id (addRow (expert * 2 ^ 20 + slot)) u := by
    rw [noteRow_eq (la := la) (by rw [hu.itemsStand.launches, hla]), hhome, (findCtx_eq_some hctx).2]
  have hplans := checkDisps_plans h id (noteRow h c expert slot u)
  have hdies := hplans.enginesStand.dies
  refine ⟨_, addRow (expert * 2 ^ 20 + slot) c, hexec, ?_, addRow_eq _ c, fun n => mem_rows_addRow, ?_, ?_, ?_⟩
  · rw [← findCtx_adjCtx (f := addRow (expert * 2 ^ 20 + slot)) (fun x => by rw [addRow_eq]) (fun x => by rw [addRow_eq]) hctx,
      ← hnoted]
    simp only [findCtx, State.die, hdies]
  · rw [hplans.strands, hnoted, adjCtx_rest, hrest]
  · rw [hplans.enginesStand.held, hnoted, adjCtx_rest, hrest]
  · rw [hplans.itemsStand.items, hnoted, adjCtx_rest, hrest]

/-! ## The statement -/

/-- Settles O45: the end of a routing command takes it out of its queue and counts down; a vector that comes before the
dies have counted is kept as it is, and a row that comes is noted in its context. -/
theorem routingEnginesComplete : Obligations.RoutingEnginesComplete := by
  refine ⟨fun die launch id s e it h hit hup hlaunch hdeferred hheld hof => ?ends,
    fun key id package sums crc k nexp rowu h s la die c hfind hla hctxs hready hcapture => ?vector,
    fun key id package rank token expert slot row h s la die c hfind hla hctxs hhome hready hcapture =>
      routingRowArrival_noted hfind hla hctxs hhome hready hcapture⟩
  case ends =>
    subst hof
    refine ⟨fun he => ⟨fun hfinished hwait hhomed => ?_, rtdispCompletion_waits he⟩,
      fun hroutes hcount hdisp hid hfinished hactive => ?_⟩
    · exact rtdispCompletion_ends he hfinished hwait hhomed (completeRoute_ended die e.count hit hup hdeferred hheld)
    · have hflags := giveFlags_enginesStand e s
      rw [← giveFlags_items e s] at hit
      rw [← hflags.tileDown] at hup
      rw [← hflags.held] at hheld
      have hended := (completeRoute_ended die e.count hit hup hdeferred hheld).of_stand hflags (.refl _)
      exact ⟨_, hid ▸ exec_rtcombCompletion hroutes hcount hdisp hfinished hactive, hended.routes, hended.ctxs, hended.counter⟩
  case vector =>
    refine ⟨_, countVectorArrival_kept hfind hla hctxs hready hcapture, rfl, ?_, fun j hj => ?_⟩
    · rw [noteVector, State.adjLaunch_launches, Map.find_adjust_self, hla, Option.map_some]
    · rw [noteVector, State.adjLaunch_launches, Map.find_adjust_ne _ _ hj]

end Sys2Proof.Machine
end

section
/-! Commands for the engines as their instructions issue them (R144, R145, R199, R304): the command enters its queue, its
answer is owed to registers that are locked till then, and the strand goes on. -/

namespace Sys2Proof.Machine

/-! ## The elected lane (R377) -/

theorem lt_of_lowest {m : BitVec 4} {l : Nat} (h : lowest m = some l) : l < 4 := mem_lanesIn_lt (List.mem_of_head? h)

theorem lowest_of_once {c : Issue} (h : c.once = true) : lowest c.st.live = some c.elect := by
  unfold Issue.elect
  cases hl : lowest c.st.live with
  | some l => rfl
  | none =>
    have hmask : c.electedMask = 0 := by
      unfold Issue.electedMask
      rw [hl]
      rfl
    simp [Issue.once, hmask] at h

theorem mem_lanesIn_electedMask {c : Issue} (h : c.once = true) (l : Nat) : l ∈ lanesIn c.electedMask ↔ l = c.elect := by
  have hlow := lowest_of_once h
  rw [mem_lanesIn]
  constructor
  · rintro ⟨hlt, hbit⟩
    rw [Issue.electedMask, getLsbD_maskOf _ hlt, hlow] at hbit
    simpa using hbit
  · rintro rfl
    refine ⟨lt_of_lowest hlow, ?_⟩
    rw [Issue.electedMask, getLsbD_maskOf _ (lt_of_lowest hlow), hlow]
    simp

/-! ## What an engine owes a strand (R163, R179) -/

/-- The registers that an engine's answer is owed to, locked till then. -/
def owed (c : Issue) (id : Nat) (r : Opnd × Nat) : Pending :=
  { id := id, kind := .engine, pc := c.pc, w1 := c.w1, w2 := c.w2, left := 0
    locks := (lanesIn c.electedMask).flatMap fun l => (upTo r.2).map fun i => (l, c.index r.1 + i)
    writes := [], preds := [], poisoned := 0, killed := 0, flags := 0, causes := [], ready := false, logged := false }

/-- What is owed where a command answers: nothing for no register. -/
def owedTo (c : Issue) (id : Nat) (r : Opnd × Nat) : List Pending := if r.2 = 0 then [] else [owed c id r]

/-- A strand that is owed what a command answers. -/
def oweTo (c : Issue) (id : Nat) (r : Opnd × Nat) (s : State) : State :=
  if r.2 = 0 then s else owe c id r.1 r.2 c.electedMask s

theorem mem_locks_owed {c : Issue} (h : c.once = true) (id : Nat) (r : Opnd × Nat) (x : Nat × Nat) :
    x ∈ (owed c id r).locks ↔ x.1 = c.elect ∧ c.index r.1 ≤ x.2 ∧ x.2 < c.index r.1 + r.2 := by
  obtain ⟨l, n⟩ := x
  simp only [owed, List.mem_flatMap, mem_lanesIn_electedMask h, List.mem_map, upTo, List.mem_range, Prod.mk.injEq]
  constructor
  · rintro ⟨_, rfl, i, hi, rfl, rfl⟩
    exact ⟨rfl, Nat.le_add_right _ _, by omega⟩
  · rintro ⟨rfl, hlo, hhi⟩
    exact ⟨_, rfl, n - c.index r.1, by omega, rfl, by omega⟩

theorem owedTo_idle (c : Issue) (id : Nat) (r : Opnd × Nat) : ∀ p ∈ owedTo c id r, p.left = 0 ∧ p.ready = false := by
  intro p hp
  unfold owedTo at hp
  split at hp
  · cases hp
  · rw [List.mem_singleton.mp hp]
    exact ⟨rfl, rfl⟩

theorem oweTo_rest (c : Issue) (id : Nat) (r : Opnd × Nat) (s : State) :
    oweTo c id r s = { s with strands := (oweTo c id r s).strands } := by
  unfold oweTo
  split <;> rfl

theorem oweTo_strand {c : Issue} {s : State} (h : s.strand c.key = some c.st) (id : Nat) (r : Opnd × Nat) :
    (oweTo c id r s).strand c.key = some { c.st with pend := c.st.pend ++ owedTo c id r } := by
  unfold oweTo owedTo
  split
  · rw [h, List.append_nil]
  · exact strand_adjStrand_self h _

theorem oweTo_strand_ne {c : Issue} {k : Nat} (hk : k ≠ c.key) (s : State) (id : Nat) (r : Opnd × Nat) :
    (oweTo c id r s).strand k = s.strand k := by
  unfold oweTo
  split
  · rfl
  · exact strand_adjStrand_ne s _ hk

/-! ## The strand goes on -/

theorem countWindow_append (st : Strand) {ps : List Pending} (h : ∀ p ∈ ps, p.left = 0) :
    ((st.pend ++ ps).map fun p => if st.pend.any (·.id == p.id) then { p with left := p.left - 1 } else p)
      = (st.pend.map fun p => { p with left := p.left - 1 }) ++ ps := by
  have hps : (ps.map fun p => if st.pend.any (·.id == p.id) then { p with left := p.left - 1 } else p) = ps := by
    refine (List.map_congr_left fun p hp => ?_).trans (List.map_id ps)
    split
    · rw [h p hp, Nat.zero_sub, ← h p hp]
      rfl
    · rfl
  rw [List.map_append, map_window, hps]

theorem issued_count (c : Issue) {ps : List Pending} (h : ∀ p ∈ ps, p.left = 0) :
    Issued c ps (c.count (c.advance { c.st with pend := c.st.pend ++ ps })) := by
  set x := { c.st with pend := c.st.pend ++ ps } with hx
  have hget : ∀ l < 4, (c.count (c.advance x)).lanes.get l = if c.set.getLsbD l then
      { c.st.lanes.get l with flow := { (c.st.lanes.get l).flow with pc := (c.st.lanes.get l).flow.pc + c.size } }
      else c.st.lanes.get l := fun l hl => by rw [count_lanes, advance_get c x hl]
  refine ⟨fun l hl => ?_, fun l hl => ?_, ?_⟩
  · rw [Strand.flow, hget l hl]
    split <;> rfl
  · rw [Strand.flow, hget l hl]
    split <;> rfl
  · rw [count_lanes, ← countWindow_append c.st h]
    unfold Issue.count Strand.countRetired Strand.countWindow Issue.advance Strand.mapFlows Strand.mapLanes
    rw [hx]
    simp only
    split <;> rfl

/-- An instruction that leaves its strand to go on, in debt to an engine: the strand is moved and counted. -/
theorem finish_owing {i : Instr} {s u : State} {c : Issue} {ps : List Pending} (h : clear i s = some c)
    (hu : u.strand c.key = some { c.st with pend := c.st.pend ++ ps }) (hps : ∀ p ∈ ps, p.left = 0 ∧ p.ready = false) :
    c.finish (.done u) = u.setStrand c.key (c.count (c.advance { c.st with pend := c.st.pend ++ ps })) := by
  have hadj (f : Strand → Strand) : u.adjStrand c.key f = u.setStrand c.key (f { c.st with pend := c.st.pend ++ ps }) := by
    simp only [State.adjStrand, State.setStrand, Map.adjust, show Map.find c.key u.strands = _ from hu]
  have hready : (c.st.pend ++ ps).any (·.ready) = false := by
    rw [List.any_append, clear_answers h, Bool.false_or]
    exact List.any_eq_false.mpr fun p hp => by simp [(hps p hp).2]
  rw [Issue.finish, hadj]
  refine afterwards_none (strand_setStrand _ _ _) ?_ (clear_step h)
  rw [count_pend]
  exact countWindow_ready _ _ hready

/-! ## The issue of a command -/

/-- What the issue of a command leaves beside the strand and memory: turns, holdings, launches, dies and convoys, the queues
of the tiles, and without DET the items. -/
structure IssueRest (c : Issue) (u t : State) : Prop where
  plan : t.plan = u.plan
  held : t.held = u.held
  launches : t.launches = u.launches
  dies : t.dies = u.dies
  convoys : t.convoys = u.convoys
  items : c.la.det = false → t.items = u.items
  copies : ∀ n, (t.tile n).copies = (u.tile n).copies
  array : ∀ n, (t.tile n).array = (u.tile n).array

theorem MemoryAlone.issueRest {s t : State} (h : MemoryAlone s t) (c : Issue) : IssueRest c s t := by
  have hrest := h.touched.rest
  refine ⟨?_, ?_, ?_, ?_, ?_, fun _ => ?_, fun n => (h.touched.tiles n).symm ▸ rfl, fun n => (h.touched.tiles n).symm ▸ rfl⟩ <;>
    rw [hrest]

theorem commandIssued_rest (c : Issue) (id k : Nat) (s : State) : IssueRest c s (commandIssued c id k s) := by
  have h := (l1Publish_alone c.it.tile s).issueRest c
  unfold commandIssued
  dsimp only
  split
  next hdet => exact ⟨h.plan, h.held, h.launches, h.dies, h.convoys, fun hnot => by simp [hdet] at hnot, h.copies, h.array⟩
  next => exact h

theorem commandIssued_strands (c : Issue) (id k : Nat) (s : State) :
    (commandIssued c id k s).strands = s.strands ∧ (commandIssued c id k s).nextId = s.nextId := by
  have hrest := (l1Publish_alone c.it.tile s).touched.rest
  unfold commandIssued
  dsimp only
  split
  · rw [deferCount, State.adjItem_strands, State.adjItem_nextId, hrest]
    exact ⟨rfl, rfl⟩
  · rw [hrest]
    exact ⟨rfl, rfl⟩

/-- A command has entered its queue in `u`, and is issued: the strand goes on, in debt of what the command answers. -/
theorem engages_of_entered {i : Instr} {s u : State} {c : Issue} {k : Nat} {r : Opnd × Nat} (h : clear i s = some c)
    (honce : c.once = true) (hstrands : u.strands = s.strands) (hnext : u.nextId = s.nextId + 1)
    (hexec : exec i s = .next (c.finish (.done (commandIssued c s.nextId k (oweTo c s.nextId r u))))) :
    ∃ t, Engages i c c.elect (c.index r.1) r.2 s t ∧ IssueRest c u t := by
  set v := commandIssued c s.nextId k (oweTo c s.nextId r u) with hv
  have hissued := commandIssued_strands c s.nextId k (oweTo c s.nextId r u)
  have hrest := commandIssued_rest c s.nextId k (oweTo c s.nextId r u)
  rw [← hv] at hissued hrest
  have howed := oweTo_rest c s.nextId r u
  have hustrand : u.strand c.key = some c.st := by
    rw [State.strand, hstrands]
    exact clear_strand h
  have hvstrand : v.strand c.key = some { c.st with pend := c.st.pend ++ owedTo c s.nextId r } := by
    rw [State.strand, hissued.1]
    exact oweTo_strand hustrand _ _
  rw [finish_owing h hvstrand (owedTo_idle c s.nextId r)] at hexec
  have hissue := issued_count c fun p hp => (owedTo_idle c s.nextId r p hp).1
  set b := c.count (c.advance { c.st with pend := c.st.pend ++ owedTo c s.nextId r })
  refine ⟨v.setStrand c.key b, ⟨hexec, ?_, fun j hj => ?_, b, _, strand_setStrand _ _ _, hissue, fun l hl => ?_, fun hn => ?_,
    fun hn => ?_⟩, ?_⟩
  · rw [State.setStrand_nextId, hissued.2, howed, hnext]
    exact Nat.lt_succ_self _
  · rw [strand_setStrand_ne _ _ hj, State.strand, hissued.1]
    refine (oweTo_strand_ne hj u _ _).trans ?_
    rw [State.strand, hstrands, State.strand]
  · have hlane : b.lanes.get l = if c.set.getLsbD l then
        { c.st.lanes.get l with flow := { (c.st.lanes.get l).flow with pc := (c.st.lanes.get l).flow.pc + c.size } }
        else c.st.lanes.get l := by rw [count_lanes, advance_get c _ hl]
    rw [hlane]
    split <;> exact ⟨rfl, rfl⟩
  · exact if_pos hn
  · exact ⟨owed c s.nextId r, if_neg hn, rfl, rfl, rfl, rfl, mem_locks_owed honce _ r⟩
  · obtain ⟨hplan, hheld, hlaunches, hdies, hconvoys, hitems, hcopies, harray⟩ := hrest
    rw [howed] at hplan hheld hlaunches hdies hconvoys hitems hcopies harray
    exact ⟨hplan, hheld, hlaunches, hdies, hconvoys, hitems, hcopies, harray⟩

end Sys2Proof.Machine
end

section
/-! The queues of the copy engine and the array take commands (R144, R145, R304). -/

namespace Sys2Proof.Machine

/-! ## Places in a queue (R145) -/

theorem queueTakes_eq_some {q : List Command} {size : Nat} {floors : List (Nat × Nat)} {c : Issue} {floor : Bool} :
    queueTakes q size floors c.it.launch c.it.stage = some floor ↔ takesPlace q size floors c floor := by
  unfold queueTakes takesPlace
  split
  next hshared => cases floor <;> simp [hshared]
  next hshared =>
    cases floor <;> simp [hshared]

theorem queueTakes_eq_none {q : List Command} {size : Nat} {floors : List (Nat × Nat)} {c : Issue}
    (h : ∀ floor, ¬takesPlace q size floors c floor) : queueTakes q size floors c.it.launch c.it.stage = none :=
  Option.eq_none_iff_forall_ne_some.mpr fun floor hfloor => h floor (queueTakes_eq_some.mp hfloor)

/-! ## A command for an engine, checked -/

/-- What the issue of a command does, given its check, the state with the command in its queue, and the registers that its
answer is owed to. -/
def engineAct (check : Option Raise) (entered : Option State) (r : Opnd × Nat) (k : Nat) (c : Issue) (s : State) : Act :=
  if !c.once then .done s
  else match check with
    | some x => .trap x s
    | none => match entered with
      | none => .wait .engine s
      | some u => .done (commandIssued c s.nextId k (oweTo c s.nextId r u))

/-- The `n` registers from an operand on, if there is one. -/
def resultOf (n : Nat) : Option Opnd → Opnd × Nat
  | some d => (d, n)
  | none => (.dir 0, 0)

/-- The command of a COPY-family instruction. -/
def copyOf (c : Issue) (s : State) : Command :=
  { c.source.command s.nextId c.source.copyDescs c.source.copyValue with pend := (copyResult c.i).map fun _ => s.nextId }

/-- The command of a matrix instruction that answers in `d`. -/
def matrixOf (d : Option Opnd) (c : Issue) (s : State) : Command :=
  { c.source.command s.nextId c.source.matrixArgs.1 c.source.matrixArgs.2 with pend := d.map fun _ => s.nextId }

theorem copyCommand_eq (k : BitVec 6) (c : Issue) (s : State) :
    copyCommand k c s = engineAct (c.source.checkCopyFamily s) (enqueueCopy c.it.tile (copyOf c s) s.newId.2)
      (resultOf 1 (copyResult c.i)) k.toNat c s := by
  unfold copyCommand engineAct
  split
  · rfl
  · dsimp only
    cases c.source.checkCopyFamily s with
    | some r => rfl
    | none =>
      change (match enqueueCopy c.it.tile (copyOf c s) s.newId.2 with | none => _ | some u => _) = _
      cases enqueueCopy c.it.tile (copyOf c s) s.newId.2 with
      | none => rfl
      | some u => cases copyResult c.i <;> rfl

theorem matrixCommand_eq (d : Option Opnd) (k : BitVec 6) (c : Issue) (s : State) :
    matrixCommand d k c s = engineAct c.source.checkMatrix (enqueueMatrix c.it.tile (matrixOf d c s) s.newId.2)
      (resultOf 2 d) k.toNat c s := by
  unfold matrixCommand engineAct
  split
  · rfl
  · dsimp only
    cases c.source.checkMatrix with
    | some r => rfl
    | none =>
      change (match enqueueMatrix c.it.tile (matrixOf d c s) s.newId.2 with | none => _ | some u => _) = _
      cases enqueueMatrix c.it.tile (matrixOf d c s) s.newId.2 with
      | none => rfl
      | some u => cases d <;> rfl

/-! ## The queues -/

/-- A command stands at the end of its tile's queue: else only the plan is new, and the number is taken. -/
structure JoinsQueue (c : Issue) (queue : Tile → List Command) (e : Command) (s u : State) : Prop where
  rest : u = { s with nextId := s.nextId + 1, tiles := u.tiles, plan := u.plan }
  last : queue (u.tile c.it.tile) = queue (s.tile c.it.tile) ++ [e]

theorem command_enqueued (c : Issue) (n : Nat) (descs : List (BitVec 256)) (value no : Nat) (pend : Option Nat) (floor : Bool) :
    Enqueued c n { c.source.command n descs value with no := no, pend := pend, floor := floor } :=
  ⟨⟨rfl, rfl, rfl, rfl, rfl, rfl, rfl, rfl, rfl⟩, ⟨rfl, rfl, rfl, rfl, rfl, rfl, rfl⟩⟩

/-- The entry that a COPY-family command takes up. -/
def copyEntry (c : Issue) (s : State) (floor : Bool) : Command :=
  { copyOf c s with no := freeEntry (s.tile c.it.tile).copies 64, floor := floor }

/-- The state with that entry in its queue. -/
def copyEntered (c : Issue) (s : State) (floor : Bool) : State :=
  (s.newId.2.setTile c.it.tile { s.tile c.it.tile with copies := (s.tile c.it.tile).copies ++ [copyEntry c s floor] }).later
    (.copyEntryStart c.it.tile)

theorem enqueueCopy_copyOf (c : Issue) (s : State) : enqueueCopy c.it.tile (copyOf c s) s.newId.2
    = (queueTakes (s.tile c.it.tile).copies 64 (floorStages s c.it.tile false) c.it.launch c.it.stage).map (copyEntered c s) := by
  unfold enqueueCopy
  change (match queueTakes (s.tile c.it.tile).copies 64 (floorStages s c.it.tile false) c.it.launch c.it.stage with
    | none => _ | some floor => _) = _
  cases queueTakes (s.tile c.it.tile).copies 64 (floorStages s c.it.tile false) c.it.launch c.it.stage <;> rfl

theorem copyEntered_joins (c : Issue) (s : State) (floor : Bool) :
    JoinsQueue c (·.copies) (copyEntry c s floor) s (copyEntered c s floor) := by
  refine ⟨rfl, ?_⟩
  change ((State.setTile _ _ _).tile _).copies = _
  rw [tile_setTile, if_pos rfl]

/-- The entry that a matrix command takes up. -/
def matrixEntry (d : Option Opnd) (c : Issue) (s : State) (floor : Bool) : Command :=
  { matrixOf d c s with no := freeEntry (s.tile c.it.tile).array 16, floor := floor }

/-- The state with that entry in its queue, before the array is told. -/
def matrixEntered (d : Option Opnd) (c : Issue) (s : State) (floor : Bool) : State :=
  s.newId.2.setTile c.it.tile { s.tile c.it.tile with array := (s.tile c.it.tile).array ++ [matrixEntry d c s floor] }

/-- The array is told of the first command of an item. -/
def matrixTold (d : Option Opnd) (c : Issue) (s : State) (floor : Bool) : State :=
  if (arrayHead (s.tile c.it.tile).array c.st.item).isNone then arrayNext c.it.tile c.st.item (matrixEntered d c s floor)
  else matrixEntered d c s floor

theorem enqueueMatrix_matrixOf (d : Option Opnd) (c : Issue) (s : State) : enqueueMatrix c.it.tile (matrixOf d c s) s.newId.2
    = (queueTakes (s.tile c.it.tile).array 16 (floorStages s c.it.tile true) c.it.launch c.it.stage).map (matrixTold d c s) := by
  unfold enqueueMatrix
  change (match queueTakes (s.tile c.it.tile).array 16 (floorStages s c.it.tile true) c.it.launch c.it.stage with
    | none => _ | some floor => _) = _
  cases queueTakes (s.tile c.it.tile).array 16 (floorStages s c.it.tile true) c.it.launch c.it.stage <;> rfl

theorem matrixEntered_array (d : Option Opnd) (c : Issue) (s : State) (floor : Bool) :
    ((matrixEntered d c s floor).tile c.it.tile).array = (s.tile c.it.tile).array ++ [matrixEntry d c s floor] := by
  rw [matrixEntered, tile_setTile, if_pos rfl]

theorem matrixTold_plans (d : Option Opnd) (c : Issue) (s : State) (floor : Bool) :
    Plans (matrixEntered d c s floor) (matrixTold d c s floor) := by
  unfold matrixTold
  split
  · exact arrayNext_plans _ _ _
  · exact .refl _

theorem matrixTold_joins (d : Option Opnd) (c : Issue) (s : State) (floor : Bool) :
    JoinsQueue c (·.array) (matrixEntry d c s floor) s (matrixTold d c s floor) := by
  have hrest := (matrixTold_plans d c s floor).rest
  refine ⟨?_, ?_⟩
  · rw [hrest]
    rfl
  · rw [State.tile, hrest]
    exact matrixEntered_array d c s floor

theorem arrayHead_append_of_none {q : List Command} {e : Command} (h : ∀ x ∈ q, x.item ≠ e.item) :
    arrayHead q e.item = none ∧ arrayHead (q ++ [e]) e.item = some e := by
  have hnone : arrayHead q e.item = none := List.find?_eq_none.mpr fun x hx => by simp [h x hx]
  refine ⟨hnone, ?_⟩
  unfold arrayHead at hnone ⊢
  rw [List.find?_append, hnone]
  simp

theorem arrayNext_of_head {tile : Nat} {e : Command} {s : State} (h : arrayHead (s.tile tile).array e.item = some e)
    (hguard : e.guardSlot = none) (hfinished : e.finished = false) :
    arrayNext tile e.item s = s.later (if isLoop e.op then .mloopStep tile else .matrixCompletion tile) := by
  unfold arrayNext
  rw [h]
  simp only [hguard, hfinished, Option.isSome_none, Bool.not_false, Bool.and_true]
  cases isLoop e.op <;> rfl

theorem matrixTold_plan {d : Option Opnd} {c : Issue} {s : State} (floor : Bool)
    (h : ∀ x ∈ (s.tile c.it.tile).array, x.item ≠ c.st.item) : (matrixTold d c s floor).plan = s.plan ++
      [.event (if isLoop c.i then .mloopStep c.it.tile else .matrixCompletion c.it.tile)] := by
  obtain ⟨hnone, hhead⟩ := arrayHead_append_of_none (e := matrixEntry d c s floor) h
  rw [← matrixEntered_array] at hhead
  rw [matrixTold, show arrayHead _ c.st.item = none from hnone, if_pos Option.isNone_none]
  exact congrArg State.plan (arrayNext_of_head hhead rfl rfl)

end Sys2Proof.Machine
end

section
/-! The instructions that give commands to the copy engine and the array (R144, R145, R304). -/

namespace Sys2Proof.Machine

/-! ## The issue, case by case -/

section
variable {i : Instr} {s : State} {c : Issue} {check : Option Raise} {entered : Option State} {r : Opnd × Nat} {k : Nat}

theorem engineAct_retires (h : clear i s = some c) (hexec : exec i s = .next (c.finish (engineAct check entered r k c s)))
    (honce : c.once = false) : Retires i c {} s := by
  refine ⟨_, hexec, ?_⟩
  unfold engineAct
  rw [honce]
  exact retired_done h rfl

theorem engineAct_traps {x : Raise} (hexec : exec i s = .next (c.finish (engineAct check entered r k c s)))
    (honce : c.once = true) (hcheck : check = some x) : exec i s = .next (trap c.key x s) := by
  unfold engineAct at hexec
  rw [hexec, honce, hcheck]
  rfl

theorem engineAct_waits (hexec : exec i s = .next (c.finish (engineAct check entered r k c s)))
    (honce : c.once = true) (hcheck : check = none) (hentered : entered = none) : WaitsAt i c .engine s := by
  unfold engineAct at hexec
  rw [WaitsAt, hexec, honce, hcheck, hentered]
  rfl

theorem engineAct_engages {u : State} (h : clear i s = some c)
    (hexec : exec i s = .next (c.finish (engineAct check entered r k c s))) (honce : c.once = true) (hcheck : check = none)
    (hentered : entered = some u) (hstrands : u.strands = s.strands) (hnext : u.nextId = s.nextId + 1) :
    ∃ t, Engages i c c.elect (c.index r.1) r.2 s t ∧ IssueRest c u t := by
  refine engages_of_entered h honce hstrands hnext (k := k) ?_
  unfold engineAct at hexec
  rw [hexec, honce, hcheck, hentered]
  rfl

end

/-! ## The instructions -/

/-- What an instruction does that gives a command to the copy engine or the array: its command joins `queue`, of `size`
places with `floors`. -/
structure GivesCommand (i : Instr) (c : Issue) (s : State) (check : Option Raise) (queue : Tile → List Command) (size : Nat)
    (floors : List (Nat × Nat)) : Prop where
  kind : queue = (·.copies) ∨ queue = (·.array)
  act : ∃ entered k, exec i s = .next (c.finish (engineAct check entered (commandResult i) k c s))
    ∧ ((∀ floor, ¬takesPlace (queue (s.tile c.it.tile)) size floors c floor) → entered = none)
    ∧ ∀ floor, takesPlace (queue (s.tile c.it.tile)) size floors c floor → ∃ u e, entered = some u
      ∧ JoinsQueue c queue e s u ∧ Enqueued c s.nextId e ∧ e.floor = floor
      ∧ e.pend = (if (commandResult i).2 = 0 then none else some s.nextId)
      ∧ (size = 64 → u.plan = s.plan ++ [.event (.copyEntryStart c.it.tile)])
      ∧ (size = 16 → (∀ x ∈ queue (s.tile c.it.tile), x.item ≠ c.st.item) → u.plan = s.plan ++
          [.event (if isLoop i then .mloopStep c.it.tile else .matrixCompletion c.it.tile)])

theorem pend_resultOf (n id : Nat) (hn : n ≠ 0) (d : Option Opnd) :
    (d.map fun _ => id) = if (resultOf n d).2 = 0 then none else some id := by
  cases d with
  | none => rfl
  | some d => exact (if_neg hn).symm

theorem clear_instr {i : Instr} {s : State} {c : Issue} (h : clear i s = some c) : c.i = i :=
  (issueOf_strand (ready_issueOf (clear_ready h)).1).2.1

theorem givesCommand_of_copy {i : Instr} {s : State} {c : Issue} (h : clear i s = some c) (k : BitVec 6)
    (hexec : exec i s = issue i s (copyCommand k)) (hresult : resultOf 1 (copyResult i) = commandResult i) :
    GivesCommand i c s (c.source.checkCopyFamily s) (·.copies) 64 (floorStages s c.it.tile false) := by
  have hi := clear_instr h
  refine ⟨.inl rfl, enqueueCopy c.it.tile (copyOf c s) s.newId.2, k.toNat, ?_, fun hfull => ?_, fun floor hfloor => ?_⟩
  · rw [hexec, issue_clear h, copyCommand_eq, hi, hresult]
  · rw [enqueueCopy_copyOf, queueTakes_eq_none hfull]
    rfl
  · refine ⟨copyEntered c s floor, copyEntry c s floor, ?_, copyEntered_joins c s floor, command_enqueued c _ _ _ _ _ _, rfl,
      ?_, fun _ => rfl, fun hsize => absurd hsize (by decide)⟩
    · rw [enqueueCopy_copyOf, queueTakes_eq_some.mpr hfloor]
      rfl
    · rw [← hresult, ← pend_resultOf 1 _ one_ne_zero, ← hi]
      rfl

theorem givesCommand_of_matrix {i : Instr} {s : State} {c : Issue} (h : clear i s = some c) (d : Option Opnd) (k : BitVec 6)
    (hexec : exec i s = issue i s (matrixCommand d k)) (hresult : resultOf 2 d = commandResult i) :
    GivesCommand i c s c.source.checkMatrix (·.array) 16 (floorStages s c.it.tile true) := by
  refine ⟨.inr rfl, enqueueMatrix c.it.tile (matrixOf d c s) s.newId.2, k.toNat, ?_, fun hfull => ?_, fun floor hfloor => ?_⟩
  · rw [hexec, issue_clear h, matrixCommand_eq, hresult]
  · rw [enqueueMatrix_matrixOf, queueTakes_eq_none hfull]
    rfl
  · refine ⟨matrixTold d c s floor, matrixEntry d c s floor, ?_, matrixTold_joins d c s floor, command_enqueued c _ _ _ _ _ _,
      rfl, ?_, fun hsize => absurd hsize (by decide), fun _ hitems => ?_⟩
    · rw [enqueueMatrix_matrixOf, queueTakes_eq_some.mpr hfloor]
      rfl
    · rw [← hresult, ← pend_resultOf 2 _ two_ne_zero]
      rfl
    · rw [matrixTold_plan floor hitems, clear_instr h]

theorem givesCommand_of_commandQueue {i : Instr} {s : State} {c : Issue} {check : Option Raise} {queue : Tile → List Command}
    {size : Nat} {floors : List (Nat × Nat)} (h : clear i s = some c)
    (hqueue : commandQueue c s i = some (check, queue, size, floors)) : GivesCommand i c s check queue size floors := by
  cases i
  case copy _ _ _ k _ _ | plpack _ _ _ k _ _ | plunpk _ _ _ k _ _ | fill _ _ _ k _ _ | bkopen _ _ _ k _ | bkclose _ _ k _ =>
    cases hqueue
    exact givesCommand_of_copy h k rfl rfl
  case mloop _ _ k _ _ | mzero _ k _ | mread _ k _ _ _ _ _ _ _ | mwrite _ k _ _ _ _ _ _ =>
    cases hqueue
    exact givesCommand_of_matrix h none k rfl rfl
  case mstat _ d k =>
    cases hqueue
    exact givesCommand_of_matrix h (some d) k rfl rfl
  all_goals cases hqueue

end Sys2Proof.Machine
end

section
/-! The instructions that give commands to the routing engine, and O42 (R172, R179, R183). -/

namespace Sys2Proof.Machine

/-! ## A routing command enters its die's queue -/

section
variable (c : CmdSource) (n disp id : Nat) (s : State)

/-- The place of the context that a routing command works on: the lowest free one for RTCOUNT (R172). -/
def CmdSource.routePlace : Nat :=
  if isCount c.i then ((upTo 4).find? fun i => (s.die c.die).ctxs.all fun x => x.ix != i).getD 0
  else match findCtx s c.die c.it.launch disp with
    | some x => x.ix
    | none => 0

/-- The entry that a routing command takes up. -/
def CmdSource.routeEntry : Command :=
  { c.command id [c.desc n, c.desc (n + 1)] disp with no := c.routePlace disp s, pend := some id }

/-- The context that RTCOUNT opens. -/
def CmdSource.openedCtx : Dispatch :=
  ⟨c.routePlace disp s, c.it.launch, disp, [c.desc n, c.desc (n + 1)], [], [], [], [], false, false, false, false, false, [], [],
    [], [], 0⟩

/-- The contexts as a routing command leaves them at its issue: RTCOUNT opens one, RTDISP claims one. -/
def CmdSource.routeContexts : State :=
  if isCount c.i then s.setDie c.die { s.die c.die with ctxs := (s.die c.die).ctxs ++ [c.openedCtx n disp s] }
  else if isDisp c.i then adjCtx c.die c.it.launch disp (fun x => { x with dispIssued := true }) s
  else s

/-- The state with a routing command in its queue. -/
def CmdSource.routeEntered : State :=
  ((c.routeContexts n disp s).setDie c.die { (c.routeContexts n disp s).die c.die with
    routes := ((c.routeContexts n disp s).die c.die).routes ++ [c.routeEntry n disp id s] }).later (.copyEntryStart (768 + c.die))

theorem enqueueRoute_eq {f : Option Nat} (h : routeFields c.i = some (n, disp, f)) :
    c.enqueueRoute id (some id) s = c.routeEntered n disp id s := by
  unfold CmdSource.enqueueRoute
  rw [h]
  rfl

theorem routeContexts_rest : c.routeContexts n disp s = { s with dies := (c.routeContexts n disp s).dies } := by
  unfold CmdSource.routeContexts
  split
  · rfl
  · split
    · exact adjCtx_rest _ _ _ _ s
    · rfl

/-- Contexts are all that changes in a die. -/
theorem routeContexts_die (m : Nat) :
    (c.routeContexts n disp s).die m = { s.die m with ctxs := ((c.routeContexts n disp s).die m).ctxs } := by
  unfold CmdSource.routeContexts
  split
  · rw [die_setDie]
    split
    next h => rw [h]
    next => rfl
  · split
    · rw [die_adjCtx]
      split <;> rfl
    · rfl

theorem routeContexts_die_ne {m : Nat} (hm : m ≠ c.die) (hdisp : isDisp c.i = false ∨ m ≠ c.die + 32) :
    (c.routeContexts n disp s).die m = s.die m := by
  unfold CmdSource.routeContexts
  split
  · rw [die_setDie, if_neg hm]
  · split
    next h =>
      rw [die_adjCtx, if_neg]
      simp only [h, Bool.true_eq_false, false_or] at hdisp
      exact not_or.mpr ⟨hm, hdisp⟩
    next => rfl

theorem routeContexts_count (h : isCount c.i = true) :
    ((c.routeContexts n disp s).die c.die).ctxs = (s.die c.die).ctxs ++ [c.openedCtx n disp s] := by
  rw [CmdSource.routeContexts, if_pos h, setDie_die]

theorem routeContexts_comb (hcount : isCount c.i = false) (hdisp : isDisp c.i = false) : c.routeContexts n disp s = s := by
  rw [CmdSource.routeContexts, hcount, hdisp]
  rfl

theorem isCount_of_isDisp {i : Instr} (h : isDisp i = true) : isCount i = false := by
  cases i
  case rtdisp => rfl
  all_goals cases h

/-- RTDISP claims the context of its dispatch. -/
theorem findCtx_routeContexts {x : Dispatch} (h : isDisp c.i = true) (hx : findCtx s c.die c.it.launch disp = some x) :
    findCtx (c.routeContexts n disp s) c.die c.it.launch disp = some { x with dispIssued := true } := by
  rw [CmdSource.routeContexts, isCount_of_isDisp h, if_neg Bool.false_ne_true, if_pos h]
  exact findCtx_adjCtx (fun _ => rfl) (fun _ => rfl) hx

theorem routeEntered_die (m : Nat) : (c.routeEntered n disp id s).die m = if m = c.die then
    { (c.routeContexts n disp s).die m with routes := (s.die m).routes ++ [c.routeEntry n disp id s] }
    else (c.routeContexts n disp s).die m := by
  change (State.setDie _ _ _).die m = _
  rw [die_setDie]
  split
  next h => rw [h, routeContexts_die]
  next => rfl

theorem routeEntered_ctxs (m : Nat) :
    ((c.routeEntered n disp id s).die m).ctxs = ((c.routeContexts n disp s).die m).ctxs := by
  rw [routeEntered_die]
  split <;> rfl

theorem routeEntered_rest : c.routeEntered n disp id s = { s with
    dies := (c.routeEntered n disp id s).dies, plan := s.plan ++ [.event (.copyEntryStart (768 + c.die))] } := by
  unfold CmdSource.routeEntered
  rw [routeContexts_rest]
  rfl

theorem of_ite_some_eq_none {α : Type} {p : Prop} [Decidable p] {x : α} {y : Option α} (h : (if p then some x else y) = none) :
    y = none := by
  split at h
  · cases h
  · exact h

/-- The checks of RTDISP find the context of its dispatch, unclaimed. -/
theorem findCtx_of_checkRoute {f : Option Nat} (hfields : routeFields c.i = some (n, disp, f)) (h : isDisp c.i = true)
    (hcheck : c.checkRoute s = none) : ∃ x, findCtx s c.die c.it.launch disp = some x ∧ x.dispIssued = false := by
  unfold CmdSource.checkRoute at hcheck
  simp only [hfields, isCount_of_isDisp h, h, Bool.false_and, Bool.true_and, Bool.false_eq_true, if_false] at hcheck
  replace hcheck := of_ite_some_eq_none (of_ite_some_eq_none hcheck)
  cases hctx : findCtx s c.die c.it.launch disp with
  | none => simp [hctx] at hcheck
  | some x => exact ⟨x, rfl, by simpa [hctx] using hcheck⟩

end

/-! ## The instructions -/

theorem routeCommand_eq (d : Opnd) (k : BitVec 6) (c : Issue) (s : State) : routeCommand d k c s =
    engineAct (c.source.checkRoute s)
      (if c.source.routeWaits s then none else some (c.source.enqueueRoute s.nextId (some s.nextId) s.newId.2)) (d, 1) k.toNat c s := by
  unfold routeCommand engineAct
  split
  · rfl
  · dsimp only
    cases c.source.checkRoute s with
    | some r => rfl
    | none => cases h : c.source.routeWaits s <;> rfl

/-- What a routing instruction is: the descriptor it names, its dispatch, and what it does. -/
theorem routing_of_routeResult {i : Instr} {d : Opnd} (h : routeResult i = some d) :
    ∃ n disp f k, routeFields i = some (n, disp, f) ∧ disp < 2 ^ 8 ∧ ∀ s, exec i s = issue i s (routeCommand d k) := by
  cases i
  case rtcount _ _ _ k id => cases h; exact ⟨_, _, _, k, rfl, id.isLt, fun _ => rfl⟩
  case rtdisp _ _ _ k id => cases h; exact ⟨_, _, _, k, rfl, id.isLt, fun _ => rfl⟩
  case rtcomb _ _ _ k _ id => cases h; exact ⟨_, _, _, k, rfl, id.isLt, fun _ => rfl⟩
  all_goals cases h

/-- A routing command has entered its die's queue in `t`. -/
structure RouteGiven (c : Issue) (s t : State) (e : Command) : Prop where
  routes : (t.die (dieOf c.it.tile)).routes = (s.die (dieOf c.it.tile)).routes ++ [e]
  entered : Enqueued c s.nextId e
  pend : e.pend = some s.nextId
  mbox : (t.die (dieOf c.it.tile)).mbox = (s.die (dieOf c.it.tile)).mbox
  others : ∀ n, n ≠ dieOf c.it.tile → isDisp c.i = false ∨ n ≠ dieOf c.it.tile + 32 → t.die n = s.die n
  opens : isCount c.i = true → ∃ x : Dispatch, (t.die (dieOf c.it.tile)).ctxs = (s.die (dieOf c.it.tile)).ctxs ++ [x]
    ∧ x.launch = c.it.launch ∧ x.complete = false ∧ x.dispIssued = false ∧ x.vectors = []
  keeps : isCount c.i = false → isDisp c.i = false → (t.die (dieOf c.it.tile)).ctxs = (s.die (dieOf c.it.tile)).ctxs
  claims : isDisp c.i = true → ∃ x, findCtx t (dieOf c.it.tile) c.it.launch e.value.toNat = some x ∧ x.dispIssued = true
    ∧ findCtx s (dieOf c.it.tile) c.it.launch e.value.toNat = some { x with dispIssued := false }

theorem findCtx_congr {s t : State} (h : ∀ n, (t.die n).ctxs = (s.die n).ctxs) (die launch id : Nat) :
    findCtx t die launch id = findCtx s die launch id := by rw [findCtx, findCtx, h, h]

theorem RouteGiven.of_dies {c : Issue} {s u t : State} {e : Command} (h : RouteGiven c s u e) (hdies : t.dies = u.dies) :
    RouteGiven c s t e := by
  have hdie : ∀ n, t.die n = u.die n := fun n => by rw [State.die, hdies, State.die]
  obtain ⟨hroutes, hentered, hpend, hmbox, hothers, hopens, hkeeps, hclaims⟩ := h
  refine ⟨?_, hentered, hpend, ?_, ?_, ?_, ?_, ?_⟩ <;> simp only [hdie, findCtx_congr fun n => congrArg Die.ctxs (hdie n)] <;>
    assumption

theorem routeEntered_given {c : Issue} {s : State} {n disp : Nat} {f : Option Nat}
    (hfields : routeFields c.i = some (n, disp, f)) (hdisp : disp < 2 ^ 8) (hcheck : c.source.checkRoute s = none) :
    RouteGiven c s (c.source.routeEntered n disp s.nextId s.newId.2) (c.source.routeEntry n disp s.nextId s.newId.2) := by
  have hctxs := routeEntered_ctxs c.source n disp s.nextId s.newId.2
  refine ⟨?_, command_enqueued c _ _ _ _ _ _, rfl, ?_, fun m hm hother => ?_, fun hcount => ?_, fun hcount hnot => ?_,
    fun hclaim => ?_⟩
  · rw [routeEntered_die, if_pos (show dieOf c.it.tile = c.source.die from rfl)]
    rfl
  · rw [routeEntered_die, if_pos (show dieOf c.it.tile = c.source.die from rfl), routeContexts_die]
    rfl
  · rw [routeEntered_die, if_neg (show ¬_ = c.source.die from hm)]
    exact routeContexts_die_ne c.source n disp s.newId.2 hm hother
  · exact ⟨_, (hctxs _).trans (routeContexts_count c.source n disp s.newId.2 hcount), rfl, rfl, rfl, rfl⟩
  · rw [hctxs, routeContexts_comb c.source n disp s.newId.2 hcount hnot]
    rfl
  · have hvalue : (c.source.routeEntry n disp s.nextId s.newId.2).value.toNat = disp :=
      Nat.mod_eq_of_lt (hdisp.trans (by decide))
    obtain ⟨x, hx, hissued⟩ := findCtx_of_checkRoute c.source n disp s hfields hclaim hcheck
    refine ⟨{ x with dispIssued := true }, ?_, rfl, ?_⟩
    · rw [hvalue, findCtx_congr hctxs]
      exact findCtx_routeContexts c.source n disp s.newId.2 hclaim hx
    · rw [hvalue, ← hissued]
      exact hx

theorem IssueRest.queue {c : Issue} {u t : State} {queue : Tile → List Command} (h : IssueRest c u t)
    (hkind : queue = (·.copies) ∨ queue = (·.array)) (n : Nat) : queue (t.tile n) = queue (u.tile n) := by
  obtain rfl | rfl := hkind
  · exact h.copies n
  · exact h.array n

/-- Settles O42: each instruction is its checked command's entry into a queue, and the strand goes on from there. -/
theorem engineCommandsAreQueued : Obligations.EngineCommandsAreQueued := by
  unfold Obligations.EngineCommandsAreQueued
  refine ⟨fun i s c check queue size floors h hqueue => ?_, fun i d s c h hresult => ?_⟩
  · obtain ⟨hkind, entered, k, hexec, hfull, htakes⟩ := givesCommand_of_commandQueue h hqueue
    refine ⟨engineAct_retires h hexec, fun r => engineAct_traps hexec,
      fun honce hcheck hplace => engineAct_waits hexec honce hcheck (hfull hplace), fun floor honce hcheck hplace => ?_⟩
    obtain ⟨u, e, hentered, hjoins, henqueued, hfloor, hpend, hcopy, harray⟩ := htakes floor hplace
    obtain ⟨t, hengages, hrest⟩ := engineAct_engages h hexec honce hcheck hentered (by rw [hjoins.rest]) (by rw [hjoins.rest])
    have hu := hjoins.rest
    have hlast := hrest.queue hkind c.it.tile
    exact ⟨t, e, hengages, hpend, hlast.trans hjoins.last, henqueued, hfloor, by rw [hrest.held, hu], by rw [hrest.launches, hu],
      by rw [hrest.dies, hu], by rw [hrest.convoys, hu], fun hdet => by rw [hrest.items hdet, hu],
      fun hsize => hrest.plan.trans (hcopy hsize), fun hsize hitems => hrest.plan.trans (harray hsize hitems)⟩
  · obtain ⟨n, disp, f, k, hfields, hdisp, hexecs⟩ := routing_of_routeResult hresult
    have hi := clear_instr h
    have hexec := (hexecs s).trans (issue_clear h _)
    rw [routeCommand_eq] at hexec
    refine ⟨engineAct_retires h hexec, fun r => engineAct_traps hexec, fun honce hcheck hcount hmany => ?_,
      fun honce hcheck hfew => ?_⟩
    · refine engineAct_waits hexec honce hcheck (if_pos ?_)
      rw [CmdSource.routeWaits, show isCount c.source.i = true from (congrArg isCount hi).trans hcount]
      exact decide_eq_true hmany
    · have hroom : ¬c.source.routeWaits s = true := fun hwaits => by
        rw [CmdSource.routeWaits, Bool.and_eq_true, decide_eq_true_eq] at hwaits
        exact absurd (hfew (hi ▸ hwaits.1)) (Nat.not_lt.mpr hwaits.2)
      rw [if_neg hroom, enqueueRoute_eq c.source n disp s.nextId s.newId.2 (hi.symm ▸ hfields)] at hexec
      obtain ⟨t, hengages, hrest⟩ := engineAct_engages h hexec honce hcheck rfl (by rw [routeEntered_rest]; rfl)
        (by rw [routeEntered_rest]; rfl)
      obtain ⟨hroutes, hentered, hpend, hmbox, hothers, hopens, hkeeps, hclaims⟩ :=
        (routeEntered_given (f := f) (hi.symm ▸ hfields) hdisp hcheck).of_dies hrest.dies
      rw [hi] at hothers hopens hkeeps hclaims
      exact ⟨t, _, hengages, hroutes, hentered, hpend, hmbox, hothers, by rw [hrest.held, routeEntered_rest]; rfl,
        by rw [hrest.launches, routeEntered_rest]; rfl, by rw [hrest.plan, routeEntered_rest]; rfl, hopens, hkeeps, hclaims⟩

end Sys2Proof.Machine
end

section
/-! The copy engine in a launch's scratchpad (R154, R162): what FILL and COPY of contiguous elements write there. -/

namespace Sys2Proof.Machine

/-! ## Bytes -/

theorem Memory.read_writeBytes (m : Memory) (a y : Nat) (bs : List Byte) :
    (m.writeBytes a bs).read y = if a ≤ y ∧ y < a + bs.length then bs.getD (y - a) 0 else m.read y := by
  split
  next h =>
    have hi : y - a < bs.length := by omega
    have hread := Memory.read_writeBytes_inside bs m a (y - a) hi
    rw [Nat.add_sub_cancel' h.1] at hread
    rw [hread, List.getD_eq_getElem _ _ hi]
  next h => exact Memory.read_writeBytes_outside bs m a y (by omega)

@[simp] theorem Memory.length_readBytes (m : Memory) (a n : Nat) : (m.readBytes a n).length = n := by
  induction n generalizing a with
  | zero => rfl
  | succ n ih => rw [Memory.readBytes, List.length_cons, ih]

theorem Memory.readBytes_add (m : Memory) (a n k : Nat) : m.readBytes a (n + k) = m.readBytes a n ++ m.readBytes (a + n) k := by
  induction n generalizing a with
  | zero => rw [Nat.zero_add, Nat.add_zero]; rfl
  | succ n ih =>
    rw [Nat.succ_add, Memory.readBytes, ih, Memory.readBytes, List.cons_append, Nat.add_assoc, Nat.add_comm 1]

theorem Memory.getD_readBytes (m : Memory) (a : Nat) {n i : Nat} (h : i < n) : (m.readBytes a n).getD i 0 = m.read (a + i) := by
  induction n generalizing a i with
  | zero => cases h
  | succ n ih =>
    rw [Memory.readBytes]
    cases i with
    | zero => rfl
    | succ i =>
      rw [List.getD_cons_succ, ih _ (Nat.lt_of_succ_lt_succ h), Nat.add_assoc, Nat.add_comm 1]

/-! ## A state whose scratchpad bytes alone are new -/

/-- Only held memory differs, and of what an item's launch holds on its tile only the scratchpad's bytes. -/
structure ScratchIs (it : Item) (h : TileLaunch) (s : State) (m : Memory) (t : State) : Prop where
  rest : t = { s with held := t.held }
  held : Map.find (heldKey it.tile it.launch) t.held = some { h with scr := m }

section
variable {it : Item} {h : TileLaunch} {s t : State} {m : Memory} {x : Job}

theorem ScratchIs.heldAt (ht : ScratchIs it h s m t) : t.heldAt it.tile it.launch = { h with scr := m } := by
  rw [State.heldAt, ht.held, Option.getD_some]

theorem ScratchIs.read (ht : ScratchIs x.it h s m t) (hbad : h.bad = []) (addr : Int) (n : Nat) :
    x.read .scratch addr n t = (t, .ok ⟨m.readBytes addr.toNat n, 0⟩) := by
  have hlevel : scrLevel t x.it.tile x.it.launch = ⟨m, [], 16⟩ := by
    rw [scrLevel, ht.heldAt, ← hbad]
  rw [Job.read, hlevel]
  rfl

theorem ScratchIs.write (ht : ScratchIs x.it h s m t) (hbad : h.bad = []) (addr : Int) (ps : List (Xlat × Nat × Nat))
    (bs : List Byte) : (x.write .scratch addr ps bs t).2 = 0
      ∧ ScratchIs x.it h s (m.writeBytes addr.toNat bs) (x.write .scratch addr ps bs t).1 := by
  refine ⟨rfl, ?_, ?_⟩
  · rw [ht.rest]
    rfl
  · change Map.find _ (State.adjHeld _ _ _ t).held = _
    rw [State.adjHeld_held, Map.find_adjust_self, ht.held, Option.map_some, scrLevel, ht.heldAt]
    simp [Level.store, hbad]

/-- Elements written one after the other. -/
def Memory.writeElements (m : Memory) (es : List (Int × List Byte)) : Memory :=
  es.foldl (fun m y => m.writeBytes y.1.toNat y.2) m

theorem places_scratch (es : List (Int × List Byte)) (s : State) :
    x.places .scratch es s = (s, .ok (es.map fun _ => [])) := by
  induction es with
  | nil => rfl
  | cons e es ih =>
    rw [Job.places]
    simp only [translatedSpace, Bool.false_eq_true, if_false, ih]
    rfl

theorem ScratchIs.writeAll (ht : ScratchIs x.it h s m t) (hbad : h.bad = []) (es : List (Int × List Byte)) :
    (x.writeAll .scratch es t).2 = .ok 0 ∧ ScratchIs x.it h s (m.writeElements es) (x.writeAll .scratch es t).1 := by
  have hfold : ∀ (es : List (Int × List Byte)) (m : Memory) (t : State), ScratchIs x.it h s m t →
      ∃ u, (es.zip (es.map fun _ => ([] : List (Xlat × Nat × Nat)))).foldl (fun (acc : State × Nat) y =>
          let w := x.write .scratch y.1.1 y.2 y.1.2 acc.1
          (w.1, max acc.2 w.2)) (t, 0) = (u, 0) ∧ ScratchIs x.it h s (m.writeElements es) u := by
    intro es
    induction es with
    | nil => exact fun m t ht => ⟨t, rfl, ht⟩
    | cons e es ih =>
      intro m t ht
      exact ih _ _ (ht.write hbad e.1 [] e.2).2
  obtain ⟨u, hu, hscratch⟩ := hfold es m t ht
  rw [Job.writeAll, places_scratch]
  dsimp only
  rw [hu]
  exact ⟨rfl, hscratch⟩

end

/-! ## FILL (R162) -/

/-- A memory with `k` elements of a tensor written from element `i` on. -/
def Memory.fill (t : Tensor) (v i : Nat) : Nat → Memory → Memory
  | 0, m => m
  | k + 1, m => Memory.fill t v (i + 1) k (m.writeBytes (t.addr i).toNat (leBytes t.esz v))

theorem fillElements_scratch {x : Job} {h : TileLaunch} {s : State} (hbad : h.bad = []) (t : Tensor) (k : Nat) :
    ∀ (r : Run) (m : Memory), ScratchIs x.it h s m r.s → ∃ u, fillElements x .scratch t k r
        = { r with s := u, e := { r.e with cursor := r.e.cursor + k } }
      ∧ ScratchIs x.it h s (Memory.fill t r.e.value.toNat r.e.cursor k m) u := by
  induction k with
  | zero => exact fun r m hr => ⟨r.s, rfl, hr⟩
  | succ k ih =>
    intro r m hr
    obtain ⟨hok, hscratch⟩ := hr.writeAll hbad [(t.addr r.e.cursor, leBytes t.esz r.e.value.toNat)]
    obtain ⟨u, hu, hfill⟩ := ih { r with
      s := (x.writeAll .scratch [(t.addr r.e.cursor, leBytes t.esz r.e.value.toNat)] r.s).1
      e := { r.e with cursor := r.e.cursor + 1 } } _ hscratch
    refine ⟨u, ?_, hfill⟩
    rw [fillElements]
    dsimp only
    rw [hok]
    refine hu.trans ?_
    rw [Nat.add_assoc, Nat.add_comm 1]

/-! ## Contiguous elements (R149) -/

/-- A tensor of contiguous elements. -/
structure Tensor.Flat (t : Tensor) (base n : Nat) : Prop where
  base : t.base = base
  pos : 0 < n
  lay : t.lay = 0
  stream : t.stream = false
  dims : t.dims = [⟨n, t.esz⟩]

section
variable {t : Tensor} {base n : Nat} (h : t.Flat base n)
include h

theorem Tensor.Flat.addr {i : Nat} (hi : i < n) : t.addr i = ((base + i * t.esz : Nat) : Int) := by
  simp [Tensor.addr, h.lay, h.dims, h.base, offsetAt, Nat.mod_eq_of_lt hi]

theorem Tensor.Flat.extents : extents t.dims = n := by
  rw [h.dims]
  exact Nat.one_mul n

theorem Tensor.Flat.unit : t.unit = t.esz := by
  unfold Tensor.unit
  rw [h.lay]
  rfl

theorem Tensor.Flat.bytes : t.bytes = n * t.esz := by
  unfold Tensor.bytes
  rw [h.lay, h.extents]
  rfl

theorem Tensor.Flat.span : t.span = ((base : Int), ((base + n * t.esz : Nat) : Int)) := by
  obtain ⟨k, rfl⟩ : ∃ k, n = k + 1 := ⟨n - 1, by have := h.pos; omega⟩
  have hreach : ¬((k + 1 - 1 : Nat) : Int) * (t.esz : Int) < 0 := not_lt.mpr (by positivity)
  simp only [Tensor.span, h.dims, List.foldl_cons, List.foldl_nil, if_neg hreach, h.base, Prod.mk.injEq, true_and]
  rw [Nat.add_sub_cancel]
  push_cast
  ring

/-- The bytes of a memory where contiguous elements have been filled. -/
theorem Tensor.Flat.read_fill (v : Nat) (k : Nat) : ∀ (i : Nat) (m : Memory), i + k ≤ n → ∀ y,
    (Memory.fill t v i k m).read y = if base + i * t.esz ≤ y ∧ y < base + (i + k) * t.esz then byteOf v ((y - base) % t.esz)
      else m.read y := by
  induction k with
  | zero =>
    intro i m _ y
    rw [if_neg (by rw [Nat.add_zero]; omega)]
    rfl
  | succ k ih =>
    intro i m hk y
    rw [Memory.fill, ih (i + 1) _ (by omega), Memory.read_writeBytes, h.addr (by omega), Int.toNat_natCast, length_leBytes]
    have hnext : (i + 1) * t.esz = i * t.esz + t.esz := Nat.succ_mul i t.esz
    have hlast : (i + (k + 1)) * t.esz = i * t.esz + t.esz + k * t.esz := by ring
    have hsame : (i + 1 + k) * t.esz = i * t.esz + t.esz + k * t.esz := by ring
    rw [hnext, hlast, hsame]
    by_cases hin : base + i * t.esz ≤ y ∧ y < base + i * t.esz + t.esz
    · have hoff : (y - base) % t.esz = y - (base + i * t.esz) := by
        rw [show y - base = y - (base + i * t.esz) + i * t.esz by omega, Nat.add_mul_mod_self_right]
        exact Nat.mod_eq_of_lt (by omega)
      rw [if_neg (by omega), if_pos hin, if_pos (by omega), getD_leBytes v (by omega), hoff]
    · rw [if_neg hin]
      exact if_congr (by omega) rfl rfl

end

end Sys2Proof.Machine
end

section
/-! COPY of contiguous elements inside a launch's scratchpad (R154, R157). -/

namespace Sys2Proof.Machine

/-! ## Elements side by side -/

theorem Memory.writeBytes_append (m : Memory) (a : Nat) (xs ys : List Byte) :
    m.writeBytes a (xs ++ ys) = (m.writeBytes a xs).writeBytes (a + xs.length) ys := by
  induction xs generalizing m a with
  | nil => rfl
  | cons x xs ih =>
    rw [List.cons_append, Memory.writeBytes, ih, Memory.writeBytes, List.length_cons, Nat.add_assoc, Nat.add_comm 1]

theorem esz_tensorOf (ds : List (BitVec 256)) : ∃ k, (tensorOf ds).esz = 2 ^ k := ⟨_, rfl⟩

theorem dvd_max_of_pow {a b : Nat} (ha : ∃ k, a = 2 ^ k) (hb : ∃ k, b = 2 ^ k) : a ∣ max a b ∧ b ∣ max a b := by
  obtain ⟨j, rfl⟩ := ha
  obtain ⟨k, rfl⟩ := hb
  obtain hle | hle := Nat.le_total j k
  · rw [max_eq_right (Nat.pow_le_pow_right two_pos hle)]
    exact ⟨pow_dvd_pow 2 hle, dvd_rfl⟩
  · rw [max_eq_left (Nat.pow_le_pow_right two_pos hle)]
    exact ⟨dvd_rfl, pow_dvd_pow 2 hle⟩

/-- Contiguous elements written one after the other are their bytes written. -/
theorem Tensor.Flat.writeElements {t : Tensor} {base n : Nat} (h : t.Flat base n) (m : Memory) (bytes : List Byte) (j k : Nat)
    (hk : j + k ≤ n) (hlen : k * t.esz ≤ bytes.length) :
    m.writeElements ((upTo k).map fun i => (t.addr (j + i), (bytes.drop (i * t.esz)).take t.esz))
      = m.writeBytes (base + j * t.esz) (bytes.take (k * t.esz)) := by
  unfold Memory.writeElements upTo
  induction k with
  | zero => rw [Nat.zero_mul, List.take_zero]; rfl
  | succ k ih =>
    have hnext : (k + 1) * t.esz = k * t.esz + t.esz := Nat.succ_mul k t.esz
    rw [List.range_succ, List.map_append, List.foldl_append, ih (by omega) (by omega), hnext, List.take_add,
      Memory.writeBytes_append, List.length_take, Nat.min_eq_left (by omega)]
    simp only [List.map_cons, List.map_nil, List.foldl_cons, List.foldl_nil]
    rw [h.addr (by omega), Int.toNat_natCast, Nat.add_mul, Nat.add_assoc]

/-- Units of a contiguous tensor read one after the other are their bytes read. -/
theorem ScratchIs.readUnits {x : Job} {h : TileLaunch} {s t : State} {m : Memory} (ht : ScratchIs x.it h s m t) (hbad : h.bad = [])
    {src : Tensor} {base p : Nat} (hsrc : src.Flat base p) (c k : Nat) (hk : c + k ≤ p) :
    x.readUnits .scratch src ((upTo k).map fun i => c + i) t = (t, .ok ⟨m.readBytes (base + c * src.esz) (k * src.esz), 0⟩) := by
  unfold Job.readUnits upTo
  induction k with
  | zero => rw [Nat.zero_mul]; rfl
  | succ k ih =>
    rw [List.range_succ, List.map_append, List.foldl_append, ih (by omega)]
    simp only [List.map_cons, List.map_nil, List.foldl_cons, List.foldl_nil, Job.readUnit, hsrc.lay, beq_self_eq_true, if_true]
    rw [ht.read hbad, hsrc.addr (by omega), Int.toNat_natCast, Nat.succ_mul, Memory.readBytes_add, Nat.add_mul, Nat.add_assoc]
    rfl

/-! ## The groups of a COPY -/

/-- What a COPY of contiguous elements has to move: as many bytes from one end as to the other, the ends apart. -/
structure Moves (dst src : Tensor) (to' from' n p : Nat) : Prop where
  dest : dst.Flat to' n
  source : src.Flat from' p
  total : n * dst.esz = p * src.esz
  apart : to' + n * dst.esz ≤ from' ∨ from' + n * dst.esz ≤ to'
  units : (∃ k, dst.esz = 2 ^ k) ∧ ∃ k, src.esz = 2 ^ k

/-- A memory in which the first bytes of a COPY have been moved. -/
def Memory.Moved (m₀ : Memory) (to' from' len : Nat) (m : Memory) : Prop :=
  ∀ y, m.read y = if to' ≤ y ∧ y < to' + len then m₀.read (from' + (y - to')) else m₀.read y

section
variable {dst src : Tensor} {to' from' n p : Nat} (h : Moves dst src to' from' n p)
include h

theorem Moves.group : groupBytes dst src = max src.esz dst.esz := by rw [groupBytes, h.source.unit]

theorem Moves.src_pos : 0 < src.esz := by
  obtain ⟨k, hk⟩ := h.units.2
  rw [hk]
  exact Nat.two_pow_pos k

theorem Moves.dst_pos : 0 < dst.esz := by
  obtain ⟨k, hk⟩ := h.units.1
  rw [hk]
  exact Nat.two_pow_pos k

/-- A group is some whole units of the source, and some whole elements of the destination. -/
theorem Moves.group_eq : groupBytes dst src / src.unit * src.esz = groupBytes dst src
    ∧ groupBytes dst src / dst.esz * dst.esz = groupBytes dst src := by
  obtain ⟨hsrc, hdst⟩ := dvd_max_of_pow h.units.2 h.units.1
  rw [h.group, h.source.unit]
  exact ⟨Nat.div_mul_cancel hsrc, Nat.div_mul_cancel hdst⟩

/-- The groups of a COPY are all of its source. -/
theorem Moves.groups : src.bytes / src.unit / (groupBytes dst src / src.unit) * (groupBytes dst src / src.unit) = p := by
  have hsrc := h.src_pos
  rw [h.source.bytes, h.source.unit, Nat.mul_div_cancel _ hsrc, h.group]
  refine Nat.div_mul_cancel ?_
  obtain hle | hle := Nat.le_total dst.esz src.esz
  · rw [max_eq_left hle, Nat.div_self hsrc]
    exact one_dvd p
  · rw [max_eq_right hle]
    have hdvd : src.esz ∣ dst.esz := by
      have hmax := (dvd_max_of_pow h.units.2 h.units.1).1
      rwa [max_eq_right hle] at hmax
    refine ⟨n, Nat.eq_of_mul_eq_mul_right hsrc ?_⟩
    rw [← h.total, Nat.mul_right_comm, Nat.div_mul_cancel hdvd, Nat.mul_comm]

theorem Moves.not_overlap (sp sp' : Space) : mayOverlap sp sp' dst src = false := by
  have htotal := h.total
  have hapart := h.apart
  rw [mayOverlap, h.dest.span, h.source.span]
  simp only [Bool.and_eq_false_iff, decide_eq_false_iff_not, Nat.cast_lt]
  omega

/-- One more group moved. -/
theorem Moves.moved_group {m₀ m : Memory} {len k : Nat} (hm : m₀.Moved to' from' len m) (hlen : len + k ≤ n * dst.esz) :
    m₀.Moved to' from' (len + k) (m.writeBytes (to' + len) (m.readBytes (from' + len) k)) := by
  intro y
  have hapart := h.apart
  rw [Memory.read_writeBytes, Memory.length_readBytes]
  by_cases hin : to' + len ≤ y ∧ y < to' + len + k
  · have hsrc : m.read (from' + (y - to')) = m₀.read (from' + (y - to')) := by
      rw [hm, if_neg (by omega)]
    rw [if_pos hin, if_pos (by omega), Memory.getD_readBytes _ _ (by omega),
      show from' + len + (y - (to' + len)) = from' + (y - to') by omega, hsrc]
  · rw [if_neg hin, hm]
    exact if_congr (by omega) rfl rfl

theorem Moves.elementsAt {m : Memory} {bytes : List Byte} {c : Nat} (hc : dst.esz ∣ c) (hlen : dst.esz ∣ bytes.length)
    (hin : c + bytes.length ≤ n * dst.esz) : m.writeElements (elementsAt dst c bytes) = m.writeBytes (to' + c) bytes := by
  obtain ⟨j, rfl⟩ := hc
  obtain ⟨k, hk⟩ := hlen
  have hpos := h.dst_pos
  rw [Sys2Proof.Machine.elementsAt, hk, Nat.mul_div_cancel_left _ hpos, Nat.mul_div_cancel_left _ hpos]
  have hcomm : bytes.length = k * dst.esz := hk.trans (Nat.mul_comm _ _)
  have hroom : j + k ≤ n := Nat.le_of_mul_le_mul_left (by rw [Nat.mul_add, ← hk, Nat.mul_comm dst.esz n]; exact hin) hpos
  rw [h.dest.writeElements m bytes j k hroom hcomm.ge, ← hcomm, List.take_length, Nat.mul_comm j]

end

/-- A COPY moves its groups one after the other. -/
theorem copyGroups_scratch {x : Job} {h : TileLaunch} {s s₀ : State} (hbad : h.bad = []) {md : CopyMod} {dst src : Tensor}
    {to' from' n p : Nat} (hdst : md.dst = .scratch) (hsrc : md.src = .scratch) (hmoves : Moves dst src to' from' n p) (k : Nat) :
    ∀ (r : Run) (m : Memory) (j : Nat), r.e.cursor = j * (groupBytes dst src / src.unit) →
      (j + k) * (groupBytes dst src / src.unit) ≤ p → ScratchIs x.it h s m r.s →
      h.scr.Moved to' from' (r.e.cursor * src.esz) m →
      ∃ u m', copyGroups x md dst src s₀ k r
          = { r with s := u, e := { r.e with cursor := (j + k) * (groupBytes dst src / src.unit) } }
        ∧ ScratchIs x.it h s m' u ∧ h.scr.Moved to' from' ((j + k) * (groupBytes dst src / src.unit) * src.esz) m' := by
  obtain ⟨hunits, helements⟩ := hmoves.group_eq
  set per := groupBytes dst src / src.unit with hper
  induction k with
  | zero =>
    intro r m j hcursor _ hr hmoved
    refine ⟨r.s, m, ?_, hr, ?_⟩
    · rw [Nat.add_zero, ← hcursor]
      rfl
    · rwa [Nat.add_zero, ← hcursor]
  | succ k ih =>
    intro r m j hcursor hroom hr hmoved
    have hj : r.e.cursor + per = (j + 1) * per := by rw [hcursor, Nat.succ_mul]
    have hle : r.e.cursor + per ≤ p := by
      rw [hj]
      exact (Nat.mul_le_mul_right per (by omega)).trans hroom
    have hbytes : r.e.cursor * src.esz + per * src.esz ≤ n * dst.esz := by
      rw [← Nat.add_mul, hmoves.total]
      exact Nat.mul_le_mul_right _ hle
    have hread := hr.readUnits hbad hmoves.source r.e.cursor per hle
    set bytes := m.readBytes (from' + r.e.cursor * src.esz) (per * src.esz) with hbytesdef
    have hlength : bytes.length = per * src.esz := Memory.length_readBytes _ _ _
    have hoff : dst.esz ∣ r.e.cursor * src.esz := by
      rw [hcursor, Nat.mul_assoc, hunits]
      exact Dvd.dvd.mul_left ⟨_, (helements.symm.trans (Nat.mul_comm _ _))⟩ j
    have hlen : dst.esz ∣ bytes.length := by
      rw [hlength, hunits]
      exact ⟨_, helements.symm.trans (Nat.mul_comm _ _)⟩
    obtain ⟨hok, hscratch⟩ := hr.writeAll hbad (elementsAt dst (r.e.cursor * src.esz) bytes)
    rw [hmoves.elementsAt hoff hlen (hlength.symm ▸ hbytes)] at hscratch
    have hmoved' := hmoves.moved_group hmoved hbytes
    set w := x.writeAll .scratch (elementsAt dst (r.e.cursor * src.esz) bytes) r.s with hw
    obtain ⟨u, m', hu, hscr, hdone⟩ := ih { r with s := w.1, e := { r.e with cursor := r.e.cursor + per } } _ (j + 1) hj
      (by rwa [Nat.add_right_comm, Nat.add_assoc]) hscratch (by rw [Nat.add_mul]; exact hmoved')
    rw [Nat.add_right_comm, Nat.add_assoc j k 1] at hu hdone
    refine ⟨u, m', ?_, hscr, hdone⟩
    rw [copyGroups]
    dsimp only
    rw [hsrc, hdst, ← hper, hread]
    dsimp only
    rw [hmoves.not_overlap]
    simp only [Bool.false_and, Bool.false_eq_true, if_false, hmoves.source.unit]
    rw [← hw, hok]
    exact hu

end Sys2Proof.Machine
end

section
/-! COPY_ENTRY_START runs a FILL or a COPY inside the scratchpad to its end (R144, R154, R162). -/

namespace Sys2Proof.Machine

/-- What a command has done that moved bytes of its launch's scratchpad alone and is now to complete. -/
def RanInScratch (tile : Nat) (s : State) (e : Command) (h : TileLaunch) (scr : Nat → Byte) : Prop :=
  ∃ t : State, exec (.copyEntryStart tile) s = .next t
    ∧ t.strands = s.strands ∧ t.items = s.items ∧ t.launches = s.launches ∧ t.convoys = s.convoys ∧ t.mem = s.mem
    ∧ t.plan = s.plan ++ [.event (.copyCompletion tile e.no), .event (.copyEntryStart tile)]
    ∧ (t.heldAt tile e.launch) = { h with scr := (t.heldAt tile e.launch).scr }
    ∧ (∀ a, (t.heldAt tile e.launch).scr.read a = scr a)
    ∧ ∃ x : Command, (t.tile tile).copies = [x] ∧ x.id = e.id ∧ x.state = .active ∧ x.finished = true ∧ x.err = 0

/-- A command taken up by its engine. -/
def Command.takenUp (e : Command) : Command := { e with state := .active, started := true }

theorem putCommand_single {tile : Nat} {s : State} {e y : Command} (htile : tile < 768) (h : (s.tile tile).copies = [y])
    (hid : y.id = e.id) : putCommand tile e s = s.setTile tile { s.tile tile with copies := [e] } := by
  unfold putCommand adjCommand
  rw [if_pos (by simp [htile]), h]
  simp [hid]

theorem copies_putCommand_single {tile : Nat} {s : State} {e y : Command} (htile : tile < 768)
    (h : (s.tile tile).copies = [y]) (hid : y.id = e.id) : ((putCommand tile e s).tile tile).copies = [e] := by
  rw [putCommand_single htile h hid, tile_setTile, if_pos rfl]

/-- The engine takes up the one command of its queue. -/
theorem startCopy_single {s : State} {e : Command} {it : Item} {la : Launch} {tile : Nat} (h : (s.tile tile).copies = [e])
    (hstate : e.state = .queued) (hguard : e.guardSlot = none) (hit : Map.find e.item s.items = some it)
    (hla : Map.find e.launch s.launches = some la) :
    startCopy tile s = (runCopy { e := e.takenUp, it := it, la := la } (putCommand tile e.takenUp s)).later
      (.copyEntryStart tile) := by
  have hactive : ([e].filter fun e => e.state == .active && !e.finished && e.fault.isNone) = [] := by simp [hstate]
  have hheads : headGuarded [e] = [] := by simp [headGuarded, hguard]
  have hfew : ¬8 ≤ ([e].filter fun e => e.state == .active).length := by simp [hstate]
  have hstart : [e].find? (mayStart [e]) = some e := by simp [mayStart, hstate, hguard]
  have hjob : jobOf e.takenUp s = some { e := e.takenUp, it := it, la := la } := by
    unfold jobOf
    rw [show Map.find e.takenUp.item s.items = some it from hit, show Map.find e.takenUp.launch s.launches = some la from hla]
  unfold startCopy
  rw [h]
  dsimp only
  rw [hactive, List.foldl_nil, h, wakeGuards, hheads, List.foldl_nil, if_neg hfew, hstart]
  dsimp only
  rw [show ({ e with state := .active, started := true } : Command) = e.takenUp from rfl, hjob]

section
variable {s : State} {e : Command} {it : Item} {la : Launch} {h : TileLaunch} (htile : it.tile < 768)
  (hcopies : (s.tile it.tile).copies = [e]) (hstate : e.state = .queued) (hguard : e.guardSlot = none)
  (hit : Map.find e.item s.items = some it) (hla : Map.find e.launch s.launches = some la) (hlaunch : it.launch = e.launch)
include htile hcopies

theorem putCommand_takenUp :
    putCommand it.tile e.takenUp s = s.setTile it.tile { s.tile it.tile with copies := [e.takenUp] } :=
  putCommand_single htile hcopies rfl

theorem scratchIs_putCommand (hheld : Map.find (heldKey it.tile it.launch) s.held = some h) :
    ScratchIs it h (putCommand it.tile e.takenUp s) h.scr (putCommand it.tile e.takenUp s) := by
  refine ⟨rfl, ?_⟩
  rw [putCommand_takenUp htile hcopies]
  exact hheld

include hstate hguard hit hla hlaunch

/-- A command whose run ends with its bytes written. -/
theorem ranInScratch_of_runCopy {u : State} {m : Memory} {c : Nat} {scr : Nat → Byte} (herr : e.err = 0)
    (hrun : runCopy { e := e.takenUp, it := it, la := la } (putCommand it.tile e.takenUp s)
      = finishCommand it.tile { e.takenUp with cursor := c } u)
    (hscratch : ScratchIs it h (putCommand it.tile e.takenUp s) m u) (hm : ∀ y, m.read y = scr y) :
    RanInScratch it.tile s e h scr := by
  set x : Command := { e.takenUp with cursor := c, finished := true } with hx
  have hu : u = { s with
      held := u.held, tiles := (s.setTile it.tile { s.tile it.tile with copies := [e.takenUp] }).tiles } :=
    hscratch.rest.trans (by rw [putCommand_takenUp htile hcopies]; rfl)
  have hqueue : (u.tile it.tile).copies = [e.takenUp] := by
    rw [State.tile, hscratch.rest]
    exact copies_putCommand_single htile hcopies rfl
  have hput : putCommand it.tile x u = u.setTile it.tile { u.tile it.tile with copies := [x] } :=
    putCommand_single htile hqueue rfl
  have hheldAt : u.heldAt it.tile e.launch = { h with scr := m } := hlaunch ▸ hscratch.heldAt
  set t := ((u.setTile it.tile { u.tile it.tile with copies := [x] }).later (.copyCompletion it.tile e.no)).later
    (.copyEntryStart it.tile) with ht
  have hfinal : t.heldAt it.tile e.launch = { h with scr := m } := hheldAt
  refine ⟨t, ?_, by rw [ht, hu]; rfl, by rw [ht, hu]; rfl, by rw [ht, hu]; rfl, by rw [ht, hu]; rfl, by rw [ht, hu]; rfl, ?_,
    by rw [hfinal], fun a => by rw [hfinal]; exact hm a, x, ?_, rfl, rfl, rfl, herr⟩
  · change Host.Outcome.next (if it.tile < 768 then startCopy it.tile s else _) = _
    rw [if_pos htile, startCopy_single hcopies hstate hguard hit hla, hrun, finishCommand, ht, ← hput]
    rfl
  · rw [ht, hu]
    exact List.append_assoc _ _ _
  · change ((State.setTile _ _ u).tile it.tile).copies = _
    rw [tile_setTile, if_pos rfl]

end

end Sys2Proof.Machine
end

section
/-! A FILL and a COPY of contiguous elements of the scratchpad, from their entry's start on (R144, R154, R162). -/

namespace Sys2Proof.Machine

/-- The tensor that the descriptor registers from the `d`-th on give. -/
def Command.tensor (e : Command) (d : Nat) : Tensor :=
  tensorOf (((e.descs.drop d).take 3).take (descRegs (e.descs.getD d 0).toNat))

theorem tensor_dest (e : Command) :
    tensorOf ((e.takenUp.descs.take 3).take (descRegs (e.takenUp.descs.getD 0 0).toNat)) = e.tensor 0 := rfl

theorem tensor_source (e : Command) :
    tensorOf (((e.takenUp.descs.drop 3).take 3).take (descRegs (e.takenUp.descs.getD 3 0).toNat)) = e.tensor 3 := rfl

section
variable {e : Command} {it : Item} {la : Launch} {s : State} {g : Guard} {k : BitVec 6} {md : CopyMod} {peer : BitVec 7}

theorem runCopy_fill {d : BitVec 4} {a : Opnd} {u : State} {y : Command} (hdropped : e.dropped = false) (hcursor : e.cursor = 0)
    (hop : e.op = .fill g d a k md peer) (hhere : hereField s peer.toNat = true)
    (hfill : fillElements { e := e.takenUp, it := it, la := la } md.dst (e.tensor 0) (extents (e.tensor 0).dims)
      { s := s, e := e.takenUp, fault := none } = { s := u, e := y, fault := none }) :
    runCopy { e := e.takenUp, it := it, la := la } s = finishCommand it.tile y u := by
  unfold runCopy
  dsimp only
  rw [show e.takenUp.dropped = false from hdropped, show e.takenUp.op = _ from hop]
  dsimp only
  rw [hhere, show e.takenUp.cursor = 0 from hcursor, Nat.sub_zero]
  simp only [Bool.false_eq_true, if_false, if_true]
  rw [tensor_dest, hfill]
  rfl

theorem runCopy_copy {d a : BitVec 4} {u : State} {y : Command} (hdropped : e.dropped = false) (hcursor : e.cursor = 0)
    (hop : e.op = .copy g d a k md peer) (hhere : hereField s peer.toNat = true)
    (hdst : (e.tensor 0).stream = false) (hsrc : (e.tensor 3).stream = false)
    (hcopy : copyGroups { e := e.takenUp, it := it, la := la } md (e.tensor 0) (e.tensor 3) s
      ((e.tensor 3).bytes / (e.tensor 3).unit / (groupBytes (e.tensor 0) (e.tensor 3) / (e.tensor 3).unit))
      { s := s, e := e.takenUp, fault := none } = { s := u, e := y, fault := none }) :
    runCopy { e := e.takenUp, it := it, la := la } s = finishCommand it.tile y u := by
  have hrows (kind : AccKind) (t : Tensor) (ht : t.stream = false) :
      Job.bankRows { e := e.takenUp, it := it, la := la } kind t s = [] := by
    unfold Job.bankRows
    rw [ht]
    rfl
  unfold runCopy
  dsimp only
  rw [show e.takenUp.dropped = false from hdropped, show e.takenUp.op = _ from hop]
  dsimp only
  rw [hhere, show e.takenUp.cursor = 0 from hcursor, Nat.sub_zero, tensor_dest, tensor_source, hrows .load _ hsrc, hrows .store _ hdst]
  simp only [Bool.false_eq_true, if_false, if_true, List.append_nil]
  rw [hcopy]
  rfl

end

section
variable {s : State} {e : Command} {it : Item} {la : Launch} {h : TileLaunch} {g : Guard} {k : BitVec 6} {md : CopyMod}
  {peer : BitVec 7} (htile : it.tile < 768)
  (hcopies : (s.tile it.tile).copies = [e]) (hstate : e.state = .queued) (hguard : e.guardSlot = none)
  (hcursor : e.cursor = 0) (herr : e.err = 0) (hdropped : e.dropped = false)
  (hit : Map.find e.item s.items = some it) (hla : Map.find e.launch s.launches = some la) (hlaunch : it.launch = e.launch)
  (hheld : Map.find (heldKey it.tile it.launch) s.held = some h) (hbad : h.bad = [])
  (hhere : hereField s peer.toNat = true) (hdst : md.dst = .scratch)
include htile hcopies hstate hguard hcursor herr hdropped hit hla hlaunch hheld hbad hhere hdst

theorem fill_ranInScratch {d : BitVec 4} {a : Opnd} {base n : Nat} (hop : e.op = .fill g d a k md peer)
    (hflat : (e.tensor 0).Flat base n) : RanInScratch it.tile s e h fun y =>
      if base ≤ y ∧ y < base + n * (e.tensor 0).esz then BitVec.ofNat 8 (e.value.toNat / 256 ^ ((y - base) % (e.tensor 0).esz))
      else h.scr.read y := by
  obtain ⟨u, hfill, hscratch⟩ := fillElements_scratch (x := { e := e.takenUp, it := it, la := la }) hbad (e.tensor 0) n
    { s := putCommand it.tile e.takenUp s, e := e.takenUp, fault := none } h.scr (scratchIs_putCommand htile hcopies hheld)
  rw [show e.takenUp.cursor = 0 from hcursor] at hfill hscratch
  refine ranInScratch_of_runCopy htile hcopies hstate hguard hit hla hlaunch herr (c := 0 + n)
    (runCopy_fill hdropped hcursor hop ?_ ?_) hscratch fun y => ?_
  · rw [putCommand_takenUp htile hcopies]
    exact hhere
  · rw [hdst, hflat.extents]
    exact hfill
  · have hread := hflat.read_fill e.value.toNat n 0 h.scr (Nat.zero_add n).le y
    rw [Nat.zero_mul, Nat.add_zero, Nat.zero_add] at hread
    exact hread

theorem copy_ranInScratch {d a : BitVec 4} {to' from' n p : Nat} (hop : e.op = .copy g d a k md peer)
    (hsrc : md.src = .scratch) (hmoves : Moves (e.tensor 0) (e.tensor 3) to' from' n p) :
    RanInScratch it.tile s e h fun z =>
      if to' ≤ z ∧ z < to' + n * (e.tensor 0).esz then h.scr.read (from' + (z - to')) else h.scr.read z := by
  have hgroups := hmoves.groups
  set groups := (e.tensor 3).bytes / (e.tensor 3).unit / (groupBytes (e.tensor 0) (e.tensor 3) / (e.tensor 3).unit)
  have hnothing : h.scr.Moved to' from' (e.takenUp.cursor * (e.tensor 3).esz) h.scr := fun y => by
    rw [show e.takenUp.cursor = 0 from hcursor, if_neg (by omega)]
  obtain ⟨u, m, hcopy, hscratch, hmoved⟩ := copyGroups_scratch (x := { e := e.takenUp, it := it, la := la })
    (s₀ := putCommand it.tile e.takenUp s) hbad hdst hsrc hmoves groups
    { s := putCommand it.tile e.takenUp s, e := e.takenUp, fault := none } h.scr 0
    ((Nat.zero_mul _).symm ▸ hcursor) (by rw [Nat.zero_add, hgroups]) (scratchIs_putCommand htile hcopies hheld) hnothing
  rw [Nat.zero_add, hgroups] at hcopy hmoved
  refine ranInScratch_of_runCopy htile hcopies hstate hguard hit hla hlaunch herr
    (runCopy_copy hdropped hcursor hop ?_ hmoves.dest.stream hmoves.source.stream hcopy) hscratch fun y => ?_
  · rw [putCommand_takenUp htile hcopies]
    exact hhere
  · rw [hmoved, ← hmoves.total]

end

end Sys2Proof.Machine
end

section
/-! The end of a copy command, and a bank's entry that its base die closed (R147, R164, R168). -/

namespace Sys2Proof.Machine

/-! ## CPSTAT -/

theorem getLsbD_ofNat_of_odd {n i : Nat} (hi : i < 64) (h : n / 2 ^ i % 2 = 1) : (BitVec.ofNat 64 n).getLsbD i = true := by
  rw [BitVec.getLsbD_ofNat, decide_eq_true hi, Bool.true_and, Nat.testBit_eq_decide_div_mod_eq, decide_eq_true h]

/-- CPSTAT after a command in error: ERR and its detail code. -/
theorem putBits_error (x err : Nat) : putBits (putBits x 28 28 1) 27 22 err / 2 ^ 22 % 2 ^ 6 = err % 2 ^ 6
    ∧ putBits (putBits x 28 28 1) 27 22 err / 2 ^ 28 % 2 = 1 := by
  simp only [putBits, bitsOf]
  simp only [Nat.reduceAdd, Nat.reduceSub]
  omega

/-- CPSTAT after a bank was closed: the handle, the reason, CLOSED; the rest as it was. -/
theorem putBits_closed (x h reason : Nat) (hx : x < 2 ^ 64) :
    let c := putBits (putBits (putBits x 47 32 h) 31 30 reason) 29 29 1
    c < 2 ^ 64 ∧ c / 2 ^ 32 % 2 ^ 16 = h % 2 ^ 16 ∧ c / 2 ^ 30 % 4 = reason % 4 ∧ c / 2 ^ 29 % 2 = 1 ∧ c % 2 ^ 29 = x % 2 ^ 29 := by
  simp only [putBits, bitsOf]
  simp only [Nat.reduceAdd, Nat.reduceSub]
  omega

/-! ## COPY_COMPLETION (R147) -/

/-- A command whose result is given and whose errors are reported. -/
def answered (e : Command) (s : State) : State := reportError false e (giveOpen e s)

theorem answered_enginesStand (e : Command) (s : State) : EnginesStand s (answered e s) :=
  (giveOpen_enginesStand e s).trans (reportError_enginesStand false e _)

theorem answered_cpstat {s : State} {e : Command} {it : Item} (hit : Map.find e.item s.items = some it) (h : e.err ≠ 0) :
    ∃ x y, Map.find e.item (answered e s).items = some x
      ∧ x.cpstat = BitVec.ofNat 64 (putBits (putBits y 28 28 1) 27 22 e.err) := by
  obtain ⟨it', hit', -, -⟩ := (giveOpen_enginesStand e s).items e.item it hit
  rw [answered, reportError_items h]
  exact ⟨_, it'.cpstat.toNat, find_adjItem hit' _ _, by rw [if_pos rfl]⟩

/-- The entry of a command freed, its engine told, and what follows. -/
def freed (tile : Nat) (e : Command) (s : State) : State :=
  afterCommand e 0 ((s.setTile tile { s.tile tile with
    copies := (s.tile tile).copies.filter fun x => x.id != e.id }).later (.copyEntryStart tile))

/-- The entry of a command freed, and its engine told. -/
theorem freed_eq (tile : Nat) (e : Command) (s : State) : ∃ u, freed tile e s = afterCommand e 0 u ∧ u.held = s.held
    ∧ u.items = s.items ∧ (u.tile tile).copies = (s.tile tile).copies.filter fun x => x.id != e.id := by
  refine ⟨_, rfl, rfl, rfl, ?_⟩
  change ((State.setTile _ _ s).tile tile).copies = _
  rw [tile_setTile, if_pos rfl]

theorem countDown_kept (tile launch k : Nat) (s : State) :
    (countDown tile launch k s).items = s.items ∧ ∀ n, (countDown tile launch k s).tile n = s.tile n := by
  refine ⟨by rw [countDown_rest], fun n => ?_⟩
  rw [State.tile, countDown_rest, State.tile]

theorem opened_of_not_bkopen {e : Command} (h : ∀ g d a k m, e.op ≠ .bkopen g d a k m) : e.opened = false := by
  unfold Command.opened
  split
  next g d a k m hop => exact absurd hop (h g d a k m)
  next => exact Bool.and_false _

theorem completeCopy_eq {tile no : Nat} {s : State} {e : Command} {it : Item}
    (hfind : (s.tile tile).copies.find? (fun e => e.no == no && e.finished && e.state == .active) = some e)
    (hop : ∀ g d a k m, e.op ≠ .bkopen g d a k m) (hit : Map.find e.item s.items = some it) (htile : it.tile = tile)
    (hdeferred : ∀ d ∈ it.deferred, d.id ≠ e.id) :
    completeCopy tile no s = freed tile e (countDown tile e.launch (commandCounter e) (answered e s)) := by
  obtain ⟨it', hit', htile', hdeferred'⟩ := (answered_enginesStand e s).items e.item it hit
  unfold completeCopy
  rw [hfind]
  dsimp only
  rw [show reportError false e (giveOpen e s) = answered e s from rfl, hit']
  simp only [opened_of_not_bkopen hop, Bool.false_and, Bool.false_eq_true, if_false]
  rw [countEnd_undeferred hit' (hdeferred' ▸ hdeferred), htile', htile]
  rfl

theorem copyCompletion_completes {tile no : Nat} {s : State} {e : Command} {it : Item} {h : TileLaunch} (hlt : tile < 768)
    (hfind : (s.tile tile).copies.find? (fun e => e.no == no && e.finished && e.state == .active) = some e)
    (hop : ∀ g d a k m, e.op ≠ .bkopen g d a k m) (hit : Map.find e.item s.items = some it) (htile : it.tile = tile)
    (hdeferred : ∀ d ∈ it.deferred, d.id ≠ e.id) (hheld : Map.find (heldKey tile e.launch) s.held = some h) :
    ∃ t : State, exec (.copyCompletion tile no) s = .next t
      ∧ (t.tile tile).copies = (s.tile tile).copies.filter (fun x => x.id != e.id)
      ∧ (counterAt t tile e.launch (commandCounter e)).toInt
          = max (-(2 ^ 31)) ((counterAt s tile e.launch (commandCounter e)).toInt - 1)
      ∧ (e.err ≠ 0 → ∃ x, Map.find e.item t.items = some x ∧ x.cpstat.getLsbD 28 = true
          ∧ (x.cpstat.toNat / 2 ^ 22 % 2 ^ 6 = e.err % 2 ^ 6)) := by
  have hanswered := answered_enginesStand e s
  obtain ⟨hitems, htiles⟩ := countDown_kept tile e.launch (commandCounter e) (answered e s)
  have hcount := counterAt_countDown (s := answered e s) (hanswered.held.symm ▸ hheld) (commandCounter e)
  rw [hanswered.counterAt] at hcount
  obtain ⟨u, hu, huheld, huitems, hucopies⟩ := freed_eq tile e (countDown tile e.launch (commandCounter e) (answered e s))
  have hafter := afterCommand_enginesStand e 0 u
  refine ⟨afterCommand e 0 u, ?_, ?_, ?_, fun herr => ?_⟩
  · change Host.Outcome.next (if tile < 768 then completeCopy tile no s else _) = _
    rw [if_pos hlt, completeCopy_eq hfind hop hit htile hdeferred, hu]
  · rw [hafter.tile, hucopies, htiles, hanswered.tile]
  · rw [hafter.counterAt, counterAt, State.heldAt, huheld]
    exact hcount
  · obtain ⟨x, y, hx, hcpstat⟩ := answered_cpstat hit herr
    rw [← hitems, ← huitems] at hx
    obtain ⟨z, hz, hsame⟩ := afterCommand_cpstat hx e 0
    obtain ⟨hcode, hbit⟩ := putBits_error y e.err
    refine ⟨z, hz, ?_, ?_⟩
    · rw [hsame, hcpstat]
      exact getLsbD_ofNat_of_odd (by decide) hbit
    · rw [hsame, hcpstat, BitVec.toNat_ofNat]
      omega

/-! ## CLOSE_EVENT (R164) -/

/-- CPSTAT after a bank was closed. -/
def closedStat (h reason : Nat) (v : BitVec 64) : BitVec 64 :=
  BitVec.ofNat 64 (putBits (putBits (putBits v.toNat 47 32 h) 31 30 reason) 29 29 1)

theorem closedStat_fields (h reason : Nat) (v : BitVec 64) : (closedStat h reason v).toNat / 2 ^ 32 % 2 ^ 16 = h % 2 ^ 16
    ∧ (closedStat h reason v).toNat / 2 ^ 30 % 4 = reason % 4 ∧ (closedStat h reason v).getLsbD 29 = true
    ∧ (closedStat h reason v).toNat % 2 ^ 29 = v.toNat % 2 ^ 29 := by
  obtain ⟨hlt, hhandle, hreason, hbit, hkept⟩ := putBits_closed v.toNat h reason v.isLt
  unfold closedStat
  rw [BitVec.toNat_ofNat, Nat.mod_eq_of_lt hlt]
  exact ⟨hhandle, hreason, getLsbD_ofNat_of_odd (by decide) hbit, hkept⟩

/-- The state with the entry of a closed bank freed. -/
def bankFreed (tile : Nat) (e : Command) (s : State) : State :=
  s.setTile tile { s.tile tile with copies := (s.tile tile).copies.filter fun x => x.id != e.id || e.state != .bank }

theorem closeBank_eq {tile h reason : Nat} {s : State} {e : Command}
    (hfind : (s.tile tile).copies.find? (fun e => (e.state == .bank || e.opened) && e.handle == h && !holdsBank tile e s) = some e) :
    closeBank tile h reason s
      = (bankFreed tile e s).adjItem e.item fun it => { it with cpstat := closedStat h reason it.cpstat } := by
  unfold closeBank
  dsimp only
  rw [hfind]
  rfl

theorem closeEvent_frees {tile h reason : Nat} {s : State} {e : Command} {it : Item}
    (hfind : (s.tile tile).copies.find? (fun e => (e.state == .bank || e.opened) && e.handle == h && !holdsBank tile e s) = some e)
    (hit : Map.find e.item s.items = some it) (hbank : e.state = .bank) :
    ∃ t : State, exec (.closeEvent tile h reason) s = .next t
      ∧ (t.tile tile).copies = (s.tile tile).copies.filter (fun x => x.id != e.id)
      ∧ t = { s with tiles := t.tiles, items := t.items }
      ∧ ∃ x, Map.find e.item t.items = some x ∧ x = { it with cpstat := x.cpstat }
        ∧ x.cpstat.toNat / 2 ^ 32 % 2 ^ 16 = h % 2 ^ 16 ∧ x.cpstat.toNat / 2 ^ 30 % 4 = reason % 4
        ∧ x.cpstat.getLsbD 29 = true ∧ x.cpstat.toNat % 2 ^ 29 = it.cpstat.toNat % 2 ^ 29 := by
  have hfields := closedStat_fields h reason it.cpstat
  have hadj := find_adjItem (s := bankFreed tile e s) hit e.item fun it => { it with cpstat := closedStat h reason it.cpstat }
  rw [if_pos rfl, ← closeBank_eq hfind] at hadj
  refine ⟨closeBank tile h reason s, rfl, ?_, ?_, _, hadj, rfl, hfields⟩
  · rw [closeBank_eq hfind]
    change ((State.setTile _ _ s).tile tile).copies = _
    rw [tile_setTile, if_pos rfl, hbank]
    simp
  · rw [closeBank_eq hfind]
    rfl

theorem closeEvent_stays {tile h reason : Nat} {s : State}
    (hheld : ∀ e ∈ (s.tile tile).copies, e.handle = h → (e.state = .bank ∨ e.opened = true) →
      ∃ b, Map.find h s.mem.banks = some b ∧ b.tile = tile ∧ b.entry = e.no) :
    exec (.closeEvent tile h reason) s = .next s := by
  have hnone : (s.tile tile).copies.find?
      (fun e => (e.state == .bank || e.opened) && e.handle == h && !holdsBank tile e s) = none := by
    refine List.find?_eq_none.mpr fun e he hmet => ?_
    simp only [Bool.and_eq_true, Bool.or_eq_true, beq_iff_eq, Bool.not_eq_true'] at hmet
    obtain ⟨⟨hkind, hhandle⟩, hloose⟩ := hmet
    obtain ⟨b, hb, htile, hentry⟩ := hheld e he hhandle hkind
    simp [holdsBank, hhandle, hb, htile, hentry] at hloose
  change Host.Outcome.next (closeBank tile h reason s) = _
  unfold closeBank
  dsimp only
  rw [hnone]

end Sys2Proof.Machine
end

section
/-! A copy command held at a translation fault (R167, R168), and O43. -/

namespace Sys2Proof.Machine

/-! ## A cause charged to an item's elected strand (R377, R421) -/

theorem elected_not_over {s : State} {it : Item} {k : Nat} (h : electedKey s it = some k) :
    ∃ st, s.strand k = some st ∧ st.over = false := by
  unfold electedKey elected at h
  obtain ⟨⟨j, l⟩, helected, rfl⟩ := Option.map_eq_some_iff.mp h
  obtain ⟨i, -, hi⟩ := List.exists_of_findSome?_eq_some helected
  cases hst : s.strand i with
  | none => simp [hst] at hi
  | some st =>
    rw [hst] at hi
    obtain ⟨l', hl, hpair⟩ := Option.map_eq_some_iff.mp hi
    cases hpair
    refine ⟨st, hst, beq_eq_false_iff_ne.mpr fun hnone => ?_⟩
    have hempty : lowest 0 = none := by decide
    rw [hnone, hempty] at hl
    cases hl

theorem queued_enqueue (r : Raise) (st : Strand) :
    (∃ q ∈ (st.enqueue r).queue, q.code = r.code) ∨ (st.enqueue r).ovf = true := by
  unfold Strand.enqueue
  split
  next hqueued =>
    obtain ⟨q, hq, hcode⟩ := List.any_eq_true.mp hqueued
    exact .inl ⟨q, hq, by simpa using hcode⟩
  · split
    · exact .inr rfl
    · exact .inl ⟨_, List.mem_append_right _ (List.mem_singleton_self _), rfl⟩

/-- A charge to an item that has an elected strand goes into that strand's queue, and nowhere else. -/
theorem chargeElected_queues {s : State} {item k : Nat} {it : Item} (hit : Map.find item s.items = some it)
    (hk : electedKey s it = some k) (r : Raise) :
    queuedFor (chargeElected item r s) k r.code
      ∧ chargeElected item r s = { s with strands := (chargeElected item r s).strands } := by
  obtain ⟨st, hst, hover⟩ := elected_not_over hk
  have hcharge : chargeElected item r s = s.adjStrand k (·.enqueue { r with precise := false }) := by
    unfold chargeElected charge
    simp only [hit, hk, hst, hover, Bool.not_false, if_true]
  rw [hcharge]
  exact ⟨⟨_, strand_adjStrand_self hst _, queued_enqueue _ st⟩, rfl⟩

/-! ## Commands that are held -/

theorem mem_heldCommands {s : State} {item : Nat} {it : Item} (hit : Map.find item s.items = some it) (x : Nat × Command) :
    x ∈ heldCommands item s ↔ x.2.item = item ∧ x.2.state = .held
      ∧ (x.1 = it.tile ∧ x.2 ∈ (s.tile it.tile).copies
        ∨ x.1 = 768 + dieOf it.tile ∧ x.2 ∈ (s.die (dieOf it.tile)).routes) := by
  obtain ⟨n, y⟩ := x
  unfold heldCommands
  rw [hit]
  simp only [(sortedBy_perm _ _).mem_iff, List.mem_append, List.mem_map, List.mem_filter, Bool.and_eq_true, beq_iff_eq,
    Prod.mk.injEq]
  constructor
  · rintro (⟨y, ⟨hy, hitem, hheld⟩, rfl, rfl⟩ | ⟨y, ⟨hy, hitem, hheld⟩, rfl, rfl⟩)
    · exact ⟨hitem, hheld, .inl ⟨rfl, hy⟩⟩
    · exact ⟨hitem, hheld, .inr ⟨rfl, hy⟩⟩
  · rintro ⟨hitem, hheld, ⟨rfl, hy⟩ | ⟨rfl, hy⟩⟩
    · exact .inl ⟨y, ⟨hy, hitem, hheld⟩, rfl, rfl⟩
    · exact .inr ⟨y, ⟨hy, hitem, hheld⟩, rfl, rfl⟩

/-- A command that is held, its number in the order of holding given. -/
def Command.heldAs (e : Command) (seq : Nat) : Command := { e with state := .held, seq := seq }

/-- The state with a command of a tile's queue held. -/
def withHeld (tile : Nat) (e : Command) (s : State) : State :=
  ({ s with nextId := s.nextId + 1 } : State).setTile tile { s.tile tile with
    copies := (s.tile tile).copies.map fun x => if x.id == e.id then x.heldAs (s.nextId + 1) else x }

theorem withHeld_copies (tile : Nat) (e : Command) (s : State) : ((withHeld tile e s).tile tile).copies
    = (s.tile tile).copies.map fun x => if x.id == e.id then x.heldAs (s.nextId + 1) else x := by
  rw [withHeld, tile_setTile, if_pos rfl]

theorem holdCommand_eq {tile no : Nat} {s : State} {e : Command} {it : Item} (hlt : tile < 768)
    (hfind : (s.tile tile).copies.find? (fun e => e.no == no && e.fault.isSome && e.state == .active) = some e)
    (hit : Map.find e.item s.items = some it) (hlost : it.lost = false) (hfree : heldCommands e.item s = []) :
    holdCommand tile no s = raiseHeld e.item (withHeld tile e s) := by
  have hfree' : heldCommands e.item { s with nextId := s.nextId + 1 } = [] := hfree
  have hheld : adjCommand tile e.id (fun e => { e with state := .held, seq := s.nextId + 1 })
      { s with nextId := s.nextId + 1 } = withHeld tile e s := by
    unfold adjCommand
    rw [if_pos (by simp [hlt])]
    rfl
  have hit' : Map.find e.item (withHeld tile e s).items = some it := hit
  unfold holdCommand
  simp only [hlt, if_true, hfind, hfree', hheld, hit', hlost]
  rfl

/-- A command that is held alone is the oldest. -/
theorem heldCommands_withHeld {tile : Nat} {s : State} {e : Command} {it : Item} (he : e ∈ (s.tile tile).copies)
    (hit : Map.find e.item s.items = some it) (htile : it.tile = tile) (hfree : heldCommands e.item s = [])
    (hsame : ∀ x ∈ (s.tile tile).copies, x.id = e.id → x = e) :
    ∃ rest, heldCommands e.item (withHeld tile e s) = (tile, e.heldAs (s.nextId + 1)) :: rest := by
  have hit' : Map.find e.item (withHeld tile e s).items = some it := hit
  have hnone : ∀ x, x ∉ heldCommands e.item s := by simp [hfree]
  have hall : ∀ x ∈ heldCommands e.item (withHeld tile e s), x = (tile, e.heldAs (s.nextId + 1)) := by
    rintro ⟨n, y⟩ hx
    obtain ⟨hitem, hheld, ⟨rfl, hy⟩ | ⟨rfl, hy⟩⟩ := (mem_heldCommands hit' _).mp hx
    · rw [htile, withHeld_copies] at hy
      obtain ⟨z, hz, rfl⟩ := List.mem_map.mp hy
      split at hitem
      next hid =>
        rw [if_pos hid, hsame z hz (by simpa using hid), htile]
      next hid =>
        rw [if_neg hid] at hheld
        exact absurd ((mem_heldCommands hit (it.tile, z)).mpr ⟨hitem, hheld, .inl ⟨rfl, htile ▸ hz⟩⟩) (hnone _)
    · exact absurd ((mem_heldCommands hit (768 + dieOf it.tile, y)).mpr ⟨hitem, hheld, .inr ⟨rfl, hy⟩⟩) (hnone _)
  have hmem : (it.tile, e.heldAs (s.nextId + 1)) ∈ heldCommands e.item (withHeld tile e s) := by
    refine (mem_heldCommands hit' _).mpr ⟨rfl, rfl, .inl ⟨rfl, ?_⟩⟩
    rw [htile, withHeld_copies]
    exact List.mem_map.mpr ⟨e, he, by rw [if_pos (beq_self_eq_true _)]⟩
  cases hlist : heldCommands e.item (withHeld tile e s) with
  | nil => simp [hlist] at hmem
  | cons x rest => exact ⟨rest, by rw [hall x (hlist ▸ List.mem_cons_self)]⟩

/-! ## ENGINE_PAGE -/

theorem engDetail_false (e : Command) : engDetail false e
    = e.cursor % 2 ^ 40 * 2 ^ 24 + (if e.endBit then 2 ^ 23 else 0) + e.no % 64 * 2 ^ 14 + e.err % 64 * 2 ^ 8 := by
  simp only [engDetail, Bool.false_eq_true, if_false, Nat.add_zero]

theorem engDetail_heldAs (routing : Bool) (e : Command) (seq : Nat) : engDetail routing (e.heldAs seq) = engDetail routing e := rfl

/-- A cause raised for an item's elected strand, ENGDETAIL set. -/
def raisedWith (item : Nat) (r : Raise) (v : BitVec 64) (s : State) : State :=
  chargeElected item r (s.adjItem item fun it => { it with engdetail := v })

theorem raiseHeld_eq {item n : Nat} {s : State} {e : Command} {rest : List (Nat × Command)}
    (h : heldCommands item s = (n, e) :: rest) (hn : n < 768) :
    raiseHeld item s = raisedWith item (engineRaise 0x52 false e) (BitVec.ofNat 64 (engDetail false e)) s := by
  unfold raiseHeld raisedWith
  simp only [h, decide_eq_false (Nat.not_le.mpr hn)]

theorem raisedWith_queues {item k : Nat} {s : State} {it : Item} (hit : Map.find item s.items = some it)
    (hk : electedKey s it = some k) (r : Raise) (v : BitVec 64) : queuedFor (raisedWith item r v s) k r.code
      ∧ Map.find item (raisedWith item r v s).items = some { it with engdetail := v }
      ∧ raisedWith item r v s = { s with strands := (raisedWith item r v s).strands, items := (raisedWith item r v s).items } := by
  have hitem := find_adjItem hit item fun it => { it with engdetail := v }
  rw [if_pos rfl] at hitem
  obtain ⟨hqueued, hrest⟩ := chargeElected_queues hitem (k := k) hk r
  refine ⟨hqueued, ?_, ?_⟩
  · rw [raisedWith, hrest]
    exact hitem
  · unfold raisedWith
    rw [hrest]
    rfl

theorem engineTranslationFault_holds {tile no k : Nat} {s : State} {e : Command} {it : Item} (hlt : tile < 768)
    (hfind : (s.tile tile).copies.find? (fun e => e.no == no && e.fault.isSome && e.state == .active) = some e)
    (hit : Map.find e.item s.items = some it) (htile : it.tile = tile) (hlost : it.lost = false) (hk : electedKey s it = some k)
    (hfree : heldCommands e.item s = []) (hsame : ∀ x ∈ (s.tile tile).copies, x.id = e.id → x = e) :
    ∃ t : State, exec (.engineTranslationFault tile no) s = .next t ∧ queuedFor t k 0x52
      ∧ (∀ x ∈ (t.tile tile).copies, x.id = e.id → x.state = .held)
      ∧ (∀ x ∈ (s.tile tile).copies, x.id ≠ e.id → x ∈ (t.tile tile).copies)
      ∧ (∃ it', Map.find e.item t.items = some it' ∧ it'.engdetail = BitVec.ofNat 64
          (e.cursor % 2 ^ 40 * 2 ^ 24 + (if e.endBit then 2 ^ 23 else 0) + e.no % 64 * 2 ^ 14 + e.err % 64 * 2 ^ 8))
      ∧ t.held = s.held ∧ t.mem = s.mem ∧ t.launches = s.launches := by
  obtain ⟨rest, hheld⟩ := heldCommands_withHeld (List.mem_of_find?_eq_some hfind) hit htile hfree hsame
  have hexec : exec (.engineTranslationFault tile no) s = .next (raiseHeld e.item (withHeld tile e s)) := by
    rw [← holdCommand_eq hlt hfind hit hlost hfree]
    rfl
  rw [raiseHeld_eq hheld hlt, engDetail_heldAs, engDetail_false] at hexec
  obtain ⟨hqueued, hitem, hrest⟩ := raisedWith_queues (s := withHeld tile e s) hit hk (engineRaise 0x52 false (e.heldAs (s.nextId + 1)))
    (BitVec.ofNat 64
      (e.cursor % 2 ^ 40 * 2 ^ 24 + (if e.endBit then 2 ^ 23 else 0) + e.no % 64 * 2 ^ 14 + e.err % 64 * 2 ^ 8))
  revert hexec hqueued hitem hrest
  generalize raisedWith e.item _ _ _ = t
  intro hexec hqueued hitem hrest
  have hcopies : (t.tile tile).copies = ((withHeld tile e s).tile tile).copies := by rw [State.tile, hrest, State.tile]
  rw [withHeld_copies] at hcopies
  refine ⟨t, hexec, hqueued, fun x hx hid => ?_, fun x hx hid => ?_, ⟨_, hitem, rfl⟩, by rw [hrest]; rfl, by rw [hrest]; rfl,
    by rw [hrest]; rfl⟩
  · rw [hcopies] at hx
    obtain ⟨z, -, rfl⟩ := List.mem_map.mp hx
    split at hid
    next hz => rw [if_pos hz]; rfl
    next hz => exact absurd (by simpa using hid) hz
  · rw [hcopies]
    exact List.mem_map.mpr ⟨x, hx, if_neg (by simpa using hid)⟩

/-- Settles O43: the runs of FILL and COPY, the end of a command, the hold at a fault and the closing of a bank, one by one. -/
theorem copyEngineAndBanksRun : Obligations.CopyEngineAndBanksRun := by
  unfold Obligations.CopyEngineAndBanksRun
  refine ⟨⟨fun tile s e it la h hlt hcopies hstate hguard hcursor herr hdropped hit hla htile hlaunch hheld hbad => ?_,
    fun tile no s e it h hlt hfind hop hit htile hdeferred hheld =>
      copyCompletion_completes hlt hfind hop hit htile hdeferred hheld⟩,
    fun tile no k s e it hlt hfind hit htile hlost hk hfree hsame =>
      engineTranslationFault_holds hlt hfind hit htile hlost hk hfree hsame,
    fun tile h reason s e it hfind hit hbank => closeEvent_frees hfind hit hbank,
    fun tile h reason s hheld => closeEvent_stays hheld⟩
  subst htile
  rw [← hlaunch] at hheld
  refine ⟨fun g d a k m peer x base n hop hhere hdst hflat => ?_, fun g d a k m peer x y to' from' n p hop hhere hdst hsrc hx hy
    hsize hapart => ?_⟩
  · obtain ⟨rfl, hbase, hpos, hlay, hstream, hdims⟩ := hflat
    exact fill_ranInScratch hlt hcopies hstate hguard hcursor herr hdropped hit hla hlaunch hheld hbad hhere hdst hop
      ⟨hbase, hpos, hlay, hstream, hdims⟩
  · obtain ⟨rfl, hbase, hpos, hlay, hstream, hdims⟩ := hx
    obtain ⟨rfl, hbase', hpos', hlay', hstream', hdims'⟩ := hy
    exact copy_ranInScratch hlt hcopies hstate hguard hcursor herr hdropped hit hla hlaunch hheld hbad hhere hdst hop hsrc
      ⟨⟨hbase, hpos, hlay, hstream, hdims⟩, ⟨hbase', hpos', hlay', hstream', hdims'⟩, hsize, hapart, esz_tensorOf _, esz_tensorOf _⟩

end Sys2Proof.Machine
end

section
/-! The clock (R237): time passes once in a step, whatever the step's turn has done. -/

namespace Sys2Proof.Machine

/-- Two states that have seen the same time. -/
structure SameTime (s t : State) : Prop where
  tick : t.tick = s.tick
  clock : t.clock = s.clock

/-- One more step is counted, with its clocks. -/
structure TimePassed (s t : State) : Prop where
  tick : t.tick = s.tick + 1
  clock : t.clock = s.clock + BitVec.ofNat 64 (Config.stepClocks s.tick)

theorem TimePassed.of_sameTime {s u t : State} (h : SameTime s u) (k : TimePassed u t) : TimePassed s t :=
  ⟨by rw [k.tick, h.tick], by rw [k.clock, h.clock, h.tick]⟩

theorem passTurn_sameTime (before s : State) : SameTime s (passTurn before s) := by
  unfold passTurn
  dsimp only
  split
  · exact ⟨rfl, rfl⟩
  · split <;> exact ⟨rfl, rfl⟩

theorem gangTurn_sameTime (s : State) : SameTime s (gangTurn s) := by
  unfold gangTurn
  split
  · exact ⟨rfl, rfl⟩
  · split <;> exact ⟨rfl, rfl⟩

theorem tickOver_timePassed (before s : State) : TimePassed before (tickOver before s) := ⟨rfl, rfl⟩

theorem TimePassed.passTurn {before s : State} (h : TimePassed before s) : TimePassed before (passTurn before s) := by
  obtain ⟨htick, hclock⟩ := passTurn_sameTime before s
  exact ⟨htick.trans h.tick, hclock.trans h.clock⟩

/-- However the turn went, the settled state has the time of the state before it and one step more. -/
theorem settleTurn_timePassed {rotate : Bool} {before t : State} {o : Host.Outcome State Fault Refusal}
    (h : settleTurn rotate before o = .next t) : TimePassed before t := by
  cases o with
  | next s =>
    simp only [settleTurn, Host.Outcome.next.injEq] at h
    subst h
    split
    · exact (tickOver_timePassed _ _).passTurn
    · exact tickOver_timePassed _ _
  | fault f => cases h
  | refused r => cases h

theorem strandTurn_timePassed {s t : State} (h : strandTurn s = .next t) : TimePassed s t := by
  unfold strandTurn at h
  split at h
  · exact settleTurn_timePassed h
  · split at h <;> exact settleTurn_timePassed h

theorem step_timePassed {s t : State} (h : step s = .next t) : TimePassed s t := by
  unfold step at h
  split at h
  · exact settleTurn_timePassed h
  · have planned := strandTurn_timePassed h
    exact ⟨planned.tick, planned.clock⟩
  · exact .of_sameTime (gangTurn_sameTime s) (strandTurn_timePassed h)

/-- Settles O7: every step adds its clocks to CLOCK once, as it counts itself. -/
theorem everyStepKeepsTheClock : Obligations.EveryStepKeepsTheClock := by
  unfold Obligations.EveryStepKeepsTheClock
  intro s t hclock hstep
  obtain ⟨htick, htclock⟩ := step_timePassed hstep
  refine ⟨htick, ?_⟩
  rw [htclock, htick, hclock, clockSum, BitVec.ofNat_add]

end Sys2Proof.Machine
end


section
/-! Rules of issue: how a strand that has been changed beside other state goes on past its instruction. -/

namespace Sys2Proof.Machine

/-! ## Strands in a state -/

theorem adjStrand_eq_setStrand {k : Nat} {s : State} {st : Strand} (h : s.strand k = some st) (f : Strand → Strand) :
    s.adjStrand k f = s.setStrand k (f st) := by
  simp only [State.adjStrand, State.setStrand, Map.adjust, show Map.find k s.strands = some st from h]

theorem setStrand_setStrand (k : Nat) (x y : Strand) (s : State) : (s.setStrand k x).setStrand k y = s.setStrand k y := by
  simp only [State.setStrand, Map.insert_insert]

theorem strand_of_strands {i : Instr} {s u : State} {c : Issue} (h : clear i s = some c) (hu : u.strands = s.strands) :
    u.strand c.key = some c.st := by
  rw [State.strand, hu]
  exact clear_strand h

/-! ## The end of an instruction -/

/-- An instruction whose strand stands in `u` as `x`, with no answer that has come: it is moved on and counted. -/
theorem finish_done_strand {i : Instr} {s u : State} {c : Issue} {x : Strand} (h : clear i s = some c)
    (hx : u.strand c.key = some x) (hready : x.pend.any (·.ready) = false) :
    c.finish (.done u) = u.setStrand c.key (c.count (c.advance x)) := by
  rw [Issue.finish, adjStrand_eq_setStrand hx]
  refine afterwards_none (strand_setStrand _ _ _) ?_ (clear_step h)
  rw [count_pend]
  exact countWindow_ready _ _ hready

/-- A change of the strand alone, beside other state that `u` has. -/
theorem finish_done_beside {i : Instr} {s u : State} {c : Issue} (h : clear i s = some c) (hu : u.strands = s.strands)
    (f : Strand → Strand) (hf : (f c.st).pend = c.st.pend) :
    c.finish (.done (u.adjStrand c.key f)) = u.setStrand c.key (c.count (c.advance (f c.st))) := by
  have hstrand := strand_of_strands h hu
  rw [finish_done_strand h (strand_adjStrand_self hstrand f) (by rw [hf]; exact clear_answers h),
    adjStrand_eq_setStrand hstrand, setStrand_setStrand]

/-- What is so of a change of the strand alone is so of it beside other state. -/
theorem retired_beside {i : Instr} {s u : State} {c : Issue} {ch : Change} {f : Strand → Strand} (h : clear i s = some c)
    (hu : u.strands = s.strands) (hf : (f c.st).pend = c.st.pend)
    (hr : Retired c ch s (c.finish (.done (s.adjStrand c.key f)))) :
    Retired c ch u (c.finish (.done (u.adjStrand c.key f))) := by
  rw [finish_done_beside h hu f hf]
  obtain ⟨b, hb, hmoved⟩ := hr.own
  rw [finish_done h f hf, strand_setStrand, Option.some.injEq] at hb
  exact retired_of (hb ▸ hmoved)

theorem pend_put (c : Issue) (d : Opnd) (f : Nat → Word) (ls : List Nat) (st : Strand) :
    (ls.foldl (fun st l => c.write l d (f l) st) st).pend = st.pend := by
  induction ls generalizing st with
  | nil => rfl
  | cons l ls ih =>
    rw [List.foldl_cons, ih]
    unfold Issue.write
    split <;> rfl

theorem put_retired_beside {i : Instr} {s u : State} {c : Issue} (h : clear i s = some c) (hu : u.strands = s.strands)
    (d : Opnd) (f : Nat → Word) : Retired c (c.writes fun l => [(c.index d, f l)]) u (c.finish (c.put d f u)) :=
  retired_beside h hu (pend_put c d f _ _) (put_retired h d f)

section
variable {i : Instr} {s : State} {c : Issue}

/-- An instruction that changes its strand in nothing goes on. -/
theorem retires_of_done (h : clear i s = some c) (hexec : exec i s = .next (c.finish (.done s))) : Retires i c {} s :=
  ⟨_, hexec, retired_done h rfl⟩

/-- An instruction that changes its strand in nothing goes on, other state as `u` has it. -/
theorem does_of_done {u : State} (h : clear i s = some c) (hu : u.strands = s.strands)
    (hexec : exec i s = .next (c.finish (.done u))) : Does i c {} s u :=
  ⟨_, hexec, retired_done h hu⟩

end

end Sys2Proof.Machine
end


section
/-! Barriers (R244, R245): an arrival joins the strands that have arrived, and the one that completes the party starts the
next phase. -/

namespace Sys2Proof.Machine

/-! ## An arrival -/

/-- Whether a strand's arrival completes the party of a barrier. -/
def lastArrives (c : Issue) (p : BarPlace) (n : Nat) (s : State) : Bool :=
  (barParty s c.la c.it p n).all fun k => k == c.key || (barAt s c.it p n).arrived.contains k

/-- The barrier's own copy after a strand's arrival. -/
def arrived (c : Issue) (p : BarPlace) (n : Nat) (s : State) : Barrier :=
  if lastArrives c p n s then ⟨(barAt s c.it p n).phase + 1, []⟩
  else ⟨(barAt s c.it p n).phase, (barAt s c.it p n).arrived ++ [c.key]⟩

theorem arriveBar_eq (c : Issue) (p : BarPlace) (n : Nat) (s : State) :
    arriveBar c p n s = setBar c.st.item c.it p n (arrived c p n s) s := by
  have hall : (barParty s c.la c.it p n).all ((barAt s c.it p n).arrived ++ [c.key]).contains = lastArrives c p n s := by
    unfold lastArrives
    congr 1
    funext k
    rw [Bool.eq_iff_iff]
    simp [or_comm]
  unfold arriveBar arrived Barrier.settle
  simp only [hall]
  simp

@[simp] theorem setBar_strands (item : Nat) (it : Item) (p : BarPlace) (n : Nat) (b : Barrier) (s : State) :
    (setBar item it p n b s).strands = s.strands := by cases p <;> rfl

/-- What a barrier's number names, once it has been replaced, is the new one. -/
theorem barAt_setBar {item : Nat} {it : Item} {p : BarPlace} {s : State} (n : Nat) (b : Barrier)
    (hit : Map.find item s.items = some it) (hp : p ≠ .none)
    (hgroup : p = .group → ∃ cv, Map.find it.convoy s.convoys = some cv) :
    barAt (setBar item it p n b s) ((Map.find item (setBar item it p n b s).items).getD it) p n = b := by
  cases p with
  | own =>
    rw [setBar, State.adjItem_items, Map.find_adjust_self, hit]
    simp [barAt]
  | group =>
    obtain ⟨cv, hcv⟩ := hgroup rfl
    rw [setBar, barAt, hit, Option.getD_some, Map.find_adjust_self, hcv]
    simp
  | none => exact absurd rfl hp

/-- The phase moves with the last arrival, and with no other. -/
theorem arrived_phase_beq (c : Issue) (p : BarPlace) (n : Nat) (s : State) :
    ((arrived c p n s).phase == (barAt s c.it p n).phase) = !lastArrives c p n s := by
  unfold arrived
  split
  next h => simp [h]
  next h => simpa using h

/-! ## The instructions -/

section
variable {g : Guard} {d a : Opnd} {n : BitVec 7} {s : State} {c : Issue}

theorem exec_bar (h : clear (.bar g n) s = some c) (hp : barPlace c.la c.it n.toNat ≠ .none)
    (hwait : ∀ k q, c.st.wait ≠ .barrier k q) (hnew : c.key ∉ (barAt s c.it (barPlace c.la c.it n.toNat) n.toNat).arrived)
    (htoken : c.awaitsToken = false)
    (hgroup : barPlace c.la c.it n.toNat = .group → ∃ cv, Map.find c.it.convoy s.convoys = some cv) :
    exec (.bar g n) s = .next (c.finish (
      if lastArrives c (barPlace c.la c.it n.toNat) n.toNat s then .done (arriveBar c (barPlace c.la c.it n.toNat) n.toNat s)
      else .wait (.barrier n.toNat (barAt s c.it (barPlace c.la c.it n.toNat) n.toNat).phase.toNat)
        (arriveBar c (barPlace c.la c.it n.toNat) n.toNat s))) := by
  have hit : Map.find c.st.item s.items = some c.it := (issueOf_strand (ready_issueOf (clear_ready h)).1).2.2.2.1
  change execBar g n s = _
  rw [execBar, issue_clear h]
  dsimp only
  rw [if_neg (by simpa using hp)]
  split
  next k q hw => exact absurd hw (hwait k q)
  next =>
    rw [if_neg (by simpa using hnew), if_neg (by simp [htoken])]
    simp only [arriveBar_eq, barAt_setBar n.toNat _ hit hp hgroup, arrived_phase_beq]
    cases lastArrives c (barPlace c.la c.it n.toNat) n.toNat s <;> rfl

theorem exec_bar_waiting (h : clear (.bar g n) s = some c) (hp : barPlace c.la c.it n.toNat ≠ .none) {q : Nat}
    (hwait : c.st.wait = .barrier n.toNat q) :
    exec (.bar g n) s = .next (c.finish (
      if (barAt s c.it (barPlace c.la c.it n.toNat) n.toNat).phase.toNat = q then .wait (.barrier n.toNat q) s else .done s)) := by
  change execBar g n s = _
  rw [execBar, issue_clear h]
  dsimp only
  rw [if_neg (by simpa using hp), hwait]
  simp

theorem exec_bararv (h : clear (.bararv g d n) s = some c) (hp : barPlace c.la c.it n.toNat ≠ .none)
    (hnew : c.key ∉ (barAt s c.it (barPlace c.la c.it n.toNat) n.toNat).arrived) (htoken : c.awaitsToken = false) :
    exec (.bararv g d n) s = .next (c.finish (
      c.put d (fun _ => (barAt s c.it (barPlace c.la c.it n.toNat) n.toNat).phase.setWidth 32)
        (arriveBar c (barPlace c.la c.it n.toNat) n.toNat s))) := by
  change execBararv g d n s = _
  rw [execBararv, issue_clear h]
  dsimp only
  rw [if_neg (by simpa using hp), if_neg (by simpa using hnew), if_neg (by simp [htoken])]

theorem phase_eq_iff (x : BitVec 16) (w : Word) : x = w.extractLsb' 0 16 ↔ x.toNat = w.toNat % 2 ^ 16 := by
  rw [← BitVec.toNat_inj]
  simp

theorem exec_barwt (h : clear (.barwt g a n) s = some c) (hp : barPlace c.la c.it n.toNat ≠ .none) {l : Nat}
    (hl : lowest c.st.live = some l) :
    exec (.barwt g a n) s = .next (c.finish (
      if (barAt s c.it (barPlace c.la c.it n.toNat) n.toNat).phase.toNat = (c.reg l a).toNat % 2 ^ 16 then
        .wait (.barrier n.toNat (barAt s c.it (barPlace c.la c.it n.toNat) n.toNat).phase.toNat) s
      else .done s)) := by
  change execBarwt g a n s = _
  rw [execBarwt, issue_clear h]
  dsimp only
  rw [if_neg (by simpa using hp), hl]
  simp only [beq_iff_eq, phase_eq_iff]

end

/-- Settles O29: the arrival is one replacement of the barrier, and its phase tells whether the party is complete. -/
theorem barriersComplete : Obligations.BarriersComplete := by
  unfold Obligations.BarriersComplete
  intro g d a n s c
  dsimp only
  refine ⟨fun hp => ?noBarrier, fun hp hgroup htoken hnew => ?arrival, fun hp h q hwait => ?waiting, fun hp h l hl => ?barwt⟩
  case noBarrier =>
    refine ⟨fun h => ?_, fun h => ?_, fun h => ?_⟩
    · change execBar g n s = _
      rw [execBar, issue_clear h]
      simp only [hp]
      rfl
    · change execBararv g d n s = _
      rw [execBararv, issue_clear h]
      simp only [hp]
      rfl
    · change execBarwt g a n s = _
      rw [execBarwt, issue_clear h]
      simp only [hp]
      rfl
  case arrival =>
    refine ⟨fun h hwait => ⟨fun hlast => ?_, fun hlast => ?_⟩, fun h => ?_⟩
    · refine does_of_done h (setBar_strands _ _ _ _ _ _) ?_
      rw [exec_bar h hp hwait hnew htoken hgroup, arriveBar_eq, show lastArrives c _ n.toNat s = true from hlast]
      rfl
    · rw [exec_bar h hp hwait hnew htoken hgroup, arriveBar_eq, show lastArrives c _ n.toNat s = false from hlast]
      rfl
    · refine ⟨_, ?_, put_retired_beside h (setBar_strands _ _ _ _ _ _) d _⟩
      rw [exec_bararv h hp hnew htoken, arriveBar_eq]
      rfl
  case waiting =>
    refine ⟨fun hphase => retires_of_done h ?_, fun hphase => ?_⟩
    · rw [exec_bar_waiting h hp hwait, if_neg hphase]
    · rw [WaitsAt, exec_bar_waiting h hp hwait, if_pos hphase]
      rfl
  case barwt =>
    refine ⟨fun hphase => retires_of_done h ?_, fun hphase => ?_⟩
    · rw [exec_barwt h hp hl, if_neg hphase]
    · rw [WaitsAt, exec_barwt h hp hl, if_pos hphase]
      rfl

end Sys2Proof.Machine
end


section
/-! The entry of a handler (R424, R425), and dependence counters (R246, R247), which end in one where a value is clamped. -/

namespace Sys2Proof.Machine

/-! ## The handler's entry -/

/-- The offset at which a handler's lanes were interrupted. -/
def Raise.resume (r : Raise) (st : Strand) : Nat :=
  match lowest r.hmask with
  | some l => (st.flow l).pc
  | none => r.pc

/-- A strand with the lanes of a mask at the handler's first instruction, and none at a lane operation. -/
def Strand.atHandler (m : BitVec 4) (st : Strand) : Strand :=
  (st.mapFlows m fun _ => { pc := 0, ctx := none, stack := [] }).mapLanes 15 fun l => { l with atOp := none }

/-- A strand that has entered its handler. -/
def Strand.entered (r : Raise) (st : Strand) : Strand :=
  { st.atHandler r.hmask with
    cur := r.hmask, handler := some ⟨st.lanes.map (·.flow), st.cur, st.wait, r.hmask, r.resume st⟩, trapping := none
    fault := r.record (r.resume st) st.ovf, ovf := false, trdetail := BitVec.ofNat 64 r.trdetail, wait := .none }

theorem entered_lane (r : Raise) (st : Strand) {l : Nat} (hl : l < 4) : (st.entered r).lanes.get l =
    { (if r.hmask.getLsbD l then { st.lanes.get l with flow := { pc := 0, ctx := none, stack := [] } } else st.lanes.get l) with
      atOp := none } := by
  have hbit : (15 : BitVec 4).getLsbD l = true := by interval_cases l <;> rfl
  change (st.atHandler r.hmask).lanes.get l = _
  rw [Strand.atHandler, Strand.mapLanes_get _ _ _ hl, if_pos hbit, Strand.mapFlows_get _ _ _ hl]

theorem entered_enters (r : Raise) (st : Strand) : Entered r st (st.entered r) where
  saved := ⟨r.resume st, rfl, fun l hl => by rw [Raise.resume, hl], rfl⟩
  flow l hl := by
    rw [Strand.flow, entered_lane r st hl]
    split <;> rfl
  lanes l hl := by
    rw [Strand.flow, entered_lane r st hl]
    split <;> rfl
  rest := rfl

theorem enterHandler_landed {k : Nat} {s : State} {st : Strand} (hst : s.strand k = some st) (hlanded : handlerLanded s st.item)
    (r : Raise) : enterHandler k r s = s.setStrand k (st.entered r) := by
  obtain ⟨it, g, hit, hseg, hstate⟩ := hlanded
  unfold enterHandler
  simp only [hst, hit, hseg, hstate]
  rfl

/-- What is due of results that have not come is nothing, at a trap as well. -/
theorem due_force_none (st : Strand) (force : Bool) (h : st.pend.any (·.ready) = false) : st.due force = [] := by
  have key (l : List Pending) (acc : List (Nat × Nat)) (hl : l.any (·.ready) = false) :
      (l.foldl (fun (acc : List Pending × List (Nat × Nat)) p =>
        if p.ready && !p.logged && (force || p.left == 0) && !p.locks.any acc.2.contains then (acc.1 ++ [p], acc.2)
        else (acc.1, acc.2 ++ p.locks)) ([], acc)).1 = [] := by
    induction l generalizing acc with
    | nil => rfl
    | cons p l ih =>
      rw [List.any_cons, Bool.or_eq_false_iff] at hl
      rw [List.foldl_cons, hl.1]
      exact ih _ hl.2
  exact key st.pend [] h

theorem settle_force_none {s : State} {k : Nat} {st : Strand} (force : Bool) (h : s.strand k = some st)
    (hp : st.pend.any (·.ready) = false) : settle force k s = s := by
  unfold settle
  rw [h]
  simp only [due_force_none st force hp, List.foldl_nil]

/-- A cause that is not fatal, of a strand that runs no handler, no crew and no access, enters the handler. -/
theorem trap_enters {k : Nat} {s : State} {st : Strand} {r : Raise} (hst : s.strand k = some st)
    (hlanded : handlerLanded s st.item) (hcause : fatalCause r.code = false) (hseat : st.seat = none)
    (hhandler : st.handler = none) (hopen : st.pend.any (·.open) = false) (hready : st.pend.any (·.ready) = false) :
    trap k r s = s.setStrand k (st.entered r) := by
  have hit := hlanded
  obtain ⟨it, -, hit, -, -⟩ := hit
  unfold trap
  simp only [hst, hit, hcause, hseat, hhandler, hopen, settle_force_none true hst hready]
  simpa using enterHandler_landed hst hlanded r

/-! ## A trap that follows its instruction (R247, R476) -/

theorem countWindow_open (st : Strand) (l : List Pending) (h : st.pend.any (·.open) = false) :
    (st.countWindow l).pend.any (·.open) = false := by
  rw [List.any_eq_false] at *
  intro p hp
  simp only [Strand.countWindow, List.mem_map] at hp
  obtain ⟨q, hq, rfl⟩ := hp
  have := h q hq
  split <;> exact this

/-- The strand as an instruction that changes nothing in it leaves it. -/
def Issue.passedBy (c : Issue) : Strand := c.count (c.advance c.st)

theorem passedBy_moved (c : Issue) : Moved c {} c.st c.passedBy :=
  moved_strand rfl (fun _ _ => rfl) (fun _ _ => rfl) (fun _ => rfl) (fun _ => by simp) (by simp) (fun _ _ => by simp)

theorem count_fields (c : Issue) (x : Strand) : (c.count x).item = x.item ∧ (c.count x).seat = x.seat
    ∧ (c.count x).handler = x.handler ∧ (c.count x).stepArm = x.stepArm := by
  unfold Issue.count Strand.countRetired Strand.countWindow
  split <;> exact ⟨rfl, rfl, rfl, rfl⟩

theorem finish_doneTrap_enters {i : Instr} {s u : State} {c : Issue} {r : Raise} (h : clear i s = some c)
    (hu : u.strands = s.strands) (hlanded : handlerLanded u c.st.item) (hcause : fatalCause r.code = false)
    (hcrew : c.crew = none) (hhandler : c.st.handler = none) (hopen : c.st.pend.any (·.open) = false) :
    c.finish (.doneTrap r u)
      = u.setStrand c.key (c.passedBy.entered { r with retcnt := c.st.retcnt.toNat + 1 }) := by
  have hseat : c.st.seat = none := (issueOf_strand (ready_issueOf (clear_ready h)).1).2.2.2.2.2.2.2.1 ▸ hcrew
  have hready : c.passedBy.pend.any (·.ready) = false := by
    rw [Issue.passedBy, count_pend]
    exact countWindow_ready _ _ (clear_answers h)
  have hopen' : c.passedBy.pend.any (·.open) = false := by
    rw [Issue.passedBy, count_pend]
    exact countWindow_open _ _ hopen
  obtain ⟨hitem, hseat', hhandler', -⟩ := count_fields c (c.advance c.st)
  have hstand : (u.setStrand c.key c.passedBy).strand c.key = some c.passedBy := strand_setStrand _ _ _
  rw [Issue.finish, adjStrand_eq_setStrand (strand_of_strands h hu)]
  change trap _ _ (State.adjStrand _ _ (settle _ _ (u.setStrand c.key c.passedBy))) = _
  rw [settle_none hstand hready, adjStrand_eq_setStrand hstand, setStrand_setStrand, clear_step h]
  simp only [Bool.and_false, Bool.false_eq_true, if_false]
  rw [trap_enters (st := c.passedBy) (r := { r with retcnt := c.st.retcnt.toNat + 1 }) (strand_setStrand _ _ _) (by rw [Issue.passedBy, hitem]; exact hlanded) hcause
    (by rw [Issue.passedBy, hseat']; exact hseat) (by rw [Issue.passedBy, hhandler']; exact hhandler) hopen' hready,
    setStrand_setStrand]

/-! ## Counters (R246, R247) -/

theorem toInt_clampCounter (x : Int) : (clampCounter x).1.toInt = max (-(2 ^ 31)) (min x (2 ^ 31 - 1)) := by
  unfold clampCounter
  split
  · rw [show (0x80000000 : BitVec 32).toInt = -(2 ^ 31) by decide]
    omega
  · split
    · rw [show (0x7FFFFFFF : BitVec 32).toInt = 2 ^ 31 - 1 by decide]
      omega
    · rw [BitVec.toInt_ofInt_eq_self (by decide) (by omega) (by omega)]
      omega

theorem clampCounter_clamps (x : Int) : (clampCounter x).2 = true ↔ x ≠ max (-(2 ^ 31)) (min x (2 ^ 31 - 1)) := by
  unfold clampCounter
  split
  · simp only [true_iff]
    omega
  · split
    · simp only [true_iff]
      omega
    · simp only [Bool.false_eq_true, false_iff, not_not]
      omega

section
variable {s : State} {tile launch : Nat} {h : TileLaunch}

/-- A counter that is set holds its value, and the others of its launch theirs. -/
theorem counterAt_setCounter (hheld : Map.find (heldKey tile launch) s.held = some h) (k j : Nat) (x : BitVec 32) :
    counterAt (setCounter tile launch k x s) tile launch j = if j = k then x else counterAt s tile launch j := by
  rw [(setCounter_plans _ _ _ _ _).enginesStand.counterAt]
  simp only [counterAt, State.heldAt, State.adjHeld, Map.find_adjust_self, hheld, Option.map_some, Option.getD_some, Table.get_put]

theorem setCounter_rest (k : Nat) (x : BitVec 32) : setCounter tile launch k x s =
    { s with held := (setCounter tile launch k x s).held, plan := (setCounter tile launch k x s).plan } := by
  rw [(setCounter_plans tile launch k x s).rest]
  rfl

/-- An item is looked for where the counter has come to 0. -/
theorem setCounter_plan (k : Nat) (x : BitVec 32) : (setCounter tile launch k x s).plan = s.plan
    ∨ counterAt s tile launch k ≠ 0 ∧ x = 0
      ∧ (setCounter tile launch k x s).plan = s.plan ++ [.event (.itemAdmission tile)] := by
  have woken (gated : Bool) (u : State) (hu : u.plan = s.plan) :
      (if x == 0 && counterAt s tile launch k != 0 && gated then u.later (.itemAdmission tile) else u).plan = s.plan
      ∨ counterAt s tile launch k ≠ 0 ∧ x = 0
        ∧ (if x == 0 && counterAt s tile launch k != 0 && gated then u.later (.itemAdmission tile) else u).plan
          = s.plan ++ [.event (.itemAdmission tile)] := by
    split
    next hzero =>
      simp only [Bool.and_eq_true, beq_iff_eq, bne_iff_ne] at hzero
      exact .inr ⟨hzero.1.2, hzero.1.1, by rw [← hu]; rfl⟩
    next => exact .inl hu
  exact woken _ _ rfl

theorem segs_setCounter (k : Nat) (x : BitVec 32) (tile' launch' : Nat) :
    ((setCounter tile launch k x s).heldAt tile' launch').segs = (s.heldAt tile' launch').segs := by
  have hheld : (setCounter tile launch k x s).held
      = Map.adjust (heldKey tile launch) (fun h => { h with counters := Table.put 0 k x h.counters }) s.held := by
    rw [(setCounter_plans tile launch k x s).rest]
    rfl
  simp only [State.heldAt, hheld, Map.find_adjust]
  split
  next hkey => rw [hkey]; cases Map.find (heldKey tile launch) s.held <;> rfl
  next => rfl

end

theorem toInt_eq_zero (x : BitVec 32) : x.toInt = 0 ↔ x = 0 := by
  rw [← BitVec.toInt_inj]
  rfl

/-- What an instruction that sets a counter of its item to a number does. -/
def SetsCounter (c : Issue) (k : Nat) (s : State) (i : Instr) (x : Int) : Prop :=
  let n := fun u j => (counterAt u c.it.tile c.it.launch j).toInt
  let y := max (-(2 ^ 31)) (min x (2 ^ 31 - 1))
  (c.once = false → Retires i c {} s)
  ∧ (c.once = true → ∃ u, n u k = y ∧ (∀ j, j ≠ k → n u j = n s j)
    ∧ u = { s with held := u.held, plan := u.plan }
    ∧ (u.plan = s.plan ∨ n s k ≠ 0 ∧ y = 0 ∧ u.plan = s.plan ++ [.event (.itemAdmission c.it.tile)])
    ∧ (x = y → Does i c {} s u)
    ∧ (x ≠ y → c.crew = none → c.st.handler = none → (∀ p ∈ c.st.pend, p.open = false) → handlerLanded s c.st.item →
        ∃ t m b, exec i s = .next t ∧ Moved c {} c.st m ∧ t = u.setStrand c.key b
          ∧ Entered { c.raise 0x2B c.electedMask with retcnt := c.st.retcnt.toNat + 1 } m b))

theorem setsCounter_of_exec {i : Instr} {s : State} {c : Issue} {k : Nat} {x : Int} {h : TileLaunch} (hclear : clear i s = some c)
    (hheld : Map.find (heldKey c.it.tile c.it.launch) s.held = some h)
    (hexec : exec i s = .next (c.finish (if !c.once then .done s else c.countTo k x s))) : SetsCounter c k s i x := by
  refine ⟨fun honce => ?_, fun honce => ?_⟩
  · rw [honce] at hexec
    exact retires_of_done hclear hexec
  rw [honce] at hexec
  set u := setCounter c.it.tile c.it.launch k (clampCounter x).1 s with hu
  have hrest : u = { s with held := u.held, plan := u.plan } := setCounter_rest k _
  have hstrands : u.strands = s.strands := by rw [hrest]
  refine ⟨u, ?_, fun j hj => ?_, hrest, ?_, fun hx => ?_, fun hx hcrew hhandler hopen hlanded => ?_⟩
  · dsimp only
    rw [hu, counterAt_setCounter hheld, if_pos rfl, toInt_clampCounter]
  · dsimp only
    rw [hu, counterAt_setCounter hheld, if_neg hj]
  · have hplan := setCounter_plan (s := s) (tile := c.it.tile) (launch := c.it.launch) k (clampCounter x).1
    rwa [← toInt_eq_zero (clampCounter x).1, toInt_clampCounter, ne_eq, ← toInt_eq_zero] at hplan
  · have hfree : (clampCounter x).2 = false := by rw [← Bool.not_eq_true, clampCounter_clamps]; exact not_not.mpr hx
    refine does_of_done hclear hstrands ?_
    rw [hexec, Issue.countTo, hfree]
    rfl
  · have hclamped := (clampCounter_clamps x).mpr hx
    refine ⟨_, _, _, ?_, passedBy_moved c, rfl, entered_enters _ _⟩
    rw [hexec, Issue.countTo, hclamped]
    refine congrArg _ (finish_doneTrap_enters hclear hstrands ?_ rfl hcrew hhandler ?_)
    · obtain ⟨it, g, hit, hseg, hstate⟩ := hlanded
      exact ⟨it, g, by rw [← hu, hrest]; exact hit, by rw [segs_setCounter]; exact hseg, hstate⟩
    · exact List.any_eq_false.mpr fun p hp => by simp [hopen p hp]

/-- Settles O30: each instruction sets its counter to a number, which is clamped to the counter's range. -/
theorem countersComplete : Obligations.CountersComplete := by
  unfold Obligations.CountersComplete
  intro g k imm a s c h htoken hheld
  have kinit (x : Int) : c.kinit k.toNat x s = if !c.once then .done s else c.countTo k.toNat x s := by
    rw [Issue.kinit, htoken]
    rfl
  have kadd (x : Int) : c.kadd k.toNat x s = if !c.once then .done s
      else c.countTo k.toNat ((counterAt s c.it.tile c.it.launch k.toNat).toInt + x) s := by
    rw [Issue.kadd, htoken]
    rfl
  refine ⟨fun hclear => setsCounter_of_exec hclear hheld ?_, fun hclear => setsCounter_of_exec hclear hheld ?_,
    fun hclear => setsCounter_of_exec hclear hheld ?_, fun hclear => setsCounter_of_exec hclear hheld ?_⟩
  · rw [← kinit]
    exact issue_clear hclear _
  · rw [← kinit]
    exact issue_clear hclear _
  · rw [← kadd]
    exact issue_clear hclear _
  · rw [← kadd]
    exact issue_clear hclear _

end Sys2Proof.Machine
end


section
/-! SYSR (R235, R237, R238): every active lane is given the register's value for it. -/

namespace Sys2Proof.Machine

/-! ## The values of the registers -/

theorem foldl_add_eq_sum (l : List Nat) (f : Nat → Nat) (a : Nat) : l.foldl (fun v i => v + f i) a = a + (l.map f).sum := by
  induction l generalizing a with
  | nil => rfl
  | cons x l ih => rw [List.foldl_cons, ih, List.map_cons, List.sum_cons, Nat.add_assoc]

theorem slotPeer_eq (s : State) (first : Nat) :
    slotPeer s first = BitVec.ofNat 64 ((upTo 8).map fun i => (joined s (first + i)).getD 0x80 * 256 ^ i).sum := by
  refine congrArg (BitVec.ofNat 64) ((foldl_add_eq_sum (upTo 8) _ 0).trans ?_)
  rw [Nat.zero_add]
  refine congrArg List.sum (List.map_congr_left fun i _ => ?_)
  rw [pow256]
  cases joined s (first + i) <;> rfl

/-- The registers that come in families: the s registers, the counters and ASIDCTX. -/
theorem sysValue_family (c : Issue) (s : State) {n : Nat} (l : Nat) (hlo : 0x100 ≤ n) (hhi : n < 0x1200) : sysValue c s n l =
    if 0x100 ≤ n && n ≤ 0x13F then
      (Table.get 0 (if c.crew.isSome then frameS (n - 0x100) else n - 0x100)
        (if c.crew.isSome then (c.st.lanes.get l).v else c.st.s)).toNat
    else if 0x200 ≤ n && n ≤ 0x23F then (counterAt s c.it.tile c.it.launch (n - 0x200)).toNat
    else if 0x1000 ≤ n && n ≤ 0x11FF then (Table.get 0 (n - 0x1000) s.asidctx).toNat
    else 0 := by
  unfold sysValue
  split
  case h_36 => rfl
  all_goals omega

theorem sysValue_peers (c : Issue) (s : State) {n : Nat} (hn : n = 0x15) (l : Nat) :
    sysValue c s n l = (slotPeer s 0).toNat := by
  unfold sysValue
  split
  case h_15 => rfl
  all_goals contradiction

theorem sysValue_laterPeers (c : Issue) (s : State) {n : Nat} (hn : n = 0x16) (l : Nat) :
    sysValue c s n l = (slotPeer s 8).toNat := by
  unfold sysValue
  split
  case h_16 => rfl
  all_goals contradiction

theorem sum_fields (x y z u v i j k m : Nat) : x * 2 ^ i + y * 2 ^ j + z * 2 ^ k + u * 2 ^ m + v
    = ([(x, i), (y, j), (z, k), (u, m), (v, 0)].map fun x => x.1 * 2 ^ x.2).sum := by
  simp [Nat.add_assoc]

section
variable {c : Issue} {s : State} {n l : Nat}

/-- SYSR gives this number for the register. -/
structure Gives (c : Issue) (s : State) (n l x : Nat) : Prop where
  assigned : sysAssigned n = true
  value : BitVec.ofNat 64 (sysValue c s n l) = BitVec.ofNat 64 x

theorem Gives.of_eq {x : Nat} (hn : sysAssigned n = true) (hx : sysValue c s n l = x) : Gives c s n l x := ⟨hn, congrArg _ hx⟩

theorem Gives.of_value {x y : Nat} (hn : sysAssigned n = true) (hy : sysValue c s n l = y)
    (hx : BitVec.ofNat 64 y = BitVec.ofNat 64 x) : Gives c s n l x := ⟨hn, hy ▸ hx⟩

theorem gives_sReg (hcrew : c.crew = none) {m : Nat} (hm : m < 64) :
    Gives c s (0x100 + m) l (Table.get 0 m c.st.s).toNat := by
  have hlo : (0x100 ≤ 0x100 + m && 0x100 + m ≤ 0x13F) = true := by simp; omega
  refine .of_eq (by simp only [sysAssigned, hlo, Bool.or_true, Bool.true_or]) ?_
  rw [sysValue_family c s l (by omega) (by omega), if_pos hlo, hcrew]
  simp

theorem gives_counter {m : Nat} (hm : m < 64) :
    Gives c s (0x200 + m) l (counterAt s c.it.tile c.it.launch m).toNat := by
  have hlo : (0x200 ≤ 0x200 + m && 0x200 + m ≤ 0x23F) = true := by simp; omega
  refine .of_eq (by simp only [sysAssigned, hlo, Bool.or_true, Bool.true_or]) ?_
  rw [sysValue_family c s l (by omega) (by omega), if_neg (by simp; omega), if_pos hlo]
  simp

theorem gives_asidctx {m : Nat} (hm : m < 512) : Gives c s (0x1000 + m) l (Table.get 0 m s.asidctx).toNat := by
  have hlo : (0x1000 ≤ 0x1000 + m && 0x1000 + m ≤ 0x11FF) = true := by simp; omega
  have hassigned : (0x1000 ≤ 0x1000 + m && 0x1000 + m ≤ 0x1202) = true := by simp; omega
  refine .of_eq (by simp only [sysAssigned, hassigned, Bool.or_true, Bool.true_or]) ?_
  rw [sysValue_family c s l (by omega) (by omega), if_neg (by simp; omega), if_neg (by simp; omega), if_pos hlo]
  simp

/-- What SYSR reads, outside crew code, is what the table of R237 lists. -/
theorem gives_of_table (hcrew : c.crew = none) {v : Nat → Nat} (h : (n, v) ∈ sysTable c s) (l : Nat) : Gives c s n l (v l) := by
  suffices htable : ∀ x ∈ sysTable c s, Gives c s x.1 l (x.2 l) from htable _ h
  have hdraw : c.drawAt s c.st l = (threadId c.it c.st.inItem l, (c.st.lanes.get l).draw.toNat) := by
    unfold Issue.drawAt
    rw [hcrew]
  have hpeers (first : Nat) : BitVec.ofNat 64 (slotPeer s first).toNat
      = BitVec.ofNat 64 ((upTo 8).map fun i => (joined s (first + i)).getD 0x80 * 256 ^ i).sum := by
    rw [BitVec.ofNat_toNat, BitVec.setWidth_eq, slotPeer_eq]
  unfold sysTable
  simp only [List.forall_mem_append, List.forall_mem_cons]
  refine ⟨⟨⟨⟨.of_eq rfl (sum_fields ..), .of_eq rfl ?laneId, .of_eq rfl ?strandId, .of_eq rfl ?threadId, .of_eq rfl rfl,
      .of_eq rfl rfl,
    .of_eq rfl ?convoy, .of_eq rfl ?xi, .of_eq rfl rfl, .of_eq rfl rfl, .of_eq rfl rfl, .of_eq rfl rfl, .of_eq rfl rfl,
    .of_eq rfl rfl, .of_value rfl (sysValue_peers c s rfl l) (hpeers 0),
    .of_value rfl (sysValue_laterPeers c s rfl l) (hpeers 8), .of_eq rfl rfl, .of_eq rfl ?draw, .of_eq rfl rfl, .of_eq rfl rfl,
    .of_eq rfl rfl, .of_eq rfl ?crewIdx, .of_eq rfl ?tokstat, .of_eq rfl rfl, .of_eq rfl ?oplogst, .of_eq rfl rfl,
    .of_eq rfl rfl, .of_eq rfl rfl, .of_eq rfl rfl, .of_eq rfl rfl, .of_eq rfl rfl, .of_eq rfl rfl, .of_eq rfl rfl,
    .of_eq rfl rfl, .of_eq rfl rfl, by simp⟩, ?sRegs⟩, ?counters⟩, ?asidctx⟩
  case laneId =>
    change (c.st.inItem * 4 + l) * 256 + physLane c.st.context l = _
    simp [physLane]
  case strandId =>
    change logicalId c.la c.it c.st.inItem * 2 ^ 12 + c.st.inItem * 2 ^ 8 + c.st.context = _
    simp [logicalId, Nat.add_assoc]
  case threadId => exact congrArg Prod.fst hdraw
  case convoy =>
    change convoyNumber s c.it = _
    unfold convoyNumber
    cases Map.find c.it.convoy s.convoys <;> rfl
  case xi =>
    change (if c.crew.isSome then _ else _) = _
    rw [hcrew]
    rfl
  case draw => exact congrArg Prod.snd hdraw
  case crewIdx =>
    change crewIdx s c l = 0
    unfold crewIdx
    rw [hcrew]
  case tokstat =>
    change tokstatOf c.la c.it c.st.item = _
    unfold tokstatOf
    cases c.la.det <;> cases holdsToken c.la c.it c.st.item <;> simp
  case oplogst =>
    change oplogstOf c.st = _
    unfold oplogstOf
    ring
  case sRegs =>
    simp only [List.forall_mem_map, upTo, List.mem_range]
    exact fun m hm => gives_sReg hcrew hm
  case counters =>
    simp only [List.forall_mem_map, upTo, List.mem_range]
    exact fun m hm => gives_counter (by omega)
  case asidctx =>
    simp only [List.forall_mem_map, upTo, List.mem_range]
    exact fun m hm => gives_asidctx hm

end

end Sys2Proof.Machine
end


section
/-! The execution of SYSR (R235): values read from a table, from the fabric, or from a worker's frame. -/

namespace Sys2Proof.Machine

section
variable {c : Issue} {s : State} {g : Guard} {d : Opnd} {num : BitVec 16}

/-- What SYSR does with the values it has read. -/
def Issue.give (c : Issue) (d : Opnd) (n : Nat) (f : Nat → Nat) (s : State) : Act :=
  if sysWide n then c.putPair d (fun l => BitVec.ofNat 64 (f l)) s else c.put d (fun l => BitVec.ofNat 32 (f l)) s

theorem readWords_wide (d x : Nat) : readWords true d x
    = [(d, (BitVec.ofNat 64 x).extractLsb' 0 32), (d + 1, (BitVec.ofNat 64 x).extractLsb' 32 32)] := by
  have hlow : (BitVec.ofNat 64 x).extractLsb' 0 32 = BitVec.ofNat 32 (x % 2 ^ 32) := by
    apply BitVec.eq_of_toNat_eq
    simp [BitVec.extractLsb'_toNat]
  have hhigh : (BitVec.ofNat 64 x).extractLsb' 32 32 = BitVec.ofNat 32 (x / 2 ^ 32 % 2 ^ 32) := by
    apply BitVec.eq_of_toNat_eq
    simp [BitVec.extractLsb'_toNat, Nat.shiftRight_eq_div_pow]
    omega
  rw [hlow, hhigh]
  rfl

theorem ofNat_narrow {x y : Nat} (h : BitVec.ofNat 64 x = BitVec.ofNat 64 y) : BitVec.ofNat 32 x = BitVec.ofNat 32 y := by
  have := congrArg (BitVec.setWidth 32) h
  rwa [BitVec.setWidth_ofNat_of_le (by omega), BitVec.setWidth_ofNat_of_le (by omega)] at this

theorem give_retired {i : Instr} (h : clear i s = some c) (d : Opnd) (n : Nat) {f v : Nat → Nat}
    (hv : ∀ l, BitVec.ofNat 64 (f l) = BitVec.ofNat 64 (v l)) :
    Retired c (c.writes fun l => readWords (sysWide n) (c.index d) (v l)) s (c.finish (c.give d n f s)) := by
  unfold Issue.give
  cases sysWide n with
  | true =>
    simp only [readWords_wide, if_true, ← hv]
    exact putPair_retired h d _
  | false =>
    have hwords : (fun l => readWords false (c.index d) (v l)) = fun l => [(c.index d, BitVec.ofNat 32 (f l))] :=
      funext fun l => by rw [ofNat_narrow (hv l)]; rfl
    rw [hwords]
    exact put_retired h d _

theorem sysFails_assigned {n : Nat} (hn : sysAssigned n = true) : c.sysFails n = none := by simp [Issue.sysFails, hn]

theorem exec_sysr_plain (h : clear (.sysr g d num) s = some c) (hn : sysAssigned num.toNat = true)
    (hplain : sysInput num.toNat = false ∨ c.first = none) :
    exec (.sysr g d num) s = .next (c.finish (c.give d num.toNat (sysValue c s num.toNat) s)) := by
  change execSysr g d num s = _
  have : (sysInput num.toNat && c.first.isSome) = false := by rcases hplain with h | h <;> simp [h]
  unfold execSysr
  rw [issue_clear h]
  simp only [sysFails_assigned hn, this]
  rfl

theorem exec_sysr_input (h : clear (.sysr g d num) s = some c) (hn : sysAssigned num.toNat = true)
    (hcapture : c.la.capture = false) (hreplay : c.la.replay = none)
    (hinput : sysInput num.toNat = true) (hfirst : c.first ≠ none) :
    exec (.sysr g d num) s = .next (c.finish (c.give d num.toNat (fun _ => sysValue c s num.toNat 0) s)) := by
  have hla := (issueOf_strand (ready_issueOf (clear_ready h)).1).2.2.2.2.1
  have hread (v : Nat) : fabricInput (c.inputAt 0x3F) 1 v s = (s, some v) := by
    unfold fabricInput
    have hreplaying : replaying s (c.inputAt 0x3F).launch = false := by
      unfold replaying
      rw [show (c.inputAt 0x3F).launch = c.it.launch from rfl, hla]
      exact congrArg Option.isSome hreplay
    rw [hreplaying, captureInput_of_not_capture (at_ := c.inputAt 0x3F) hla hcapture]
    rfl
  change execSysr g d num s = _
  have : (sysInput num.toNat && c.first.isSome) = true := by simp [hinput, Option.isSome_iff_ne_none, hfirst]
  unfold execSysr
  rw [issue_clear h]
  simp only [sysFails_assigned hn, this, hread]
  rfl

/-- The fabric's registers are the same in every lane. -/
theorem sysValue_input {n : Nat} (h : sysInput n = true) (l k : Nat) : sysValue c s n l = sysValue c s n k := by
  have hn : 0x13 ≤ n ∧ n ≤ 0x16 := by simpa [sysInput] using h
  obtain ⟨hlo, hhi⟩ := hn
  interval_cases n
  · rfl
  · rfl
  · rw [sysValue_peers c s rfl, sysValue_peers c s rfl]
  · rw [sysValue_laterPeers c s rfl, sysValue_laterPeers c s rfl]

/-- SYSR retires with the values of its register. -/
theorem sysr_retires (h : clear (.sysr g d num) s = some c) (hcapture : c.la.capture = false) (hreplay : c.la.replay = none)
    {v : Nat → Nat} (hv : ∀ l, Gives c s num.toNat l (v l)) :
    Retires (.sysr g d num) c (c.writes fun l => readWords (sysWide num.toNat) (c.index d) (v l)) s := by
  have hn := (hv 0).assigned
  by_cases hplain : sysInput num.toNat = false ∨ c.first = none
  · exact ⟨_, exec_sysr_plain h hn hplain, give_retired h d _ fun l => (hv l).value⟩
  · obtain ⟨hinput, hfirst⟩ := not_or.mp hplain
    rw [Bool.not_eq_false] at hinput
    refine ⟨_, exec_sysr_input h hn hcapture hreplay hinput hfirst, give_retired h d _ fun l => ?_⟩
    rw [sysValue_input hinput 0 l]
    exact (hv l).value

/-- SYSR of a narrow register that is no fabric input. -/
theorem sysr_retires_word (h : clear (.sysr g d num) s = some c) (hn : sysAssigned num.toNat = true)
    (hinput : sysInput num.toNat = false) (hwide : sysWide num.toNat = false) {v : Nat → Word}
    (hv : ∀ l, BitVec.ofNat 32 (sysValue c s num.toNat l) = v l) :
    Retires (.sysr g d num) c (c.writes fun l => [(c.index d, v l)]) s := by
  refine ⟨_, exec_sysr_plain h hn (.inl hinput), ?_⟩
  have hgive := give_retired h d num.toNat (v := sysValue c s num.toNat) fun _ => rfl
  rw [hwide] at hgive
  have hwords : (fun l => [(c.index d, v l)]) = fun l => readWords false (c.index d) (sysValue c s num.toNat l) :=
    funext fun l => by rw [← hv]; rfl
  rw [hwords]
  exact hgive

theorem sysr_crewIdx (h : clear (.sysr g d num) s = some c) (hn : num.toNat = 0x1D) {seat : CrewSeat} {r : Crew}
    (hcrew : c.crew = some seat) (hr : Map.find seat.crew s.crews = some r) :
    Retires (.sysr g d num) c (c.writes fun l =>
      [(c.index d, BitVec.ofNat 32 (4 * r.g * 2 ^ 16 + if seat.first = 0 then 0 else seat.first + l))]) s := by
  refine sysr_retires_word h (by rw [hn]; rfl) (by rw [hn]; rfl) (by rw [hn]; rfl) fun l => ?_
  have hvalue : sysValue c s num.toNat l = crewIdx s c l := by rw [hn]; rfl
  simp only [hvalue, crewIdx, hcrew, hr, workerOf, beq_iff_eq]

/-- The register of a worker's frame that a number names. -/
def InFrame (m n : Nat) : Prop := m = 592 ∧ n = 0x07 ∨ 512 ≤ m ∧ m < 576 ∧ n = 0x100 + (m - 512)

theorem sysr_frame (h : clear (.sysr g d num) s = some c) {m : Nat} (hcrew : c.crew.isSome = true) (hm : InFrame m num.toNat) :
    Retires (.sysr g d num) c (c.writes fun l => [(c.index d, Table.get 0 m (c.st.lanes.get l).v)]) s := by
  rcases hm with ⟨rfl, hn⟩ | ⟨hlo, hhi, hn⟩
  · refine sysr_retires_word h (by rw [hn]; rfl) (by rw [hn]; rfl) (by rw [hn]; rfl) fun l => ?_
    have hvalue : sysValue c s num.toNat l
        = if c.crew.isSome then (Table.get 0 (frameS 80) (c.st.lanes.get l).v).toNat else c.st.xi.toNat := by rw [hn]; rfl
    rw [hvalue, hcrew, if_pos rfl, BitVec.ofNat_toNat, BitVec.setWidth_eq]
    rfl
  · have hrange : (0x100 ≤ num.toNat && num.toNat ≤ 0x13F) = true := by rw [hn]; simp; omega
    refine sysr_retires_word h (by simp only [sysAssigned, hrange, Bool.or_true, Bool.true_or])
      (by rw [hn, sysInput]; simp; omega) (by rw [hn, sysWide]; simp; omega) fun l => ?_
    rw [sysValue_family c s l (by omega) (by omega), if_pos hrange, hcrew, if_pos rfl, if_pos rfl, BitVec.ofNat_toNat,
      BitVec.setWidth_eq, hn, frameS, Nat.add_sub_cancel_left, Nat.add_sub_cancel' hlo]

theorem sysr_unassigned (h : clear (.sysr g d num) s = some c) (hn : sysAssigned num.toNat = false) :
    exec (.sysr g d num) s = .next (trap c.key { c.raise 0x2A with info1 := num.toNat } s) := by
  change execSysr g d num s = _
  unfold execSysr
  rw [issue_clear h]
  simp only [Issue.sysFails, hn]
  rfl

/-! ## A counter beyond the launch's REG_BOUND (R136, R237) -/

theorem issue_refused {i : Instr} (h : issueOf i s = some c) (hblocked : c.blocked = false) (hpassed : c.passed s = false)
    {code : Nat} (hcheck : c.check = some code) (body : Issue → State → Act) :
    issue i s body = .next (trap c.key (c.refusal code) s) := by
  unfold issue
  simp only [h, hblocked, hpassed, hcheck]
  rfl

/-- SYSR and SYSW of a counter that the launch has not are refused. -/
theorem issue_beyond {i : Instr} (h : issueOf i s = some c) (hblocked : c.blocked = false)
    (hprivilege : needsPrivilege i = false) {k : Nat} (hcounter : counterOf i = some k) (hk : c.la.kcnt ≤ k)
    (honce : onceMajor c.major = false) (body : Issue → State → Act) :
    issue i s body = .next (trap c.key (c.raise 0x08) s) := by
  have hi : c.i = i := (issueOf_strand h).2.1
  have hpassed : c.passed s = false := by simp [Issue.passed, honce]
  have hcheck : c.check = some 0x08 := by simp [Issue.check, hi, hprivilege, hcounter, hk]
  rw [issue_refused h hblocked hpassed hcheck, Issue.refusal, honce]
  rfl

end

end Sys2Proof.Machine
end


section
/-! Rules of issue: an instruction that changes its strand in more than the registers goes on. -/

namespace Sys2Proof.Machine

section
variable {i : Instr} {s u : State} {c : Issue} {x : Strand}

theorem count_own (hx : ∀ p ∈ x.pend, p ∈ c.st.pend) (y : Strand) (hy : y.pend = x.pend) :
    c.count y = Issue.count { c with st := x } y := by
  have hwindow : y.countWindow c.st.pend = y.countWindow x.pend := by
    unfold Strand.countWindow
    congr 1
    refine List.map_congr_left fun p hp => ?_
    have held (l : List Pending) (hl : p ∈ l) : (l.any fun q => q.id == p.id) = true :=
      List.any_eq_true.mpr ⟨p, hl, beq_self_eq_true _⟩
    rw [hy] at hp
    rw [if_pos (held _ (hx p hp)), if_pos (held _ hp)]
  unfold Issue.count
  rw [hwindow]

theorem finish_own {v : State} (h : clear i s = some c) (hv : v.strand c.key = some x) (hx : ∀ p ∈ x.pend, p ∈ c.st.pend) :
    c.finish (.done v) = v.setStrand c.key (Issue.passedBy { c with st := x }) := by
  rw [finish_done_strand h hv ?_, count_own hx (c.advance x) rfl]
  · rfl
  · rw [List.any_eq_false]
    exact fun p hp => List.any_eq_false.mp (clear_answers h) p (hx p hp)

/-- A strand changed beside other state goes on past its instruction. -/
theorem does_own (h : clear i s = some c) (hx : ∀ p ∈ x.pend, p ∈ c.st.pend)
    (hexec : exec i s = .next (c.finish (.done (u.setStrand c.key x)))) : Does i { c with st := x } {} s u := by
  refine ⟨_, hexec, ?_⟩
  rw [finish_own h (strand_setStrand _ _ _) hx, setStrand_setStrand]
  exact retired_of (c := { c with st := x }) (passedBy_moved _)

theorem retires_own (h : clear i s = some c) (f : Strand → Strand) (hf : ∀ p ∈ (f c.st).pend, p ∈ c.st.pend)
    (hexec : exec i s = .next (c.finish (.done (s.adjStrand c.key f)))) : Retires i { c with st := f c.st } {} s := by
  rw [adjStrand_eq_setStrand (clear_strand h)] at hexec
  exact does_own h hf hexec

/-- No clause of crew code is uniform: its strand runs for workers. -/
theorem uniform_of_crew (h : clear i s = some c) (hcrew : c.crew.isSome = true) : c.uniform = false := by
  have h := (ready_issueOf (clear_ready h)).1
  unfold issueOf at h
  split at h
  · cases h
  · split at h
    · cases h
    · split at h
      · cases h
      · cases h
        simp_all [Option.isSome_iff_ne_none]

end

/-! ## Strands that waited for log entries -/

theorem foldl_later_plans {α : Type} (f : α → Instr) (l : List α) (s : State) : Plans s (l.foldl (fun s x => s.later (f x)) s) :=
  .foldl (fun s x => later_plans (f x) s) l s

theorem wakeOthers_plans (k : Nat) (ids : List Nat) (s : State) : Plans s (wakeOthers k ids s) := by
  unfold wakeOthers
  split
  · exact .refl s
  · split
    · exact .refl s
    · refine .foldl (fun s j => ?_) _ s
      split
      · exact foldl_later_plans _ _ s
      · exact .refl s

theorem wakeOthers_nil (k : Nat) (s : State) : wakeOthers k [] s = s := by
  unfold wakeOthers
  split
  · rfl
  · split
    · rfl
    · refine List.foldl_fixed' (fun j => ?_) _
      split
      · simp
      · rfl

end Sys2Proof.Machine
end


section
/-! SYSW (R235, R236): the register that a number names is written with the value of the lowest active lane. -/

namespace Sys2Proof.Machine

section
variable {c : Issue} {s : State} {g : Guard} {a : Opnd} {num : BitVec 16} {l : Nat}

/-- The value that SYSW writes. -/
def Issue.sysOperand (c : Issue) (n l : Nat) (a : Opnd) : BitVec 64 :=
  if sysWide n then c.pair l a else (c.reg l a).setWidth 64

/-- SYSW finds a register, a lane and no access that it waits for, and no worker's frame holds the register. -/
structure WritesSys (c : Issue) (s : State) (g : Guard) (a : Opnd) (num : BitVec 16) (l : Nat) : Prop where
  clear : clear (.sysw g a num) s = some c
  assigned : sysAssigned num.toNat = true
  first : c.first = some l
  settled : num.toNat = 0x1A ∨ num.toNat = 0x1C → c.st.pend = []
  shared : c.crew = none ∨ frameReg num.toNat = none

theorem exec_sysw (h : WritesSys c s g a num l) : exec (.sysw g a num) s
    = .next (c.finish (.done (c.sysWrite num.toNat (c.sysOperand num.toNat l a) s))) := by
  change execSysw g a num s = _
  have hwait : ((num.toNat == 0x1A || num.toNat == 0x1C) && c.st.pend.any (·.open)) = false := by
    by_cases hn : num.toNat = 0x1A ∨ num.toNat = 0x1C
    · rw [h.settled hn]
      simp
    · simp_all
  have hframe : (if c.crew.isSome then frameReg num.toNat else none) = none := by
    rcases h.shared with hcrew | hreg
    · rw [hcrew]
      rfl
    · rw [hreg]
      split <;> rfl
  unfold execSysw
  rw [issue_clear h.clear]
  simp only [sysFails_assigned h.assigned, h.first, hwait, hframe]
  rfl

theorem sysw_unassigned (h : clear (.sysw g a num) s = some c) (hn : sysAssigned num.toNat = false) :
    exec (.sysw g a num) s = .next (trap c.key { c.raise 0x2A with info1 := num.toNat } s) := by
  change execSysw g a num s = _
  unfold execSysw
  rw [issue_clear h]
  simp only [Issue.sysFails, hn]
  rfl

theorem sysw_idle (h : clear (.sysw g a num) s = some c) (hn : sysAssigned num.toNat = true) (hfirst : c.first = none) :
    Retires (.sysw g a num) c {} s := by
  refine retires_of_done h ?_
  change execSysw g a num s = _
  unfold execSysw
  rw [issue_clear h]
  simp only [sysFails_assigned hn, hfirst]

theorem sysw_waits (h : clear (.sysw g a num) s = some c) (hn : num.toNat = 0x1A ∨ num.toNat = 0x1C) (hfirst : c.first = some l)
    (hopen : c.st.pend.any (·.open) = true) : WaitsAt (.sysw g a num) c .issue s := by
  have hassigned : sysAssigned num.toNat = true := by rcases hn with hn | hn <;> rw [hn] <;> rfl
  have hwait : ((num.toNat == 0x1A || num.toNat == 0x1C) && c.st.pend.any (·.open)) = true := by
    rw [hopen, Bool.and_true]
    simpa using hn
  change execSysw g a num s = _
  unfold execSysw
  rw [issue_clear h]
  simp only [sysFails_assigned hassigned, hfirst, hwait]
  rfl

/-! ## The operand -/

theorem sysOperand_wide {n : Nat} (hn : sysWide n = true) : c.sysOperand n l a = c.pair l a := by rw [Issue.sysOperand, if_pos hn]

theorem extract_sysOperand {n : Nat} (hn : sysWide n = false) (start len : Nat) (hlen : start + len ≤ 32) :
    (c.sysOperand n l a).extractLsb' start len = (c.reg l a).extractLsb' start len := by
  rw [Issue.sysOperand, hn]
  refine BitVec.eq_of_getLsbD_eq fun j hj => ?_
  simp only [BitVec.getLsbD_extractLsb', BitVec.getLsbD_setWidth, Bool.false_eq_true, if_false,
    show decide (start + j < 64) = true by simp; omega, Bool.true_and]

/-! ## Registers of the strand -/

theorem sysw_xi (h : WritesSys c s g a num l) (hn : num.toNat = 0x07) :
    Retires (.sysw g a num)
      { c with st := { c.st with xi := (c.reg l a).extractLsb' 0 8, badS := c.st.badS.filter (· != 80) } } {} s := by
  have hwide : sysWide 0x07 = false := rfl
  have hexec := exec_sysw h
  rw [hn] at hexec
  have hx := extract_sysOperand (c := c) (l := l) (a := a) hwide 0 8 (by omega)
  rw [← hx]
  exact retires_own h.clear (fun st => { st with xi := (c.sysOperand 0x07 l a).extractLsb' 0 8, badS := st.badS.filter (· != 80) })
    (fun _ hp => hp) hexec

theorem sysWrite_family (c : Issue) (v : BitVec 64) (s : State) {n : Nat} (hlo : 0x100 ≤ n) (hhi : n < 0x1200) : c.sysWrite n v s =
    if 0x100 ≤ n && n ≤ 0x13F then s.adjStrand c.key (·.setS (n - 0x100) (v.extractLsb' 0 32))
    else if 0x1000 ≤ n && n ≤ 0x11FF then writeAsidctx (n - 0x1000) v s
    else s := by
  unfold Issue.sysWrite
  split
  case h_11 => rfl
  all_goals omega

theorem sysw_sReg {m : Nat} (hm : m < 64) (hn : num.toNat = 0x100 + m)
    (h : WritesSys c s g a num l) : Retires (.sysw g a num) c { s := fun j => if j = m then some (c.reg l a) else none } s := by
  have hrange : (0x100 ≤ 0x100 + m && 0x100 + m ≤ 0x13F) = true := by simp; omega
  have hwide : sysWide (0x100 + m) = false := by rw [sysWide]; simp; omega
  have hexec := exec_sysw h
  rw [hn, sysWrite_family c _ s (by omega) (by omega), if_pos hrange, Nat.add_sub_cancel_left,
    extract_sysOperand hwide 0 32 (by omega), BitVec.extractLsb'_eq_self] at hexec
  refine ⟨_, hexec, ?_⟩
  rw [finish_done h.clear _ rfl]
  refine retired_of (moved_strand rfl (fun _ _ => rfl) (fun _ _ => rfl) (fun j => ?_) (fun j => ?_) (by simp [Strand.setS]) fun _ _ => ?_)
  · rw [Strand.setS]
    dsimp only
    rw [Table.get_put]
    split <;> rfl
  · simp only [Strand.setS, List.mem_filter, bne_iff_ne]
    split <;> simp_all
  · simp [Strand.setS]

/-! ## Registers of a worker's frame (R386) -/

theorem and_low_byte (x : Word) : x &&& 0xFF = BitVec.ofNat 32 (x.toNat % 256) := by
  apply BitVec.eq_of_toNat_eq
  rw [BitVec.toNat_and, BitVec.toNat_ofNat, show (0xFF : Word).toNat = 2 ^ 8 - 1 by rfl, Nat.and_two_pow_sub_one_eq_mod]
  omega

/-- What a lane that acts writes into its frame. -/
def frameValue (m : Nat) (x : Word) : Word := if m = 592 then BitVec.ofNat 32 (x.toNat % 256) else x

theorem frameReg_of_inFrame {m n : Nat} (hm : InFrame m n) : frameReg n = some m ∧ sysAssigned n = true := by
  rcases hm with ⟨rfl, rfl⟩ | ⟨hlo, hhi, hn⟩
  · exact ⟨rfl, rfl⟩
  · have hrange : (0x100 ≤ n && n ≤ 0x13F) = true := by rw [hn]; simp; omega
    refine ⟨?_, by simp only [sysAssigned, hrange, Bool.or_true, Bool.true_or]⟩
    rw [frameReg, if_neg (by simp; omega), if_pos hrange, frameS]
    exact congrArg some (by omega)

theorem frameWrite_eq (c : Issue) (m : Nat) (a : Opnd) (s : State) (hdoers : c.doers = lanesIn c.active) :
    c.frameWrite m a s = s.adjStrand c.key fun st => c.doers.foldl (fun st l =>
      (st.adjLane l fun x => x.setV m (frameValue m (c.reg l a))).raiseFlags 0) st := by
  unfold Issue.frameWrite
  simp only [raiseFlags_zero, hdoers, Strand.setV, frameValue, and_low_byte, frameS, beq_iff_eq]

theorem foldl_setV_pend (m : Nat) (f : Nat → Word) (ls : List Nat) (st : Strand) :
    (ls.foldl (fun st l => (st.adjLane l fun x => x.setV m (f l)).raiseFlags 0) st).pend = st.pend := by
  induction ls generalizing st with
  | nil => rfl
  | cons l ls ih =>
    rw [List.foldl_cons, ih]
    rfl

theorem sysw_frame (h : clear (.sysw g a num) s = some c) (hfirst : c.first = some l) {m : Nat} (hcrew : c.crew.isSome = true)
    (hm : InFrame m num.toNat) :
    Retires (.sysw g a num) c { v := fun l j => if c.acts l ∧ j = m then some (frameValue m (c.reg l a)) else none } s := by
  obtain ⟨hreg, hassigned⟩ := frameReg_of_inFrame hm
  have hu := uniform_of_crew h hcrew
  have hdoers : c.doers = lanesIn c.active := by rw [Issue.doers, hu]; rfl
  have hwait : (num.toNat == 0x1A || num.toNat == 0x1C) = false := by
    rcases hm with ⟨-, hn⟩ | ⟨-, hhi, hn⟩ <;> rw [hn] <;> simp
    omega
  have hexec : exec (.sysw g a num) s = .next (c.finish (.done (c.frameWrite m a s))) := by
    change execSysw g a num s = _
    unfold execSysw
    rw [issue_clear h]
    simp only [sysFails_assigned hassigned, hfirst, hwait, hcrew, if_true, hreg]
    rfl
  refine ⟨_, hexec, ?_⟩
  rw [frameWrite_eq c m a s hdoers, finish_done h _ (foldl_setV_pend _ _ _ _)]
  refine retired_of (moved_lanes hu (fun l x => x.setV m (frameValue m (c.reg l a))) (fun _ => 0) ?_ ?_ (fun _ _ _ _ => rfl)
    (fun _ _ _ _ => rfl) (fun _ => rfl) ?_ (fun _ _ _ => by simp [Lane.setV]) (fun _ _ _ => by simp [Lane.setV]) (fun _ _ _ => rfl)
    (raised_zero c).symm (fun _ _ => rfl))
  · intro l hl n hactive
    simp only [Lane.setV, Table.get_put, acts_iff c hl, hactive, true_and]
    split <;> rfl
  · intro l hl n hactive
    simp [acts_iff c hl, hactive]
  · intro l hl n hactive
    simp only [Lane.setV, List.mem_filter, bne_iff_ne, acts_iff c hl, hactive, true_and]
    split <;> simp_all

/-! ## Registers beside the strand -/

/-- A register beside the strand: the write leaves the strands as they stand. -/
theorem sysw_beside {n : Nat} {u : State} (h : WritesSys c s g a num l) (hn : num.toNat = n) (hu : u.strands = s.strands)
    (hwrite : c.sysWrite n (c.sysOperand n l a) s = u) : Does (.sysw g a num) c {} s u := by
  refine does_of_done h.clear hu ?_
  rw [exec_sysw h, hn, hwrite]

theorem sysw_asidctx {m : Nat} (hm : m < 512) (hn : num.toNat = 0x1000 + m) (h : WritesSys c s g a num l) :
    Does (.sysw g a num) c {} s { s with asidctx := Table.put 0 m (c.pair l a &&& 0x000FFFFFFFFFF001) s.asidctx } := by
  have hrange : (0x1000 ≤ 0x1000 + m && 0x1000 + m ≤ 0x11FF) = true := by simp; omega
  have hwide : sysWide (0x1000 + m) = true := by
    have : (0x1000 ≤ 0x1000 + m && 0x1000 + m ≤ 0x1202) = true := by simp; omega
    simp only [sysWide, this, Bool.or_true, Bool.true_or]
  refine sysw_beside h hn rfl ?_
  rw [sysWrite_family c _ s (by omega) (by omega), if_neg (by simp; omega), if_pos hrange, writeAsidctx, Nat.add_sub_cancel_left,
    Nat.mod_eq_of_lt hm, sysOperand_wide hwide]

theorem sysWrite_readOnly {n : Nat} (hn : n ∉ [0x07, 0x1A, 0x1C, 0x21, 0x22, 0x23]) (hrange : n < 0x100 ∨ 0x200 ≤ n ∧ n ≤ 0x23F)
    (v : BitVec 64) : c.sysWrite n v s = s := by
  unfold Issue.sysWrite
  split
  case h_11 =>
    rw [if_neg (by simp; omega), if_neg (by simp; omega)]
  all_goals simp at hn hrange

/-! ## Flags, poison marks and log entries -/

theorem adjItem_adjItem (k : Nat) (f g : Item → Item) (s : State) : (s.adjItem k f).adjItem k g
    = s.adjItem k fun it => g (f it) := by
  simp only [State.adjItem, Map.adjust]
  cases hk : Map.find k s.items with
  | none => simp only [hk]
  | some it => simp only [Map.find_insert_self, Map.insert_insert]

/-- A strand that results in flight have no flags and marks for any more. -/
def Strand.landed (st : Strand) : Strand :=
  { st with fstat := st.fstat ||| 0, pend := st.pend.map fun p => { p with flags := 0, poisoned := 0 } }

theorem landed_idle {st : Strand} (h : st.pend = []) : st.landed = st := by
  cases st
  subst h
  simp [Strand.landed]

/-- With no result in flight nothing lands. -/
theorem landMarks_idle {i : Instr} (h : clear i s = some c) (hpend : c.st.pend = []) :
    landMarks c.key s = (s.adjItem c.st.item id).setStrand c.key c.st := by
  have hstrand : s.strand c.key = some c.st := clear_strand h
  have hmarks : (fun it : Item => { it with poison := it.poison ||| ((0 : BitVec 4).setWidth 64 <<< (c.st.inItem * 4)) }) = id :=
    funext fun it => by simp
  unfold landMarks
  simp only [hstrand]
  rw [hpend, List.foldl_nil, List.foldl_nil, hmarks, adjStrand_eq_setStrand hstrand]
  exact congrArg (fun x => (s.adjItem c.st.item id).setStrand c.key x) (landed_idle hpend)

theorem sysw_fstat (h : WritesSys c s g a num l) (hn : num.toNat = 0x1A) :
    ∃ u : State, u = { s with items := u.items } ∧ (∀ k, Map.find k u.items = Map.find k s.items)
      ∧ Does (.sysw g a num) { c with st := { c.st with fstat := c.st.fstat &&& ~~~((c.reg l a).extractLsb' 0 6) } } {} s u := by
  refine ⟨s.adjItem c.st.item id, rfl, fun k => ?_, ?_⟩
  · rw [State.adjItem_items, Map.find_adjust]
    split
    next hk => rw [hk]; cases Map.find c.st.item s.items <;> rfl
    next => rfl
  · refine does_own h.clear (fun _ hp => hp) ?_
    rw [exec_sysw h, hn, ← extract_sysOperand (c := c) (l := l) (a := a) (show sysWide 0x1A = false from rfl) 0 6 (by omega)]
    change Host.Outcome.next (c.finish (.done ((landMarks c.key s).adjStrand c.key _))) = _
    rw [landMarks_idle h.clear (h.settled (.inl hn)), adjStrand_eq_setStrand (st := c.st) (strand_setStrand c.key c.st _),
      setStrand_setStrand]

theorem sysw_poison (h : WritesSys c s g a num l) (hn : num.toNat = 0x1C) :
    Does (.sysw g a num) c {} s (s.adjItem c.st.item fun it => { it with poison := it.poison &&& ~~~(c.pair l a) }) := by
  refine does_own (x := c.st) h.clear (fun _ hp => hp) ?_
  rw [exec_sysw h, hn, sysOperand_wide rfl]
  change Host.Outcome.next (c.finish (.done ((landMarks c.key s).adjItem _ _))) = _
  rw [landMarks_idle h.clear (h.settled (.inr hn))]
  change Host.Outcome.next (c.finish (.done (((s.adjItem _ id).adjItem _ _).setStrand c.key c.st))) = _
  rw [adjItem_adjItem]
  rfl

/-- The log entries that a write of OPLOGST drops. -/
def droppedIds (m : BitVec 4) (st : Strand) : List Nat := (st.oplog.zipIdx.filter fun e => m.getLsbD e.2).map (·.1.id)

/-- A strand that has dropped log entries. -/
def Strand.dropped (m : BitVec 4) (st : Strand) : Strand :=
  { st with
    drop := st.drop ||| (m &&& maskOf fun j => decide (j < st.oplog.length))
    pend := st.pend.filter fun p => !(p.logged && (droppedIds m st).contains p.id) }

theorem sysw_oplogst (h : WritesSys c s g a num l) (hn : num.toNat = 0x21) :
    ∃ u : State, u = { s with plan := u.plan } ∧ (droppedIds ((c.reg l a).extractLsb' 16 4) c.st = [] → u = s)
      ∧ Does (.sysw g a num) { c with st := c.st.dropped ((c.reg l a).extractLsb' 16 4) } {} s u := by
  set m := (c.reg l a).extractLsb' 16 4
  set ids := droppedIds m c.st
  set woken := wakeOthers c.key ids (s.setStrand c.key (c.st.dropped m)) with hwoken
  have hplans := (wakeOthers_plans c.key ids (s.setStrand c.key (c.st.dropped m))).rest
  refine ⟨{ s with plan := woken.plan }, rfl, fun hids => ?_, ?_⟩
  · rw [hwoken, hids, wakeOthers_nil]
    rfl
  · refine does_own h.clear (fun p hp => List.mem_of_mem_filter hp) ?_
    have hdrop : dropEntries c.key m s = woken := by
      unfold dropEntries
      simp only [show s.strand c.key = some c.st from clear_strand h.clear]
      rfl
    rw [exec_sysw h, hn]
    change Host.Outcome.next (c.finish (.done (dropEntries c.key ((c.sysOperand 0x21 l a).extractLsb' 16 4) s))) = _
    rw [extract_sysOperand rfl 16 4 (by omega)]
    exact congrArg (fun w => Host.Outcome.next (c.finish (.done w))) (hdrop.trans hplans)

end

end Sys2Proof.Machine
end


section
/-! DSET (R234), and the statement about the system registers. -/

namespace Sys2Proof.Machine

/-! ## Quarters of a descriptor -/

theorem toNat_putQuarter (d : BitVec 256) {q : Nat} (hq : q < 4) (v : BitVec 64) :
    (putQuarter d q v).toNat = d.toNat / 2 ^ (64 * q + 64) * 2 ^ (64 * q + 64) + v.toNat * 2 ^ (64 * q)
        + d.toNat % 2 ^ (64 * q) := by
  have hd := d.isLt
  have hv := v.isLt
  rw [putQuarter, BitVec.toNat_ofNat, putBits, bitsOf]
  interval_cases q <;> simp only [Nat.reduceMul, Nat.reduceAdd, Nat.reduceSub, Nat.reducePow] at * <;> omega

theorem extract_putQuarter (d : BitVec 256) {q i : Nat} (hq : q < 4) (hi : i < 4) (v : BitVec 64) :
    (putQuarter d q v).extractLsb' (64 * i) 64 = if i = q then v else d.extractLsb' (64 * i) 64 := by
  apply BitVec.eq_of_toNat_eq
  rw [apply_ite BitVec.toNat, BitVec.extractLsb'_toNat, BitVec.extractLsb'_toNat, toNat_putQuarter d hq, Nat.shiftRight_eq_div_pow,
    Nat.shiftRight_eq_div_pow]
  have hd := d.isLt
  have hv := v.isLt
  interval_cases q <;> interval_cases i <;>
    simp only [Nat.reduceMul, Nat.reduceAdd, Nat.reducePow, Nat.reduceEqDiff, if_true, if_false] at * <;> omega

theorem extract_foldl_putQuarter (f : Nat → BitVec 64) {i : Nat} (hi : i < 4) (ls : List Nat) (hls : ∀ l ∈ ls, l < 4)
    (d : BitVec 256) :
    (ls.foldl (fun d l => putQuarter d l (f l)) d).extractLsb' (64 * i) 64
      = if i ∈ ls then f i else d.extractLsb' (64 * i) 64 := by
  induction ls generalizing d with
  | nil => rfl
  | cons l ls ih =>
    obtain ⟨hl, hls⟩ := List.forall_mem_cons.mp hls
    rw [List.foldl_cons, ih hls, extract_putQuarter d hl hi]
    by_cases hmem : i ∈ ls
    · simp [hmem]
    · by_cases hil : i = l <;> simp [hmem, hil]

/-! ## DSET -/

section
variable {c : Issue} {s : State} {g : Guard} {dn : BitVec 4} {a : Opnd} {all : Bool} {q : BitVec 2} {num : BitVec 16}

/-- The descriptor register as DSET leaves it. -/
def Issue.quartered (c : Issue) (dn : BitVec 4) (a : Opnd) (all : Bool) (q : BitVec 2) : BitVec 256 :=
  let old := Table.get 0 dn.toNat c.st.d
  if !all then
    match c.first with
    | some l => putQuarter old q.toNat (c.pair l a)
    | none => old
  else if c.uniform || c.frames then
    match c.first with
    | some l => (upTo 4).foldl (fun d i => putQuarter d i (c.pair l a)) old
    | none => old
  else (lanesIn c.active).foldl (fun d i => putQuarter d i (c.pair i a)) old

/-- Whether DSET writes the whole descriptor register. -/
def Issue.setsWhole (c : Issue) (all : Bool) : Bool := all && (c.uniform || c.frames || c.active == 15) && c.first.isSome

/-- The strand as DSET writes it. -/
def Issue.described (c : Issue) (dn : BitVec 4) (a : Opnd) (all : Bool) (q : BitVec 2) (st : Strand) : Strand :=
  { st with
    d := Table.put 0 dn.toNat (c.quartered dn a all q) st.d
    badS := if c.setsWhole all then st.badS.filter (· != 64 + dn.toNat) else st.badS }

theorem exec_dset (h : clear (.dset g dn a all q) s = some c) :
    exec (.dset g dn a all q) s = .next (c.finish (.done (s.adjStrand c.key (c.described dn a all q)))) := by
  change execDset g dn a all q s = _
  unfold execDset
  rw [issue_clear h]
  rfl

/-- What DSET leaves: the descriptor register `dn`, its quarters new but where `was` says, readable again where it is
written whole, and otherwise the strand moved on. -/
def Describes (i : Instr) (c : Issue) (n : Nat) (s : State) (f : Nat → BitVec 64) (whole : Prop) (was : Nat → Bool) : Prop :=
  ∃ t b, exec i s = .next t ∧ (∀ k, k ≠ c.key → t.strand k = s.strand k)
    ∧ t = { s with strands := t.strands } ∧ t.strand c.key = some b
    ∧ Moved { c with st := { c.st with d := b.d, badS := b.badS } } {} { c.st with d := b.d, badS := b.badS } b
    ∧ (∀ m, m ≠ n → Table.get 0 m b.d = Table.get 0 m c.st.d)
    ∧ (∀ i < 4, (Table.get 0 n b.d).extractLsb' (64 * i) 64
        = if was i then (Table.get 0 n c.st.d).extractLsb' (64 * i) 64 else f i)
    ∧ ∀ m, m ∈ b.badS ↔ m ∈ c.st.badS ∧ ¬(whole ∧ m = 64 + n)

theorem passedBy_descriptors (c : Issue) : c.passedBy.d = c.st.d ∧ c.passedBy.badS = c.st.badS := by
  unfold Issue.passedBy Issue.count Strand.countRetired Strand.countWindow
  split <;> exact ⟨rfl, rfl⟩

theorem describes_of_quarters (h : clear (.dset g dn a all q) s = some c) {f : Nat → BitVec 64} {whole : Prop} {was : Nat → Bool}
    (hf : ∀ i < 4, (c.quartered dn a all q).extractLsb' (64 * i) 64
      = if was i then (Table.get 0 dn.toNat c.st.d).extractLsb' (64 * i) 64 else f i)
    (hwhole : c.setsWhole all = true ↔ whole) : Describes (.dset g dn a all q) c dn.toNat s f whole was := by
  set x := c.described dn a all q c.st with hx
  obtain ⟨hbd, hbbad⟩ := passedBy_descriptors { c with st := x }
  have hfinish : c.finish (.done (s.adjStrand c.key (c.described dn a all q)))
      = s.setStrand c.key (Issue.passedBy { c with st := x }) := by
    rw [adjStrand_eq_setStrand (clear_strand h), finish_own (x := x) h (strand_setStrand _ _ _) fun _ hp => hp, setStrand_setStrand]
  refine ⟨_, _, hfinish ▸ exec_dset h, fun k hk => strand_setStrand_ne _ _ hk, rfl, strand_setStrand _ _ _, ?_, fun m hm => ?_,
    fun i hi => ?_, fun m => ?_⟩
  · rw [hbd, hbbad]
    exact passedBy_moved { c with st := x }
  · rw [hbd, hx, Issue.described, Table.get_put, if_neg hm]
  · rw [hbd, hx, Issue.described, Table.get_put, if_pos rfl, hf i hi]
  · rw [hbbad, hx, Issue.described, ← hwhole]
    by_cases hset : c.setsWhole all = true <;> simp [hset]

theorem dset_quarter {l : Nat} (h : clear (.dset g dn a false q) s = some c) (hfirst : c.first = some l) :
    Describes (.dset g dn a false q) c dn.toNat s (fun _ => c.pair l a) False fun i => i != q.toNat := by
  refine describes_of_quarters h (fun i hi => ?_) (by simp [Issue.setsWhole])
  simp only [Issue.quartered, hfirst, Bool.not_false, if_true]
  rw [extract_putQuarter _ q.isLt hi]
  by_cases hiq : i = q.toNat <;> simp [hiq]

theorem dset_lanes (h : clear (.dset g dn a true q) s = some c) (hu : c.uniform = false) (hframes : c.frames = false) :
    Describes (.dset g dn a true q) c dn.toNat s (fun i => c.pair i a) (c.active = 15) fun i => !c.active.getLsbD i := by
  refine describes_of_quarters h (fun i hi => ?_) ?_
  · simp only [Issue.quartered, hu, hframes, Bool.not_true, Bool.false_eq_true, if_false, Bool.or_self]
    rw [extract_foldl_putQuarter (fun i => c.pair i a) hi _ fun _ h => mem_lanesIn_lt h]
    simp only [mem_lanesIn, hi, true_and]
    cases c.active.getLsbD i <;> rfl
  · have hdoers : c.doers = lanesIn c.active := by rw [Issue.doers, hu]; rfl
    simp only [Issue.setsWhole, hu, hframes, Bool.or_self, Bool.false_or, Bool.true_and, Bool.and_eq_true, beq_iff_eq,
      and_iff_left_iff_imp]
    intro hall
    rw [Issue.first, hdoers, hall]
    rfl

theorem dset_strand {l : Nat} (h : clear (.dset g dn a true q) s = some c) (hu : c.uniform = true ∨ c.frames = true)
    (hfirst : c.first = some l) : Describes (.dset g dn a true q) c dn.toNat s (fun _ => c.pair l a) True fun _ => false := by
  have hor : (c.uniform || c.frames) = true := by simpa using hu
  refine describes_of_quarters h (fun i hi => ?_) ?_
  · simp only [Issue.quartered, hor, hfirst, Bool.not_true, Bool.false_eq_true, if_false, if_true]
    rw [extract_foldl_putQuarter (fun _ => c.pair l a) hi (upTo 4) fun _ h => List.mem_range.mp h,
      if_pos (show i ∈ upTo 4 from List.mem_range.mpr hi)]
  · simp [Issue.setsWhole, hor, hfirst]

theorem dset_idle (h : clear (.dset g dn a all q) s = some c) (hfirst : c.first = none) :
    Describes (.dset g dn a all q) c dn.toNat s (fun _ => 0) False fun _ => true := by
  refine describes_of_quarters h (fun i hi => ?_) (by simp [Issue.setsWhole, hfirst])
  have hkept : c.quartered dn a all q = Table.get 0 dn.toNat c.st.d := by
    unfold Issue.quartered
    simp only [hfirst]
    split
    · rfl
    split
    · rfl
    next hu =>
      have hdoers : c.doers = lanesIn c.active := by
        rw [Bool.or_eq_true, not_or, Bool.not_eq_true] at hu
        rw [Issue.doers, hu.1]
        rfl
      rw [Issue.first, List.head?_eq_none_iff, hdoers] at hfirst
      rw [hfirst]
      rfl
  rw [hkept, if_pos rfl]

/-! ## The system registers -/

theorem major_sysr (h : issueOf (.sysr g a num) s = some c) : onceMajor c.major = false := by
  rw [(issueOf_strand h).2.2.2.2.2.2.2.2.2.2]
  exact congrArg (fun m : BitVec 7 => onceMajor m.toNat) (Laws.Words.majorOf_word1 0x66 g a.code 0 0)

theorem major_sysw (h : issueOf (.sysw g a num) s = some c) : onceMajor c.major = false := by
  rw [(issueOf_strand h).2.2.2.2.2.2.2.2.2.2]
  exact congrArg (fun m : BitVec 7 => onceMajor m.toNat) (Laws.Words.majorOf_word1 0x67 g 0 a.code 0)

theorem sysRefused {i : Instr} (h : issueOf i s = some c) (hblocked : c.blocked = false) {n : Nat}
    (hn : 0x200 ≤ n ∧ n ≤ 0x23F ∧ c.la.kcnt ≤ n - 0x200) (hprivilege : needsPrivilege i = sysPrivileged n)
    (hcounter : counterOf i = if 0x200 ≤ n && n ≤ 0x23F then some (n - 0x200) else none) (honce : onceMajor c.major = false)
    (body : Issue → State → Act) : issue i s body = .next (trap c.key (c.raise 0x08) s) := by
  obtain ⟨hlo, hhi, hk⟩ := hn
  refine issue_beyond h hblocked ?_ (hcounter.trans (if_pos (by simp [hlo, hhi]))) hk honce body
  rw [hprivilege, sysPrivileged]
  simp
  omega

theorem assigned_sReg {m : Nat} (hm : m < 64) : sysAssigned (0x100 + m) = true :=
  (frameReg_of_inFrame (m := 512 + m) (.inr (by omega))).2

theorem assigned_asidctx {m : Nat} (hm : m < 512) : sysAssigned (0x1000 + m) = true := by
  have : (0x1000 ≤ 0x1000 + m && 0x1000 + m ≤ 0x1202) = true := by simp; omega
  simp only [sysAssigned, this, Bool.or_true, Bool.true_or]

theorem frameReg_outside {n : Nat} (hxi : n ≠ 0x07) (hn : n < 0x100 ∨ 0x13F < n) : frameReg n = none := by
  rw [frameReg, if_neg (by simpa using hxi), if_neg (by simp; omega)]

theorem writeEngdetail_eq (item : Nat) (v : BitVec 64) (s : State) : writeEngdetail item v s =
    if v.getLsbD 0 = true ∧ heldCommands item s ≠ [] then s.adjItem item fun it => { it with cancel := true } else s := by
  simp only [writeEngdetail, Bool.and_eq_true, bne_iff_ne]

theorem writeTlbicmd_idle {v : BitVec 64} (s : State) (hgo : v.getLsbD 63 = false) :
    writeTlbicmd v s = { s with tlbi := { s.tlbi with cmd := v &&& 0x3F1FF007 } } := by
  rw [writeTlbicmd, tlbicmd_kept, bitOf_toNat, hgo]
  rfl

theorem sysw_writes (l : Nat) (h : clear (.sysw g a num) s = some c) (hfirst : c.first = some l) {n : Nat} (hn : num.toNat = n)
    (hassigned : sysAssigned n = true) (hsettled : n = 0x1A ∨ n = 0x1C → c.st.pend = [])
        (hshared : c.crew = none ∨ frameReg n = none) :
    WritesSys c s g a num l := ⟨h, hn ▸ hassigned, hfirst, hn ▸ hsettled, hn ▸ hshared⟩

end

/-- Settles O40: a lemma for each kind of register. -/
theorem systemRegistersComplete : Obligations.SystemRegistersComplete := by
  unfold Obligations.SystemRegistersComplete
  intro g d a num s c
  refine ⟨fun ⟨hlo, hhi, hk⟩ hblocked => ⟨fun h => ?_, fun h => ?_⟩,
      fun h => ⟨fun hn => ⟨_, rfl, rfl, sysr_unassigned h hn⟩, ?_, ?_, ?_⟩,
    fun h => ⟨fun hn => ⟨_, rfl, rfl, sysw_unassigned h hn⟩, sysw_idle h, fun l hfirst => ?_⟩,
    fun dn all q h => ⟨?_, ?_, ?_, dset_idle h⟩⟩
  · exact sysRefused h hblocked ⟨hlo, hhi, hk⟩ rfl rfl (major_sysr h) _
  · exact sysRefused h hblocked ⟨hlo, hhi, hk⟩ rfl rfl (major_sysw h) _
  · exact fun v hv hcrew hcapture hreplay => sysr_retires h hcapture hreplay (gives_of_table hcrew hv)
  · exact fun seat r hn hcrew hr => sysr_crewIdx h hn hcrew hr
  · exact fun m hcrew hm => sysr_frame h hcrew hm
  · have writes := fun n => sysw_writes (n := n) l h hfirst
    refine ⟨fun hn hcrew => sysw_xi (writes _ hn rfl (by simp) (.inl hcrew)) hn, fun m hcrew hm => sysw_frame h hfirst hcrew hm,
      fun hn => sysw_oplogst (writes _ hn rfl (by simp) (.inr rfl)) hn,
      fun hn hpend => sysw_fstat (writes _ hn rfl (fun _ => hpend) (.inr rfl)) hn,
      fun hn hpend => sysw_poison (writes _ hn rfl (fun _ => hpend) (.inr rfl)) hn,
      fun hn ⟨p, hp, hopen⟩ => sysw_waits h hn hfirst (List.any_eq_true.mpr ⟨p, hp, hopen⟩), fun hn => ?_, fun hn => ?_,
          fun m hm hn hcrew => ?_, fun m hm hn => ?_,
      fun hn => ?_, fun hn hgo => ?_, fun hn => ?_, fun hn => ?_, fun hassigned hn hrange => ?_⟩
    · refine sysw_beside (writes _ hn rfl (by simp) (.inr rfl)) hn (by split <;> rfl) ?_
      rw [sysOperand_wide rfl]
      exact writeEngdetail_eq _ _ _
    · refine sysw_beside (writes _ hn rfl (by simp) (.inr rfl)) hn rfl ?_
      rw [sysOperand_wide rfl]
      rfl
    · exact sysw_sReg hm hn (writes _ hn (assigned_sReg hm) (by omega) (.inl hcrew))
    · exact sysw_asidctx hm hn (writes _ hn (assigned_asidctx hm) (by omega) (.inr (frameReg_outside (by omega) (by omega))))
    · exact sysw_beside (writes _ hn rfl (by simp) (.inr rfl)) hn rfl (by rw [sysOperand_wide rfl]; rfl)
    · refine sysw_beside (writes _ hn rfl (by simp) (.inr rfl)) hn rfl ?_
      rw [sysOperand_wide rfl]
      exact writeTlbicmd_idle s hgo
    · exact sysw_beside (writes _ hn rfl (by simp) (.inr rfl)) hn rfl (by rw [sysOperand_wide rfl]; rfl)
    · exact sysw_beside (writes _ hn rfl (by simp) (.inr rfl)) hn rfl (by rw [sysOperand_wide rfl]; rfl)
    · simp only [List.mem_cons, not_or] at hn
      refine sysw_beside (writes _ rfl hassigned ?_ (.inr (frameReg_outside hn.1 (by omega)))) rfl rfl (sysWrite_readOnly ?_ hrange _)
      · omega
      · simpa using hn
  · rintro l rfl hfirst
    exact dset_quarter h hfirst
  · rintro rfl hu hframes
    exact dset_lanes h hu hframes
  · rintro l rfl hu hfirst
    exact dset_strand h hu hfirst

end Sys2Proof.Machine
end


section
/-! Engine programs and guard slots (R253 to R255, R381). -/

namespace Sys2Proof.Machine

/-! ## Tables cut at a number -/

theorem Map.find_filter_key {α : Type} (keep : Nat → Bool) {k : Nat} (hk : keep k = true) (m : Map α) :
    Map.find k (m.filter fun x => keep x.1) = Map.find k m := by
  induction m with
  | nil => rfl
  | cons x m ih =>
    obtain ⟨j, v⟩ := x
    by_cases hjk : j = k
    · rw [List.filter_cons_of_pos (by rw [hjk]; exact hk), Map.find, Map.find, if_pos hjk, if_pos hjk]
    · rw [List.filter_cons]
      split
      · rw [Map.find, Map.find, if_neg hjk, if_neg hjk, ih]
      · rw [ih, Map.find, if_neg hjk]

theorem get_filter_below {α : Type} (d : α) {n bound : Nat} (hn : n < bound) (t : Table α) :
    Table.get d n (t.filter fun x => x.1 < bound) = Table.get d n t :=
  congrArg (·.getD d) (Map.find_filter_key (fun j => decide (j < bound)) (by simpa using hn) t)

/-! ## FORK (R253, R381) -/

section
variable {c : Issue} {s : State} {g : Guard} {e : EngineKind} {a d : Opnd} {k : BitVec 6}

/-- The segment of an entry is landed. -/
def Issue.landedAt (c : Issue) (s : State) (entry : Nat) : Bool :=
  match c.seg s (entry / 4096) with
  | some x => x.state == 2
  | none => false

/-- A program of the item runs on an engine. -/
def Issue.forked (c : Issue) (n : Nat) : Bool :=
  match Map.find n c.it.progs with
  | some p => p.running
  | none => false

theorem landedAt_iff (entry : Nat) : c.landedAt s entry = true
    ↔ ∃ x, Map.find (entry / 4096) (s.heldAt c.it.tile c.it.launch).segs = some x ∧ x.state = 2 := by
  unfold Issue.landedAt
  split
  next x hx => simp only [Issue.seg] at hx; simp [hx]
  next hx => simp only [Issue.seg] at hx; simp [hx]

theorem forked_iff (n : Nat) : c.forked n = true ↔ ∃ p, Map.find n c.it.progs = some p ∧ p.running = true := by
  unfold Issue.forked
  split
  next p hp => simp [hp]
  next hp => simp [hp]

/-- The program that FORK starts. -/
def Issue.program (c : Issue) (id entry k : Nat) : EngineProg :=
  { id := id, running := true, ending := false, pc := entry, left := 0, guarded := false
    v := (c.st.lanes.get c.elect).v.filter fun x => x.1 < 64, d := c.st.d, k := k, strand := c.key
    lane := c.elect, status := 0, retcnt := c.st.retcnt.toNat }

/-- The state in which FORK leaves its strand. -/
def Issue.forkedState (c : Issue) (e : EngineKind) (entry k : Nat) (s : State) : State :=
  ((commandIssued c s.nextId k { s with nextId := s.nextId + 1 }).adjItem c.st.item fun it =>
    { it with progs := Map.insert e.code.toNat (c.program s.nextId entry k) it.progs }).later (.engineProgramEnd c.st.item e)

theorem exec_fork (h : clear (.fork g e a k) s = some c) : exec (.fork g e a k) s = .next (c.finish
    (if !c.once then .done s
    else if !c.landedAt s (c.target a c.elect) then
      .trap { c.raise 0x0A c.electedMask with info1 := c.segInfo s (c.target a c.elect / 4096) } s
    else if c.forked e.code.toNat then .wait .engine s
    else .done (c.forkedState e (c.target a c.elect) k.toNat s))) := issue_clear h _

theorem commandIssued_item {id n : Nat} {it : Item} (hit : Map.find c.st.item s.items = some it) :
    ∃ it', Map.find c.st.item (commandIssued c id n s).items = some it' := by
  have hitems : (l1Publish c.it.tile s).items = s.items := by rw [(l1Publish_alone c.it.tile s).touched.rest]
  unfold commandIssued
  dsimp only
  split
  · exact ⟨_, find_adjItem (by rw [hitems]; exact hit) _ _⟩
  · exact ⟨it, by rw [hitems]; exact hit⟩

theorem fork_starts (h : clear (.fork g e a k) s = some c) (honce : c.once = true)
    (hlanded : c.landedAt s (c.target a c.elect) = true) (hfree : c.forked e.code.toNat = false) :
    ∃ u, Does (.fork g e a k) c {} s u ∧ u.strands = s.strands ∧ u.held = s.held
      ∧ u.launches = s.launches ∧ u.plan = s.plan ++ [.event (.engineProgramEnd c.st.item e)]
      ∧ ∃ it p, Map.find c.st.item u.items = some it ∧ Map.find e.code.toNat it.progs = some p ∧ p.running = true
        ∧ p.ending = false ∧ p.pc = c.target a c.elect ∧ p.left = 0 ∧ p.status = 0 ∧ p.k = k.toNat ∧ p.d = c.st.d
        ∧ ∀ n < 64, Table.get 0 n p.v = Table.get 0 n (c.st.lanes.get c.elect).v := by
  have hrest := commandIssued_rest c s.nextId k.toNat { s with nextId := s.nextId + 1 }
  have hstrands := (commandIssued_strands c s.nextId k.toNat { s with nextId := s.nextId + 1 }).1
  obtain ⟨it, hit⟩ := commandIssued_item (c := c) (s := { s with nextId := s.nextId + 1 }) (id := s.nextId) (n := k.toNat)
    (issueOf_strand (ready_issueOf (clear_ready h)).1).2.2.2.1
  have hexec := exec_fork h
  simp only [honce, hlanded, hfree, Bool.not_true, Bool.false_eq_true, if_false] at hexec
  have hstarted := (find_adjItem hit c.st.item fun it =>
    { it with progs := Map.insert e.code.toNat (c.program s.nextId (c.target a c.elect) k.toNat) it.progs }).trans
    (congrArg some (if_pos rfl))
  refine ⟨c.forkedState e (c.target a c.elect) k.toNat s, does_of_done h hstrands hexec, hstrands, hrest.held, hrest.launches,
    congrArg (· ++ _) hrest.plan, _, c.program s.nextId (c.target a c.elect) k.toNat, hstarted, Map.find_insert_self _ _ _,
    rfl, rfl, rfl, rfl, rfl, rfl, rfl, fun n hn => get_filter_below 0 hn _⟩

/-! ## RDV (R254) -/

theorem exec_rdv (h : clear (.rdv g d e) s = some c) {p : EngineProg} (hp : Map.find e.code.toNat c.it.progs = some p) :
    exec (.rdv g d e) s
      = .next (c.finish (if p.running then .wait .engine s else c.put d (fun _ => BitVec.ofNat 32 p.status) s)) := by
  change execRdv g d e s = _
  unfold execRdv
  rw [issue_clear h]
  simp only [hp]

theorem rdv_idle (h : clear (.rdv g d e) s = some c) (hp : Map.find e.code.toNat c.it.progs = none) :
    Retires (.rdv g d e) c (c.writes fun _ => [(c.index d, 0)]) s := by
  refine ⟨_, ?_, put_retired h d fun _ => 0⟩
  change execRdv g d e s = _
  unfold execRdv
  rw [issue_clear h]
  simp only [hp]

end

/-! ## The end of a program (R253, R382) -/

section
variable {s : State} {item : Nat} {e : EngineKind} {it : Item} {p : EngineProg}

theorem runProgram_ending {n : Nat} (hit : Map.find item s.items = some it) (hp : Map.find n it.progs = some p)
    (hending : p.ending = true) (fuel : Nat) : runProgram item n fuel s = s := by
  have hstep : progStep item n s = .stop s := by
    unfold progStep
    simp only [hit, hp]
    cases Map.find it.launch s.launches <;> simp [hending]
  cases fuel with
  | zero => rfl
  | succ fuel => rw [runProgram, hstep]

/-- The state in which a program has ended. -/
def programEnded (item : Nat) (e : EngineKind) (it : Item) (p : EngineProg) (s : State) : State :=
  retireIfOver item (countEnd it.tile it.launch item p.id p.k (adjProg item e.code.toNat (fun p => { p with running := false }) s))

theorem exec_engineProgramEnd (hit : Map.find item s.items = some it) (htile : it.tile < 768)
    (hp : Map.find e.code.toNat it.progs = some p) (hrunning : p.running = true) (hending : p.ending = true)
    (hidle : ∀ x ∈ engineCommands s it item e.code.toNat, x.program = false) :
    exec (.engineProgramEnd item e) s = .next (programEnded item e it p s) := by
  have hall : (engineCommands s it item e.code.toNat).all (fun c => !c.program) = true :=
    List.all_eq_true.mpr fun x hx => by simp [hidle x hx]
  change execEngineProgramEnd item e s = _
  unfold execEngineProgramEnd
  simp only [hit, htile, decide_true, if_true, runProgram_ending hit hp hending, hp, hrunning, hending, hall, Bool.not_true,
    Bool.false_eq_true, if_false, Bool.and_self]
  rfl

theorem countEnd_strands (tile launch item id k : Nat) (s : State) : (countEnd tile launch item id k s).strands = s.strands := by
  have hdown : (countDown tile launch k s).strands = s.strands := by rw [countDown_rest]
  unfold countEnd
  split
  · split
    · rfl
    · exact hdown
  · exact hdown

theorem countEnd_item {x : Item} (hx : Map.find item s.items = some x) (tile launch id k : Nat) :
    ∃ y, Map.find item (countEnd tile launch item id k s).items = some y ∧ y.progs = x.progs := by
  unfold countEnd
  simp only [hx]
  split
  · exact ⟨_, find_adjItem hx _ _, by rw [if_pos rfl]⟩
  · exact ⟨x, by rw [countDown_rest]; exact hx, rfl⟩

theorem find_adjProg (hit : Map.find item s.items = some it) (n : Nat) (f : EngineProg → EngineProg) :
    Map.find item (adjProg item n f s).items = some { it with progs := Map.adjust n f it.progs } :=
  (find_adjItem hit _ _).trans (congrArg some (if_pos rfl))

theorem programEnded_strands : (programEnded item e it p s).strands = s.strands := by
  rw [programEnded, (retireIfOver_plans _ _).strands, countEnd_strands]
  rfl

theorem programEnded_item (hit : Map.find item s.items = some it) (hp : Map.find e.code.toNat it.progs = some p) :
    ∃ it', Map.find item (programEnded item e it p s).items = some it'
      ∧ Map.find e.code.toNat it'.progs = some { p with running := false } := by
  obtain ⟨y, hy, hprogs⟩ := countEnd_item (s := adjProg item e.code.toNat (fun p => { p with running := false }) s)
      (find_adjProg hit _ _)
    it.tile it.launch p.id p.k
  refine ⟨y, ?_, ?_⟩
  · rw [programEnded, (retireIfOver_plans _ _).rest]
    exact hy
  · rw [hprogs, Map.find_adjust_self, hp]
    rfl

theorem programEnded_counter (hit : Map.find item s.items = some it) (hdeferred : ∀ x ∈ it.deferred, x.id ≠ p.id) {h : TileLaunch}
    (hheld : Map.find (heldKey it.tile it.launch) s.held = some h) :
    (counterAt (programEnded item e it p s) it.tile it.launch p.k).toInt
      = max (-(2 ^ 31)) ((counterAt s it.tile it.launch p.k).toInt - 1) := by
  rw [programEnded, (retireIfOver_plans _ _).enginesStand.counterAt, countEnd_undeferred (find_adjProg hit _ _) hdeferred]
  exact counterAt_countDown (s := adjProg item e.code.toNat (fun p => { p with running := false }) s) hheld p.k

end

end Sys2Proof.Machine
end


section
/-! Guard slots and the commands that they hold (R255). -/

namespace Sys2Proof.Machine

/-! ## Slots -/

section
variable {s : State} {tile launch n : Nat}

theorem guardAt_setGuard {h : TileLaunch} (hheld : Map.find (heldKey tile launch) s.held = some h) (x j : Nat) :
    guardAt (setGuard tile launch n x s) tile launch j = if j = n then x else guardAt s tile launch j := by
  simp only [guardAt, setGuard, State.heldAt, State.adjHeld, Map.find_adjust_self, hheld, Option.map_some, Option.getD_some,
    Table.get_put]

theorem guardAt_of_held {t : State} (h : t.held = s.held) (tile launch j : Nat) : guardAt t tile launch j
    = guardAt s tile launch j := by
  simp only [guardAt, State.heldAt, h]

/-- A slot that is not EMPTY is one of a launch that holds something on the tile. -/
theorem held_of_guardAt (h : guardAt s tile launch n ≠ 0) : ∃ x, Map.find (heldKey tile launch) s.held = some x := by
  cases hheld : Map.find (heldKey tile launch) s.held with
  | some x => exact ⟨x, rfl⟩
  | none => exact absurd (by simp only [guardAt, State.heldAt, hheld]; rfl) h

theorem guards_setCounter (k : Nat) (x : BitVec 32) (tile' launch' : Nat) :
    ((setCounter tile launch k x s).heldAt tile' launch').guards = (s.heldAt tile' launch').guards := by
  have hheld : (setCounter tile launch k x s).held
      = Map.adjust (heldKey tile launch) (fun h => { h with counters := Table.put 0 k x h.counters }) s.held := by
    rw [(setCounter_plans tile launch k x s).rest]
    rfl
  simp only [State.heldAt, hheld, Map.find_adjust]
  split
  next hkey => rw [hkey]; cases Map.find (heldKey tile launch) s.held <;> rfl
  next => rfl

end

/-! ## GRES -/

section
variable {c : Issue} {s : State} {g : Guard} {slot : BitVec 4} {neg : Bool} {p : BitVec 3}

/-- The state in which GRES leaves its strand. -/
def Issue.resolved (c : Issue) (slot x : Nat) (s : State) : State :=
  ((setGuard c.it.tile c.it.launch slot x (l1Publish c.it.tile s)).adjHeld c.it.tile c.it.launch fun h =>
    { h with resolvers := Table.put 0 slot c.st.item h.resolvers }).later (.guardedCommandRelease c.it.tile c.it.launch slot)

theorem exec_gres (h : clear (.gres g slot neg p) s = some c) : exec (.gres g slot neg p) s = .next (c.finish
    (if !c.once then .done s
    else if guardAt s c.it.tile c.it.launch slot.toNat != slotEmpty then .wait .engine s
    else .done (c.resolved slot.toNat (if (c.st.lanes.get c.elect).pred p != neg then slotTrue else slotFalse) s))) :=
  issue_clear h _

theorem guardAt_resolved {h : TileLaunch} (hheld : Map.find (heldKey c.it.tile c.it.launch) s.held = some h) (n x j : Nat) :
    guardAt (c.resolved n x s) c.it.tile c.it.launch j = if j = n then x else guardAt s c.it.tile c.it.launch j := by
  have hpublish : (l1Publish c.it.tile s).held = s.held := by rw [(l1Publish_alone c.it.tile s).touched.rest]
  rw [← guardAt_of_held hpublish, ← guardAt_setGuard (hpublish ▸ hheld)]
  unfold Issue.resolved guardAt setGuard State.heldAt
  simp only [State.later, State.adjHeld, Map.find_adjust_self, hpublish, hheld, Option.map_some, Option.getD_some]

theorem gres_resolves (h : clear (.gres g slot neg p) s = some c) {x : TileLaunch}
    (hheld : Map.find (heldKey c.it.tile c.it.launch) s.held = some x) (honce : c.once = true)
    (hempty : guardAt s c.it.tile c.it.launch slot.toNat = 0) :
    ∃ u, Does (.gres g slot neg p) c {} s u ∧ u.strands = s.strands ∧ u.items = s.items
      ∧ guardAt u c.it.tile c.it.launch slot.toNat = (if (c.st.lanes.get c.elect).pred p != neg then 1 else 2)
      ∧ (∀ j, j ≠ slot.toNat → guardAt u c.it.tile c.it.launch j = guardAt s c.it.tile c.it.launch j)
      ∧ u.plan = s.plan ++ [.event (.guardedCommandRelease c.it.tile c.it.launch slot.toNat)] := by
  have hexec := exec_gres h
  simp only [honce, hempty, Bool.not_true, Bool.false_eq_true, if_false, slotEmpty, bne_self_eq_false] at hexec
  have hrest := (l1Publish_alone c.it.tile s).touched.rest
  have hstrands : (l1Publish c.it.tile s).strands = s.strands := by rw [hrest]
  refine ⟨c.resolved slot.toNat _ s, does_of_done h hstrands hexec, hstrands, show (l1Publish c.it.tile s).items
      = s.items by rw [hrest], ?_, fun j hj => ?_,
    congrArg (· ++ _) (show (l1Publish c.it.tile s).plan = s.plan by rw [hrest])⟩
  · rw [guardAt_resolved hheld, if_pos rfl]
    rfl
  · rw [guardAt_resolved hheld, if_neg hj]

end

/-! ## Held commands -/

/-- The queue of an engine: of the copy engine and the array on a tile, of the routing engine on its die. -/
def engineQueue (tile n : Nat) (t : State) : List Command :=
  if n = 0 then (t.tile tile).copies else if n = 1 then (t.tile tile).array else (t.die (dieOf tile)).routes

section
variable {s t : State} {tile n : Nat}

theorem EnginesStand.engineQueue (h : EnginesStand s t) (tile n : Nat) : engineQueue tile n t = engineQueue tile n s := by
  simp only [Machine.engineQueue, h.tile, h.die]

theorem kickEngine_plans (tile n item : Nat) (s : State) : Plans s (kickEngine tile n item s) := by
  unfold kickEngine
  split
  · exact later_plans _ s
  split
  · exact arrayNext_plans _ _ s
  · exact later_plans _ s

/-- A queue after the command of a number in it has been let go on, or taken out. -/
def resolvedQueue (id : Nat) (keep : Bool) (q : List Command) : List Command :=
  if keep then q.map fun e => if e.id == id then { e with guardSlot := none } else e else q.filter fun e => e.id != id

theorem engineQueue_resolveHeld (hn : n < 3) (id : Nat) (keep : Bool) (s : State) :
    engineQueue tile n (resolveHeld tile n id keep s) = resolvedQueue id keep (engineQueue tile n s) := by
  interval_cases n
  · exact congrArg Tile.copies ((tile_setTile s tile tile _).trans (if_pos rfl))
  · exact congrArg Tile.array ((tile_setTile s tile tile _).trans (if_pos rfl))
  · exact congrArg Die.routes ((die_setDie s (dieOf tile) (dieOf tile) _).trans (if_pos rfl))

theorem held_resolveHeld (tile n id : Nat) (keep : Bool) (s : State) : (resolveHeld tile n id keep s).held = s.held := by
  unfold resolveHeld
  dsimp only
  split
  · rfl
  · split <;> rfl

theorem guardSlot_of_kept {id : Nat} {q : List Command} {x : Command} (hx : x ∈ resolvedQueue id true q) (hid : x.id = id) :
    x.guardSlot = none := by
  obtain ⟨y, -, rfl⟩ := List.mem_map.mp hx
  by_cases hy : y.id = id
  · rw [if_pos (beq_iff_eq.mpr hy)]
  · rw [if_neg (by simpa using hy)] at hid
    exact absurd hid hy

theorem id_of_taken {id : Nat} {q : List Command} {x : Command} (hx : x ∈ resolvedQueue id false q) : x.id ≠ id := by
  simpa using (List.mem_filter.mp hx).2

/-- The context of a discarded command, closed or free again. -/
def discardedCtx (tile engine : Nat) (e : Command) (s : State) : State :=
  if engine == 2 && isCount e.op then closeCtx (dieOf tile) e.launch e.value.toNat s
  else if engine == 2 && isDisp e.op then adjCtx (dieOf tile) e.launch e.value.toNat (fun x => { x with dispIssued := false }) s
  else s

theorem held_discardedCtx (tile engine : Nat) (e : Command) (s : State) : (discardedCtx tile engine e s).held = s.held := by
  unfold discardedCtx
  split
  · rfl
  split
  · rw [adjCtx_rest]
  · rfl

/-- The end of a command counted: the tiles and dies stand, and the guard slots. -/
theorem countEnd_queues (tile' launch item id k : Nat) (s : State) :
    engineQueue tile n (countEnd tile' launch item id k s) = engineQueue tile n s
      ∧ ∀ x y j, guardAt (countEnd tile' launch item id k s) x y j = guardAt s x y j := by
  have hdown : engineQueue tile n (countDown tile' launch k s) = engineQueue tile n s
      ∧ ∀ x y j, guardAt (countDown tile' launch k s) x y j = guardAt s x y j := by
    refine ⟨?_, fun _ _ j => congrArg (Table.get slotEmpty j) (guards_setCounter _ _ _ _)⟩
    simp only [engineQueue, countDown_die, (countDown_kept tile' launch k s).2]
  unfold countEnd
  split
  · split
    · exact ⟨rfl, fun _ _ _ => rfl⟩
    · exact hdown
  · exact hdown

theorem discardCommand_takes (hn : n < 3) (e : Command) (s : State) :
    engineQueue tile n (discardCommand tile n e s) = resolvedQueue e.id false (engineQueue tile n (discardedCtx tile n e s))
      ∧ ∀ tile' launch j, guardAt (discardCommand tile n e s) tile' launch j = guardAt s tile' launch j := by
  set v := resolveHeld tile n e.id false (discardedCtx tile n e s)
  set w := countEnd tile e.launch e.item e.id (commandCounter e) v
  have hstands : EnginesStand w (discardCommand tile n e s) :=
    (kickEngine_plans tile n e.item w).enginesStand.trans (afterCommand_enginesStand _ _ _)
  obtain ⟨hqueue, hguards⟩ := countEnd_queues (tile := tile) (n := n) tile e.launch e.item e.id (commandCounter e) v
  refine ⟨?_, fun tile' launch j => ?_⟩
  · rw [hstands.engineQueue, hqueue, engineQueue_resolveHeld hn]
  · rw [guardAt_of_held hstands.held, hguards, guardAt_of_held (held_resolveHeld _ _ _ _ _),
        guardAt_of_held (held_discardedCtx _ _ _ _)]

/-- The oldest held command that names a resolved slot goes on, or is discarded. -/
theorem guardedCommandRelease_consumes {launch slot : Nat} {e : Command} (hguard : guardAt s tile launch slot ≠ 0) (hn : n < 3)
    (hfind : ((heldGuarded tile launch s).find? fun x => x.2.guardSlot == some slot) = some (n, e)) :
    ∃ t, exec (.guardedCommandRelease tile launch slot) s = .next t ∧ guardAt t tile launch slot = 0
      ∧ (guardAt s tile launch slot = 1 → ∀ x ∈ engineQueue tile n t, x.id = e.id → x.guardSlot = none)
      ∧ (guardAt s tile launch slot ≠ 1 → ∀ x ∈ engineQueue tile n t, x.id ≠ e.id) := by
  obtain ⟨h, hheld⟩ := held_of_guardAt hguard
  set u := setGuard tile launch slot slotEmpty s
  have hempty : guardAt u tile launch slot = 0 := (guardAt_setGuard hheld _ _).trans (if_pos rfl)
  have hexec : exec (.guardedCommandRelease tile launch slot) s
      = if guardAt s tile launch slot == slotTrue then .next (kickEngine tile n e.item (resolveHeld tile n e.id true u))
        else .next (discardCommand tile n e u) := by
    have hfull : (guardAt s tile launch slot == slotEmpty) = false := by simpa [slotEmpty] using hguard
    change execGuardedCommandRelease tile launch slot s = _
    unfold execGuardedCommandRelease
    simp only [hfull, Bool.false_eq_true, if_false, hfind]
    rfl
  by_cases htrue : guardAt s tile launch slot = 1
  · have hstands := (kickEngine_plans tile n e.item (resolveHeld tile n e.id true u)).enginesStand
    refine ⟨_, hexec.trans (if_pos (by simpa [slotTrue] using htrue)), ?_, fun _ x hx hid => ?_, fun hnot => absurd htrue hnot⟩
    · rw [guardAt_of_held hstands.held, guardAt_of_held (held_resolveHeld _ _ _ _ _), hempty]
    · rw [hstands.engineQueue, engineQueue_resolveHeld hn] at hx
      exact guardSlot_of_kept hx hid
  · obtain ⟨hqueue, hguards⟩ := discardCommand_takes (tile := tile) hn e u
    refine ⟨_, hexec.trans (if_neg (by simpa [slotTrue] using htrue)), by rw [hguards, hempty], fun h => absurd h htrue,
        fun _ x hx => ?_⟩
    rw [hqueue] at hx
    exact id_of_taken hx

end

/-- Settles O32: FORK, RDV and GRES each by their cases, and the end of a program and of a held command. -/
theorem engineProgramsAndGuardsComplete : Obligations.EngineProgramsAndGuardsComplete := by
  unfold Obligations.EngineProgramsAndGuardsComplete
  refine ⟨⟨fun g e a k s c h => ⟨fun honce => ?_, fun honce hlanded => ?_, fun honce hlanded hbusy => ?_,
    fun honce hlanded hbusy => ?_⟩, fun g d e s c h => ⟨rdv_idle h, fun p hp => ⟨fun hrunning => ?_, fun hrunning => ?_⟩⟩,
    fun item e s it p hit htile hp hrunning hending hidle => ?_⟩, fun g slot neg p s c x h hheld => ⟨fun honce => ?_,
    fun honce hfull => ?_, gres_resolves h hheld⟩, fun tile launch slot n s e hguard _ hn hfind =>
      guardedCommandRelease_consumes hguard hn hfind⟩
  · refine retires_of_done h ((exec_fork h).trans ?_)
    rw [honce]
    rfl
  · rw [← landedAt_iff, Bool.not_eq_true] at hlanded
    refine ⟨c.segInfo s (c.target a c.elect / 4096), (exec_fork h).trans ?_⟩
    rw [honce, show c.landedAt s (c.target a c.elect) = false from hlanded]
    rfl
  · rw [← landedAt_iff] at hlanded
    rw [← forked_iff] at hbusy
    refine (exec_fork h).trans ?_
    rw [honce, show c.landedAt s (c.target a c.elect) = true from hlanded, hbusy]
    rfl
  · rw [← landedAt_iff] at hlanded
    rw [← forked_iff, Bool.not_eq_true] at hbusy
    exact fork_starts h honce hlanded hbusy
  · refine (exec_rdv h hp).trans ?_
    rw [hrunning]
    rfl
  · refine ⟨_, (exec_rdv h hp).trans ?_, put_retired h d fun _ => BitVec.ofNat 32 p.status⟩
    rw [hrunning]
    rfl
  · exact ⟨_, exec_engineProgramEnd hit htile hp hrunning hending hidle, programEnded_strands, programEnded_item hit hp,
      fun hdeferred x hheld => programEnded_counter hit hdeferred hheld⟩
  · refine retires_of_done h ((exec_gres h).trans ?_)
    rw [honce]
    rfl
  · refine (exec_gres h).trans ?_
    rw [honce, if_neg (by simp), if_pos (by simpa [slotEmpty] using hfull)]
    rfl

end Sys2Proof.Machine
end


section
/-! Memory accesses of a strand (R217 to R222, R228): LD, ST and the atomics as one access of the active lanes, and the
checks of R220 that it passes first. -/

namespace Sys2Proof.Machine

/-! ## The instructions -/

theorem address_eq_reaches (c : Issue) (sp : Space) (l : Nat) (a : Opnd) (e : Int) : c.address sp l a e = c.reaches sp a e l := by
  unfold Issue.address Issue.reaches lowBits
  norm_num

/-- The active lanes with their addresses and operands. -/
def Issue.entries (c : Issue) (ea f g : Nat → Nat) : List LogLane := (lanesIn c.active).map fun l => ⟨l, ea l, f l, g l⟩

theorem mem_entries {c : Issue} {ea f g : Nat → Nat} {x : LogLane} :
    x ∈ c.entries ea f g ↔ ∃ l < 4, c.active.getLsbD l = true ∧ x = ⟨l, ea l, f l, g l⟩ := by
  simp only [Issue.entries, List.mem_map, mem_lanesIn, and_assoc]
  exact exists_congr fun l => and_congr_right fun _ => and_congr_right fun _ => eq_comm

section
variable {c : Issue} {s : State}

theorem exec_ld {g : Guard} {la : BitVec 4} {m : MemMod} {ty : Ty} {d a : Opnd} {disp : BitVec 16}
    (h : clear (.ld g la m ty d a disp) s = some c) : exec (.ld g la m ty d a disp) s
      = .next (c.finish (c.access (loadAccess la m ty d)
        (c.entries (c.reaches m.space a disp.toInt) (fun _ => 0) fun _ => 0) s)) := by
  change execLd g la m ty d a disp s = _
  unfold execLd
  rw [issue_clear h]
  simp only [address_eq_reaches]
  rfl

theorem exec_st {g : Guard} {la : BitVec 4} {m : MemMod} {ty : Ty} {a b : Opnd} {disp : BitVec 16}
    (h : clear (.st g la m ty a b disp) s = some c) : exec (.st g la m ty a b disp) s
      = .next (c.finish (c.access (storeAccess la m ty)
        (c.entries (c.reaches m.space a disp.toInt) (fun l => c.value ty.isPair l b % 256 ^ tyBytes ty) fun _ => 0) s)) := by
  change execSt g la m ty a b disp s = _
  unfold execSt
  rw [issue_clear h]
  simp only [address_eq_reaches]
  rfl

theorem natCast_toNat (la : BitVec 4) : ((la.toNat : Nat) : BitVec 4) = la := by simp

theorem exec_atomic_of_parts {i : Instr} {op : AtomOp} {la : BitVec 4} {m : MemMod} {w : Bool} {d a b : Opnd} {disp : BitVec 15}
    (h : clear i s = some c) (hexec : exec i s = issue i s (atomic op la m w d a b disp)) (hla : lookahead i = la.toNat) :
    exec i s = .next (c.finish (c.access (atomAccess op (lookahead i) m w d)
      (c.entries (c.reaches m.space a disp.toInt) (fun l => c.value w l b) fun l => c.value w l d) s)) := by
  rw [hexec, issue_clear h, atomic]
  simp only [address_eq_reaches, hla, natCast_toNat]
  rfl

/-- Every atomic is one access of the active lanes. -/
theorem exec_atomic {i : Instr} {op : AtomOp} {m : MemMod} {w : Bool} {d a b : Opnd} {e : Int}
    (hparts : atomParts i = some (op, m, w, d, a, b, e)) (h : clear i s = some c) :
    exec i s = .next (c.finish (c.access (atomAccess op (lookahead i) m w d)
      (c.entries (c.reaches m.space a e) (fun l => c.value w l b) fun l => c.value w l d) s)) := by
  unfold atomParts at hparts
  split at hparts
  case h_16 => cases hparts
  all_goals
    cases hparts
    exact exec_atomic_of_parts h rfl rfl

end

/-! ## The checks of R220 -/

theorem getLsbD_laneMask (ls : List LogLane) {l : Nat} (hl : l < 4) : (laneMask ls).getLsbD l = true ↔ ∃ x ∈ ls, x.lane = l := by
  rw [laneMask, getLsbD_maskOf _ hl]
  simp

theorem accessRaise_fields (c : Issue) (x : Access) (code : Nat) (bad : List LogLane) :
    (c.accessRaise x code bad).code = code ∧ (c.accessRaise x code bad).pc = c.pc
      ∧ (c.accessRaise x code bad).mask = laneMask bad := by
  unfold Issue.accessRaise
  cases bad with
  | nil => exact ⟨rfl, rfl, rfl⟩
  | cons l bad =>
    dsimp only
    split <;> exact ⟨rfl, rfl, rfl⟩

section
variable {c : Issue} {s : State} {x : Access} {ls : List LogLane}

/-- What one check turns down. -/
def turnedDown (ls : List LogLane) (k : Nat × (Nat → Bool)) : Option (Nat × List LogLane) :=
  if (ls.filter fun l => k.2 l.addr) = [] then none else some (k.1, ls.filter fun l => k.2 l.addr)

theorem accessFails_eq : c.accessFails s x ls = (c.accessChecks s x).findSome? (turnedDown ls) := by
  unfold Issue.accessFails turnedDown
  congr 1
  funext k
  cases ls.filter fun l => k.2 l.addr <;> rfl

theorem turnedDown_none {k : Nat × (Nat → Bool)} (h : ∀ l ∈ ls, k.2 l.addr = false) : turnedDown ls k = none :=
  if_pos (List.filter_eq_nil_iff.mpr fun l hl => by simp [h l hl])

theorem turnedDown_some {k : Nat × (Nat → Bool)} (h : ∃ l ∈ ls, k.2 l.addr = true) :
    turnedDown ls k = some (k.1, ls.filter fun l => k.2 l.addr) := by
  obtain ⟨l, hl, hk⟩ := h
  exact if_neg (List.ne_nil_of_mem (List.mem_filter.mpr ⟨hl, hk⟩))

/-- The first check that some lane fails, after checks that no lane fails. -/
theorem accessFails_of_check {pre post : List (Nat × (Nat → Bool))} {k : Nat × (Nat → Bool)}
    (hchecks : c.accessChecks s x = pre ++ k :: post) (hpre : ∀ j ∈ pre, ∀ l ∈ ls, j.2 l.addr = false)
    (hbad : ∃ l ∈ ls, k.2 l.addr = true) : c.accessFails s x ls = some (k.1, ls.filter fun l => k.2 l.addr) := by
  rw [accessFails_eq, hchecks, List.findSome?_append, List.findSome?_eq_none_iff.mpr fun j hj => turnedDown_none (hpre j hj),
    Option.none_or, List.findSome?_cons, turnedDown_some hbad]

theorem accessFails_none (h : ∀ k ∈ c.accessChecks s x, ∀ l ∈ ls, k.2 l.addr = false) : c.accessFails s x ls = none := by
  rw [accessFails_eq]
  exact List.findSome?_eq_none_iff.mpr fun k hk => turnedDown_none (h k hk)

/-- A check's cause trapped in the lanes that fail it. -/
def TrapsIn (c : Issue) (i : Instr) (s : State) (code : Nat) (bad : Nat → Prop) : Prop :=
  ∃ r : Raise, r.code = code ∧ r.pc = c.pc ∧ (∀ l < 4, r.mask.getLsbD l = true ↔ bad l) ∧ exec i s = .next (trap c.key r s)

theorem trapsIn_of_check {i : Instr} {ea f g : Nat → Nat} {pre post : List (Nat × (Nat → Bool))} {k : Nat × (Nat → Bool)}
    (hexec : exec i s = .next (c.finish (c.access x (c.entries ea f g) s)))
    (hchecks : c.accessChecks s x = pre ++ k :: post)
    (hpre : ∀ j ∈ pre, ∀ l < 4, c.active.getLsbD l = true → j.2 (ea l) = false)
    (hbad : ∃ l < 4, c.active.getLsbD l = true ∧ k.2 (ea l) = true) :
    TrapsIn c i s k.1 fun l => c.active.getLsbD l = true ∧ k.2 (ea l) = true := by
  have hfails := accessFails_of_check (ls := c.entries ea f g) hchecks
    (fun j hj y hy => by
      obtain ⟨l, hl, hactive, rfl⟩ := mem_entries.mp hy
      exact hpre j hj l hl hactive)
    (by
      obtain ⟨l, hl, hactive, hk⟩ := hbad
      exact ⟨_, mem_entries.mpr ⟨l, hl, hactive, rfl⟩, hk⟩)
  obtain ⟨hcode, hpc, hmask⟩ := accessRaise_fields c x k.1 ((c.entries ea f g).filter fun l => k.2 l.addr)
  refine ⟨_, hcode, hpc, fun l hl => ?_, ?_⟩
  · rw [hmask, getLsbD_laneMask _ hl]
    simp only [List.mem_filter, mem_entries]
    constructor
    · rintro ⟨y, ⟨⟨j, -, hactive, rfl⟩, hk⟩, rfl⟩
      exact ⟨hactive, hk⟩
    · rintro ⟨hactive, hk⟩
      exact ⟨_, ⟨⟨l, hl, hactive, rfl⟩, hk⟩, rfl⟩
  · rw [hexec, Issue.access, hfails]
    rfl

/-! What each check turns down. -/

/-- The space is not one that the access may use. -/
def Access.illegal (x : Access) : Prop := x.m.space = .acc ∨ x.op.isSome = true ∧ x.m.space = .lanePrivate

/-- The address is of a translated space and not canonical. -/
def Access.odd (x : Access) (ea : Nat) : Prop :=
  (x.m.space = .global ∨ x.m.space = .host ∨ x.m.space = .dieScratch)
    ∧ ¬(ea / 2 ^ 56 % 2 ^ 8 = 0 ∨ ea / 2 ^ 56 % 2 ^ 8 = 0xFF)

theorem illegal_iff : (x.m.space == .acc || (x.op.isSome && x.m.space == .lanePrivate)) = true ↔ x.illegal := by
  simp [Access.illegal]

theorem odd_iff (ea : Nat) : (translatedSpace x.m.space && !canonical ea) = true ↔ x.odd ea := by
  have hspace : translatedSpace x.m.space = true ↔ x.m.space = .global ∨ x.m.space = .host ∨ x.m.space = .dieScratch := by
    cases x.m.space <;> decide
  have hcanonical : canonical ea = true ↔ ea / 2 ^ 56 % 2 ^ 8 = 0 ∨ ea / 2 ^ 56 % 2 ^ 8 = 0xFF := by
    simp [canonical, bitsOf]
  rw [Bool.and_eq_true, Bool.not_eq_true', ← Bool.not_eq_true, hspace, hcanonical]
  rfl

theorem beyond_iff {sp : Space} {n : Nat} (hsp : sp ≠ .acc) (hn : 0 < n) (ea : Nat) :
    c.beyond s sp n ea = true ↔ localSpace sp = true ∧ ¬c.inBounds s sp n ea := by
  cases sp with
  | acc => exact absurd rfl hsp
  | dieScratch | global | host => simp [Issue.beyond, localSpace]
  | scratch | shared => simp [Issue.beyond, localSpace, Issue.inBounds]
  | lanePrivate =>
    cases hcrew : c.crew with
    | some seat => simp [Issue.beyond, localSpace, Issue.inBounds, hcrew]
    | none =>
      simp only [Issue.beyond, localSpace, Issue.inBounds, hcrew, Option.isSome_none, Bool.false_or, decide_eq_true_eq, true_and]
      omega
  | remoteScratch =>
    by_cases hlow : 2 ^ 33 ≤ ea
    · simp [Issue.beyond, localSpace, Issue.inBounds, show 8589934592 ≤ ea from hlow, show ¬ea < 8589934592 by omega]
    · have htile : bitsOf ea 32 21 = ea / 2 ^ 21 := Nat.mod_eq_of_lt (by omega)
      have hoff : bitsOf ea 20 0 = ea % 2 ^ 21 := by simp [bitsOf]
      simp only [Issue.beyond, localSpace, Issue.inBounds, htile, hoff, hlow, decide_false, Bool.false_or, Bool.or_eq_true,
        Bool.and_eq_true, decide_eq_true_eq, Bool.not_eq_true', true_and, Nat.not_le.mp hlow, not_and_or, not_or, Nat.not_lt,
        Nat.not_le, Option.isNone_iff_eq_none, Option.isSome_iff_ne_none, List.contains_iff_mem, Bool.and_eq_false_iff,
        ne_eq, not_not, Bool.not_eq_true, ← Bool.not_eq_true (List.contains _ _), or_assoc]

theorem TrapsIn.congr {i : Instr} {code : Nat} {p q : Nat → Prop} (h : TrapsIn c i s code p) (hpq : ∀ l < 4, p l ↔ q l) :
    TrapsIn c i s code q := by
  obtain ⟨r, hcode, hpc, hmask, hexec⟩ := h
  exact ⟨r, hcode, hpc, fun l hl => (hmask l hl).trans (hpq l hl), hexec⟩

/-- The checks of R220 in their order, of an access of the active lanes. -/
theorem accessChecks_trap {i : Instr} {ea f g : Nat → Nat} (hn : 0 < x.n)
    (hexec : exec i s = .next (c.finish (c.access x (c.entries ea f g) s))) :
    let bad (p : Nat → Prop) (l : Nat) : Prop := c.active.getLsbD l = true ∧ p (ea l)
    let none' (p : Nat → Prop) : Prop := ∀ l < 4, ¬bad p l
    let traps (code : Nat) (p : Nat → Prop) : Prop := (∃ l < 4, bad p l) → TrapsIn c i s code (bad p)
    let illegal : Nat → Prop := fun _ => x.illegal
    let askew (y : Nat) : Prop := y % x.n ≠ 0
    let beyond (y : Nat) : Prop := localSpace x.m.space = true ∧ ¬c.inBounds s x.m.space x.n y
    traps 0x28 illegal
    ∧ (none' illegal → traps 0x22 x.odd)
    ∧ (none' illegal → none' x.odd → traps 0x27 askew)
    ∧ (none' illegal → none' x.odd → none' askew → traps 0x26 beyond) := by
  intro bad none' traps illegal askew beyond
  have trap {p : Nat → Prop} {pre post : List (Nat × (Nat → Bool))} {k : Nat × (Nat → Bool)}
      (hchecks : c.accessChecks s x = pre ++ k :: post)
      (hpre : ∀ j ∈ pre, ∀ l < 4, c.active.getLsbD l = true → j.2 (ea l) = false)
      (hp : ∀ l < 4, c.active.getLsbD l = true → (k.2 (ea l) = true ↔ p (ea l))) : traps k.1 p := fun ⟨l, hl, hactive, hbad⟩ =>
    (trapsIn_of_check hexec hchecks hpre ⟨l, hl, hactive, (hp l hl hactive).mpr hbad⟩).congr
      fun j hj => and_congr_right fun hactive => hp j hj hactive
  have passes {p : Nat → Prop} {k : Nat → Bool} (hp : ∀ y, k y = true ↔ p y) (h : none' p) (l : Nat) (hl : l < 4)
      (hactive : c.active.getLsbD l = true) : k (ea l) = false := by
    rw [← Bool.not_eq_true, hp]
    exact fun hbad => h l hl ⟨hactive, hbad⟩
  have hillegal (_ : Nat) := illegal_iff (x := x)
  have haskew (y : Nat) : (y % x.n != 0) = true ↔ askew y := bne_iff_ne
  refine ⟨trap (pre := []) rfl (by simp) fun l _ _ => hillegal (ea l),
      fun h1 => trap (pre := [(0x28, _)]) rfl ?_ fun l _ _ => odd_iff (ea l),
    fun h1 h2 => trap (pre := [(0x28, _), (0x22, _)]) rfl ?_ fun l _ _ => haskew (ea l),
    fun h1 h2 h3 => trap (pre := [(0x28, _), (0x22, _), (0x27, _)]) (k := (0x26, _)) (post := []) rfl ?_ fun l hl hactive => ?_⟩
  · exact List.forall_mem_singleton.mpr (passes hillegal h1)
  · exact List.forall_mem_cons.mpr ⟨passes hillegal h1, List.forall_mem_singleton.mpr (passes odd_iff h2)⟩
  · exact List.forall_mem_cons.mpr ⟨passes hillegal h1,
      List.forall_mem_cons.mpr ⟨passes odd_iff h2, List.forall_mem_singleton.mpr (passes haskew h3)⟩⟩
  · exact beyond_iff (fun hacc => h1 l hl ⟨hactive, .inl hacc⟩) hn (ea l)

end

theorem tyBytes_pos (ty : Ty) : 0 < tyBytes ty := by cases ty <;> decide

theorem atomBytes_pos (w : Bool) : 0 < if w then 8 else 4 := by cases w <;> decide

/-- Settles O37: LD, ST and the atomics are each one access of the active lanes, with the checks in their order. -/
theorem accessChecksTrap : Obligations.AccessChecksTrap := by
  unfold Obligations.AccessChecksTrap
  intro s c
  refine ⟨fun g la m ty d a disp h => ?_, fun g la m ty a b disp h => ?_, fun i op m w d a b e hparts h => ?_⟩
  · exact accessChecks_trap (tyBytes_pos ty) (exec_ld h)
  · exact accessChecks_trap (tyBytes_pos ty) (exec_st h)
  · exact accessChecks_trap (atomBytes_pos w) (exec_atomic hparts h)

end Sys2Proof.Machine
end


section
/-! One lane's access to a local space (R222, R223, R228): the bytes that it reads and writes, and what it leaves alone. -/

namespace Sys2Proof.Machine

/-! ## Values -/

theorem littleEndian_succ (n : Nat) (f : Nat → Byte) :
    littleEndian (n + 1) f = (f 0).toNat + 256 * littleEndian n fun i => f (i + 1) := by
  unfold littleEndian
  simp only [upTo, List.range_succ_eq_map, List.map_cons, List.map_map, List.sum_cons, Nat.pow_zero, Nat.mul_one, Function.comp_def,
    Nat.pow_succ]
  congr 1
  rw [← List.sum_map_mul_left]
  refine congrArg List.sum (List.map_congr_left fun i _ => ?_)
  ring

theorem ofLeBytes_readBytes (m : Memory) (off n : Nat) :
    ofLeBytes (m.readBytes off n) = littleEndian n fun i => m.read (off + i) := by
  induction n generalizing off with
  | zero => rfl
  | succ n ih =>
    rw [Memory.readBytes, ofLeBytes, ih, littleEndian_succ]
    simp only [Nat.add_zero, Nat.add_assoc, Nat.add_comm 1]

theorem asSigned_eq_toInt (w x : Nat) (hw : 0 < w) : asSigned w x = (BitVec.ofNat w x).toInt := by
  have hhalf : 2 * 2 ^ (w - 1) = 2 ^ w := by rw [← Nat.pow_succ', Nat.succ_eq_add_one, Nat.sub_add_cancel hw]
  rw [asSigned, BitVec.toInt_eq_toNat_cond, BitVec.toNat_ofNat]
  push_cast
  split <;> split <;> omega

theorem fillTy_eq_filled (ty : Ty) (v : Nat) : fillTy ty v = filled ty v := by
  have hsigned (w : Nat) (hw : 0 < w) : (BitVec.ofNat w v).signExtend 32 = BitVec.ofInt 32 (asSigned w v) := by
    rw [asSigned_eq_toInt w v hw]
    rfl
  have hlow : BitVec.ofNat 32 v = BitVec.ofNat 32 (v % 2 ^ 32) := by
    apply BitVec.eq_of_toNat_eq
    simp
  cases ty
  case n64 => exact congrArg (fun x => [x, BitVec.ofNat 32 (v / 2 ^ 32)]) hlow
  case s8 => exact congrArg (fun x => [x]) (hsigned 8 (by decide))
  case s16 => exact congrArg (fun x => [x]) (hsigned 16 (by decide))
  all_goals rfl

theorem length_filled (ty : Ty) (v : Nat) : (filled ty v).length = if ty.isPair then 2 else 1 := by cases ty <;> rfl

theorem atomStep_eq_atomResult (op : AtomOp) (w old b c : Nat) : atomStep op w old b c = atomResult op w old b c :=
  Prod.ext (atomStep_fst op w old b c) (by cases op <;> rfl)

/-! ## One memory -/

/-- What an access leaves in the bytes that it reads as `old`, where it stores; what it answers; and its flags. -/
def Access.stored (x : Access) (old data cmp : Nat) : Option Nat :=
  match x.op with
  | some op => some (atomResult op (8 * x.n) old data cmp).1
  | none => if x.store then some data else none

def Access.answered (x : Access) (old : Nat) : Nat := if x.op.isNone && x.store then 0 else old

def Access.raised (x : Access) (old data cmp : Nat) : Flags :=
  match x.op with
  | some op => (atomResult op (8 * x.n) old data cmp).2
  | none => 0

/-- The answer of an access that reads bytes as `old`. -/
def Access.reply (x : Access) (old data cmp : Nat) : Reply := { value := x.answered old, flags := x.raised old data cmp }

/-- A memory in which a value has been stored, if there is one. -/
def Level.put (l : Level) (off n : Nat) (v : Option Nat) : Level :=
  match v with
  | some v => l.store off (leBytes n v)
  | none => l

theorem Level.hits_readable {l : Level} (h : l.bad = []) (off n : Nat) : l.hits off n = false := by rw [Level.hits, h]; rfl

theorem Level.perform_readable {l : Level} (h : l.bad = []) (x : Access) (off data cmp : Nat) :
    l.perform x off data cmp
      = (l.put off x.n (x.stored (l.load off x.n) data cmp), x.reply (l.load off x.n) data cmp) := by
  unfold Level.perform Access.reply Access.stored Access.answered Access.raised
  rw [Level.hits_readable h]
  cases x.op with
  | some op => simp [atomStep_eq_atomResult, Level.put]
  | none => cases x.store <;> simp [Level.put]

theorem Level.put_bad {l : Level} (h : l.bad = []) (off n : Nat) (v : Option Nat) : (l.put off n v).bad = [] := by
  cases v with
  | none => exact h
  | some v => simp [Level.put, Level.store, h]

theorem Level.read_put (l : Level) (off n v y : Nat) :
    (l.put off n (some v)).mem.read y = if off ≤ y ∧ y < off + n then byteOf v (y - off) else l.mem.read y := by
  rw [Level.put, Level.store, Memory.read_writeBytes, length_leBytes]
  split
  next h => exact getD_leBytes v (by omega)
  next => rfl

theorem Access.stored_none {x : Access} {old data cmp : Nat} :
    x.stored old data cmp = none ↔ (x.store || x.op.isSome) = false := by
  unfold Access.stored
  cases x.op <;> cases x.store <;> simp

/-! ## Scratchpad regions (R97, R104) -/

/-- A region of a tile's scratchpad after a store, if there is one. -/
def putScr (tile launch off n : Nat) (v : Option Nat) (s : State) : State :=
  if v.isSome then setScr tile launch ((scrLevel s tile launch).put off n v) s else s

section
variable {s : State} {tile launch : Nat} {h : TileLaunch}

theorem heldAt_of_find (hheld : Map.find (heldKey tile launch) s.held = some h) : s.heldAt tile launch = h := by
  rw [State.heldAt, hheld]
  rfl

theorem heldKey_injective {t t' launch : Nat} : heldKey t' launch = heldKey t launch ↔ t' = t := by
  unfold heldKey
  omega

theorem scrAccess_readable (hheld : Map.find (heldKey tile launch) s.held = some h) (hbad : h.bad = [])
    (hdown : tileDown s tile = false) (x : Access) (off data cmp : Nat) :
    let old := littleEndian x.n fun i => h.scr.read (off + i)
    scrAccess tile launch x off data cmp s = (putScr tile launch off x.n (x.stored old data cmp) s, x.reply old data cmp) := by
  have hlevel : scrLevel s tile launch = ⟨h.scr, h.bad, 16⟩ := by rw [scrLevel, heldAt_of_find hheld]
  have hread : (scrLevel s tile launch).load off x.n = littleEndian x.n fun i => h.scr.read (off + i) := by
    rw [hlevel]
    exact ofLeBytes_readBytes _ _ _
  have hreadable : (scrLevel s tile launch).bad = [] := by rw [hlevel]; exact hbad
  intro old
  unfold scrAccess putScr
  rw [hdown, Level.perform_readable hreadable, hread]
  cases hstored : x.stored old data cmp with
  | none => simp [Access.stored_none.mp hstored, old]
  | some v =>
    have : (x.store || x.op.isSome) = true := by
      rw [← Bool.not_eq_false, ← Access.stored_none (old := old) (data := data) (cmp := cmp), hstored]
      simp
    simp [this, old]

end

end Sys2Proof.Machine
end


section
/-! One lane's access in each local space (R93 to R104, R223): its answer, the bytes that it leaves, and the rest. -/

namespace Sys2Proof.Machine

/-! ## What an access to a local space leaves alone -/

/-- A state with the strands, regions, convoys, numbers and turns of another. -/
def State.under (s t : State) : State :=
  { s with strands := t.strands, held := t.held, convoys := t.convoys, nextId := t.nextId, plan := t.plan }

/-- A strand as it was but for its lanes' windows. -/
structure Windowed (sp : Space) (a b : Strand) : Prop where
  rest : b = { a with lanes := b.lanes }
  lanes : ∀ l < 4, b.lanes.get l = { a.lanes.get l with lp := (b.lanes.get l).lp, bad := (b.lanes.get l).bad }
  windows : sp ≠ .lanePrivate → ∀ l < 4, (b.lanes.get l).lp = (a.lanes.get l).lp ∧ (b.lanes.get l).bad = (a.lanes.get l).bad

/-- A convoy as it was but for its region, where the access is to that. -/
def SharedOnly (mine : Prop) (a b : Convoy) : Prop := b = { a with shared := b.shared, bad := b.bad } ∧ (¬mine → b = a)

/-- What a launch holds on a tile, as it was but for its scratchpad region. -/
def RegionOnly (a b : TileLaunch) : Prop := b = { a with scr := b.scr, bad := b.bad }

/-- The memories of a local space apart, strands, convoys and regions are as they were. -/
structure Kept (c : Issue) (sp : Space) (s t : State) : Prop where
  others : ∀ k, k ≠ c.key → t.strand k = s.strand k
  own : ∀ a, s.strand c.key = some a → ∃ b, t.strand c.key = some b ∧ Windowed sp a b
  convoys : ∀ k, Option.Rel (SharedOnly (sp = .shared ∧ k = c.it.convoy)) (Map.find k s.convoys) (Map.find k t.convoys)
  held : sp = .shared ∨ sp = .lanePrivate → t.held = s.held
  regions : ∀ k, Option.Rel RegionOnly (Map.find k s.held) (Map.find k t.held)
  apart : ∀ k, (∀ tile, k ≠ heldKey tile c.it.launch) ∨ (sp = .scratch ∧ k ≠ heldKey c.it.tile c.it.launch) →
    Map.find k t.held = Map.find k s.held
  plan : t.plan = s.plan
  nextId : t.nextId = s.nextId

theorem Windowed.refl (sp : Space) (a : Strand) : Windowed sp a a := ⟨rfl, fun _ _ => rfl, fun _ _ _ => ⟨rfl, rfl⟩⟩

theorem Windowed.trans {sp : Space} {a b d : Strand} (h : Windowed sp a b) (k : Windowed sp b d) : Windowed sp a d := by
  refine ⟨?_, fun l hl => ?_, fun hsp l hl => ?_⟩
  · conv_lhs => rw [k.rest, h.rest]
  · conv_lhs => rw [k.lanes l hl, h.lanes l hl]
  · obtain ⟨hlp, hbad⟩ := h.windows hsp l hl
    obtain ⟨klp, kbad⟩ := k.windows hsp l hl
    exact ⟨klp.trans hlp, kbad.trans hbad⟩

theorem SharedOnly.trans {mine : Prop} {a b d : Convoy} (h : SharedOnly mine a b) (k : SharedOnly mine b d) :
    SharedOnly mine a d := by
  obtain ⟨hrest, hsame⟩ := h
  obtain ⟨krest, ksame⟩ := k
  refine ⟨?_, fun hnot => (ksame hnot).trans (hsame hnot)⟩
  conv_lhs => rw [krest, hrest]

theorem RegionOnly.trans {a b d : TileLaunch} (h : RegionOnly a b) (k : RegionOnly b d) : RegionOnly a d := by
  unfold RegionOnly at *
  conv_lhs => rw [k, h]

theorem rel_trans {α : Type} {r : α → α → Prop} (hr : ∀ a b d, r a b → r b d → r a d) {x y z : Option α} (h : Option.Rel r x y)
    (k : Option.Rel r y z) : Option.Rel r x z := by
  cases h with
  | none => exact k
  | some h => cases k with
    | some k => exact .some (hr _ _ _ h k)

theorem rel_refl {α : Type} {r : α → α → Prop} (hr : ∀ a, r a a) (x : Option α) : Option.Rel r x x := by
  cases x with
  | none => exact .none
  | some a => exact .some (hr a)

section
variable {c : Issue} {sp : Space} {s t u : State}

theorem Kept.of_fields (hstrands : ∀ k, t.strand k = s.strand k) (hconvoys : t.convoys = s.convoys) (hheld : t.held = s.held)
    (hplan : t.plan = s.plan) (hid : t.nextId = s.nextId) : Kept c sp s t where
  others k _ := hstrands k
  own a ha := ⟨a, (hstrands c.key).trans ha, .refl sp a⟩
  convoys k := by rw [hconvoys]; exact rel_refl (fun _ => ⟨rfl, fun _ => rfl⟩) _
  held _ := hheld
  regions k := by rw [hheld]; exact rel_refl (r := RegionOnly) (fun _ => rfl) _
  apart k _ := by rw [hheld]
  plan := hplan
  nextId := hid

theorem Kept.refl (s : State) : Kept c sp s s := .of_fields (fun _ => rfl) rfl rfl rfl rfl

theorem Kept.trans (h : Kept c sp s t) (k : Kept c sp t u) : Kept c sp s u where
  others n hn := (k.others n hn).trans (h.others n hn)
  own a ha := by
    obtain ⟨b, hb, hab⟩ := h.own a ha
    obtain ⟨d, hd, hbd⟩ := k.own b hb
    exact ⟨d, hd, hab.trans hbd⟩
  convoys n := rel_trans (r := SharedOnly (sp = .shared ∧ n = c.it.convoy)) (fun _ _ _ => SharedOnly.trans) (h.convoys n)
      (k.convoys n)
  held hsp := (k.held hsp).trans (h.held hsp)
  regions n := rel_trans (r := RegionOnly) (fun _ _ _ => RegionOnly.trans) (h.regions n) (k.regions n)
  apart n hn := (k.apart n hn).trans (h.apart n hn)
  plan := k.plan.trans h.plan
  nextId := k.nextId.trans h.nextId

theorem Touched.kept (h : Touched s t) : Kept c sp s t := by
  refine .of_fields (fun k => ?_) ?_ ?_ ?_ ?_
  · rw [State.strand, State.strand, h.rest]
  all_goals rw [h.rest]

end

/-! ## One lane -/

/-- The bytes that a lane reaches can be read: no unreadable word, no fenced tile (R433, R436). -/
def Issue.readable (c : Issue) (s : State) (sp : Space) (lane ea : Nat) : Prop :=
  let held (tile : Nat) : Prop := ∃ h, Map.find (heldKey tile c.it.launch) s.held = some h ∧ h.bad = [] ∧ tileDown s tile = false
  match sp with
  | .lanePrivate => ∃ st, s.strand c.key = some st ∧ (st.lanes.get lane).bad = []
  | .scratch => held c.it.tile
  | .shared => ∃ cv, Map.find c.it.convoy s.convoys = some cv ∧ cv.bad = [] ∧ tileDown s (shareTile cv ea) = false
  | .remoteScratch => held (ea / 2 ^ 21)
  | _ => False

/-- A byte of a local space after a lane's access of `n` bytes that stores a value there, if it stores one. -/
def Issue.byteAfter (c : Issue) (sp : Space) (n lane ea : Nat) (new : Option Nat) (s : State) (l y : Nat) : Byte :=
  if new.isSome = true ∧ (sp ≠ .lanePrivate ∨ l = lane) ∧ ea ≤ y ∧ y < ea + n then byteOf (new.getD 0) (y - ea)
  else c.byteAt sp l y s

/-- A lane of an access to a local space has been served. -/
structure Served (c : Issue) (sp : Space) (n lane ea : Nat) (new : Option Nat) (s t : State) : Prop where
  kept : Kept c sp s t
  still : t = s.under t
  bytes : ∀ l < 4, ∀ y, c.byteAt sp l y t = c.byteAfter sp n lane ea new s l y
  readable : ∀ l < 4, ∀ y, c.readable s sp l y → c.readable t sp l y
  idle : new = none → t.held = s.held ∧ t.convoys = s.convoys ∧ ∀ k, t.strand k = s.strand k

section
variable {c : Issue} {s t : State} {sp : Space} {n lane ea : Nat}

theorem byteAfter_none (l y : Nat) : c.byteAfter sp n lane ea none s l y = c.byteAt sp l y s := if_neg fun h => by simp at h

theorem byteAfter_some (v l y : Nat) : c.byteAfter sp n lane ea (some v) s l y
    = if (sp ≠ .lanePrivate ∨ l = lane) ∧ ea ≤ y ∧ y < ea + n then byteOf v (y - ea) else c.byteAt sp l y s := by
  simp [Issue.byteAfter]

theorem Served.refl (s : State) : Served c sp n lane ea none s s :=
  ⟨.refl s, rfl, fun _ _ _ => (byteAfter_none _ _).symm, fun _ _ _ h => h, fun _ => ⟨rfl, rfl, fun _ => rfl⟩⟩

/-! ### Scratchpad, of the tile and remote -/

/-- A region of the launch with a value stored in it. -/
structure ScrStored (c : Issue) (tile off n v : Nat) (s t : State) (h h' : TileLaunch) : Prop where
  rest : t = { s with held := t.held }
  before : Map.find (heldKey tile c.it.launch) s.held = some h
  after : Map.find (heldKey tile c.it.launch) t.held = some h'
  only : RegionOnly h h'
  bad : h.bad = [] → h'.bad = []
  bytes : ∀ y, h'.scr.read y = if off ≤ y ∧ y < off + n then byteOf v (y - off) else h.scr.read y
  apart : ∀ k, k ≠ heldKey tile c.it.launch → Map.find k t.held = Map.find k s.held

theorem putScr_stored {tile : Nat} {h : TileLaunch} (hheld : Map.find (heldKey tile c.it.launch) s.held = some h) (off n v : Nat) :
    ∃ h', ScrStored c tile off n v s (putScr tile c.it.launch off n (some v) s) h h' := by
  have hlevel : scrLevel s tile c.it.launch = ⟨h.scr, h.bad, 16⟩ := by rw [scrLevel, heldAt_of_find hheld]
  have hafter := (Map.find_adjust_self s.held (heldKey tile c.it.launch) fun h =>
    { h with
      scr := ((scrLevel s tile c.it.launch).put off n (some v)).mem
      bad := ((scrLevel s tile c.it.launch).put off n (some v)).bad }).trans
    (congrArg (Option.map _) hheld)
  refine ⟨_, rfl, hheld, hafter, rfl, fun hbad => ?_, fun y => ?_, fun k hk => Map.find_adjust_ne _ _ hk⟩
  · rw [hlevel]
    exact Level.put_bad (l := ⟨h.scr, h.bad, 16⟩) hbad _ _ _
  · rw [hlevel]
    exact Level.read_put ⟨h.scr, h.bad, 16⟩ off n v y

section
variable {tile off v : Nat} {h h' : TileLaunch}

theorem ScrStored.kept (st : ScrStored c tile off n v s t h h')
    (hsp : sp = .scratch ∧ tile = c.it.tile ∨ sp = .remoteScratch) : Kept c sp s t where
  others k _ := by rw [st.rest]; rfl
  own a ha := ⟨a, by rw [st.rest]; exact ha, .refl sp a⟩
  convoys k := by rw [st.rest]; exact rel_refl (fun _ => ⟨rfl, fun _ => rfl⟩) _
  held hnot := by rcases hsp with ⟨rfl, -⟩ | rfl <;> simp at hnot
  regions k := by
    by_cases hk : k = heldKey tile c.it.launch
    · rw [hk, st.before, st.after]
      exact .some st.only
    · rw [st.apart k hk]
      exact rel_refl (r := RegionOnly) (fun _ => rfl) _
  apart k hk := by
    refine st.apart k ?_
    rcases hk with hk | ⟨rfl, hk⟩
    · exact hk tile
    · rcases hsp with ⟨-, rfl⟩ | hsp
      · exact hk
      · cases hsp
  plan := by rw [st.rest]
  nextId := by rw [st.rest]

theorem ScrStored.still (st : ScrStored c tile off n v s t h h') : t = s.under t := by
  rw [State.under]
  conv_lhs => rw [st.rest]
  rw [st.rest]

/-- What the launch holds on another tile, or on that one. -/
theorem ScrStored.heldAt (st : ScrStored c tile off n v s t h h') (tile' : Nat) :
    t.heldAt tile' c.it.launch = if tile' = tile then h' else s.heldAt tile' c.it.launch := by
  by_cases htile : tile' = tile
  · rw [if_pos htile, htile, heldAt_of_find st.after]
  · rw [if_neg htile, State.heldAt, st.apart _ (fun hk => htile (heldKey_injective.mp hk))]
    rfl

theorem ScrStored.read (st : ScrStored c tile off n v s t h h') (tile' y : Nat) :
    (t.heldAt tile' c.it.launch).scr.read y = if tile' = tile ∧ off ≤ y ∧ y < off + n then byteOf v (y - off)
      else (s.heldAt tile' c.it.launch).scr.read y := by
  rw [st.heldAt]
  by_cases htile : tile' = tile
  · rw [if_pos htile, st.bytes, htile, heldAt_of_find st.before]
    simp
  · simp [htile]

theorem ScrStored.regionReadable (st : ScrStored c tile off n v s t h h') {tile' : Nat}
    (hread : ∃ h, Map.find (heldKey tile' c.it.launch) s.held = some h ∧ h.bad = [] ∧ tileDown s tile' = false) :
    ∃ h, Map.find (heldKey tile' c.it.launch) t.held = some h ∧ h.bad = [] ∧ tileDown t tile' = false := by
  obtain ⟨x, hx, hbad, hdown⟩ := hread
  have hdown' : tileDown t tile' = false := by rw [st.rest]; exact hdown
  by_cases htile : tile' = tile
  · rw [htile, st.before, Option.some.injEq] at hx
    exact ⟨h', htile ▸ st.after, st.bad (hx ▸ hbad), hdown'⟩
  · exact ⟨x, (st.apart _ fun hk => htile (heldKey_injective.mp hk)).trans hx, hbad, hdown'⟩

theorem ScrStored.readable (st : ScrStored c tile off n v s t h h') (l y : Nat) (hread : c.readable s sp l y) :
    c.readable t sp l y := by
  cases sp with
  | lanePrivate => obtain ⟨x, hx, hbad⟩ := hread; exact ⟨x, by rw [st.rest]; exact hx, hbad⟩
  | shared => obtain ⟨cv, hcv, hbad, hdown⟩ := hread; exact ⟨cv, by rw [st.rest]; exact hcv, hbad, by rw [st.rest]; exact hdown⟩
  | scratch | remoteScratch => exact st.regionReadable hread
  | acc | dieScratch | global | host => exact hread

theorem served_scratch (st : ScrStored c c.it.tile ea n v s t h h') : Served c .scratch n lane ea (some v) s t where
  kept := st.kept (.inl ⟨rfl, rfl⟩)
  still := st.still
  bytes l _ y := by
    rw [byteAfter_some]
    refine (st.read c.it.tile y).trans ?_
    simp [Issue.byteAt]
  readable l _ y hread := st.readable l y hread
  idle hnone := by cases hnone

/-- An aligned access does not cross the end of a region. -/
theorem aligned_fits {n ea size : Nat} (hn : n ∣ size) (halign : ea % n = 0) : ea % size + n ≤ size ∨ size = 0 := by
  by_cases hsize : size = 0
  · exact .inr hsize
  obtain ⟨k, rfl⟩ := hn
  have hdvd : n ∣ ea % (n * k) := (Nat.dvd_mod_iff (Nat.dvd_mul_right n k)).mpr (Nat.dvd_of_mod_eq_zero halign)
  obtain ⟨q, hq⟩ := hdvd
  have hlt : n * q < n * k := hq ▸ Nat.mod_lt ea (Nat.pos_of_ne_zero hsize)
  refine .inl ?_
  rw [hq, ← Nat.mul_succ]
  exact Nat.mul_le_mul_left n (Nat.lt_of_mul_lt_mul_left hlt)

theorem served_remote (halign : ea % n = 0) (hn : n ∣ 2 ^ 21) (st : ScrStored c (ea / 2 ^ 21) (ea % 2 ^ 21) n v s t h h') :
    Served c .remoteScratch n lane ea (some v) s t where
  kept := st.kept (.inr rfl)
  still := st.still
  bytes l _ y := by
    rw [byteAfter_some]
    refine (st.read (y / 2 ^ 21) (y % 2 ^ 21)).trans ?_
    have hfit := aligned_fits hn halign
    have hrange : (y / 2 ^ 21 = ea / 2 ^ 21 ∧ ea % 2 ^ 21 ≤ y % 2 ^ 21 ∧ y % 2 ^ 21 < ea % 2 ^ 21 + n) ↔ ea ≤ y
        ∧ y < ea + n := by omega
    simp only [hrange, ne_eq, reduceCtorEq, not_false_eq_true, true_or, true_and]
    split
    next h => rw [show y % 2 ^ 21 - ea % 2 ^ 21 = y - ea by omega]
    next => rfl
  readable l _ y hread := st.readable l y hread
  idle hnone := by cases hnone

theorem scr_served {x : Access} {tile off : Nat} (data cmp : Nat)
    (hread : ∃ h, Map.find (heldKey tile c.it.launch) s.held = some h ∧ h.bad = [] ∧ tileDown s tile = false)
    (hstored : ∀ v t h h', ScrStored c tile off x.n v s t h h' → Served c sp x.n lane ea (some v) s t) :
    let old := littleEndian x.n fun i => (s.heldAt tile c.it.launch).scr.read (off + i)
    ∃ t, scrAccess tile c.it.launch x off data cmp s = (t, x.reply old data cmp)
      ∧ Served c sp x.n lane ea (x.stored old data cmp) s t := by
  obtain ⟨h, hheld, hbad, hdown⟩ := hread
  rw [heldAt_of_find hheld]
  intro old
  refine ⟨_, scrAccess_readable hheld hbad hdown x off data cmp, ?_⟩
  change Served c sp x.n lane ea (x.stored old data cmp) s (putScr tile c.it.launch off x.n (x.stored old data cmp) s)
  cases x.stored old data cmp with
  | none => exact .refl s
  | some v =>
    obtain ⟨h', hst⟩ := putScr_stored (c := c) hheld off x.n v
    exact hstored v _ h h' hst

end

/-! ### Cluster-shared memory (R103) -/

/-- A convoy's region after a store, if there is one. -/
def putShared (convoy off n : Nat) (v : Option Nat) (cv : Convoy) (s : State) : State :=
  if v.isSome then setShared convoy (cv.level.put off n v) s else s

theorem sharedAccess_readable {cv : Convoy} {off : Nat} (hcv : Map.find c.it.convoy s.convoys = some cv) (hbad : cv.bad = [])
    (hdown : tileDown s (shareTile cv off) = false) (x : Access) (data cmp : Nat) :
    let old := littleEndian x.n fun i => cv.shared.read (off + i)
    sharedAccess c.it.convoy x off data cmp s
      = (putShared c.it.convoy off x.n (x.stored old data cmp) cv s, x.reply old data cmp) := by
  have hread : cv.level.load off x.n = littleEndian x.n fun i => cv.shared.read (off + i) := ofLeBytes_readBytes _ _ _
  intro old
  unfold sharedAccess putShared
  simp only [hcv, hdown, Bool.false_eq_true, if_false, Level.perform_readable (l := cv.level) hbad, hread]
  cases hstored : x.stored old data cmp with
  | none => simp [Access.stored_none.mp hstored, old]
  | some v =>
    have : (x.store || x.op.isSome) = true := by
      rw [← Bool.not_eq_false, ← Access.stored_none (old := old) (data := data) (cmp := cmp), hstored]
      simp
    simp [this, old]

theorem served_shared {cv : Convoy} (hcv : Map.find c.it.convoy s.convoys = some cv) (v : Nat) :
    Served c .shared n lane ea (some v) s (putShared c.it.convoy ea n (some v) cv s) := by
  set cv' : Convoy := { cv with shared := (cv.level.put ea n (some v)).mem, bad := (cv.level.put ea n (some v)).bad } with hcv'
  have hafter : Map.find c.it.convoy (putShared c.it.convoy ea n (some v) cv s).convoys = some cv' :=
    (Map.find_adjust_self _ _ _).trans (congrArg (Option.map _) hcv)
  have hapart (k : Nat) (hk : k ≠ c.it.convoy) :
      Map.find k (putShared c.it.convoy ea n (some v) cv s).convoys = Map.find k s.convoys := Map.find_adjust_ne _ _ hk
  refine ⟨⟨fun _ _ => rfl, fun a ha => ⟨a, ha, .refl _ a⟩, fun k => ?_, fun _ => rfl,
      fun k => rel_refl (r := RegionOnly) (fun _ => rfl) _,
    fun _ _ => rfl, rfl, rfl⟩, rfl, fun l _ y => ?_, fun l _ y hread => ?_, fun hnone => by cases hnone⟩
  · by_cases hk : k = c.it.convoy
    · rw [hk, hcv, hafter]
      exact .some ⟨rfl, fun hnot => absurd ⟨rfl, rfl⟩ hnot⟩
    · rw [hapart k hk]
      exact rel_refl (fun _ => ⟨rfl, fun _ => rfl⟩) _
  · rw [byteAfter_some]
    simp only [Issue.byteAt, hafter, hcv, ne_eq, reduceCtorEq, not_false_eq_true, true_or, true_and]
    exact Level.read_put cv.level ea n v y
  · obtain ⟨x, hx, hbad, hdown⟩ := hread
    rw [hcv, Option.some.injEq] at hx
    subst hx
    exact ⟨cv', hafter, Level.put_bad (l := cv.level) hbad _ _ _, hdown⟩

/-! ### A lane's own window (R96) -/

/-- A lane's window after a store, if there is one. -/
def putLane (key lane off n : Nat) (v : Option Nat) (st : Strand) (s : State) : State :=
  s.setStrand key (st.adjLane lane fun l =>
    { l with lp := ((⟨l.lp, l.bad, 4⟩ : Level).put off n v).mem, bad := ((⟨l.lp, l.bad, 4⟩ : Level).put off n v).bad })

theorem laneAccess_readable {st : Strand} {off : Nat} (hst : s.strand c.key = some st) (hbad : (st.lanes.get lane).bad = [])
    (x : Access) (data cmp : Nat) :
    let old := littleEndian x.n fun i => (st.lanes.get lane).lp.read (off + i)
    laneAccess c.key lane x off data cmp s = (putLane c.key lane off x.n (x.stored old data cmp) st s, x.reply old data cmp) := by
  set level : Level := ⟨(st.lanes.get lane).lp, (st.lanes.get lane).bad, 4⟩
  have hread : level.load off x.n = littleEndian x.n fun i => (st.lanes.get lane).lp.read (off + i) := ofLeBytes_readBytes _ _ _
  have hperform := Level.perform_readable (l := level) hbad x off data cmp
  rw [hread] at hperform
  intro old
  unfold laneAccess putLane
  simp only [hst]
  rw [hperform]
  rfl

theorem served_lane {st : Strand} (hlane : lane < 4) (hst : s.strand c.key = some st) (v : Option Nat) :
    Served c .lanePrivate n lane ea v s (putLane c.key lane ea n v st s) := by
  set level : Level := ⟨(st.lanes.get lane).lp, (st.lanes.get lane).bad, 4⟩
  set st' := st.adjLane lane fun l =>
    { l with lp := ((⟨l.lp, l.bad, 4⟩ : Level).put ea n v).mem, bad := ((⟨l.lp, l.bad, 4⟩ : Level).put ea n v).bad } with hst'
  have hget (l : Nat) (hl : l < 4) : st'.lanes.get l
      = if l = lane then { st.lanes.get lane with lp := (level.put ea n v).mem, bad := (level.put ea n v).bad }
        else st.lanes.get l := Quad.get_set _ _ hlane hl
  have hafter : (putLane c.key lane ea n v st s).strand c.key = some st' := strand_setStrand _ _ _
  refine ⟨⟨fun k hk => strand_setStrand_ne _ _ hk, fun a ha => ⟨st', hafter, ?_⟩, fun k => ?_, fun _ => rfl,
    fun k => rel_refl (r := RegionOnly) (fun _ => rfl) _, fun _ _ => rfl, rfl, rfl⟩, rfl, fun l hl y => ?_, fun l hl y hread => ?_,
    fun hnone => ⟨rfl, rfl, fun k => ?_⟩⟩
  · rw [hst, Option.some.injEq] at ha
    subst ha
    refine ⟨rfl, fun l hl => ?_, fun hnot => absurd rfl hnot⟩
    rw [hget l hl]
    split
    next h => rw [h]
    next => rfl
  · exact rel_refl (fun _ => ⟨rfl, fun _ => rfl⟩) _
  · simp only [Issue.byteAt, Issue.byteAfter, hafter, hst, hget l hl]
    cases v with
    | none => by_cases hll : l = lane <;> simp [hll, Level.put, level]
    | some v =>
      by_cases hll : l = lane
      · simp [hll, Level.read_put, level]
      · simp [hll]
  · obtain ⟨a, ha, hbad⟩ := hread
    rw [hst, Option.some.injEq] at ha
    subst ha
    refine ⟨st', hafter, ?_⟩
    rw [hget l hl]
    split
    next h => exact Level.put_bad (l := level) (show (st.lanes.get lane).bad = [] from h ▸ hbad) _ _ _
    next => exact hbad
  · subst hnone
    by_cases hk : k = c.key
    · rw [hk, hafter, hst]
      refine congrArg some ?_
      have hlanes : st'.lanes = st.lanes := Quad.ext_get fun l hl => by
        rw [hget l hl]
        split
        next h => rw [h]; rfl
        next => rfl
      exact congrArg (fun q : Quad Lane => { st with lanes := q }) hlanes
    · exact strand_setStrand_ne _ _ hk

/-! ### Every local space -/

theorem littleEndian_congr {n : Nat} {f g : Nat → Byte} (h : ∀ i < n, f i = g i) : littleEndian n f = littleEndian n g :=
  congrArg List.sum (List.map_congr_left fun i hi => by rw [h i (List.mem_range.mp hi)])

/-- One lane's access to a local space whose bytes can be read (R223). -/
theorem reach_served {x : Access} {l : LogLane} (v : Viewer) (home : Bool) (hspace : localSpace x.m.space = true)
    (hn : x.n ∣ 2 ^ 21)
    (hlane : l.lane < 4) (halign : l.addr % x.n = 0) (hfar : x.m.space = .remoteScratch → l.addr < 2 ^ 33)
    (hread : c.readable s x.m.space l.lane l.addr) :
    let old := littleEndian x.n fun i => c.byteAt x.m.space l.lane (l.addr + i) s
    ∃ t, c.reach x v home l s = (t, .ok (x.reply old l.data l.cmp))
      ∧ Served c x.m.space x.n l.lane l.addr (x.stored old l.data l.cmp) s t := by
  unfold Issue.reach
  cases hsp : x.m.space with
  | acc | dieScratch | global | host => rw [hsp] at hspace; cases hspace
  | lanePrivate =>
    rw [hsp] at hread
    obtain ⟨st, hst, hbad⟩ := hread
    have haccess := laneAccess_readable (c := c) hst hbad (off := l.addr) x l.data l.cmp
    simp only [Issue.byteAt, hst]
    exact ⟨_, by rw [haccess], served_lane hlane hst _⟩
  | scratch =>
    rw [hsp] at hread
    obtain ⟨t, haccess, hserved⟩ := scr_served (c := c) (x := x) (sp := .scratch) (lane := l.lane) (ea := l.addr) (off := l.addr)
      l.data l.cmp hread fun v t h h' => served_scratch
    simp only [Issue.byteAt]
    exact ⟨t, by rw [haccess], hserved⟩
  | shared =>
    rw [hsp] at hread
    obtain ⟨cv, hcv, hbad, hdown⟩ := hread
    have haccess := sharedAccess_readable (c := c) hcv hbad hdown x l.data l.cmp
    simp only [Issue.byteAt, hcv]
    refine ⟨_, by rw [haccess], ?_⟩
    generalize x.stored _ _ _ = new
    cases new with
    | none => exact .refl s
    | some v => exact served_shared hcv v
  | remoteScratch =>
    rw [hsp] at hread
    have htile : bitsOf l.addr 32 21 = l.addr / 2 ^ 21 := Nat.mod_eq_of_lt (by have := hfar hsp; omega)
    have hoff : bitsOf l.addr 20 0 = l.addr % 2 ^ 21 := by simp [bitsOf]
    obtain ⟨t, haccess, hserved⟩ := scr_served (c := c) (x := x) (sp := .remoteScratch) (lane := l.lane) (ea := l.addr)
      (off := l.addr % 2 ^ 21) l.data l.cmp hread fun v t h h' => served_remote halign hn
    have hold : (littleEndian x.n fun i => c.byteAt .remoteScratch l.lane (l.addr + i) s)
        = littleEndian x.n fun i => (s.heldAt (l.addr / 2 ^ 21) c.it.launch).scr.read (l.addr % 2 ^ 21 + i) := by
      refine littleEndian_congr fun i hi => ?_
      have hfit := aligned_fits hn halign
      rw [Issue.byteAt, show (l.addr + i) / 2 ^ 21 = l.addr / 2 ^ 21 by omega, show (l.addr + i) % 2 ^ 21
        = l.addr % 2 ^ 21 + i by omega]
    rw [hold, htile, hoff]
    exact ⟨t, by rw [haccess], hserved⟩

end

end Sys2Proof.Machine
end


section
/-! The lanes of an access to a local space, one after another (R222, R225, R229), with the order of the access and its
stamps (R194, R203). -/

namespace Sys2Proof.Machine

/-! ## Orders and stamps -/

/-- A state reached from another by accesses of an order to local spaces: strands, regions and convoys apart, nothing differs
but what the order and its stamps write. -/
structure Reached (ord : Order) (s t : State) : Prop where
  touched : Touched (s.under t) t
  alone : ord ≠ .sc → MemoryAlone (s.under t) t
  still : ord = .none → t = s.under t

section
variable {ord : Order} {s t u : State}

theorem Touched.under (h : Touched s t) (u : State) : Touched (s.under u) (t.under u) where
  rest := by
    have := h.rest
    conv_lhs => rw [State.under, this]
    rfl
  tiles := h.tiles

theorem MemoryAlone.under (h : MemoryAlone s t) (u : State) : MemoryAlone (s.under u) (t.under u) :=
  ⟨h.touched.under u, h.units, h.clocks⟩

theorem under_of_touched (h : Touched s t) : s.under t = s := by
  rw [State.under, h.rest]

theorem Reached.refl (ord : Order) (s : State) : Reached ord s s := ⟨.refl s, fun _ => .refl s, fun _ => rfl⟩

theorem Reached.trans (h : Reached ord s t) (k : Reached ord t u) : Reached ord s u where
  touched := (h.touched.under u).trans k.touched
  alone hord := ((h.alone hord).under u).trans (k.alone hord)
  still hord := by
    have ht := congrArg (fun x : State => x.under u) (h.still hord)
    exact (k.still hord).trans ht

theorem Reached.of_still (h : t = s.under t) : Reached ord s t where
  touched := by rw [← h]; exact .refl t
  alone _ := by rw [← h]; exact .refl t
  still _ := h

theorem Reached.of_alone (h : MemoryAlone s t) (hnone : ord = .none → t = s) : Reached ord s t := by
  have hunder := under_of_touched h.touched
  exact ⟨hunder.symm ▸ h.touched, fun _ => hunder.symm ▸ h, fun hord => (hnone hord).trans hunder.symm⟩

theorem Reached.of_stamp (h : Touched s t) : Reached .sc s t := by
  have hunder := under_of_touched h
  exact ⟨hunder.symm ▸ h, fun hsc => absurd rfl hsc, fun hnone => by cases hnone⟩

theorem orderBefore_alone (tile key : Nat) (ord : Order) (scope : Scope) (s : State) :
    MemoryAlone s (orderBefore tile key ord scope s) := by
  unfold orderBefore
  split
  · exact publish_alone _ _ _ s
  · exact .refl s

theorem orderAfter_alone (tile : Nat) (ord : Order) (scope : Scope) (s : State) : MemoryAlone s (orderAfter tile ord scope s) := by
  unfold orderAfter
  split
  · exact refresh_alone _ _ s
  · exact .refl s

theorem Reached.orderBefore (tile key : Nat) (ord : Order) (scope : Scope) (s : State) :
    Reached ord s (orderBefore tile key ord scope s) :=
  .of_alone (orderBefore_alone tile key ord scope s) fun h => by subst h; rfl

theorem Reached.orderAfter (tile : Nat) (ord : Order) (scope : Scope) (s : State) : Reached ord s (orderAfter tile ord scope s) :=
  .of_alone (orderAfter_alone tile ord scope s) fun h => by subst h; rfl

/-- A tile whose clock and stamps alone are changed. -/
theorem touched_setTile (s : State) (k : Nat) (x : Tile) (h : x = { s.tile k with lclock := x.lclock, scUnits := x.scUnits }) :
    Touched s (s.setTile k x) where
  rest := rfl
  tiles n := by
    rw [tile_setTile]
    split
    next hn => subst hn; conv_lhs => rw [h]
               rw [h]
    next => rfl

theorem stampSc_touched (tile : Nat) (u : Option Nat × Nat) (s : State) : Touched s (stampSc tile u s) := by
  unfold stampSc
  dsimp only
  refine Touched.trans (t := match u.1 with
    | some k => _
    | none => _) ?_ (touched_setTile _ _ _ rfl)
  split
  · exact touched_setTile _ _ _ rfl
  · exact ⟨rfl, fun _ => rfl⟩

end

/-! ## One entry -/

/-- The state after one lane's entry: as it was served, with its stamp. -/
structure Entry (c : Issue) (x : Access) (lane ea : Nat) (new : Option Nat) (s t : State) : Prop where
  kept : Kept c x.m.space s t
  reached : Reached x.m.ord s t
  bytes : ∀ l < 4, ∀ y, c.byteAt x.m.space l y t = c.byteAfter x.m.space x.n lane ea new s l y
  readable : ∀ l < 4, ∀ y, c.readable s x.m.space l y → c.readable t x.m.space l y
  idle : new = none → t.held = s.held ∧ t.convoys = s.convoys ∧ ∀ k, t.strand k = s.strand k

section
variable {c : Issue} {x : Access} {s t u : State} {lane ea : Nat} {new : Option Nat}

theorem byteAt_touched (h : Touched s t) (sp : Space) (l y : Nat) : c.byteAt sp l y t = c.byteAt sp l y s := by
  unfold Issue.byteAt State.strand State.heldAt
  rw [h.rest]

theorem readable_touched (h : Touched s t) (sp : Space) (l y : Nat) (hread : c.readable s sp l y) : c.readable t sp l y := by
  have hheld : t.held = s.held := by rw [h.rest]
  have hconvoys : t.convoys = s.convoys := by rw [h.rest]
  have hstrands : t.strands = s.strands := by rw [h.rest]
  have hdown (n : Nat) : tileDown t n = tileDown s n := by unfold tileDown tileState; rw [h.rest]
  unfold Issue.readable State.strand at *
  rw [hheld, hconvoys, hstrands]
  simpa only [hdown] using hread

theorem Served.entry (h : Served c x.m.space x.n lane ea new s t) : Entry c x lane ea new s t :=
  ⟨h.kept, .of_still h.still, h.bytes, h.readable, h.idle⟩

theorem Entry.stamped (h : Entry c x lane ea new s t) (hsc : x.m.ord = .sc) (tile : Nat) (unit : Option Nat × Nat) :
    Entry c x lane ea new s (stampSc tile unit t) := by
  have hstamp := stampSc_touched tile unit t
  refine ⟨h.kept.trans hstamp.kept, h.reached.trans (hsc ▸ .of_stamp hstamp), fun l hl y => ?_,
    fun l hl y hread => readable_touched hstamp _ l y (h.readable l hl y hread), fun hnew => ?_⟩
  · rw [byteAt_touched hstamp, h.bytes l hl y]
  · obtain ⟨hheld, hconvoys, hstrands⟩ := h.idle hnew
    refine ⟨?_, ?_, fun k => ?_⟩
    · rw [hstamp.rest, ← hheld]
    · rw [hstamp.rest, ← hconvoys]
    · rw [State.strand, hstamp.rest, ← hstrands]
      rfl

/-- The lane reaches bytes of a local space that are there and can be read. -/
structure Reaches (c : Issue) (x : Access) (s : State) (l : LogLane) : Prop where
  lane : l.lane < 4
  aligned : l.addr % x.n = 0
  near : x.m.space = .remoteScratch → l.addr < 2 ^ 33
  readable : c.readable s x.m.space l.lane l.addr

theorem Reaches.mono {l : LogLane} (h : Reaches c x s l)
    (hread : ∀ l < 4, ∀ y, c.readable s x.m.space l y → c.readable t x.m.space l y) :
    Reaches c x t l := ⟨h.lane, h.aligned, h.near, hread _ h.lane _ h.readable⟩

theorem space_not_global {sp : Space} (h : localSpace sp = true) : (sp == .global) = false := by
  cases sp with
  | global => cases h
  | lanePrivate | scratch | shared | remoteScratch | acc | dieScratch | host => rfl

/-- One entry of a sweep over a local space. -/
theorem entry_local {w : Sweep} {l : LogLane} (home packet : Bool) (hspace : localSpace x.m.space = true) (hn : x.n ∣ 2 ^ 21)
    (h : Reaches c x w.s l) :
    let old := littleEndian x.n fun i => c.byteAt x.m.space l.lane (l.addr + i) w.s
    ∃ t, w.entry x home packet c l = { w with s := t, got := w.got ++ [(c.key, l, x.reply old l.data l.cmp)] }
      ∧ Entry c x l.lane l.addr (x.stored old l.data l.cmp) w.s t := by
  intro old
  obtain ⟨t, hreach, hserved⟩ := reach_served (c := c)
    { c.viewer with counted := !packet && !(x.op.isSome && w.got.any fun g => g.2.1.addr == l.addr) } home hspace hn h.lane h.aligned
    h.near h.readable
  have hglobal := space_not_global hspace
  unfold Sweep.entry
  simp only [hreach, hglobal, Bool.and_false, Bool.false_and, Bool.false_eq_true, if_false]
  refine ⟨_, rfl, ?_⟩
  split
  next hsc =>
    simp only [Bool.and_eq_true, beq_iff_eq] at hsc
    exact hserved.entry.stamped hsc.1 _ _
  next => exact hserved.entry

end

/-! ## A sweep -/

/-- The bytes of a space, by lane and address, after a value of `n` bytes is stored there by a lane, if it stores one. -/
def overwrite (sp : Space) (n lane ea : Nat) (new : Option Nat) (f : Nat → Nat → Byte) (l y : Nat) : Byte :=
  if new.isSome = true ∧ (sp ≠ .lanePrivate ∨ l = lane) ∧ ea ≤ y ∧ y < ea + n then byteOf (new.getD 0) (y - ea) else f l y

/-- The answers of the lanes of an access, one after another, and the bytes that they leave. -/
def Access.serve (x : Access) : List LogLane → (Nat → Nat → Byte) → List (LogLane × Reply) × (Nat → Nat → Byte)
  | [], f => ([], f)
  | l :: ls, f =>
    let old := littleEndian x.n fun i => f l.lane (l.addr + i)
    let r := x.serve ls (overwrite x.m.space x.n l.lane l.addr (x.stored old l.data l.cmp) f)
    ((l, x.reply old l.data l.cmp) :: r.1, r.2)

/-- The state after a sweep. -/
structure Swept (c : Issue) (x : Access) (s t : State) : Prop where
  kept : Kept c x.m.space s t
  reached : Reached x.m.ord s t
  idle : (x.store || x.op.isSome) = false → t.held = s.held ∧ t.convoys = s.convoys ∧ ∀ k, t.strand k = s.strand k

section
variable {c : Issue} {x : Access} {s t u : State}

theorem Swept.refl (s : State) : Swept c x s s := ⟨.refl s, .refl _ s, fun _ => ⟨rfl, rfl, fun _ => rfl⟩⟩

theorem Swept.trans (h : Swept c x s t) (k : Swept c x t u) : Swept c x s u where
  kept := h.kept.trans k.kept
  reached := h.reached.trans k.reached
  idle hload := by
    obtain ⟨hheld, hconvoys, hstrands⟩ := h.idle hload
    obtain ⟨kheld, kconvoys, kstrands⟩ := k.idle hload
    exact ⟨kheld.trans hheld, kconvoys.trans hconvoys, fun n => (kstrands n).trans (hstrands n)⟩

theorem Swept.of_alone (h : MemoryAlone s t) (hnone : x.m.ord = .none → t = s) : Swept c x s t where
  kept := h.touched.kept
  reached := .of_alone h hnone
  idle _ := ⟨by rw [h.touched.rest], by rw [h.touched.rest], fun k => by rw [State.strand, h.touched.rest]; rfl⟩

theorem Entry.swept {lane ea old data cmp : Nat} (h : Entry c x lane ea (x.stored old data cmp) s t) : Swept c x s t :=
  ⟨h.kept, h.reached, fun hload => h.idle (Access.stored_none.mpr hload)⟩

/-- A sweep over a local space gives the answers of the lanes one after another. -/
theorem sweep_local (home packet : Bool) (hspace : localSpace x.m.space = true) (hn : x.n ∣ 2 ^ 21) (ls : List LogLane) :
    ∀ (w : Sweep) (f : Nat → Nat → Byte), (∀ l ∈ ls, Reaches c x w.s l) → (∀ k < 4, ∀ y, c.byteAt x.m.space k y w.s = f k y) →
    ∃ t, ls.foldl (fun w l => w.entry x home packet c l) w
        = { w with s := t, got := w.got ++ (x.serve ls f).1.map fun g => (c.key, g.1, g.2) }
      ∧ Swept c x w.s t ∧ ∀ k < 4, ∀ y, c.byteAt x.m.space k y t = (x.serve ls f).2 k y := by
  induction ls with
  | nil => exact fun w f _ hf => ⟨w.s, by simp [Access.serve], .refl _, hf⟩
  | cons l ls ih =>
    intro w f hls hf
    obtain ⟨hl, hls⟩ := List.forall_mem_cons.mp hls
    obtain ⟨t, hentry, hserved⟩ := entry_local home packet hspace hn hl
    have hold : (littleEndian x.n fun i => c.byteAt x.m.space l.lane (l.addr + i) w.s)
        = littleEndian x.n fun i => f l.lane (l.addr + i) := littleEndian_congr fun i _ => hf _ hl.lane _
    rw [hold] at hentry hserved
    set old := littleEndian x.n fun i => f l.lane (l.addr + i)
    obtain ⟨u, hfold, hswept, hbytes⟩ := ih
      { w with s := t, got := w.got ++ [(c.key, l, x.reply old l.data l.cmp)] }
      (overwrite x.m.space x.n l.lane l.addr (x.stored old l.data l.cmp) f) (fun k hk => (hls k hk).mono hserved.readable)
      (fun k hk y => by
        refine (hserved.bytes k hk y).trans ?_
        unfold Issue.byteAfter overwrite
        rw [hf k hk y])
    refine ⟨u, ?_, hserved.swept.trans hswept, hbytes⟩
    rw [List.foldl_cons, hentry, hfold]
    simp only [Access.serve, List.map_cons, List.append_assoc, List.singleton_append]
    rfl

end

end Sys2Proof.Machine
end


section
/-! How an access ends whose lanes have all been served: what it owes is in flight, its strand goes on, and its answers
come (R130, R222, R224). -/

namespace Sys2Proof.Machine

/-! ## What is in flight -/

/-- No lane's answer kills it, marks it or raises a cause. -/
def Answers.Clean (c : Issue) (got : List (LogLane × Reply)) : Prop :=
  (∀ g ∈ got, g.2.dead = 0 ∧ g.2.lost = none) ∧ (c.la.det = false ∨ ∀ g ∈ got, g.2.sh = false)

section
variable {c : Issue} {x : Access} {got : List (LogLane × Reply)}

theorem lateCauses_clean (h : Answers.Clean c got) : c.lateCauses x got = [] := by
  obtain ⟨hgot, hshared⟩ := h
  have hlost (code : Nat) : (got.filter fun g => g.2.lost == some code) = [] :=
    List.filter_eq_nil_iff.mpr fun g hg => by simp [(hgot g hg).2]
  unfold Issue.lateCauses
  simp only [hlost, List.nil_append]
  rcases hshared with hdet | hshared
  · simp [hdet]
  · rw [show got.filter (·.2.sh) = [] from List.filter_eq_nil_iff.mpr fun g hg => by simp [hshared g hg]]
    split <;> rfl

theorem inFlight_clean (h : Answers.Clean c got) (id : Nat) : (c.inFlight x id got).poisoned = 0 ∧ (c.inFlight x id got).killed = 0
    ∧ (c.inFlight x id got).causes = [] := by
  have hgot := h.1
  have hpoisoned : (got.filter fun g => g.2.lost == some 0x2D || g.2.lost == some 0x64 || g.2.dead == 1) = [] :=
    List.filter_eq_nil_iff.mpr fun g hg => by simp [hgot g hg]
  have hkilled : (got.filter fun g => g.2.dead == 1) = [] := List.filter_eq_nil_iff.mpr fun g hg => by simp [hgot g hg]
  refine ⟨?_, ?_, lateCauses_clean h⟩
  · rw [Issue.inFlight, hpoisoned]
    rfl
  · rw [Issue.inFlight, hkilled]
    rfl

/-- What an access puts into flight: nothing for a store or with no lane. -/
def Issue.flights (c : Issue) (x : Access) (id : Nat) (got : List (LogLane × Reply)) : List Pending :=
  if got = [] ∨ x.store = true then [] else [c.inFlight x id got]

/-- The turns in which the answers come. -/
def answerTurns (k : Nat) (ps : List Pending) : List Turn := ps.map fun p => .event (.loadWriteback k p.id)

theorem record_clean (h : Answers.Clean c got) (id : Nat) (s : State) : c.record x id false got [] s
    = if got = [] ∨ x.store = true then s
      else (s.adjStrand c.key fun st => { st with pend := st.pend ++ [c.inFlight x id got] }).later (.loadWriteback c.key id) := by
  obtain ⟨hpoisoned, -, hcauses⟩ := inFlight_clean (x := x) h id
  have hdead : (got.filter fun g => g.2.dead == 3) = [] := List.filter_eq_nil_iff.mpr fun g hg => by simp [(h.1 g hg).1]
  unfold Issue.record
  rw [hdead]
  simp [hcauses, hpoisoned]

/-! ## The strand -/

theorem finish_plain {u : State} {y : Strand} (hy : u.strand c.key = some y) (hready : y.pend.any (·.ready) = false)
    (hstep : c.st.stepArm = false) : c.finish (.done u) = u.setStrand c.key (c.count (c.advance y)) := by
  rw [Issue.finish, adjStrand_eq_setStrand hy]
  refine afterwards_none (strand_setStrand _ _ _) ?_ hstep
  rw [count_pend]
  exact countWindow_ready _ _ hready

/-- A strand that has issued: its lanes stand behind the instruction, it is counted, and `ps` is in flight. -/
def Issue.sent (c : Issue) (y : Strand) (ps : List Pending) : Strand := c.count (c.advance { y with pend := y.pend ++ ps })

theorem finish_record {s : State} {y : Strand} (h : Answers.Clean c got) (id : Nat) (hy : s.strand c.key = some y)
    (hready : y.pend.any (·.ready) = false) (hstep : c.st.stepArm = false) :
    c.finish (.done (c.record x id false got [] s)) = { s.setStrand c.key (c.sent y (c.flights x id got)) with
      plan := s.plan ++ answerTurns c.key (c.flights x id got) } := by
  rw [record_clean h, Issue.flights]
  split
  · rw [finish_plain hy hready hstep, Issue.sent, List.append_nil, answerTurns, List.map_nil, List.append_nil]
    rfl
  · have hpend : ({ y with pend := y.pend ++ [c.inFlight x id got] } : Strand).pend.any (·.ready) = false := by
      simp only [List.any_append, hready, Bool.false_or]
      rfl
    rw [adjStrand_eq_setStrand hy]
    change c.finish (.done ((s.later _).setStrand c.key { y with pend := y.pend ++ [c.inFlight x id got] })) = _
    rw [finish_plain (strand_setStrand _ _ _) hpend hstep, setStrand_setStrand]
    rfl

/-- A strand as an access leaves it before it goes on: as it issued, but for its lanes' windows and what it waits for. -/
structure Serving (c : Issue) (y : Strand) : Prop where
  rest : y = { c.st with lanes := y.lanes, wait := y.wait }
  lanes : ∀ l < 4, y.lanes.get l = { c.st.lanes.get l with lp := (y.lanes.get l).lp, bad := (y.lanes.get l).bad }

theorem sent_lanes (c : Issue) (y : Strand) (ps : List Pending) {l : Nat} (hl : l < 4) : (c.sent y ps).lanes.get l
    = if c.set.getLsbD l then
        { y.lanes.get l with flow := { (y.lanes.get l).flow with pc := (y.lanes.get l).flow.pc + c.size } }
      else y.lanes.get l := by
  rw [Issue.sent, count_lanes]
  exact advance_get c _ hl

theorem countWindow_fresh {qs ps : List Pending} (h : ∀ p ∈ ps, ∀ q ∈ qs, q.id ≠ p.id) :
    ((qs ++ ps).map fun p => if qs.any (·.id == p.id) then { p with left := p.left - 1 } else p)
      = (qs.map fun p => { p with left := p.left - 1 }) ++ ps := by
  have hps : (ps.map fun p => if qs.any (·.id == p.id) then { p with left := p.left - 1 } else p) = ps := by
    refine (List.map_congr_left fun p hp => ?_).trans (List.map_id ps)
    have : qs.any (·.id == p.id) = false := List.any_eq_false.mpr fun q hq => by simpa using h p hp q hq
    rw [this]
    rfl
  rw [List.map_append, map_window, hps]

theorem issued_sent {y : Strand} {ps : List Pending} (h : Serving c y) (hfresh : ∀ p ∈ ps, ∀ q ∈ c.st.pend, q.id ≠ p.id) :
    Issued c ps (c.sent y ps) := by
  obtain ⟨hrest, hlanes⟩ := h
  have hflow (l : Nat) (hl : l < 4) : (c.sent y ps).flow l
      = if c.set.getLsbD l then { c.st.flow l with pc := (c.st.flow l).pc + c.size } else c.st.flow l := by
    have hyflow : (y.lanes.get l).flow = c.st.flow l := by rw [hlanes l hl]; rfl
    rw [Strand.flow, sent_lanes c y ps hl, ← hyflow]
    split <;> rfl
  refine ⟨hflow, fun l hl => ?_, ?_⟩
  · rw [hflow l hl, sent_lanes c y ps hl]
    have hyflow : (y.lanes.get l).flow = c.st.flow l := by rw [hlanes l hl]; rfl
    split
    · conv_lhs => rw [hlanes l hl]
      rfl
    · conv_lhs => rw [hlanes l hl]
      rfl
  · have hpend : y.pend = c.st.pend := by rw [hrest]
    have hwindow := countWindow_fresh hfresh
    have hsent : c.sent y ps = { y with
        lanes := (c.sent y ps).lanes, wait := .none
        retcnt := if y.handler.isSome || y.seat.isSome then y.retcnt else y.retcnt + 1
        pend := (c.st.pend.map fun p => { p with left := p.left - 1 }) ++ ps } := by
      rw [← hwindow, ← hpend, Issue.sent, count_lanes]
      unfold Issue.count Strand.countRetired Strand.countWindow Issue.advance Strand.mapFlows Strand.mapLanes
      rw [hpend]
      simp only
      split <;> rfl
    rw [hsent]
    conv_lhs => rw [hrest]
    rw [hrest]

/-! ## The end of an access -/

theorem watchRaise_none {ls : List LogLane} {s : State} (h : (s.heldAt c.it.tile c.it.launch).watches = []) :
    c.watchRaise x ls s = none := by
  unfold Issue.watchRaise
  split
  · rfl
  · have : (ls.filter fun l => (s.heldAt c.it.tile c.it.launch).watches.any fun w => w.2.matches x l.addr) = [] :=
      List.filter_eq_nil_iff.mpr fun l _ => by simp [h]
    dsimp only
    rw [this]

theorem conclude_clean {ls : List LogLane} {s : State} (h : (s.heldAt c.it.tile c.it.launch).watches = []) :
    c.conclude x ls [] s = .done s := by
  simp [Issue.conclude, watchRaise_none h]

end

end Sys2Proof.Machine
end


section
/-! An access of a strand to a local space (R220 to R223, R228), from its checks to the strand that goes on. -/

namespace Sys2Proof.Machine

/-! ## What the access meets -/

/-- Every lane passes the checks of R220 in a local space and reaches bytes that can be read, and no watch is set. -/
structure Access.Fits (c : Issue) (x : Access) (ls : List LogLane) (s : State) : Prop where
  space : localSpace x.m.space = true
  width : x.n ∣ 2 ^ 21
  legal : x.op = none ∨ x.m.space ≠ .lanePrivate
  watches : (s.heldAt c.it.tile c.it.launch).watches = []
  bounds : ∀ l ∈ ls, c.inBounds s x.m.space x.n l.addr
  reaches : ∀ l ∈ ls, Reaches c x s l

section
variable {c : Issue} {x : Access} {ls : List LogLane} {s : State}

theorem fits_unchecked (h : Access.Fits c x ls s) : c.accessFails s x ls = none := by
  have hpos : 0 < x.n := Nat.pos_of_dvd_of_pos h.width (by decide)
  have hspace := h.space
  have hacc : x.m.space ≠ .acc := fun hsp => by rw [hsp] at hspace; cases hspace
  have hlocal : translatedSpace x.m.space = false := by revert hspace; cases x.m.space <;> decide
  refine accessFails_none ?_
  simp only [Issue.accessChecks, List.forall_mem_cons]
  refine ⟨fun l _ => ?_, fun l _ => ?_, fun l hl => ?_, fun l hl => ?_, by simp⟩
  · rw [← Bool.not_eq_true, illegal_iff]
    rintro (hsp | ⟨hop, hsp⟩)
    · exact hacc hsp
    · rcases h.legal with hnone | hnot
      · rw [hnone] at hop
        cases hop
      · exact hnot hsp
  · rw [hlocal, Bool.false_and]
  · simp [(h.reaches l hl).aligned]
  · rw [← Bool.not_eq_true, beyond_iff hacc hpos]
    exact fun hbad => hbad.2 (h.bounds l hl)

theorem fits_not_held (h : Access.Fits c x ls s) (ls' : List LogLane) (t : State) : c.heldBack x ls' t = false := by
  rw [Issue.heldBack, Issue.touchesShared, space_not_global h.space, Bool.false_and, Bool.and_false]

/-! ## The answers -/

theorem serve_replies (ls : List LogLane) (f : Nat → Nat → Byte) :
    ∀ g ∈ (x.serve ls f).1, ∃ old, g.2 = x.reply old g.1.data g.1.cmp := by
  induction ls generalizing f with
  | nil => exact fun g hg => by cases hg
  | cons l ls ih => exact List.forall_mem_cons.mpr ⟨⟨_, rfl⟩, ih _⟩

theorem serve_lanes (ls : List LogLane) (f : Nat → Nat → Byte) : (x.serve ls f).1.map (·.1) = ls := by
  induction ls generalizing f with
  | nil => rfl
  | cons l ls ih => exact congrArg (l :: ·) (ih _)

theorem serve_clean (c : Issue) (ls : List LogLane) (f : Nat → Nat → Byte) : Answers.Clean c (x.serve ls f).1 := by
  refine ⟨fun g hg => ?_, .inr fun g hg => ?_⟩ <;>
  · obtain ⟨old, hreply⟩ := serve_replies ls f g hg
    rw [hreply]
    simp [Access.reply]

/-! ## The sweep with its order -/

/-- The bytes of the space of an access, by lane and address. -/
def Issue.bytesOf (c : Issue) (sp : Space) (s : State) (k a : Nat) : Byte := c.byteAt sp k a s

/-- The lanes of an access, one after another. -/
def Issue.sweep (c : Issue) (x : Access) (home packet : Bool) (ls : List LogLane) (s : State) : Sweep :=
  ls.foldl (fun w l => w.entry x home packet c l) ⟨orderBefore c.it.tile c.key x.m.ord x.m.scope s, [], [], []⟩

/-- The state after the lanes of an access, with what its order says. -/
def Issue.sweepState (c : Issue) (x : Access) (home packet : Bool) (ls : List LogLane) (s : State) : State :=
  orderAfter c.it.tile x.m.ord x.m.scope (c.sweep x home packet ls s).s

theorem sweepState_swept (h : Access.Fits c x ls s) (home packet : Bool) :
    let r := x.serve ls (c.bytesOf x.m.space s)
    let w := c.sweep x home packet ls s
    w.got = (r.1.map fun g => (c.key, g.1, g.2)) ∧ w.faults = [] ∧ Swept c x s (c.sweepState x home packet ls s)
      ∧ ∀ k < 4, ∀ a, c.byteAt x.m.space k a (c.sweepState x home packet ls s) = r.2 k a := by
  intro r w
  have hbefore := orderBefore_alone c.it.tile c.key x.m.ord x.m.scope s
  obtain ⟨t, hfold, hswept, hbytes⟩ := sweep_local (c := c) home packet h.space h.width ls
    ⟨orderBefore c.it.tile c.key x.m.ord x.m.scope s, [], [], []⟩ (c.bytesOf x.m.space s)
    (fun l hl => (h.reaches l hl).mono fun _ _ _ => readable_touched hbefore.touched _ _ _)
    (fun k _ a => byteAt_touched hbefore.touched _ k a)
  have hafter := orderAfter_alone c.it.tile x.m.ord x.m.scope t
  have hw : w = ⟨t, r.1.map fun g => (c.key, g.1, g.2), [], []⟩ := hfold
  have hstate : c.sweepState x home packet ls s = orderAfter c.it.tile x.m.ord x.m.scope t :=
    congrArg (fun w : Sweep => orderAfter c.it.tile x.m.ord x.m.scope w.s) hw
  refine ⟨by rw [hw], by rw [hw], ?_, fun k hk a => ?_⟩
  · rw [hstate]
    exact ((Swept.of_alone hbefore fun hnone => by rw [hnone]; rfl).trans hswept).trans
      (.of_alone hafter fun hnone => by rw [hnone]; rfl)
  · rw [hstate, byteAt_touched hafter.touched]
    exact hbytes k hk a

/-! ## The whole access -/

theorem access_unchecked (hfails : c.accessFails s x ls = none) (hheld : c.heldBack x ls s = false) :
    let w := c.sweep x x.home false ls s
    let t := c.sweepState x x.home false ls s
    let faults := w.faults.map fun g => (g.2.1, g.2.2)
    c.access x ls s = c.conclude x ls faults (c.record x t.nextId false (w.got.map fun g => (g.2.1, g.2.2)) faults
      { t with nextId := t.nextId + 2 }) := by
  intro w t faults
  unfold Issue.access
  rw [hfails]
  dsimp only
  rw [hheld]
  rfl

theorem watches_record {id : Nat} {got : List (LogLane × Reply)} {t : State} (h : Answers.Clean c got) :
    (c.record x id false got [] t).heldAt c.it.tile c.it.launch = t.heldAt c.it.tile c.it.launch := by
  rw [record_clean h]
  split <;> rfl

/-- An instruction performs an access: the state `t` after its lanes, its strand `y` there, and the end. -/
structure Performed (i : Instr) (c : Issue) (x : Access) (ls : List LogLane) (s t : State) (y : Strand) : Prop where
  swept : Swept c x s t
  own : t.strand c.key = some y
  windowed : Windowed x.m.space c.st y
  bytes : ∀ k < 4, ∀ a, c.byteAt x.m.space k a t = (x.serve ls (c.bytesOf x.m.space s)).2 k a
  runs : let ps := c.flights x s.nextId (x.serve ls (c.bytesOf x.m.space s)).1
    exec i s = .next { ({ t with nextId := s.nextId + 2 } : State).setStrand c.key (c.sent y ps) with
      plan := s.plan ++ answerTurns c.key ps }

theorem watches_of_kept {sp : Space} {t : State} (h : Kept c sp s t) (hw : (s.heldAt c.it.tile c.it.launch).watches = []) :
    (t.heldAt c.it.tile c.it.launch).watches = [] := by
  have hregion := h.regions (heldKey c.it.tile c.it.launch)
  unfold State.heldAt at *
  generalize Map.find (heldKey c.it.tile c.it.launch) s.held = before at *
  generalize Map.find (heldKey c.it.tile c.it.launch) t.held = after at *
  cases hregion with
  | none => exact hw
  | some hab =>
    rw [Option.getD_some, hab]
    exact hw

/-- LD, ST and the atomics in a local space. -/
theorem performed_of_access {i : Instr} (h : clear i s = some c) (hexec : exec i s = .next (c.finish (c.access x ls s)))
    (hfits : Access.Fits c x ls s) : ∃ t y, Performed i c x ls s t y := by
  obtain ⟨hgot, hfaults, hswept, hbytes⟩ := sweepState_swept hfits x.home false
  set t := c.sweepState x x.home false ls s with ht
  obtain ⟨y, hy, hwindowed⟩ := hswept.kept.own c.st (clear_strand h)
  have hclean := serve_clean (x := x) c ls (c.bytesOf x.m.space s)
  refine ⟨t, y, hswept, hy, hwindowed, hbytes, ?_⟩
  have hready : y.pend.any (·.ready) = false := by
    rw [hwindowed.rest]
    exact clear_answers h
  have hid : t.nextId = s.nextId := hswept.kept.nextId
  have hplan : t.plan = s.plan := hswept.kept.plan
  have hreplies : ((c.sweep x x.home false ls s).got.map fun g => (g.2.1, g.2.2)) = (x.serve ls (c.bytesOf x.m.space s)).1 := by
    rw [hgot, List.map_map]
    exact List.map_id _
  have hwatches : ((c.record x t.nextId false (x.serve ls (c.bytesOf x.m.space s)).1 [] { t with nextId := t.nextId + 2 }).heldAt
      c.it.tile c.it.launch).watches = [] := by
    rw [watches_record hclean]
    show (t.heldAt c.it.tile c.it.launch).watches = []
    exact watches_of_kept hswept.kept hfits.watches
  intro ps
  rw [hexec, access_unchecked (fits_unchecked hfits) (fits_not_held hfits ls s), hfaults, hreplies, List.map_nil, ← ht,
    conclude_clean hwatches,
    finish_record (s := { t with nextId := t.nextId + 2 }) (y := y) hclean _ hy hready (clear_step h), hid, ← hplan]

end

end Sys2Proof.Machine
end


section
/-! What a served access leaves in flight, and the machine it goes on in (R130, R224). -/

namespace Sys2Proof.Machine

/-! ## What is owed -/

section
variable {c : Issue} {x : Access} {got : List (LogLane × Reply)} {d : Opnd}

theorem fills_eq_fillsOf (hdest : x.dest = some d) (l : LogLane) (y : Reply) :
    c.fills x l y = c.fillsOf x.ty d l.lane y.value := by
  simp only [Issue.fills, hdest, Issue.fillsOf, fillTy_eq_filled]

theorem mem_locks (hdest : x.dest = some d) {ls : List LogLane} {k n : Nat} : (k, n) ∈ c.locks x ls
    ↔ ∃ l ∈ ls, l.lane = k ∧ ∃ j < (if x.ty.isPair then 2 else 1), n = c.index d + j := by
  simp only [Issue.locks, hdest, List.mem_flatMap, List.mem_map, upTo, List.mem_range, Prod.mk.injEq]
  constructor
  · rintro ⟨l, hl, j, hj, hk, hn⟩
    exact ⟨l, hl, hk, j, hj, hn.symm⟩
  · rintro ⟨l, hl, hk, j, hj, hn⟩
    exact ⟨l, hl, j, hj, hk, hn.symm⟩

theorem mem_fillsOf {ty : Ty} {l v : Nat} {w : RegWrite} (h : w ∈ c.fillsOf ty d l v) :
    w.lane = l ∧ ∃ j < (if ty.isPair then 2 else 1), w.reg = c.index d + j := by
  obtain ⟨y, hy, rfl⟩ := List.mem_map.mp h
  have hlt := (List.mem_zipIdx hy).2.1
  rw [length_filled] at hlt
  exact ⟨rfl, y.2, by omega, rfl⟩

theorem owes_inFlight (h : Answers.Clean c got) (hstore : x.store = false) (hdest : x.dest = some d) (hla : x.la = lookahead c.i)
    (id : Nat) : Owes c .load (got.flatMap fun g => c.fillsOf x.ty d g.1.lane g.2.value) (c.inFlight x id got) where
  kind := by rw [Issue.inFlight, hstore]; rfl
  from' := ⟨rfl, rfl, rfl⟩
  left := hla
  writes := by simp only [Issue.inFlight, fills_eq_fillsOf hdest]
  locks w hw := by
    obtain ⟨g, hg, hw⟩ := List.mem_flatMap.mp hw
    obtain ⟨hlane, hreg⟩ := mem_fillsOf hw
    exact (mem_locks hdest).mpr ⟨g.1, List.mem_map_of_mem hg, hlane.symm, hreg⟩
  clean := by
    obtain ⟨hpoisoned, hkilled, hcauses⟩ := inFlight_clean (x := x) h id
    exact ⟨hpoisoned, hkilled, hcauses, rfl, rfl⟩

end

/-! ## The machine of the access -/

section
variable {ord : Order} {s t : State}

/-- The machine after an access, but for strands, regions and convoys. -/
theorem Reached.machine (h : Reached ord s t) : Touched s (t.under s) ∧ (ord ≠ .sc → MemoryAlone s (t.under s))
    ∧ (ord = .none → t.under s = s) :=
  ⟨h.touched.under s, fun hord => (h.alone hord).under s, fun hord => by
    conv_lhs => rw [h.still hord]
    rfl⟩

/-- Strands, regions and convoys are as they were. -/
structure Idle (s t : State) : Prop where
  strands : ∀ k, t.strand k = s.strand k
  held : t.held = s.held
  convoys : t.convoys = s.convoys

theorem Touched.idle (h : Touched s t) : Idle s t :=
  ⟨fun k => by rw [State.strand, h.rest]; rfl, by rw [h.rest], by rw [h.rest]⟩

variable {i : Instr} {c : Issue} {p : Pending}

/-- A strand that has issued goes on beside what its access has touched. -/
theorem does_of_idle (hidle : Idle s t)
    (hexec : exec i s = .next { ({ t with nextId := s.nextId + 2 } : State).setStrand c.key (c.sent c.st []) with plan := s.plan }) :
    ∃ u, Does i c {} s u ∧ u = { t.under s with nextId := u.nextId } := by
  refine ⟨{ t.under s with nextId := s.nextId + 2 }, ⟨_, hexec, ⟨c.sent c.st [], strand_setStrand _ _ _, ?_⟩, fun k hk => ?_, ?_⟩,
      rfl⟩
  · rw [Issue.sent, List.append_nil]
    exact passedBy_moved c
  · exact (strand_setStrand_ne _ _ hk).trans (hidle.strands k)
  · rw [State.under, ← hidle.held, ← hidle.convoys]
    rfl

theorem sends_of_idle (hidle : Idle s t) (hid : p.id = s.nextId) (hfresh : ∀ q ∈ c.st.pend, q.id < s.nextId)
    (hexec : exec i s = .next { ({ t with nextId := s.nextId + 2 } : State).setStrand c.key (c.sent c.st [p]) with
      plan := s.plan ++ answerTurns c.key [p] }) : Sends i c p s (t.under s) := by
  have hissued : Issued c [p] (c.sent c.st [p]) := issued_sent ⟨rfl, fun _ _ => rfl⟩ fun q hq r hr => by
    have hlt := hfresh r hr
    rw [List.mem_singleton.mp hq]
    omega
  have hlane (l : Nat) (hl : l < 4) : ((c.sent c.st [p]).lanes.get l).lp = (c.st.lanes.get l).lp
      ∧ ((c.sent c.st [p]).lanes.get l).bad = (c.st.lanes.get l).bad := by
    rw [sent_lanes c _ _ hl]
    split <;> exact ⟨rfl, rfl⟩
  refine ⟨_, _, hexec, strand_setStrand _ _ _, hissued, hlane, fun k hk => (strand_setStrand_ne _ _ hk).trans (hidle.strands k),
      hid,
    Nat.lt_add_of_pos_right (by decide), ?_⟩
  rw [State.under, ← hidle.held, ← hidle.convoys]
  rfl

end

end Sys2Proof.Machine
end


section
/-! Loads and stores in the local spaces (R222, R223): what the lanes read, and what the highest of them leaves. -/

namespace Sys2Proof.Machine

section
variable {i : Instr} {s t : State} {c : Issue} {x : Access} {y : Strand} {ls : List LogLane}

theorem Performed.machine (h : Performed i c x ls s t y) : Touched s (t.under s) ∧ (x.m.ord ≠ .sc → MemoryAlone s (t.under s))
    ∧ (x.m.ord = .none → t.under s = s) := h.swept.reached.machine

/-! ## Loads -/

theorem overwrite_none (sp : Space) (n lane ea : Nat) (f : Nat → Nat → Byte) : overwrite sp n lane ea none f = f := by
  funext l y
  exact if_neg fun h => by simp at h

theorem serve_load (hload : (x.store || x.op.isSome) = false) (ls : List LogLane) (f : Nat → Nat → Byte) :
    (x.serve ls f).1 = ls.map fun l => (l, { value := littleEndian x.n fun k => f l.lane (l.addr + k) }) := by
  obtain ⟨hstore, hop⟩ := Bool.or_eq_false_iff.mp hload
  rw [Option.isSome_eq_false_iff, Option.isNone_iff_eq_none] at hop
  have hreply (old data cmp : Nat) : x.reply old data cmp = { value := old } := by
    simp [Access.reply, Access.answered, Access.raised, hop, hstore]
  induction ls with
  | nil => rfl
  | cons l ls ih => rw [Access.serve, Access.stored_none.mpr hload, overwrite_none, ih, hreply, List.map_cons]

theorem Performed.idle (h : Performed i c x ls s t y) (hload : (x.store || x.op.isSome) = false) : Idle s t := by
  obtain ⟨hheld, hconvoys, hstrands⟩ := h.swept.idle hload
  exact ⟨hstrands, hheld, hconvoys⟩

theorem foldl_or_zero {α : Type} (f : α → Flags) (l : List α) (h : ∀ a ∈ l, f a = 0) : l.foldl (fun acc a => acc ||| f a) 0
    = 0 := by
  induction l with
  | nil => rfl
  | cons a l ih =>
    obtain ⟨ha, hl⟩ := List.forall_mem_cons.mp h
    rw [List.foldl_cons, ha]
    exact ih hl

variable {m : MemMod} {ty : Ty} {la : BitVec 4} {d : Opnd} {ea : Nat → Nat}

theorem flights_nil (c : Issue) (x : Access) (id : Nat) : c.flights x id [] = [] := if_pos (.inl rfl)

theorem flights_of_load {got : List (LogLane × Reply)} (hgot : got ≠ []) (hstore : x.store = false) (id : Nat) :
    c.flights x id got = [c.inFlight x id got] :=
  if_neg (not_or.mpr ⟨hgot, by simp [hstore]⟩)

theorem flights_of_store (hstore : x.store = true) (id : Nat) (got : List (LogLane × Reply)) : c.flights x id got = [] :=
  if_pos (.inr hstore)

theorem lanesIn_eq_nil {m : BitVec 4} : lanesIn m = [] ↔ m = 0 := by
  refine ⟨fun h => BitVec.eq_of_getLsbD_eq fun l hl => ?_, fun h => by rw [h]; rfl⟩
  rw [show BitVec.getLsbD 0 l = false from BitVec.getLsbD_zero, ← Bool.not_eq_true]
  exact fun hset => absurd ((mem_lanesIn m l).mpr ⟨hl, hset⟩) (by simp [h])

theorem entries_eq_nil {ea f g : Nat → Nat} : c.entries ea f g = [] ↔ c.active = 0 := by
  rw [Issue.entries, List.map_eq_nil_iff, lanesIn_eq_nil]

theorem serve_ne_nil {ls : List LogLane} (h : ls ≠ []) (f : Nat → Nat → Byte) : (x.serve ls f).1 ≠ [] := fun hnil =>
  h (by rw [← serve_lanes (x := x) ls f, hnil]; rfl)

/-- A load that has been performed is in flight; with no active lane it is done. -/
theorem Performed.loads (h : Performed i c (loadAccess la m ty d) (c.entries ea (fun _ => 0) fun _ => 0) s t y)
    (hclear : clear i s = some c) (hla : la.toNat = lookahead c.i) (hfresh : ∀ q ∈ c.st.pend, q.id < s.nextId) :
    (c.active = 0 → ∃ u, Does i c {} s u ∧ u = { t.under s with nextId := u.nextId })
    ∧ (c.active ≠ 0 → ∃ p, Sends i c p s (t.under s) ∧ p.flags = 0
      ∧ Owes c .load ((lanesIn c.active).flatMap fun l =>
          c.fillsOf ty d l (littleEndian (tyBytes ty) fun k => c.byteAt m.space l (ea l + k) s)) p) := by
  have hidle := h.idle rfl
  have hy : y = c.st := Option.some.inj (h.own.symm.trans ((hidle.strands c.key).trans (clear_strand hclear)))
  have hexec := h.runs
  dsimp only at hexec
  rw [hy] at hexec
  refine ⟨fun hactive => ?_, fun hactive => ?_⟩
  · rw [entries_eq_nil.mpr hactive, Access.serve, flights_nil, answerTurns, List.map_nil, List.append_nil] at hexec
    exact does_of_idle hidle hexec
  · have hlanes : c.entries ea (fun _ => 0) (fun _ => 0) ≠ [] := fun hnil => hactive (entries_eq_nil.mp hnil)
    rw [flights_of_load (serve_ne_nil hlanes _) rfl] at hexec
    have hserve := serve_load (x := loadAccess la m ty d) rfl (c.entries ea (fun _ => 0) fun _ => 0) (c.bytesOf m.space s)
    refine ⟨_, sends_of_idle hidle rfl hfresh hexec, ?_, ?_⟩
    · refine foldl_or_zero (fun g : LogLane × Reply => g.2.flags) _ fun g hg => ?_
      obtain ⟨l, -, rfl⟩ := List.mem_map.mp (hserve ▸ hg)
      rfl
    · have howes := owes_inFlight (x := loadAccess la m ty d)
        (serve_clean (x := loadAccess la m ty d) c (c.entries ea (fun _ => 0) fun _ => 0) (c.bytesOf m.space s)) rfl rfl hla s.nextId
      have hwrites : (((loadAccess la m ty d).serve (c.entries ea (fun _ => 0) fun _ => 0) (c.bytesOf m.space s)).1.flatMap
          fun g => c.fillsOf ty d g.1.lane g.2.value) = (lanesIn c.active).flatMap fun l =>
          c.fillsOf ty d l (littleEndian (tyBytes ty) fun k => c.byteAt m.space l (ea l + k) s) := by
        rw [hserve, Issue.entries, List.map_map, List.flatMap_map]
        rfl
      rw [← hwrites]
      exact howes

/-! ## The machine after a store -/

variable {ps : List Pending}

/-- The machine after an access: its strand has issued, and `ps` is in flight. -/
def Issue.sentIn (c : Issue) (s t : State) (y : Strand) (ps : List Pending) : State :=
  { ({ t with nextId := s.nextId + 2 } : State).setStrand c.key (c.sent y ps) with plan := s.plan ++ answerTurns c.key ps }

theorem rel_eq_map {α : Type} {r : α → α → Prop} {f : Option α → α → α} {a b : Option α} (h : Option.Rel r a b)
    (hf : ∀ x z, r x z → z = f (some z) x) : b = a.map (f b) := by
  cases h with
  | none => rfl
  | some h => exact congrArg some (hf _ _ h)

theorem storedIn_sentIn (h : Performed i c x ls s t y) : StoredIn c x.m.space s (t.under s) (c.sentIn s t y ps) where
  others k hk := (strand_setStrand_ne _ _ hk).trans (h.swept.kept.others k hk)
  convoys k := by
    refine rel_eq_map (f := fun b cv => if x.m.space = .shared ∧ k = c.it.convoy then
      { cv with shared := (b.getD cv).shared, bad := (b.getD cv).bad } else cv) (h.swept.kept.convoys k) fun a b hab => ?_
    obtain ⟨hrest, hsame⟩ := hab
    split
    next => exact hrest
    next hnot => exact hsame hnot
  held := h.swept.kept.held
  regions k := rel_eq_map (f := fun b (h : TileLaunch) => { h with scr := (b.getD h).scr, bad := (b.getD h).bad })
    (h.swept.kept.regions k) fun _ _ hab => hab
  apart := h.swept.kept.apart
  rest := rfl

theorem sent_windows (c : Issue) (y : Strand) (ps : List Pending) {l : Nat} (hl : l < 4) :
    ((c.sent y ps).lanes.get l).lp = (y.lanes.get l).lp := by
  rw [sent_lanes c y ps hl]
  split <;> rfl

theorem byteAt_sentIn (h : Performed i c x ls s t y) {l : Nat} (hl : l < 4) (a : Nat) :
    c.byteAt x.m.space l a (c.sentIn s t y ps) = (x.serve ls (c.bytesOf x.m.space s)).2 l a := by
  rw [← h.bytes l hl a]
  have hafter : (c.sentIn s t y ps).strand c.key = some (c.sent y ps) := strand_setStrand _ _ _
  unfold Issue.byteAt
  rw [hafter, h.own]
  cases x.m.space with
  | lanePrivate => simp only [sent_windows c y ps hl]
  | scratch | shared | remoteScratch | acc | dieScratch | global | host => rfl

theorem Windowed.serving {sp : Space} (h : Windowed sp c.st y) : Serving c y where
  rest := by
    conv_lhs => rw [h.rest]
    rw [h.rest]
  lanes := h.lanes

theorem Performed.issued (h : Performed i c x ls s t y) (hfresh : ∀ p ∈ ps, ∀ q ∈ c.st.pend, q.id ≠ p.id) :
    Issued c ps (c.sent y ps) := issued_sent h.windowed.serving hfresh

theorem Performed.windows (h : Performed i c x ls s t y) (hsp : x.m.space ≠ .lanePrivate) {l : Nat} (hl : l < 4) :
    ((c.sent y ps).lanes.get l).lp = (c.st.lanes.get l).lp := by
  rw [sent_windows c y ps hl, (h.windowed.windows hsp l hl).1]

/-! ## Stores -/

/-- A lane's access of `n` bytes reaches a byte of a space. -/
def LogLane.covers (sp : Space) (n lane a : Nat) (l : LogLane) : Bool :=
  (sp != .lanePrivate || l.lane == lane) && decide (l.addr ≤ a ∧ a < l.addr + n)

theorem overwrite_some (sp : Space) (n v lane a : Nat) (l : LogLane) (f : Nat → Nat → Byte) :
    overwrite sp n l.lane l.addr (some v) f lane a = if l.covers sp n lane a then byteOf v (a - l.addr) else f lane a := by
  simp only [overwrite, Option.isSome_some, true_and, LogLane.covers, Bool.and_eq_true, Bool.or_eq_true, bne_iff_ne, beq_iff_eq,
    decide_eq_true_eq, Option.getD_some, eq_comm (a := lane)]

/-- What stores leave in a byte is of the last lane that reaches it. -/
theorem serve_store (hstore : x.store = true) (hop : x.op = none) (ls : List LogLane) (f : Nat → Nat → Byte) (lane a : Nat) :
    (x.serve ls f).2 lane a
      = ((ls.reverse.find? (LogLane.covers x.m.space x.n lane a)).map fun l => byteOf l.data (a - l.addr)).getD (f lane a) := by
  have hstored (old data cmp : Nat) : x.stored old data cmp = some data := by simp [Access.stored, hop, hstore]
  induction ls generalizing f with
  | nil => rfl
  | cons l ls ih =>
    rw [Access.serve, hstored]
    refine (ih _).trans ?_
    rw [List.reverse_cons, List.find?_append, overwrite_some]
    cases ls.reverse.find? (LogLane.covers x.m.space x.n lane a) with
    | some k => rfl
    | none => by_cases hcovers : l.covers x.m.space x.n lane a <;> simp [hcovers]

theorem byteOf_mod {n j : Nat} (v : Nat) (h : j < n) : byteOf (v % 256 ^ n) j = BitVec.ofNat 8 (v / 256 ^ j) := by
  have hpow : 256 ^ n = 256 ^ j * 256 ^ (n - j) := by rw [← Nat.pow_add, Nat.add_sub_cancel' h.le]
  apply BitVec.eq_of_toNat_eq
  rw [byteOf, BitVec.toNat_ofNat, BitVec.toNat_ofNat, hpow, Nat.mod_mul_right_div_self]
  exact Nat.mod_mod_of_dvd _ (dvd_pow_self 256 (by omega))

/-- A store that has been performed leaves in each byte what the highest lane stores there. -/
theorem Performed.stores {b : Opnd} (h : Performed i c (storeAccess la m ty)
      (c.entries ea (fun l => c.value ty.isPair l b % 256 ^ tyBytes ty) fun _ => 0) s t y) :
    ∃ v u z, Touched s v ∧ (m.ord ≠ .sc → MemoryAlone s v) ∧ (m.ord = .none → v = s)
      ∧ exec i s = .next u ∧ StoredIn c m.space s v u ∧ u.plan = s.plan ∧ u.strand c.key = some z ∧ Issued c [] z
      ∧ (m.space ≠ .lanePrivate → ∀ l < 4, (z.lanes.get l).lp = (c.st.lanes.get l).lp)
      ∧ ∀ lane < 4, ∀ n, c.byteAt m.space lane n u
        = match (lanesIn c.active).reverse.find? fun l =>
            (m.space != .lanePrivate || l == lane) && decide (ea l ≤ n ∧ n < ea l + tyBytes ty) with
          | some l => BitVec.ofNat 8 ((if ty.isPair then (c.pair l b).toNat else (c.reg l b).toNat) / 256 ^ (n - ea l))
          | none => c.byteAt m.space lane n s := by
  obtain ⟨htouched, halone, hnone⟩ := h.machine
  have hexec := h.runs
  dsimp only at hexec
  rw [flights_of_store rfl] at hexec
  refine ⟨t.under s, c.sentIn s t y [], c.sent y [], htouched, halone, hnone, hexec, storedIn_sentIn h, List.append_nil _,
    strand_setStrand _ _ _, h.issued (by simp), fun hsp l hl => h.windows hsp hl, fun lane hlane n => ?_⟩
  refine (byteAt_sentIn h hlane n).trans ?_
  rw [serve_store rfl rfl, Issue.entries, ← List.map_reverse, List.find?_map]
  change Option.getD (Option.map _ (Option.map _ (List.find? (fun l => (m.space != .lanePrivate || l == lane)
    && decide (ea l ≤ n ∧ n < ea l + tyBytes ty)) _))) _ = _
  split
  next l hfind =>
    have hcovers := List.find?_some hfind
    simp only [Bool.and_eq_true, decide_eq_true_eq] at hcovers
    rw [hfind]
    exact byteOf_mod _ (show n - ea l < tyBytes ty by omega)
  next hfind =>
    rw [hfind]
    rfl

end

end Sys2Proof.Machine
end


section
/-! Atomics in the local spaces (R228, R229): the lanes one after another, and what an access meets that fits. -/

namespace Sys2Proof.Machine

section
variable {s : State} {c : Issue} {op : AtomOp} {la : BitVec 4} {m : MemMod} {w : Bool} {d : Opnd}

/-! ## The chain of the lanes -/

/-- Bytes of a number of places are served as one lane's are where the space is not a lane's own window. -/
theorem serve_atomic (hsp : m.space ≠ .lanePrivate) (ls : List LogLane) (f : Nat → Nat → Byte) (g : Nat → Byte)
    (hf : ∀ l a, f l a = g a) :
    let r := (atomAccess op la m w d).serve ls f
    let chain := atomChain op (if w then 8 else 4) (ls.map fun l => (l.addr, l.data, l.cmp)) g
    (r.1.map fun x => (x.1.lane, x.2.value)) = (ls.map (·.lane)).zip chain.1
      ∧ (∀ a, r.1.foldl (fun f x => f ||| x.2.flags) a = a ||| chain.2.1) ∧ ∀ l a, r.2 l a = chain.2.2 a := by
  induction ls generalizing f g with
  | nil => exact ⟨rfl, fun a => (BitVec.or_zero).symm, hf⟩
  | cons l ls ih =>
    have hold : (littleEndian (atomAccess op la m w d).n fun k => f l.lane (l.addr + k))
        = littleEndian (if w then 8 else 4) fun k => g (l.addr + k) := littleEndian_congr fun k _ => hf _ _
    obtain ⟨hvalues, hflags, hbytes⟩ := ih
      (overwrite m.space (atomAccess op la m w d).n l.lane l.addr
        ((atomAccess op la m w d).stored (littleEndian (if w then 8 else 4) fun k => g (l.addr + k)) l.data l.cmp) f)
      (fun a => if l.addr ≤ a ∧ a < l.addr + (if w then 8 else 4) then
        BitVec.ofNat 8 ((atomResult op (8 * (if w then 8 else 4)) (littleEndian (if w then 8 else 4) fun k => g (l.addr + k))
          l.data l.cmp).1 / 256 ^ (a - l.addr)) else g a)
      (fun k a => by
        refine (overwrite_some m.space _ _ k a l f).trans ?_
        simp only [LogLane.covers, bne_iff_ne.mpr hsp, Bool.true_or, Bool.true_and, decide_eq_true_eq, hf]
        rfl)
    refine ⟨?_, fun a => ?_, fun k a => ?_⟩
    · rw [Access.serve, hold]
      exact congrArg _ hvalues
    · rw [Access.serve, hold]
      refine (hflags _).trans ?_
      rw [List.map_cons, atomChain, BitVec.or_assoc]
      rfl
    · rw [Access.serve, hold]
      exact hbytes k a

theorem byteAt_lane {sp : Space} (hsp : sp ≠ .lanePrivate) (l a : Nat) : c.byteAt sp l a s = c.byteAt sp 0 a s := by
  cases sp with
  | lanePrivate => exact absurd rfl hsp
  | scratch | shared | remoteScratch | acc | dieScratch | global | host => rfl

variable {i : Instr} {t : State} {y : Strand} {ea f g : Nat → Nat}

/-- Atomics that have been performed have changed the bytes one after another, and the old values are in flight. -/
theorem Performed.atomics (h : Performed i c (atomAccess op la m w d) (c.entries ea f g) s t y) (hsp : m.space ≠ .lanePrivate)
    (hla : la.toNat = lookahead c.i) (hfresh : ∀ q ∈ c.st.pend, q.id < s.nextId) (hactive : c.active ≠ 0) :
    let r := atomChain op (if w then 8 else 4) ((lanesIn c.active).map fun l => (ea l, f l, g l)) fun y => c.byteAt m.space 0 y s
    ∃ v u z p, Touched s v ∧ (m.ord ≠ .sc → MemoryAlone s v) ∧ (m.ord = .none → v = s)
      ∧ exec i s = .next u ∧ StoredIn c m.space s v u ∧ u.strand c.key = some z ∧ Issued c [p] z
      ∧ (∀ l < 4, (z.lanes.get l).lp = (c.st.lanes.get l).lp)
      ∧ u.plan = s.plan ++ [.event (.loadWriteback c.key p.id)] ∧ p.flags = r.2.1
      ∧ Owes c .load (((lanesIn c.active).zip r.1).flatMap fun x => c.fillsOf (if w then .n64 else .n32) d x.1 x.2) p
      ∧ ∀ y, c.byteAt m.space 0 y u = r.2.2 y := by
  intro r
  obtain ⟨htouched, halone, hnone⟩ := h.machine
  obtain ⟨hvalues, hflags, hbytes⟩ := serve_atomic (op := op) (la := la) (w := w) (d := d) hsp (c.entries ea f g)
    (c.bytesOf m.space s) (fun a => c.byteAt m.space 0 a s) fun l a => byteAt_lane hsp l a
  have hclean := serve_clean (x := atomAccess op la m w d) c (c.entries ea f g) (c.bytesOf m.space s)
  have hlanes : c.entries ea f g ≠ [] := fun hnil => hactive (entries_eq_nil.mp hnil)
  have hexec := h.runs
  dsimp only at hexec
  rw [flights_of_load (serve_ne_nil hlanes _) rfl] at hexec
  have hchain : (c.entries ea f g).map (fun l => (l.addr, l.data, l.cmp)) = (lanesIn c.active).map fun l => (ea l, f l, g l) :=
    List.map_map
  have hplaces : (c.entries ea f g).map (·.lane) = lanesIn c.active := List.map_map.trans (List.map_id _)
  rw [hchain] at hvalues hflags hbytes
  rw [hplaces] at hvalues
  refine ⟨t.under s, _, _, _, htouched, halone, hnone, hexec, storedIn_sentIn h, strand_setStrand _ _ _,
      h.issued fun p hp q hq => ?_,
    fun l hl => h.windows hsp hl, rfl, ?_, ?_, fun a => ?_⟩
  · have hlt := hfresh q hq
    rw [List.mem_singleton.mp hp]
    exact Nat.ne_of_lt hlt
  · exact (hflags 0).trans BitVec.zero_or
  · have howes := owes_inFlight (x := atomAccess op la m w d) hclean rfl rfl hla s.nextId
    rw [← hvalues, List.flatMap_map]
    exact howes
  · exact (byteAt_sentIn h (by decide) a).trans (hbytes 0 a)

/-! ## What fits -/

theorem tyBytes_dvd (ty : Ty) : tyBytes ty ∣ 2 ^ 21 := by cases ty <;> decide

theorem atomBytes_dvd (w : Bool) : (if w then 8 else 4) ∣ 2 ^ 21 := by cases w <;> decide

theorem readable_of_sound (hst : s.strand c.key = some c.st) {sp : Space} {l a : Nat} (h : c.sound s sp l a) :
    c.readable s sp l a := by
  cases sp with
  | lanePrivate => exact ⟨c.st, hst, h⟩
  | scratch | shared | remoteScratch => exact h
  | acc | dieScratch | global | host => exact h.elim

theorem near_of_inBounds {sp : Space} {n a : Nat} (h : c.inBounds s sp n a) (hsp : sp = .remoteScratch) : a < 2 ^ 33 := by
  subst hsp
  exact h.1

/-- What the statements ask of the active lanes is what their access asks. -/
theorem fits_entries {x : Access} (hst : s.strand c.key = some c.st) (h : c.fits s x.m.space x.n ea) (hwidth : x.n ∣ 2 ^ 21)
    (hlegal : x.op = none ∨ x.m.space ≠ .lanePrivate) : Access.Fits c x (c.entries ea f g) s := by
  obtain ⟨hspace, hwatches, hlanes⟩ := h
  refine ⟨hspace, hwidth, hlegal, hwatches, fun e he => ?_, fun e he => ?_⟩
  · obtain ⟨l, hl, hactive, rfl⟩ := mem_entries.mp he
    exact (hlanes l hl hactive).2.1
  · obtain ⟨l, hl, hactive, rfl⟩ := mem_entries.mp he
    obtain ⟨halign, hbounds, hsound⟩ := hlanes l hl hactive
    exact ⟨hl, halign, near_of_inBounds hbounds, readable_of_sound hst hsound⟩

end

theorem parts_lookahead {i : Instr} {op : AtomOp} {m : MemMod} {w : Bool} {d a b : Opnd} {e : Int}
    (h : atomParts i = some (op, m, w, d, a, b, e)) : ∃ la : BitVec 4, lookahead i = la.toNat := by
  unfold atomParts at h
  split at h
  case h_16 => cases h
  all_goals exact ⟨_, rfl⟩

/-- Settles O36: every atomic is one access of the active lanes, served one after another. -/
theorem localAtomicsComplete : Obligations.LocalAtomicsComplete := by
  unfold Obligations.LocalAtomicsComplete
  intro i op m w d a b e s c hparts h hsp n ea value hfits hfresh hactive
  have haccess : Access.Fits c (atomAccess op (lookahead i) m w d) (c.entries ea (value b) (value d)) s :=
    fits_entries (clear_strand h) hfits (atomBytes_dvd w) (.inr hsp)
  obtain ⟨t, y, hperformed⟩ := performed_of_access h (exec_atomic hparts h) haccess
  obtain ⟨la, hla⟩ := parts_lookahead hparts
  refine hperformed.atomics hsp ?_ hfresh hactive
  rw [clear_instr h, hla, natCast_toNat]

end Sys2Proof.Machine
end


section
/-! Lane operations of one strand (R277): a strand whose lanes all arrive at once performs the operation for them. -/

namespace Sys2Proof.Machine

/-! ## Lists -/

theorem foldl_fixed_of_mem {α β : Type} {f : β → α → β} {b : β} {l : List α} (h : ∀ a ∈ l, f b a = b) : l.foldl f b = b := by
  induction l with
  | nil => rfl
  | cons a l ih =>
    obtain ⟨ha, hl⟩ := List.forall_mem_cons.mp h
    rw [List.foldl_cons, ha]
    exact ih hl

/-- Lists that are empty or one and the same follow one another. -/
theorem flatMap_starts {α β : Type} {f : α → List β} {l : List β} {as : List α} (h : ∀ a ∈ as, f a = [] ∨ f a = l)
    (hmem : ∃ a ∈ as, f a = l) : ∃ rest, as.flatMap f = l ++ rest ∧ ∀ b ∈ rest, b ∈ l := by
  induction as with
  | nil => simp at hmem
  | cons a as ih =>
    obtain ⟨ha, has⟩ := List.forall_mem_cons.mp h
    by_cases hfirst : f a = l
    · refine ⟨as.flatMap f, by rw [List.flatMap_cons, hfirst], fun b hb => ?_⟩
      obtain ⟨k, hk, hb⟩ := List.mem_flatMap.mp hb
      rcases has k hk with hnil | heq
      · rw [hnil] at hb
        cases hb
      · exact heq ▸ hb
    · have hnil := ha.resolve_right hfirst
      rw [List.flatMap_cons, hnil, List.nil_append]
      refine ih has ?_
      obtain ⟨k, hk, heq⟩ := hmem
      rcases List.mem_cons.mp hk with rfl | hk
      · exact absurd heq hfirst
      · exact ⟨k, hk, heq⟩

theorem eraseDups_same {α : Type} [DecidableEq α] {a : α} {l : List α} (h : ∀ b ∈ l, b = a) : (a :: l).eraseDups = [a] := by
  have hnone : (l.filter fun b => !b == a) = [] := List.filter_eq_nil_iff.mpr fun b hb => by simp [h b hb]
  rw [List.eraseDups_cons, hnone]
  rfl

theorem sortedBy_of_pairwise {α : Type} {le : α → α → Bool} {l : List α} (h : l.Pairwise fun a b => le a b = true) :
    l.sortedBy le = l := by
  induction h with
  | nil => rfl
  | @cons a l ha _ ih =>
    change List.putBy le a (l.sortedBy le) = a :: l
    rw [ih]
    cases l with
    | nil => rfl
    | cons b l => exact if_pos (ha b List.mem_cons_self)

theorem lanesIn_pairwise (m : BitVec 4) : (lanesIn m).Pairwise (· < ·) := List.Pairwise.filter _ List.pairwise_lt_range

theorem Quad.get_min {α : Type} (q : Quad α) (j : Nat) : q.get j = q.get (min j 3) := by
  match j with
  | 0 | 1 | 2 => rfl
  | j + 3 => rw [Nat.min_eq_right (by omega)]; rfl

theorem maskOf_congr {f g : Nat → Bool} (h : ∀ l < 4, f l = g l) : maskOf f = maskOf g := by
  refine BitVec.eq_of_getLsbD_eq fun l hl => ?_
  rw [getLsbD_maskOf f hl, getLsbD_maskOf g hl, h l hl]

theorem maskOf_getLsbD (m : BitVec 4) : (maskOf fun l => m.getLsbD l) = m :=
  BitVec.eq_of_getLsbD_eq fun _ hl => getLsbD_maskOf _ hl

/-! ## Lanes at one place -/

theorem Flow.same_iff {a b : Flow} : a.same b = true ↔ a.pc = b.pc ∧ a.depth = b.depth := by simp [Flow.same]

theorem before_of_same {a b : Flow} (h : a.same b = true) : a.before b = false := by
  obtain ⟨hpc, hdepth⟩ := Flow.same_iff.mp h
  simp [Flow.before, hpc, hdepth]

theorem front_of_same {st : Strand} {m : BitVec 4} (h : ∀ k ∈ lanesIn m, ∀ l ∈ lanesIn m, (st.flow k).same (st.flow l) = true) :
    st.front m = m := by
  unfold Strand.front
  cases hlanes : lanesIn m with
  | nil => exact (lanesIn_eq_nil.mp hlanes).symm
  | cons l ls =>
    rw [hlanes] at h
    have hbest : ls.foldl (fun b i => if (st.flow i).before b then st.flow i else b) (st.flow l) = st.flow l :=
      foldl_fixed_of_mem fun k hk => by
        rw [before_of_same (h k (List.mem_cons_of_mem l hk) l List.mem_cons_self)]
        rfl
    dsimp only
    rw [hbest]
    refine (maskOf_congr fun k hk => ?_).trans (maskOf_getLsbD m)
    cases hm : m.getLsbD k with
    | false => rfl
    | true => exact h k (hlanes ▸ (mem_lanesIn m k).mpr ⟨hk, hm⟩) l List.mem_cons_self

/-! ## A strand that waits at a lane operation -/

/-- The strand with the lanes of a mask at a lane operation, where it waits. -/
def Strand.parked (st : Strand) (m : BitVec 4) (i : Instr) : Strand :=
  { st.mapLanes m (fun l => { l with atOp := some i }) with wait := .laneOp }

section
variable (st : Strand) (m : BitVec 4) (i : Instr)

theorem parked_get {l : Nat} (hl : l < 4) : (st.parked m i).lanes.get l
    = if m.getLsbD l then { st.lanes.get l with atOp := some i } else st.lanes.get l := Strand.mapLanes_get m
        (fun l => { l with atOp := some i }) st hl

theorem parked_lane (l : Nat) : (st.parked m i).lanes.get l
    = { st.lanes.get l with atOp := ((st.parked m i).lanes.get l).atOp } := by
  rw [Quad.get_min, Quad.get_min st.lanes]
  have hl : min l 3 < 4 := by omega
  rw [parked_get st m i hl]
  split <;> rfl

theorem parked_flow (l : Nat) : (st.parked m i).flow l = st.flow l := by
  rw [Strand.flow, parked_lane]
  rfl

theorem parked_live : (st.parked m i).live = st.live := maskOf_congr fun l _ => by
  rw [parked_lane]
  rfl

theorem parked_pool : (st.parked m i).pool = st.pool := by
  unfold Strand.pool
  rw [parked_live]
  rfl

theorem parked_set : (st.parked m i).set = st.set := by
  rw [Strand.set, parked_pool]
  rfl

theorem parked_guard (g : Guard) (l : Nat) : guardHolds g ((st.parked m i).lanes.get l) = guardHolds g (st.lanes.get l) := by
  rw [parked_lane]
  rfl

end

/-- An issue of the strand as it waits at its lane operation. -/
def Issue.parked (c : Issue) : Issue := { c with st := c.st.parked c.set c.i }

theorem issueOf_parked {i : Instr} {s : State} {c : Issue} (h : issueOf i s = some c) :
    issueOf i { s.setStrand c.key c.parked.st with cur := c.key } = some c.parked := by
  unfold issueOf at h
  split at h
  next => cases h
  next st hst =>
    split at h
    next => cases h
    next it hit =>
      split at h
      next => cases h
      next la hla =>
        cases h
        unfold issueOf
        have hown : ({ s.setStrand s.cur (st.parked st.set i) with cur := s.cur } : State).strand s.cur
            = some (st.parked st.set i) :=
          strand_setStrand _ _ _
        dsimp only [Issue.parked]
        rw [hown]
        dsimp only
        rw [show Map.find (st.parked st.set i).item (s.setStrand s.cur (st.parked st.set i)).items = some it from hit]
        dsimp only
        rw [show Map.find it.launch (s.setStrand s.cur (st.parked st.set i)).launches = some la from hla]
        simp only [parked_set, parked_flow, parked_live, parked_guard]
        rfl

/-! ## The arrival -/

section
variable {c : Issue} {s : State}

theorem gathered_pool (hg : Gathered c s) (hset : c.set = c.st.set) : c.st.pool = c.set ∧ c.st.cur = c.set := by
  obtain ⟨-, -, -, hcur, -, -⟩ := hg
  have hpool : c.set = c.st.pool := by rw [hset, Strand.set, hcur, BitVec.and_self]
  exact ⟨hpool.symm, hcur.trans hpool.symm⟩

theorem gathered_lane (hg : Gathered c s) {l : Nat} (hl : l ∈ lanesIn c.set) : (c.st.lanes.get l).atOp = none := by
  obtain ⟨-, -, -, -, hlanes, -⟩ := hg
  obtain ⟨hl, hmem⟩ := (mem_lanesIn _ _).mp hl
  exact (hlanes l hl hmem).2.1

theorem gathered_same (hg : Gathered c s) {k l : Nat} (hk : k ∈ lanesIn c.set) (hl : l ∈ lanesIn c.set) :
    (c.st.flow k).same (c.st.flow l) = true := by
  obtain ⟨-, -, -, -, hlanes, -⟩ := hg
  obtain ⟨hk, hkset⟩ := (mem_lanesIn _ _).mp hk
  obtain ⟨hl, hlset⟩ := (mem_lanesIn _ _).mp hl
  obtain ⟨hkpc, -, hdepth⟩ := hlanes k hk hkset
  obtain ⟨hlpc, -, -⟩ := hlanes l hl hlset
  exact Flow.same_iff.mpr ⟨hkpc.trans hlpc.symm, hdepth l hl hlset⟩

theorem gathered_rejoin (hg : Gathered c s) (hset : c.set = c.st.set) : c.st.rejoin = c.st := by
  obtain ⟨hpool, hcur⟩ := gathered_pool hg hset
  have hfree : c.st.free = c.set := by
    rw [Strand.free, hpool]
    refine BitVec.eq_of_getLsbD_eq fun l hl => ?_
    rw [BitVec.getLsbD_and, getLsbD_maskOf _ hl]
    cases hm : c.set.getLsbD l with
    | false => rfl
    | true => rw [gathered_lane hg ((mem_lanesIn _ _).mpr ⟨hl, hm⟩)]; rfl
  have hfront : c.st.front (c.st.free ||| c.set) = c.set := by
    rw [hfree, BitVec.or_self]
    exact front_of_same fun k hk l hl => gathered_same hg hk hl
  unfold Strand.rejoin
  rw [← hset]
  cases hlow : lowest c.set with
  | none => rfl
  | some e =>
    have he : e ∈ lanesIn c.set := List.mem_of_head? hlow
    dsimp only
    rw [hfront, hlow]
    dsimp only
    rw [before_of_same (gathered_same hg he he)]
    have hmerged : (maskOf fun i => c.st.pool.getLsbD i && (c.st.flow i).same (c.st.flow e)) = c.st.cur := by
      rw [hpool, hcur]
      refine (maskOf_congr fun l hl => ?_).trans (maskOf_getLsbD c.set)
      cases hm : c.set.getLsbD l with
      | false => rfl
      | true => exact gathered_same hg ((mem_lanesIn _ _).mpr ⟨hl, hm⟩) he
    rw [hmerged]
    rfl

theorem gathered_resettle (hg : Gathered c s) (hset : c.set = c.st.set) :
    let st := c.st.mapLanes c.set fun l => { l with atOp := some c.i }
    st.resettle = st ∧ st.free = 0 := by
  intro st
  obtain ⟨hpool, hcur⟩ := gathered_pool hg hset
  have hstpool : st.pool = c.set := (parked_pool c.st c.set c.i).trans hpool
  have hfree : st.free = 0 := by
    rw [Strand.free, hstpool]
    refine BitVec.eq_of_getLsbD_eq fun l hl => ?_
    rw [BitVec.getLsbD_and, getLsbD_maskOf _ hl, show st.lanes.get l = _ from Strand.mapLanes_get c.set _ c.st hl]
    cases hm : c.set.getLsbD l <;> simp
  refine ⟨?_, hfree⟩
  have hfront : st.front st.pool = st.cur := by
    rw [hstpool]
    refine (front_of_same fun k hk l hl => ?_).trans hcur.symm
    rw [show st.flow k = _ from parked_flow c.st c.set c.i k, show st.flow l = _ from parked_flow c.st c.set c.i l]
    exact gathered_same hg hk hl
  unfold Strand.resettle
  rw [hfree, hfront]
  simp

/-- Where all lanes of a strand arrive at once, the operation is performed. -/
theorem arrive_gathered (hst : s.strand c.key = some c.st) (hset : c.set = c.st.set) (hg : Gathered c s) :
    arrive c s = .over (performOp c.key (s.setStrand c.key c.parked.st)) := by
  obtain ⟨-, hcur⟩ := gathered_pool hg hset
  obtain ⟨hresettle, hfree⟩ := gathered_resettle hg hset
  have hsome : (c.st.cur &&& c.set == 0) = false := by
    obtain ⟨-, -, hne, -⟩ := hg
    rw [hcur, BitVec.and_self]
    exact beq_eq_false_iff_ne.mpr hne
  unfold arrive
  rw [hst]
  dsimp only
  rw [gathered_rejoin hg hset, hsome, ← hset, hresettle, hfree]
  rfl

end

end Sys2Proof.Machine
end


section
/-! GATHER and SCATTER of one strand's lanes (R225): the packet is one access of its active lanes. -/

namespace Sys2Proof.Machine

section
variable {c : Issue} {s : State}

/-! ## The lanes of the operation -/

/-- The lanes of a strand at their operation. -/
def Issue.opLanes (c : Issue) : List OpLane := (lanesIn c.set).map fun l => ⟨c.key, l, c.st.opNumber l⟩

/-- The strand's lanes in their order, and none other. -/
def Issue.OpLanes (c : Issue) (ls : List OpLane) : Prop := ∃ rest, ls = c.opLanes ++ rest ∧ ∀ x ∈ rest, x ∈ c.opLanes

theorem Issue.OpLanes.mem {ls : List OpLane} (h : c.OpLanes ls) {x : OpLane} :
    x ∈ ls ↔ x.key = c.key ∧ x.lane ∈ lanesIn c.set ∧ x.j = c.st.opNumber x.lane := by
  obtain ⟨rest, rfl, hrest⟩ := h
  have hmine : x ∈ c.opLanes ↔ x.key = c.key ∧ x.lane ∈ lanesIn c.set ∧ x.j = c.st.opNumber x.lane := by
    rw [Issue.opLanes, List.mem_map]
    constructor
    · rintro ⟨l, hl, rfl⟩
      exact ⟨rfl, hl, rfl⟩
    · rintro ⟨hkey, hlane, hj⟩
      exact ⟨x.lane, hlane, by rw [← hkey, ← hj]⟩
  rw [List.mem_append, ← hmine]
  exact ⟨fun hx => hx.elim id (hrest x), .inl⟩

theorem Issue.OpLanes.head {ls : List OpLane} (h : c.OpLanes ls) {e : Nat} (he : lowest c.set = some e) :
    ∃ rest, ls = ⟨c.key, e, c.st.opNumber e⟩ :: rest := by
  obtain ⟨rest, rfl, -⟩ := h
  obtain ⟨ls, hls⟩ := List.head?_eq_some_iff.mp he
  rw [Issue.opLanes, hls]
  exact ⟨_, rfl⟩

theorem opLanes_gathered (hset : c.set = c.st.set) (hg : Gathered c s) :
    c.OpLanes (opLanes (s.setStrand c.key c.parked.st) c.key c.parked.st c.it) := by
  obtain ⟨hpool, -⟩ := gathered_pool hg hset
  have hmine : c.parked.st.pool = c.set := (parked_pool c.st c.set c.i).trans hpool
  obtain ⟨-, -, -, -, -, halone⟩ := hg
  unfold opLanes opStrands
  by_cases hown : (c.parked.st.handler.isSome || c.parked.st.seat.isSome) = true
  · simp only [if_pos hown, List.flatMap_cons, List.flatMap_nil, List.append_nil, strand_setStrand, hmine]
    exact ⟨[], by rw [List.append_nil]; rfl, by simp⟩
  · have hnone : c.parked.st.handler = none := by
      cases hh : c.parked.st.handler with
      | none => rfl
      | some _ => simp [hh] at hown
    have hlive : c.parked.st.live = c.set := by
      rw [← hmine, Strand.pool, hnone]
    have hhandler (hh : c.st.handler.isSome = true) : False := hown (by rw [show c.parked.st.handler.isSome = true from hh]; rfl)
    have hseat (hh : c.st.seat.isSome = true) : False := hown (by rw [show c.parked.st.seat.isSome = true from hh, Bool.or_true])
    obtain ⟨hmem, hothers⟩ := (halone.resolve_left hhandler).resolve_left hseat
    simp only [if_neg hown]
    refine flatMap_starts (fun k hk => ?_) ⟨c.key, hmem, ?_⟩
    · by_cases hkey : k = c.key
      · subst hkey
        rw [strand_setStrand]
        exact .inr (by dsimp only; rw [hlive]; rfl)
      · rw [strand_setStrand_ne _ _ hkey]
        cases hx : s.strand k with
        | none => exact .inl rfl
        | some x =>
          have hdead : x.live = 0 := eq_of_beq (hothers k hk hkey x hx)
          exact .inl (by dsimp only; rw [hdead]; rfl)
    · rw [strand_setStrand]
      dsimp only
      rw [hlive]
      rfl

/-! ## The point and the issue -/

theorem opPoint_gathered {ls : List OpLane} (hls : c.OpLanes ls) (hg : Gathered c s) {e : Nat} (he : lowest c.set = some e) :
    opPoint (s.setStrand c.key c.parked.st) (c.parked.st.handler.isSome || c.parked.st.seat.isSome) ls
      = some (c.st.flow e, c.i) := by
  have harrived (x : OpLane) (hx : x ∈ ls) : x.arrived (s.setStrand c.key c.parked.st)
      (c.parked.st.handler.isSome || c.parked.st.seat.isSome) = some (c.st.flow x.lane, c.i) := by
    obtain ⟨hkey, hlane, -⟩ := hls.mem.mp hx
    obtain ⟨hl, hm⟩ := (mem_lanesIn _ _).mp hlane
    have hlanes : c.parked.st.lanes.get x.lane = { c.st.lanes.get x.lane with atOp := some c.i } :=
      (parked_get c.st c.set c.i hl).trans (if_pos hm)
    unfold OpLane.arrived
    rw [hkey, strand_setStrand]
    dsimp only
    have hown : (c.parked.st.handler.isSome && !(c.parked.st.handler.isSome || c.parked.st.seat.isSome)) = false := by
      cases c.parked.st.handler <;> rfl
    rw [hlanes, hown]
    rfl
  have hmap : ls.map (·.arrived (s.setStrand c.key c.parked.st) (c.parked.st.handler.isSome || c.parked.st.seat.isSome))
      = ls.map fun x => some (c.st.flow x.lane, c.i) := List.map_congr_left harrived
  obtain ⟨rest, hrest⟩ := hls.head he
  unfold opPoint
  rw [hmap]
  have hall : (ls.map fun x => some (c.st.flow x.lane, c.i)).any Option.isNone = false :=
    List.any_eq_false.mpr fun y hy => by
      obtain ⟨x, -, rfl⟩ := List.mem_map.mp hy
      simp
  have hid : (ls.map fun x => some (c.st.flow x.lane, c.i)).filterMap id = ls.map fun x => (c.st.flow x.lane, c.i) := by
    rw [List.filterMap_map]
    exact congrFun (List.filterMap_eq_map (f := fun x : OpLane => (c.st.flow x.lane, c.i))) ls
  dsimp only
  rw [hall, hid, hrest, List.map_cons]
  dsimp only
  rw [if_neg Bool.false_ne_true, foldl_fixed_of_mem]
  intro y hy
  obtain ⟨x, hx, rfl⟩ := List.mem_map.mp hy
  obtain ⟨-, hlane, -⟩ := hls.mem.mp (hrest ▸ List.mem_cons_of_mem _ hx)
  rw [before_of_same (gathered_same hg hlane (List.mem_of_head? he))]
  rfl

theorem opIssues_gathered {ls : List OpLane} (hissue : issueOf c.i s = some c) (hset : c.set = c.st.set) (hls : c.OpLanes ls)
    (hg : Gathered c s) {e : Nat} (he : lowest c.set = some e) :
    opIssues (s.setStrand c.key c.parked.st) c.i (c.st.flow e) ls = [c.parked] := by
  obtain ⟨-, hcur⟩ := gathered_pool hg hset
  obtain ⟨rest, hrest⟩ := hls.head he
  have hkeys : (ls.map (·.key)).eraseDups = [c.key] := by
    rw [hrest, List.map_cons]
    refine eraseDups_same fun k hk => ?_
    obtain ⟨x, hx, rfl⟩ := List.mem_map.mp hk
    exact (hls.mem.mp (hrest ▸ List.mem_cons_of_mem _ hx)).1
  have hmask : (maskOf fun l => (ls.any fun x => x.key == c.key && x.lane == l) && (c.parked.st.flow l).same (c.st.flow e))
      = c.set := by
    refine (maskOf_congr fun l hl => ?_).trans (maskOf_getLsbD c.set)
    cases hm : c.set.getLsbD l with
    | false =>
      rw [Bool.and_eq_false_iff]
      refine .inl (List.any_eq_false.mpr fun x hx hxl => ?_)
      obtain ⟨-, hlane, -⟩ := hls.mem.mp hx
      rw [Bool.and_eq_true, beq_iff_eq, beq_iff_eq] at hxl
      rw [hxl.2, mem_lanesIn, hm] at hlane
      exact Bool.false_ne_true hlane.2
    | true =>
      have hlane : l ∈ lanesIn c.set := (mem_lanesIn _ _).mpr ⟨hl, hm⟩
      rw [show c.parked.st.flow l = _ from parked_flow c.st c.set c.i l, gathered_same hg hlane (List.mem_of_head? he),
        Bool.and_true]
      exact List.any_eq_true.mpr ⟨⟨c.key, l, c.st.opNumber l⟩, hls.mem.mpr ⟨rfl, hlane, rfl⟩, by simp⟩
  have hne : (c.set == 0) = false := by
    obtain ⟨-, -, hne, -⟩ := hg
    exact beq_eq_false_iff_ne.mpr hne
  have hparked : ({ c.parked.st with cur := c.set } : Strand) = c.parked.st := by
    rw [show c.set = c.parked.st.cur from hcur.symm]
  unfold opIssues
  dsimp only
  rw [hkeys, List.filterMap_cons, strand_setStrand]
  dsimp only
  rw [hmask, hne, hparked, setStrand_setStrand, if_neg Bool.false_ne_true, issueOf_parked hissue]
  rfl

end

end Sys2Proof.Machine
end


section
/-! GATHER and SCATTER of one strand's lanes (R225): the entries of the packet, their access, and the strand that goes on. -/

namespace Sys2Proof.Machine

section
variable {c : Issue} {s : State} {x : Access} {ea f : Nat → Nat}

/-! ## The entries -/

theorem parked_regAt (c : Issue) (l : Nat) (o : Opnd) (k : Nat) : c.parked.regAt l o k = c.regAt l o k := by
  have hlane : (c.parked.st.lanes.get l).v = (c.st.lanes.get l).v := by
    rw [show c.parked.st.lanes.get l = _ from parked_lane c.st c.set c.i l]
  unfold Issue.regAt
  rw [hlane]
  rfl

theorem parked_reg (c : Issue) (l : Nat) (o : Opnd) : c.parked.reg l o = c.reg l o := parked_regAt c l o 0

theorem parked_pair (c : Issue) (l : Nat) (o : Opnd) : c.parked.pair l o = c.pair l o := by
  rw [Issue.pair, parked_regAt, parked_regAt]
  rfl

theorem parked_value (c : Issue) (wide : Bool) (l : Nat) (o : Opnd) : c.parked.value wide l o = c.value wide l o := by
  rw [Issue.value, parked_pair, parked_reg]
  rfl

theorem parked_address (c : Issue) (sp : Space) (l : Nat) (a : Opnd) (e : Int) : c.parked.address sp l a e
    = c.reaches sp a e l := by
  rw [address_eq_reaches, Issue.reaches, parked_pair, parked_reg]
  rfl

theorem of_getLsbD_ite {p q : Prop} [Decidable p] {m n : BitVec 4} {l : Nat} (hm : m.getLsbD l = true → q)
    (hn : n.getLsbD l = true → q) (h : (if p then m else n).getLsbD l = true) : q := by
  split at h
  · exact hm h
  · exact hn h

/-- Only lanes of the executing set are active. -/
theorem active_subset {i : Instr} (h : issueOf i s = some c) {l : Nat} (hl : l ∈ lanesIn c.active) : l ∈ lanesIn c.set := by
  unfold issueOf at h
  split at h
  next => cases h
  next st hst =>
    split at h
    next => cases h
    next it hit =>
      split at h
      next => cases h
      next la hla =>
        cases h
        obtain ⟨hlt, hl⟩ := (mem_lanesIn _ _).mp hl
        refine (mem_lanesIn _ _).mpr ⟨hlt, ?_⟩
        have hguard {b : Bool} : (if b = true then st.set else 0).getLsbD l = true → st.set.getLsbD l = true :=
          of_getLsbD_ite id fun h => absurd h (by simp)
        refine of_getLsbD_ite id (of_getLsbD_ite hguard (of_getLsbD_ite hguard fun h => ?_)) hl
        rw [getLsbD_maskOf _ hlt, Bool.and_eq_true] at h
        exact h.1

/-- The entries of the packet: the active lanes with their addresses and data, by their numbers. -/
def Issue.packet (c : Issue) (ea f : Nat → Nat) : List (Nat × Issue × LogLane) :=
  (lanesIn c.active).map fun l => (c.st.opNumber l, c.parked, ⟨l, ea l, f l, 0⟩)

theorem packet_entries : (c.packet ea f).map (·.2.2) = c.parked.entries ea f fun _ => 0 := List.map_map

theorem opNumber_mono (st : Strand) {k l : Nat} (h : k ≤ l) : st.opNumber k ≤ st.opNumber l := by
  unfold Strand.opNumber
  split
  · split
    · exact Nat.le_refl 0
    · exact h
  · omega

theorem packet_sorted : ((c.packet ea f).sortedBy fun a b => a.1 ≤ b.1) = c.packet ea f := by
  refine sortedBy_of_pairwise (List.pairwise_map.mpr ((lanesIn_pairwise c.active).imp fun hkl => ?_))
  exact decide_eq_true (opNumber_mono c.st hkl.le)

theorem number_gathered {ls : List OpLane} (hls : c.OpLanes ls) {l : Nat} (hl : l ∈ lanesIn c.set) :
    ((ls.find? fun y => y.key == c.key && y.lane == l).map (·.j)).getD 0 = c.st.opNumber l := by
  have hsome : (ls.find? fun y => y.key == c.key && y.lane == l).isSome :=
    List.find?_isSome.mpr ⟨⟨c.key, l, c.st.opNumber l⟩, hls.mem.mpr ⟨rfl, hl, rfl⟩, by simp⟩
  obtain ⟨y, hy⟩ := Option.isSome_iff_exists.mp hsome
  obtain ⟨-, -, hj⟩ := hls.mem.mp (List.mem_of_find?_eq_some hy)
  have hlane := List.find?_some hy
  rw [Bool.and_eq_true, beq_iff_eq, beq_iff_eq] at hlane
  rw [hy, ← hlane.2]
  exact hj

/-- The address of a lane of the packet (R225): the elected lane's base and the lane's offset. -/
def Issue.packetAddress (c : Issue) (sp : Space) (a b : Opnd) (e l : Nat) : Nat :=
  (c.reaches sp a 0 e + (c.reg l b).toNat) % (if sp.pairAddr then 2 ^ 64 else 2 ^ 33)

theorem lowBits_add (sp : Space) (x y : Nat) :
    lowBits (if sp.pairAddr then 64 else 33) ((x : Int) + y) = (x + y) % (if sp.pairAddr then 2 ^ 64 else 2 ^ 33) := by
  unfold lowBits
  cases sp.pairAddr <;> simp <;> omega

variable {g : Guard} {la : BitVec 4} {m : MemMod} {ty : Ty} {d a b : Opnd} {ls : List OpLane} {e : Nat}

theorem packetEntries_gather (hactive : ∀ l ∈ lanesIn c.active, l ∈ lanesIn c.set) (hls : c.OpLanes ls)
    (he : lowest c.set = some e) :
    packetEntries (s.setStrand c.key c.parked.st) (.gather g la m ty d a b) c.parked (loadAccess la m ty d) ls [c.parked]
        (fun key lane => ((ls.find? fun x => x.key == key && x.lane == lane).map (·.j)).getD 0)
      = c.packet (c.packetAddress m.space a b e) fun _ => 0 := by
  obtain ⟨rest, hrest⟩ := hls.head he
  unfold packetEntries
  simp only [hrest, strand_setStrand, List.flatMap_cons, List.flatMap_nil, List.append_nil]
  rw [← hrest]
  refine List.map_congr_left fun l hl => ?_
  rw [show c.parked.key = c.key from rfl, number_gathered hls (hactive l hl), lowBits_add, parked_reg]
  exact congrArg (fun y => (_, _, (⟨l, (y + _) % _, _, _⟩ : LogLane))) (parked_address c m.space e a 0)

theorem packetEntries_scatter (hactive : ∀ l ∈ lanesIn c.active, l ∈ lanesIn c.set) (hls : c.OpLanes ls)
    (he : lowest c.set = some e) :
    packetEntries (s.setStrand c.key c.parked.st) (.scatter g la m ty a b d) c.parked (storeAccess la m ty) ls [c.parked]
        (fun key lane => ((ls.find? fun x => x.key == key && x.lane == lane).map (·.j)).getD 0)
      = c.packet (c.packetAddress m.space a b e) fun l => c.value ty.isPair l d % 256 ^ tyBytes ty := by
  obtain ⟨rest, hrest⟩ := hls.head he
  unfold packetEntries
  simp only [hrest, strand_setStrand, List.flatMap_cons, List.flatMap_nil, List.append_nil]
  rw [← hrest]
  refine List.map_congr_left fun l hl => ?_
  rw [show c.parked.key = c.key from rfl, number_gathered hls (hactive l hl), lowBits_add, parked_reg, parked_value]
  exact congrArg (fun y => (_, _, (⟨l, (y + _) % _, _, _⟩ : LogLane))) (parked_address c m.space e a 0)

end

end Sys2Proof.Machine
end


section
/-! The packet of GATHER and SCATTER performed (R225): it serves the lanes as an access of the active lanes does, and the
strand goes on as from one. -/

namespace Sys2Proof.Machine

/-- The strand with the lanes of a mask at no lane operation, and current. -/
def Strand.unparked (st : Strand) (m : BitVec 4) : Strand :=
  { st.mapLanes m (fun l => { l with atOp := none }) with cur := m }

/-- The strand of an issue as its packet leaves it. -/
def Issue.resumed (c : Issue) (y : Strand) : Strand := { y.unparked c.set with wait := c.st.wait }

section
variable {c : Issue} {s t : State} {x : Access} {ea f : Nat → Nat} {ls : List LogLane} {y : Strand}

/-! ## The same access of the strand as it waits -/

theorem byteAt_parked (sp : Space) (k a : Nat) (hst : s.strand c.key = some c.st) :
    c.parked.byteAt sp k a (s.setStrand c.key c.parked.st) = c.byteAt sp k a s := by
  unfold Issue.byteAt
  rw [show c.parked.key = c.key from rfl, strand_setStrand, hst]
  dsimp only
  rw [show c.parked.st.lanes.get k = _ from parked_lane c.st c.set c.i k]
  rfl

theorem bytesOf_parked (sp : Space) (hst : s.strand c.key = some c.st) :
    c.parked.bytesOf sp (s.setStrand c.key c.parked.st) = c.bytesOf sp s :=
  funext fun k => funext fun a => byteAt_parked sp k a hst

theorem readable_parked {sp : Space} {k a : Nat} (hst : s.strand c.key = some c.st) (h : c.readable s sp k a) :
    c.parked.readable (s.setStrand c.key c.parked.st) sp k a := by
  cases sp with
  | lanePrivate =>
    obtain ⟨z, hz, hbad⟩ := h
    refine ⟨c.parked.st, strand_setStrand _ _ _, ?_⟩
    rw [show c.parked.st.lanes.get k = _ from parked_lane c.st c.set c.i k]
    exact (congrArg (fun z : Strand => (z.lanes.get k).bad) (Option.some.inj (hst.symm.trans hz))).trans hbad
  | scratch | shared | remoteScratch | acc | dieScratch | global | host => exact h

theorem fits_parked (hst : s.strand c.key = some c.st) (h : Access.Fits c x ls s) :
    Access.Fits c.parked x ls (s.setStrand c.key c.parked.st) where
  space := h.space
  width := h.width
  legal := h.legal
  watches := h.watches
  bounds l hl := by
    have hbounds := h.bounds l hl
    revert hbounds
    cases x.m.space <;> exact id
  reaches l hl := by
    obtain ⟨hlane, haligned, hnear, hread⟩ := h.reaches l hl
    exact ⟨hlane, haligned, hnear, readable_parked hst hread⟩

/-! ## The strand that goes on -/

theorem windowed_unparked {sp : Space} (hcur : c.st.cur = c.set) (hfree : ∀ l ∈ lanesIn c.set, (c.st.lanes.get l).atOp = none)
    (h : Windowed sp c.parked.st y) : Windowed sp c.st (c.resumed y) := by
  have hget {l : Nat} (hl : l < 4) : (y.unparked c.set).lanes.get l
      = { c.st.lanes.get l with lp := (y.lanes.get l).lp, bad := (y.lanes.get l).bad } := by
    refine (Strand.mapLanes_get c.set (fun l => { l with atOp := none }) y hl).trans ?_
    rw [h.lanes l hl, show c.parked.st.lanes.get l = _ from parked_get c.st c.set c.i hl]
    split
    next hm =>
      have hnone := hfree l ((mem_lanesIn _ _).mpr ⟨hl, hm⟩)
      exact congrArg (fun o => ({ c.st.lanes.get l with lp := (y.lanes.get l).lp, bad := (y.lanes.get l).bad, atOp := o } : Lane))
        hnone.symm
    next => rfl
  refine ⟨?_, fun l hl => ?_, fun hsp l hl => ?_⟩
  · rw [Issue.resumed, Strand.unparked, Strand.mapLanes]
    conv_lhs => rw [h.rest]
    rw [← hcur]
    rfl
  · rw [Issue.resumed, hget hl]
  · rw [Issue.resumed, hget hl]
    obtain ⟨hlp, hbad⟩ := h.windows hsp l hl
    rw [show c.parked.st.lanes.get l = _ from parked_lane c.st c.set c.i l] at hlp hbad
    exact ⟨hlp, hbad⟩

theorem Windowed.eq {sp : Space} {a b : Strand} (h : Windowed sp a b) (hsp : sp ≠ .lanePrivate) : b = a := by
  have hlanes : b.lanes = a.lanes := Quad.ext_get fun l hl => by
    obtain ⟨hlp, hbad⟩ := h.windows hsp l hl
    rw [h.lanes l hl, hlp, hbad]
  rw [h.rest, hlanes]

theorem unparked_parked (hcur : c.st.cur = c.set) (hfree : ∀ l ∈ lanesIn c.set, (c.st.lanes.get l).atOp = none) :
    c.resumed c.parked.st = c.st :=
  (windowed_unparked (sp := .scratch) hcur hfree (.refl _ _)).eq (by decide)

theorem byteAt_resumed {sp : Space} (hy : t.strand c.key = some y) {k : Nat} (hk : k < 4) (a : Nat) :
    c.byteAt sp k a (t.setStrand c.key (c.resumed y)) = c.parked.byteAt sp k a t := by
  have hlp : ((c.resumed y).lanes.get k).lp = (y.lanes.get k).lp := by
    rw [show (c.resumed y).lanes.get k = _ from Strand.mapLanes_get c.set (fun l => { l with atOp := none }) y hk]
    split <;> rfl
  unfold Issue.byteAt
  rw [show c.parked.key = c.key from rfl, strand_setStrand, hy]
  dsimp only
  rw [hlp]
  rfl

theorem parked_raise (c : Issue) (code : Nat) (mask : BitVec 4) : c.parked.raise code mask = c.raise code mask := by
  have hflow (l : Nat) : c.parked.st.flow l = c.st.flow l := parked_flow c.st c.set c.i l
  have hlive : c.parked.st.live = c.st.live := parked_live c.st c.set c.i
  unfold Issue.raise Issue.hmask Issue.electedMask
  rw [hflow, hlive]
  rfl

theorem flights_parked (c : Issue) (x : Access) (id : Nat) (got : List (LogLane × Reply)) :
    c.parked.flights x id got = c.flights x id got := by
  have hlate (code : Nat) (ls : List (LogLane × Reply)) : c.parked.lateCause x code ls = c.lateCause x code ls := by
    unfold Issue.lateCause
    rw [parked_raise]
    rfl
  unfold Issue.flights Issue.inFlight Issue.lateCauses
  simp only [hlate]
  rfl

/-- What is said of the strand's own access is said of the same access of the strand as it waits. -/
theorem swept_parked (hst : s.strand c.key = some c.st) (hcur : c.st.cur = c.set)
    (hfree : ∀ l ∈ lanesIn c.set, (c.st.lanes.get l).atOp = none) (hy : t.strand c.key = some y)
    (h : Swept c.parked x (s.setStrand c.key c.parked.st) t) :
    Swept c x s (t.setStrand c.key (c.resumed y))
      ∧ Windowed x.m.space c.st (c.resumed y) := by
  obtain ⟨z, hz, hparked⟩ := h.kept.own c.parked.st (strand_setStrand _ _ _)
  have hzy : z = y := Option.some.inj (hz.symm.trans hy)
  subst hzy
  have hwindowed := windowed_unparked hcur hfree hparked
  refine ⟨⟨⟨fun k hk => ?_, fun a ha => ?_, h.kept.convoys, h.kept.held, h.kept.regions, h.kept.apart, h.kept.plan, h.kept.nextId⟩,
    ⟨?_, fun hord => ?_, fun hord => ?_⟩, fun hload => ?_⟩, hwindowed⟩
  · rw [strand_setStrand_ne _ _ hk, h.kept.others k hk, strand_setStrand_ne _ _ hk]
  · rw [hst, Option.some.injEq] at ha
    exact ⟨_, strand_setStrand _ _ _, ha ▸ hwindowed⟩
  · exact h.reached.touched.under (t.setStrand c.key _)
  · exact (h.reached.alone hord).under (t.setStrand c.key _)
  · exact congrArg (fun z : State => z.setStrand c.key _) (h.reached.still hord)
  · obtain ⟨hheld, hconvoys, hstrands⟩ := h.idle hload
    refine ⟨hheld, hconvoys, fun k => ?_⟩
    by_cases hk : k = c.key
    · have hparked : z = c.parked.st := Option.some.inj (hz.symm.trans ((hstrands c.key).trans (strand_setStrand _ _ _)))
      rw [hk, strand_setStrand, hst, hparked, unparked_parked hcur hfree]
    · rw [strand_setStrand_ne _ _ hk, hstrands, strand_setStrand_ne _ _ hk]

/-! ## The packet -/

theorem packet_sweep (s : State) : (c.packet ea f).foldl (fun w e => w.entry x true true e.2.1 e.2.2)
    ⟨orderBefore c.it.tile c.key x.m.ord x.m.scope s, [], [], []⟩ = c.parked.sweep x true true
        (c.parked.entries ea f fun _ => 0) s := by
  rw [Issue.packet, Issue.sweep, Issue.entries, List.foldl_map, List.foldl_map]
  rfl

/-- The packet serves its lanes and goes on. -/
theorem packet_performed (h : Access.Fits c.parked x (c.parked.entries ea f fun _ => 0) s) :
    let ls := c.parked.entries ea f fun _ => 0
    let t := c.parked.sweepState x true true ls s
    performPacket x [c.parked] (c.packet ea f) s
      = c.parked.finish (.done (c.parked.record x t.nextId false (x.serve ls (c.parked.bytesOf x.m.space s)).1 []
        (({ t with nextId := t.nextId + 2 } : State).adjStrand c.key (·.unparked c.set)))) := by
  intro ls t
  obtain ⟨hgot, hfaults, hswept, -⟩ := sweepState_swept h true true
  have hclean := serve_clean (x := x) c.parked ls (c.parked.bytesOf x.m.space s)
  have hheld : ((c.packet ea f).any fun e => e.2.1.heldBack x [e.2.2] s) = false := List.any_eq_false.mpr fun e he => by
    obtain ⟨l, -, rfl⟩ := List.mem_map.mp he
    rw [fits_not_held h]
    exact Bool.false_ne_true
  have hmine : ((c.parked.sweep x true true ls s).got.filter fun g => g.1 == c.parked.key).map (fun g => (g.2.1, g.2.2))
      = (x.serve ls (c.parked.bytesOf x.m.space s)).1 := by
    rw [hgot, List.filter_eq_self.mpr fun g hg => by obtain ⟨y, -, rfl⟩ := List.mem_map.mp hg; exact beq_self_eq_true _,
      List.map_map]
    exact List.map_id _
  have hwatches : ((c.parked.record x t.nextId false (x.serve ls (c.parked.bytesOf x.m.space s)).1 []
      (({ t with nextId := t.nextId + 2 } : State).adjStrand c.key (·.unparked c.set))).heldAt c.parked.it.tile
        c.parked.it.launch).watches = [] := by
    rw [watches_record hclean]
    exact watches_of_kept (t := t) hswept.kept h.watches
  unfold performPacket
  dsimp only
  rw [packet_sorted, packet_entries, fits_unchecked h]
  dsimp only
  rw [hheld, if_neg Bool.false_ne_true]
  simp only [List.foldl_cons, List.foldl_nil]
  rw [show c.parked.it = c.it from rfl, show c.parked.key = c.key from rfl, packet_sweep, hfaults]
  rw [show c.parked.key = c.key from rfl] at hmine
  rw [hmine]
  exact congrArg c.parked.finish (conclude_clean hwatches)

/-! ## The whole instruction -/

variable {i : Instr}

theorem count_wait (c : Issue) (z : Strand) (w : Wait) : c.count { z with wait := w } = c.count z := by
  unfold Issue.count Strand.countRetired Strand.countWindow
  dsimp only
  split <;> rfl

theorem sent_parked (y : Strand) (ps : List Pending) : c.parked.sent (y.unparked c.set) ps = c.sent (c.resumed y) ps :=
  (count_wait c (c.advance { y.unparked c.set with pend := y.pend ++ ps }) c.st.wait).symm

theorem packet_finish {u : State} {got : List (LogLane × Reply)} (hclean : Answers.Clean c.parked got) (id : Nat)
    (hy : u.strand c.key = some y) (hready : (y.unparked c.set).pend.any (·.ready) = false) (hstep : c.st.stepArm = false) :
    c.parked.finish (.done (c.parked.record x id false got [] (u.adjStrand c.key (·.unparked c.set))))
      = { u.setStrand c.key (c.sent (c.resumed y) (c.flights x id got)) with
          plan := u.plan ++ answerTurns c.key (c.flights x id got) } := by
  rw [adjStrand_eq_setStrand hy]
  refine (finish_record hclean id (strand_setStrand c.key _ u) hready hstep).trans ?_
  rw [flights_parked]
  change { ((u.setStrand c.key (y.unparked c.set)).setStrand c.key (c.parked.sent (y.unparked c.set) (c.flights x id got)) : State) with
    plan := u.plan ++ answerTurns c.key (c.flights x id got) } = _
  rw [setStrand_setStrand, sent_parked]

/-- GATHER and SCATTER with their lanes gathered are performed as one access of the active lanes. -/
theorem performed_of_packet (h : clear i s = some c) (hg : Gathered c s) (hset : c.set = c.st.set)
    (hexec : exec i s = .next (performPacket x [c.parked] (c.packet ea f) (s.setStrand c.key c.parked.st)))
    (hfits : Access.Fits c x (c.entries ea f fun _ => 0) s) : ∃ t y, Performed i c x (c.entries ea f fun _ => 0) s t y := by
  have hst := clear_strand h
  obtain ⟨-, hcur⟩ := gathered_pool hg hset
  have hfits' := fits_parked hst hfits
  obtain ⟨-, -, hswept, hbytes⟩ := sweepState_swept hfits' true true
  have hdone := packet_performed hfits'
  have hclean := serve_clean (x := x) c.parked (c.entries ea f fun _ => 0)
      (c.parked.bytesOf x.m.space (s.setStrand c.key c.parked.st))
  dsimp only at hdone
  rw [show c.parked.entries ea f (fun _ => 0) = c.entries ea f fun _ => 0 from rfl] at hdone
  set t := c.parked.sweepState x true true (c.entries ea f fun _ => 0) (s.setStrand c.key c.parked.st)
  obtain ⟨y, (hy : t.strand c.key = some y), hparked⟩ := hswept.kept.own c.parked.st (strand_setStrand _ _ _)
  obtain ⟨hmine, hwindowed⟩ := swept_parked hst hcur (fun l hl => gathered_lane hg hl) hy hswept
  have hready : (y.unparked c.set).pend.any (·.ready) = false := by
    have hpend : y.pend = c.st.pend := by
      rw [hparked.rest]
      rfl
    exact hpend ▸ clear_answers h
  refine ⟨t.setStrand c.key (c.resumed y), c.resumed y, hmine, strand_setStrand _ _ _, hwindowed, ?_, ?_⟩
  · intro k hk a
    rw [← bytesOf_parked x.m.space hst, ← hbytes k hk a]
    exact byteAt_resumed hy hk a
  · intro ps
    rw [hexec, hdone, packet_finish (u := { t with nextId := t.nextId + 2 }) hclean _ hy hready (clear_step h),
      bytesOf_parked x.m.space hst, show t.nextId = s.nextId from hswept.kept.nextId, show t.plan = s.plan from hswept.kept.plan]
    change _ = Host.Outcome.next { ((({ t with nextId := s.nextId + 2 } : State).setStrand c.key (c.resumed y)).setStrand c.key
      (c.sent (c.resumed y) ps)) with plan := s.plan ++ answerTurns c.key ps }
    rw [setStrand_setStrand]
    rfl

theorem performOp_gathered {x : Access} (h : clear i s = some c) (hg : Gathered c s) (hset : c.set = c.st.set) {e : Nat}
    (he : lowest c.set = some e) (hx : accessOf c.i = some x) : ∃ ls, c.OpLanes ls
      ∧ performOp c.key (s.setStrand c.key c.parked.st) = performPacket x [c.parked]
        (packetEntries (s.setStrand c.key c.parked.st) c.i c.parked x ls [c.parked]
          fun key lane => ((ls.find? fun x => x.key == key && x.lane == lane).map (·.j)).getD 0)
              (s.setStrand c.key c.parked.st) := by
  have hls := opLanes_gathered hset hg
  have hissue := (ready_issueOf (clear_ready h)).1
  rw [← clear_instr h] at hissue
  obtain ⟨-, -, -, hit, hla, -⟩ := issueOf_strand hissue
  refine ⟨_, hls, ?_⟩
  unfold performOp
  rw [strand_setStrand]
  dsimp only
  rw [show Map.find c.parked.st.item (s.setStrand c.key c.parked.st).items = some c.it from hit]
  dsimp only
  rw [show Map.find c.it.launch (s.setStrand c.key c.parked.st).launches = some c.la from hla]
  dsimp only
  rw [opPoint_gathered hls hg he]
  dsimp only
  rw [opIssues_gathered hissue hset hls hg he, hx]
  rfl

end

end Sys2Proof.Machine
end


section
/-! Loads, stores, GATHER and SCATTER in the local spaces (R222, R223, R225) settled. -/

namespace Sys2Proof.Machine

section
variable {s : State} {c : Issue} {g : Guard} {la : BitVec 4} {m : MemMod} {ty : Ty} {d a b : Opnd} {e : Nat}

theorem clear_set {i : Instr} (h : clear i s = some c) : c.set = c.st.set := by
  obtain ⟨-, -, -, -, -, hset, -⟩ := issueOf_strand (ready_issueOf (clear_ready h)).1
  exact hset

theorem clear_active {i : Instr} (h : clear i s = some c) : ∀ l ∈ lanesIn c.active, l ∈ lanesIn c.set := fun _ =>
  active_subset (ready_issueOf (clear_ready h)).1

/-- An instruction whose lanes arrive and are gathered performs its packet. -/
theorem exec_arrive {i : Instr} {x : Access} {ea f : Nat → Nat} (h : clear i s = some c) (hg : Gathered c s)
    (he : lowest c.set = some e) (hexec : exec i s = issue i s arrive) (hx : accessOf i = some x)
    (hentries : ∀ ls, c.OpLanes ls → packetEntries (s.setStrand c.key c.parked.st) i c.parked x ls [c.parked]
      (fun key lane => ((ls.find? fun x => x.key == key && x.lane == lane).map (·.j)).getD 0) = c.packet ea f) :
    exec i s = .next (performPacket x [c.parked] (c.packet ea f) (s.setStrand c.key c.parked.st)) := by
  have hi := clear_instr h
  obtain ⟨ls, hls, hperform⟩ := performOp_gathered h hg (clear_set h) he (hi ▸ hx)
  rw [hexec, issue_clear h, arrive_gathered (clear_strand h) (clear_set h) hg, ← hentries ls hls]
  rw [hi] at hperform
  exact congrArg _ hperform

theorem exec_gather (h : clear (.gather g la m ty d a b) s = some c) (hg : Gathered c s) (he : lowest c.set = some e) :
    exec (.gather g la m ty d a b) s = .next (performPacket (loadAccess la m ty d) [c.parked]
      (c.packet (c.packetAddress m.space a b e) fun _ => 0) (s.setStrand c.key c.parked.st)) :=
  exec_arrive h hg he rfl rfl fun _ hls => packetEntries_gather (clear_active h) hls he

theorem exec_scatter (h : clear (.scatter g la m ty a b d) s = some c) (hg : Gathered c s) (he : lowest c.set = some e) :
    exec (.scatter g la m ty a b d) s = .next (performPacket (storeAccess la m ty) [c.parked]
      (c.packet (c.packetAddress m.space a b e) fun l => c.value ty.isPair l d % 256 ^ tyBytes ty)
          (s.setStrand c.key c.parked.st)) :=
  exec_arrive h hg he rfl rfl fun _ hls => packetEntries_scatter (clear_active h) hls he

end

/-- Settles O34: LD and a gathered GATHER are each one access of the active lanes, which loads leave as it was. -/
theorem localLoadsComplete : Obligations.LocalLoadsComplete := by
  unfold Obligations.LocalLoadsComplete
  intro g la m ty d a b disp s c n loads
  have settled {i : Instr} {ea : Nat → Nat} (h : clear i s = some c) (hla : la.toNat = lookahead i)
      (hfresh : ∀ q ∈ c.st.pend, q.id < s.nextId)
      (hperformed : ∃ t y, Performed i c (loadAccess la m ty d) (c.entries ea (fun _ => 0) fun _ => 0) s t y) :
      ∃ v, Touched s v ∧ (m.ord ≠ .sc → MemoryAlone s v) ∧ (m.ord = .none → v = s)
        ∧ (c.active = 0 → ∃ u, Does i c {} s u ∧ u = { v with nextId := u.nextId })
        ∧ (c.active ≠ 0 → ∃ p, Sends i c p s v ∧ p.flags = 0
          ∧ Owes c .load ((lanesIn c.active).flatMap fun l =>
              c.fillsOf ty d l (littleEndian n fun k => c.byteAt m.space l (ea l + k) s)) p) := by
    obtain ⟨t, y, hperformed⟩ := hperformed
    obtain ⟨htouched, halone, hnone⟩ := hperformed.machine
    obtain ⟨hidle, hbusy⟩ := hperformed.loads h (by rw [clear_instr h, hla]) hfresh
    exact ⟨t.under s, htouched, halone, hnone, hidle, hbusy⟩
  refine ⟨fun h hfits hfresh => ?_, fun e hg he h hfits hfresh => ?_⟩
  · exact settled h rfl hfresh (performed_of_access h (exec_ld h)
      (fits_entries (x := loadAccess la m ty d) (clear_strand h) hfits (tyBytes_dvd ty) (.inl rfl)))
  · exact settled h rfl hfresh (performed_of_packet h hg (clear_set h) (exec_gather h hg he)
      (fits_entries (x := loadAccess la m ty d) (clear_strand h) hfits (tyBytes_dvd ty) (.inl rfl)))

/-- Settles O35: ST and a gathered SCATTER are each one access of the active lanes, the highest lane's bytes last. -/
theorem localStoresComplete : Obligations.LocalStoresComplete := by
  unfold Obligations.LocalStoresComplete
  intro g la m ty a b x disp s c n stores
  refine ⟨fun h hfits => ?_, fun e hg he h hfits => ?_⟩
  · obtain ⟨t, y, hperformed⟩ := performed_of_access h (exec_st h)
      (fits_entries (x := storeAccess la m ty) (clear_strand h) hfits (tyBytes_dvd ty) (.inl rfl))
    exact hperformed.stores
  · obtain ⟨t, y, hperformed⟩ := performed_of_packet h hg (clear_set h) (exec_scatter h hg he)
      (fits_entries (x := storeAccess la m ty) (clear_strand h) hfits (tyBytes_dvd ty) (.inl rfl))
    exact hperformed.stores

end Sys2Proof.Machine
end


section
/-! Accesses in the translated spaces (R223, R191, R229): they change memory and caches alone, and their answers are in
flight. -/

namespace Sys2Proof.Machine

/-! ## Atomics -/

theorem ownDirtyHome_alone (tile pline : Nat) (s : State) : MemoryAlone s (ownDirtyHome tile pline s) := by
  unfold ownDirtyHome
  split
  · exact (writeBack_alone _ _ _).trans (.setL1 _ _ _)
  · exact .refl s

theorem homeAtomic_alone (req : HomeReq) (ap : Nat) (sh : Bool) (n : Nat) (op : AtomOp) (pa data cmp : Nat) (s : State) :
    MemoryAlone s (homeAtomic req ap sh n op pa data cmp s).1 := by
  unfold homeAtomic
  dsimp only
  split
  · split
    · exact .refl s
    · exact homeWrite_alone _ _ _ _ _
  · split
    · refine (l2Evict_alone (pa / 256) s).trans ?_
      generalize granuleRead _ _ _ = g
      split <;> exact .mem _ _
    · split
      · exact homeRead_alone _ _ _
      · exact (homeRead_alone _ _ _).trans (homeWrite_alone _ _ _ _ _)

theorem tileAtomic_alone (v : Viewer) (x : Access) (op : AtomOp) (pa key ap : Nat) (sh phased : Bool) (data cmp : Nat) (s : State) :
    MemoryAlone s (tileAtomic v x op pa key ap sh phased data cmp s).1 := by
  unfold tileAtomic
  dsimp only
  refine ((ownDirtyHome_alone v.tile (pa / 256) s).trans (homeAtomic_alone (v.req s key phased) ap sh x.n op pa data cmp _)).trans ?_
  split
  · exact l1Update_alone _ _ _ _ _
  · exact .refl _

theorem virtAtomic_alone (v : Viewer) (x : Access) (op : AtomOp) (addr data cmp : Nat) (s : State) :
    MemoryAlone s (virtAtomic v x op addr data cmp s).1 := by
  unfold virtAtomic
  split
  · exact tileAtomic_alone _ _ _ _ _ _ _ _ _ _ _
  · dsimp only
    have go := translate_alone v.tile v.asid v.priv x.kind x.m.space addr s
    generalize translate v.tile v.asid v.priv x.kind x.m.space addr s = t at go
    obtain ⟨u, y⟩ := t
    cases y with
    | error f => exact go
    | ok y =>
      refine go.trans ?_
      dsimp only
      split
      · split
        · exact .refl u
        · exact dieWrite_alone _ _ _
      · split
        · exact (wcDrainLine_alone _ _ _).trans (tileAtomic_alone _ _ _ _ _ _ _ _ _ _ _)
        · exact tileAtomic_alone _ _ _ _ _ _ _ _ _ _ _

theorem virtAccess_alone (v : Viewer) (x : Access) (home : Bool) (addr data cmp : Nat) (s : State) :
    MemoryAlone s (virtAccess v x home addr data cmp s).1 := by
  unfold virtAccess
  split
  · exact virtAtomic_alone _ _ _ _ _ _ _
  · split
    · exact virtStore_alone _ _ _ _ _ _ _
    · exact virtLoad_alone _ _ _ _ _ _

theorem translatedSpace_iff {sp : Space} : translatedSpace sp = true ↔ sp = .global ∨ sp = .host ∨ sp = .dieScratch := by
  cases sp <;> decide

theorem reach_alone {c : Issue} {x : Access} (hspace : translatedSpace x.m.space = true) (v : Viewer) (home : Bool) (l : LogLane)
    (s : State) : MemoryAlone s (c.reach x v home l s).1 := by
  unfold Issue.reach
  rcases translatedSpace_iff.mp hspace with hsp | hsp | hsp <;>
  · rw [hsp]
    exact virtAccess_alone _ _ _ _ _ _ _

/-! ## Tags -/

/-- No launch has tagged a line, and that of a handle is not deterministic. -/
def Untagged (launch : Nat) (s : State) : Prop := ∀ x ∈ s.launches, x.2.tags = [] ∧ (x.1 = launch → x.2.det = false)

theorem tagWrite_untagged {launch : Nat} {s : State} (h : Untagged launch s) (pa : Nat) (sh hold : Bool) :
    tagWrite launch pa sh hold s = s := by
  have hlaunches : s.launches.map (fun x =>
      if x.1 == launch then
        (x.1, if x.2.det && sh && hold && !x.2.tags.contains (pa / 256) then { x.2 with tags := x.2.tags ++ [pa / 256] } else x.2)
      else if x.2.tags.contains (pa / 256) then (x.1, { x.2 with detbreak := true }) else x) = s.launches := by
    refine (List.map_congr_left fun x hx => ?_).trans (List.map_id _)
    obtain ⟨htags, hdet⟩ := h x hx
    rw [htags]
    by_cases hmine : x.1 = launch
    · rw [if_pos (beq_iff_eq.mpr hmine), hdet hmine]
      simp
    · simp [hmine]
  unfold tagWrite
  dsimp only
  rw [hlaunches]

theorem Touched.untagged {launch : Nat} {s t : State} (h : Touched s t) (hs : Untagged launch s) : Untagged launch t := by
  unfold Untagged
  rw [h.rest]
  exact hs

/-! ## A sweep -/

/-- What an access of an order to the translated spaces touches. -/
structure Through (ord : Order) (s t : State) : Prop where
  touched : Touched s t
  alone : ord ≠ .sc → MemoryAlone s t

section
variable {ord : Order} {s t u : State} {c : Issue} {x : Access}

theorem Through.of_alone (h : MemoryAlone s t) : Through ord s t := ⟨h.touched, fun _ => h⟩

theorem Through.trans (h : Through ord s t) (k : Through ord t u) : Through ord s u :=
  ⟨h.touched.trans k.touched, fun hord => (h.alone hord).trans (k.alone hord)⟩

theorem stamped_through (h : MemoryAlone s t) (tile : Nat) (unit : Option Nat × Nat) (again : Bool) :
    Through ord s (if (ord == .sc && !again) = true then stampSc tile unit t else t) := by
  split
  next hsc =>
    rw [Bool.and_eq_true, beq_iff_eq] at hsc
    exact ⟨h.touched.trans (stampSc_touched _ _ _), fun hord => absurd hsc.1 hord⟩
  next => exact .of_alone h

/-- One lane of an access to a translated space: it is answered, or it faults. -/
theorem entry_through (hspace : translatedSpace x.m.space = true) (w : Sweep) (hw : Untagged c.it.launch w.s) (home : Bool)
    (l : LogLane) : Through x.m.ord w.s (w.entry x home false c l).s
      ∧ ((∃ y, (w.entry x home false c l).got = w.got ++ [(c.key, l, y)] ∧ (w.entry x home false c l).faults = w.faults)
        ∨ (w.entry x home false c l).faults ≠ []) := by
  unfold Sweep.entry
  dsimp only
  have hreach := reach_alone (c := c) hspace
    { c.viewer with counted := !false && !(x.op.isSome && w.got.any fun g => g.2.1.addr == l.addr) } home l w.s
  split
  next f hf => exact ⟨.of_alone hreach, .inr (by simp)⟩
  next y hy =>
    refine ⟨?_, .inl ⟨_, rfl, rfl⟩⟩
    simp only [Bool.false_and, Bool.false_eq_true, if_false]
    split
    · rw [tagWrite_untagged ((stamped_through (ord := x.m.ord) hreach _ _ _).touched.untagged hw)]
      exact stamped_through hreach _ _ _
    · exact stamped_through hreach _ _ _

theorem sweep_through (hspace : translatedSpace x.m.space = true) (home : Bool) (ls : List LogLane) :
    ∀ w : Sweep, Untagged c.it.launch w.s →
      let v := ls.foldl (fun w l => w.entry x home false c l) w
      Through x.m.ord w.s v.s ∧ (v.faults = [] → w.faults = [] ∧ v.got.map (·.2.1) = w.got.map (·.2.1) ++ ls) := by
  induction ls with
  | nil => exact fun w _ => ⟨.of_alone (.refl _), fun h => ⟨h, by simp⟩⟩
  | cons l ls ih =>
    intro w hw
    obtain ⟨hentry, hgot⟩ := entry_through hspace w hw home l
    obtain ⟨hrest, hfaults⟩ := ih (w.entry x home false c l) (hentry.touched.untagged hw)
    refine ⟨hentry.trans hrest, fun hnone => ?_⟩
    obtain ⟨hnone, hlanes⟩ := hfaults hnone
    rcases hgot with ⟨y, hgot, hsame⟩ | hsome
    · refine ⟨hsame ▸ hnone, hlanes.trans ?_⟩
      rw [hgot]
      simp
    · exact absurd hnone hsome

end

end Sys2Proof.Machine
end


section
/-! A whole access to a translated space that nothing holds back (R222, R223, R224). -/

namespace Sys2Proof.Machine

theorem Map.mem_of_find {α : Type} {m : Map α} {k : Nat} {v : α} (h : Map.find k m = some v) : (k, v) ∈ m := by
  induction m with
  | nil => cases h
  | cons x m ih =>
    obtain ⟨j, w⟩ := x
    unfold Map.find at h
    split at h
    next hj => exact List.mem_cons.mpr (.inl (by rw [hj, Option.some.inj h]))
    next => exact List.mem_cons_of_mem _ (ih h)

section
variable {i : Instr} {s t : State} {c : Issue} {x : Access} {ls : List LogLane}

theorem clear_launch (h : clear i s = some c) : Map.find c.it.launch s.launches = some c.la := by
  obtain ⟨-, -, -, -, hla, -⟩ := issueOf_strand (ready_issueOf (clear_ready h)).1
  exact hla

theorem untagged_det (h : clear i s = some c) (hun : Untagged c.it.launch s) : c.la.det = false :=
  (hun _ (Map.mem_of_find (clear_launch h))).2 rfl

theorem translated_unchecked (hspace : translatedSpace x.m.space = true)
    (hls : ∀ l ∈ ls, canonical l.addr = true ∧ l.addr % x.n = 0) :
    c.accessFails s x ls = none := by
  refine accessFails_none ?_
  have hsp := translatedSpace_iff.mp hspace
  simp only [Issue.accessChecks, List.forall_mem_cons]
  refine ⟨fun l _ => ?_, fun l hl => ?_, fun l hl => ?_, fun l _ => ?_, by simp⟩
  · rcases hsp with hsp | hsp | hsp <;> simp [hsp]
  · simp [(hls l hl).1]
  · simp [(hls l hl).2]
  · rcases hsp with hsp | hsp | hsp <;> simp [Issue.beyond, hsp]

theorem Touched.under_self (h : Touched s t) : t.under s = t := by
  rw [State.under, show s.strands = t.strands by rw [h.rest], show s.held = t.held by rw [h.rest], show s.convoys
    = t.convoys by rw [h.rest],
    show s.nextId = t.nextId by rw [h.rest], show s.plan = t.plan by rw [h.rest]]

/-- An access to a translated space whose lanes are all answered. -/
theorem passes_through (h : clear i s = some c) (hexec : exec i s = .next (c.finish (c.access x ls s)))
    (hspace : translatedSpace x.m.space = true) (hls : ∀ l ∈ ls, canonical l.addr = true ∧ l.addr % x.n = 0)
    (hun : Untagged c.it.launch s) (hwatches : (s.heldAt c.it.tile c.it.launch).watches = [])
    (hfaults : (c.sweep x x.home false ls s).faults = [])
    (hclean : ∀ g ∈ (c.sweep x x.home false ls s).got, g.2.2.dead = 0 ∧ g.2.2.lost = none) :
    let got := (c.sweep x x.home false ls s).got.map fun g => (g.2.1, g.2.2)
    let v := c.sweepState x x.home false ls s
    Through x.m.ord s v ∧ got.map (·.1) = ls ∧ Answers.Clean c got
      ∧ exec i s = .next { ({ v with nextId := s.nextId + 2 } : State).setStrand c.key (c.sent c.st (c.flights x s.nextId got)) with
          plan := s.plan ++ answerTurns c.key (c.flights x s.nextId got) } := by
  intro got v
  have hbefore : Through x.m.ord s (orderBefore c.it.tile c.key x.m.ord x.m.scope s) := .of_alone (orderBefore_alone _ _ _ _ _)
  obtain ⟨hswept, hlanes⟩ := sweep_through (c := c) hspace x.home ls ⟨orderBefore c.it.tile c.key x.m.ord x.m.scope s, [], [], []⟩
    (hbefore.touched.untagged hun)
  obtain ⟨-, hlanes⟩ := hlanes hfaults
  have hafter : Through x.m.ord s v :=
    (hbefore.trans hswept).trans (.of_alone (orderAfter_alone _ _ _ _))
  have hunchecked := access_unchecked (c := c) (s := s) (translated_unchecked hspace hls)
    (by rw [Issue.heldBack, untagged_det h hun]; rfl)
  dsimp only at hunchecked
  rw [show c.sweepState x x.home false ls s = v from rfl] at hunchecked
  have hgot : Answers.Clean c got := by
    refine ⟨fun g hg => ?_, .inl (untagged_det h hun)⟩
    obtain ⟨y, hy, rfl⟩ := List.mem_map.mp hg
    exact hclean y hy
  have hidle := hafter.touched.idle
  have hid : v.nextId = s.nextId := by rw [hafter.touched.rest]
  have hplan : v.plan = s.plan := by rw [hafter.touched.rest]
  have hquiet : ((c.record x v.nextId false got [] { v with nextId := v.nextId + 2 }).heldAt c.it.tile c.it.launch).watches
      = [] := by
    rw [watches_record hgot]
    show (v.heldAt c.it.tile c.it.launch).watches = []
    rw [State.heldAt, hidle.held]
    exact hwatches
  refine ⟨hafter, ?_, hgot, ?_⟩
  · rw [List.map_map]
    exact hlanes
  · rw [hexec, hunchecked, hfaults, List.map_nil, conclude_clean hquiet,
      finish_record (s := { v with nextId := v.nextId + 2 }) (y := c.st) hgot _ ((hidle.strands c.key).trans (clear_strand h))
        (clear_answers h) (clear_step h), hid, ← hplan]

theorem does_through {v : State} {got : List (LogLane × Reply)} (hthrough : Through x.m.ord s v)
    (hnone : c.flights x s.nextId got = [])
    (hruns : exec i s = .next { ({ v with nextId := s.nextId + 2 } : State).setStrand c.key (c.sent c.st (c.flights x s.nextId got)) with
      plan := s.plan ++ answerTurns c.key (c.flights x s.nextId got) }) : ∃ u, Does i c {} s u ∧ u =
          { v with nextId := u.nextId } := by
  rw [hnone, answerTurns, List.map_nil, List.append_nil] at hruns
  have hdoes := does_of_idle hthrough.touched.idle hruns
  rwa [hthrough.touched.under_self] at hdoes

theorem sends_through {v : State} {got : List (LogLane × Reply)} (hthrough : Through x.m.ord s v)
    (hsome : c.flights x s.nextId got = [c.inFlight x s.nextId got]) (hfresh : ∀ q ∈ c.st.pend, q.id < s.nextId)
    (hruns : exec i s = .next { ({ v with nextId := s.nextId + 2 } : State).setStrand c.key (c.sent c.st (c.flights x s.nextId got)) with
      plan := s.plan ++ answerTurns c.key (c.flights x s.nextId got) }) : Sends i c (c.inFlight x s.nextId got) s v := by
  rw [hsome] at hruns
  have hsends := sends_of_idle hthrough.touched.idle rfl hfresh hruns
  rwa [hthrough.touched.under_self] at hsends

/-- Where they are all answered, the rest of the machine is as memory accesses leave it. -/
theorem passes_complete (h : clear i s = some c) (hexec : exec i s = .next (c.finish (c.access x ls s)))
    (hdest : x.store = false → (∃ d, x.dest = some d) ∧ x.la = lookahead c.i)
    (hun : Untagged c.it.launch s) (hwatches : (s.heldAt c.it.tile c.it.launch).watches = [])
    (hfresh : ∀ q ∈ c.st.pend, q.id < s.nextId) (hspace : x.m.space = .global ∨ x.m.space = .host ∨ x.m.space = .dieScratch)
    (hls : ∀ l ∈ ls, canonical l.addr = true ∧ l.addr % x.n = 0) (hfaults : (c.sweep x x.home false ls s).faults = [])
    (hclean : ∀ g ∈ (c.sweep x x.home false ls s).got, g.2.2.dead = 0 ∧ g.2.2.lost = none) :
    ∃ v, Touched s v ∧ (x.m.ord ≠ .sc → MemoryAlone s v)
      ∧ ((ls = [] ∨ x.store = true) → ∃ u, Does i c {} s u ∧ u = { v with nextId := u.nextId })
      ∧ (ls ≠ [] → x.store = false → ∃ p ws, Sends i c p s v ∧ Owes c .load ws p
          ∧ ∀ k l, (k, l) ∈ p.locks ↔ ∃ y ∈ ls, y.lane = k ∧ ∃ j < (if x.ty.isPair then 2 else 1), ∃ d, x.dest = some d
              ∧ l = c.index d + j) := by
  obtain ⟨hthrough, hlanes, hgot, hruns⟩ := passes_through h hexec (translatedSpace_iff.mpr hspace) hls hun hwatches hfaults hclean
  have hempty : ((c.sweep x x.home false ls s).got.map fun g => (g.2.1, g.2.2)) = [] ↔ ls = [] := by
    conv_rhs => rw [← hlanes]
    exact List.map_eq_nil_iff.symm
  refine ⟨_, hthrough.touched, hthrough.alone, fun hnone => ?_, fun hsome hload => ?_⟩
  · exact does_through hthrough (if_pos (hnone.imp_left hempty.mpr)) hruns
  · obtain ⟨⟨d, hd⟩, hla⟩ := hdest hload
    refine ⟨_, _, sends_through hthrough (flights_of_load (fun hnil => hsome (hempty.mp hnil)) hload _) hfresh hruns,
      owes_inFlight hgot hload hd hla _, fun k l => ?_⟩
    have hlocks := mem_locks (c := c) hd (ls := ls) (k := k) (n := l)
    rw [← hlanes] at hlocks
    refine hlocks.trans ?_
    rw [hlanes]
    refine exists_congr fun y => and_congr_right fun _ => and_congr_right fun _ => exists_congr fun j => and_congr_right fun _ => ?_
    exact ⟨fun hl => ⟨d, hd, hl⟩, fun ⟨e, he, hl⟩ => by rw [hl, Option.some.inj (hd.symm.trans he)]⟩

end

end Sys2Proof.Machine
end


section
/-! Accesses that hit lines of the tile's L1 (R80, R106, R191, R223). -/

namespace Sys2Proof.Machine

/-! ## Lines put first -/

/-- A line of an address space that holds a virtual line. -/
def L1Line.holds (asid v : Nat) (l : L1Line) : Bool := l.asid == asid && l.vline == v

section
variable {ls : List L1Line} {asid : Nat} {x : L1Line}

theorem nodup_touch (h : (ls.map (·.pline)).Nodup) (x : L1Line) :
    ((x :: ls.filter fun y => y.pline != x.pline).map (·.pline)).Nodup := by
  rw [List.map_cons, List.nodup_cons]
  refine ⟨fun hmem => ?_, h.sublist (List.filter_sublist.map _)⟩
  obtain ⟨y, hy, hpline⟩ := List.mem_map.mp hmem
  exact absurd hpline (bne_iff_ne.mp (List.mem_filter.mp hy).2)

/-- A line that an address finds is put first, and every address finds what it found. -/
theorem find_touch (h : (ls.map (·.pline)).Nodup) {v : Nat} (hx : ls.find? (L1Line.holds asid v) = some x) (u : Nat) :
    (x :: ls.filter fun y => y.pline != x.pline).find? (L1Line.holds asid u) = ls.find? (L1Line.holds asid u) := by
  have hmem := List.mem_of_find?_eq_some hx
  have hholds : x.asid = asid ∧ x.vline = v := by simpa [L1Line.holds] using List.find?_some hx
  obtain ⟨hasid, hvline⟩ := hholds
  by_cases huv : u = v
  · subst huv
    rw [hx]
    exact List.find?_cons_of_pos (List.find?_some hx)
  · have hnot : L1Line.holds asid u x = false := by
      simp only [L1Line.holds, hvline, Bool.and_eq_false_iff, beq_eq_false_iff_ne]
      exact .inr (Ne.symm huv)
    rw [List.find?_cons_of_neg (by simp [hnot]), List.find?_filter]
    refine List.find?_congr fun y hy => ?_
    by_cases hpline : y.pline = x.pline
    · have hyx : y = x := List.inj_on_of_nodup_map h hy hmem hpline
      simp [hyx, hnot]
    · simp [hpline]

end

/-! ## Loads -/

/-- The tile's L1 finds what it found in another state. -/
structure FindsAlike (tile asid : Nat) (s t : State) : Prop where
  nodup : ((t.tile tile).l1.map (·.pline)).Nodup
  finds : ∀ va, l1Find t tile asid va = l1Find s tile asid va

theorem l1_setL1 (tile : Nat) (l1 : List L1Line) (s : State) : ((s.setL1 tile l1).tile tile).l1 = l1 := by
  rw [State.setL1, tile_setTile, if_pos rfl]

theorem findsAlike_touch {tile asid va : Nat} {s t : State} {y : L1Line} (h : FindsAlike tile asid s t)
    (hy : l1Find t tile asid va = some y) : FindsAlike tile asid s (l1Touch tile y t) where
  nodup := by
    rw [l1Touch, l1_setL1]
    exact nodup_touch h.nodup y
  finds u := by
    rw [← h.finds u, l1Find, l1Touch, l1_setL1]
    exact find_touch h.nodup hy (u / 256)

section
variable {c : Issue} {s : State} {x : Access}

/-- The line of the issuing tile that a lane's access finds. -/
def Issue.lineOf (c : Issue) (s : State) (addr : Nat) : Option L1Line := l1Find s c.it.tile c.la.asid (va57 addr)

/-- A lane's access finds a readable line. -/
structure Finds (c : Issue) (s : State) (l : LogLane) (y : L1Line) : Prop where
  canonical : canonical l.addr = true
  found : c.lineOf s l.addr = some y
  readable : y.bad = 0

/-- The answer of a load of `n` bytes that hits a line. -/
def hitReply (n addr : Nat) (y : L1Line) : Reply :=
  { value := sliceLine y.data (addr % 256) n, pa := y.place (va57 addr), key := y.key, sh := y.sh }

theorem va57_mod (a : Nat) : va57 a % 256 = a % 256 := Nat.mod_mod_of_dvd a (by decide)

theorem reach_hit (hspace : x.m.space = .global ∨ x.m.space = .host) (hload : (x.store || x.op.isSome) = false) {l : LogLane}
    {y : L1Line} (h : Finds c s l y) (v : Viewer) (htile : v.tile = c.it.tile) (hasid : v.asid = c.la.asid) :
    c.reach x v false l s = (l1Touch c.it.tile y s, .ok (hitReply x.n l.addr y)) := by
  obtain ⟨hcanonical, hfound, hreadable⟩ := h
  obtain ⟨hstore, hop⟩ := Bool.or_eq_false_iff.mp hload
  rw [Option.isSome_eq_false_iff, Option.isNone_iff_eq_none] at hop
  have hreach : c.reach x v false l s = virtAccess v x false l.addr l.data l.cmp s := by
    unfold Issue.reach
    rcases hspace with hsp | hsp <;> rw [hsp]
  have hhit : l1Hit s v.tile v.asid x.m.space l.addr = some y := by
    unfold l1Hit
    rw [hcanonical, htile, hasid]
    rcases hspace with hsp | hsp <;> rw [hsp] <;> exact hfound
  rw [hreach]
  unfold virtAccess virtLoad
  rw [hop, hstore, hhit, htile]
  simp [L1Line.seen, hreadable, Except.map, hitReply, va57_mod]

/-- One lane's load that hits. -/
theorem entry_hit (hspace : x.m.space = .global ∨ x.m.space = .host) (hload : (x.store || x.op.isSome) = false)
    (hord : x.m.ord = .none) {w : Sweep} {l : LogLane} {y : L1Line} (h : Finds c w.s l y) :
    w.entry x false false c l = { w with s := l1Touch c.it.tile y w.s, got := w.got ++ [(c.key, l, hitReply x.n l.addr y)] } := by
  have hreach := reach_hit hspace hload h
    { c.viewer with counted := !false && !(x.op.isSome && w.got.any fun g => g.2.1.addr == l.addr) } rfl rfl
  unfold Sweep.entry
  simp only [hreach, hload, hord, Bool.false_and, Bool.false_eq_true, if_false]
  rfl

theorem sweep_hit (hspace : x.m.space = .global ∨ x.m.space = .host) (hload : (x.store || x.op.isSome) = false)
    (hord : x.m.ord = .none) (ls : List LogLane) : ∀ w : Sweep, FindsAlike c.it.tile c.la.asid s w.s →
      (∀ l ∈ ls, ∃ y, Finds c s l y) →
      let v := ls.foldl (fun w l => w.entry x false false c l) w
      v.faults = w.faults
        ∧ v.got = w.got ++ ls.map fun l => (c.key, l, hitReply x.n l.addr ((c.lineOf s l.addr).getD default)) := by
  induction ls with
  | nil => exact fun w _ _ => ⟨rfl, (List.append_nil _).symm⟩
  | cons l ls ih =>
    intro w hw hls
    obtain ⟨⟨y, hy⟩, hls⟩ := List.forall_mem_cons.mp hls
    obtain ⟨hcanonical, hfound, hreadable⟩ := hy
    have hfinds : Finds c w.s l y := ⟨hcanonical, (hw.finds _).trans hfound, hreadable⟩
    obtain ⟨hfaults, hgot⟩ := ih
      { w with s := l1Touch c.it.tile y w.s, got := w.got ++ [(c.key, l, hitReply x.n l.addr y)] }
      (findsAlike_touch hw hfinds.found) hls
    rw [List.foldl_cons, entry_hit hspace hload hord hfinds]
    refine ⟨hfaults, hgot.trans ?_⟩
    rw [List.map_cons, hfound, List.append_assoc]
    rfl

end

end Sys2Proof.Machine
end


section
/-! Accesses in the translated spaces settled: those that pass, loads that hit the L1, and stores into it. -/

namespace Sys2Proof.Machine

section
variable {c : Issue} {s : State} {x : Access} {ls : List LogLane} {l : LogLane} {y : L1Line}

/-! ## Without an order -/

theorem sweep_plain (hord : x.m.ord = .none) : c.sweep x x.home false ls s
    = ls.foldl (fun w l => w.entry x false false c l) ⟨s, [], [], []⟩ := by
  unfold Issue.sweep Access.home orderBefore
  rw [hord]
  rfl

theorem sweepState_plain (hord : x.m.ord = .none) : c.sweepState x x.home false ls s = (c.sweep x x.home false ls s).s := by
  unfold Issue.sweepState orderAfter
  rw [hord]
  rfl

/-! ## Stores -/

theorem foreignTag_untagged {launch : Nat} (h : Untagged launch s) (pa : Nat) : foreignTag s launch pa = false :=
  List.any_eq_false.mpr fun z hz => by simp [(h z hz).1]

/-- One lane's store into a writable line. -/
theorem entry_put (hspace : x.m.space = .global ∨ x.m.space = .host) (hstore : x.store = true) (hop : x.op = none)
    (hord : x.m.ord = .none) {w : Sweep} (hun : Untagged c.it.launch w.s) (hcanonical : canonical l.addr = true)
    (hfound : c.lineOf w.s l.addr = some y) (hwritable : y.w = true ∧ y.d = true) :
    w.entry x false false c l = { w with s := l1Put c.it.tile (va57 l.addr) x.n l.data y w.s
                                         got := w.got ++ [(c.key, l,
                                             { value := 0, pa := y.place l.addr, key := y.key, sh := y.sh })] } := by
  obtain ⟨hw, hd⟩ := hwritable
  have hhit : l1WriteHit w.s c.it.tile c.la.asid x.m.space l.addr = some y := by
    have hline : l1Hit w.s c.it.tile c.la.asid x.m.space l.addr = some y := by
      unfold l1Hit
      rw [hcanonical]
      rcases hspace with hsp | hsp <;> rw [hsp] <;> exact hfound
    rw [l1WriteHit, hline, Option.filter_some, hw, hd]
    rfl
  have hreach (b : Bool) : c.reach x { c.viewer with counted := b } false l w.s = (l1Put c.it.tile (va57 l.addr) x.n l.data y w.s,
      .ok { value := 0, pa := y.place l.addr, key := y.key, sh := y.sh }) := by
    have hvirtual : c.reach x { c.viewer with counted := b } false l w.s
        = virtAccess { c.viewer with counted := b } x false l.addr l.data l.cmp w.s := by
      unfold Issue.reach
      rcases hspace with hsp | hsp <;> rw [hsp]
    rw [hvirtual]
    unfold virtAccess virtStore
    rw [hop, hstore, show (({ c.viewer with counted := b } : Viewer).tile) = c.it.tile from rfl,
      show (({ c.viewer with counted := b } : Viewer).asid) = c.la.asid from rfl, hhit]
    simp [Except.map]
  have hput : Untagged c.it.launch (l1Put c.it.tile (va57 l.addr) x.n l.data y w.s) :=
      (l1Put_alone _ _ _ _ _ _).touched.untagged hun
  unfold Sweep.entry
  simp only [hreach, hord, foreignTag_untagged hput, tagWrite_untagged hput, ite_self, Bool.and_false, Bool.false_and,
    Bool.false_eq_true, if_false, show (Order.none == Order.sc) = false from rfl]

theorem sweep_put (hspace : x.m.space = .global ∨ x.m.space = .host) (hstore : x.store = true) (hop : x.op = none)
    (hord : x.m.ord = .none) (hun : Untagged c.it.launch s) (hcanonical : canonical l.addr = true)
    (hfound : c.lineOf s l.addr = some y) (hwritable : y.w = true ∧ y.d = true) : c.sweep x x.home false [l] s
      = ⟨l1Put c.it.tile (va57 l.addr) x.n l.data y s,
          [(c.key, l, { value := 0, pa := y.place l.addr, key := y.key, sh := y.sh })], [], []⟩ :=
  (sweep_plain hord).trans (entry_put (w := ⟨s, [], [], []⟩) hspace hstore hop hord hun hcanonical hfound hwritable)

theorem toNat_byteOf (v k : Nat) : (byteOf v k).toNat = v / 256 ^ k % 256 := BitVec.toNat_ofNat _ _

/-- A line into which a value has been put. -/
def L1Line.put (y : L1Line) (va n v : Nat) : L1Line :=
  { y with data := blend y.data (v % 256 ^ n * 256 ^ (va % 256)) (spanMask (va % 256) n)
           dirty := y.dirty ||| spanMask (va % 256) n
           bad := clearSectors y.bad (spanMask (va % 256) n) }

/-- The bytes and dirty bytes of a line into which a value has been put. -/
theorem put_bytes (old dirty o n v : Nat) {k : Nat} (hk : k < 256) :
    let data := blend old (v % 256 ^ n * 256 ^ o) (spanMask o n)
    let mine := o ≤ k ∧ k < o + n
    (mine → data / 256 ^ k % 256 = v / 256 ^ (k - o) % 256 ∧ (dirty ||| spanMask o n).testBit k = true)
      ∧ (¬mine → data / 256 ^ k % 256 = old / 256 ^ k % 256 ∧ (dirty ||| spanMask o n).testBit k = dirty.testBit k) := by
  intro data mine
  have hbyte : byteOf data k = if mine then byteOf (v % 256 ^ n * 256 ^ o) k else byteOf old k := by
    rw [byteOf_blend _ _ _ hk, testBit_spanMask]
    simp only [decide_eq_true_eq]
    rfl
  rw [← toNat_byteOf, ← toNat_byteOf, ← toNat_byteOf, hbyte, Nat.testBit_or, testBit_spanMask]
  refine ⟨fun h => ?_, fun h => ?_⟩
  · have hin : mine := h
    rw [if_pos hin, byteOf_mul_pow _ h.1, byteOf_mod v (by omega)]
    exact ⟨rfl, by rw [decide_eq_true hin, Bool.or_true]⟩
  · have hout : ¬mine := h
    rw [if_neg hout]
    exact ⟨rfl, by rw [decide_eq_false hout, Bool.or_false]⟩

variable {g : Guard} {la : BitVec 4} {m : MemMod} {ty : Ty} {d a b : Opnd} {disp : BitVec 16}

/-- A load whose lanes all hit readable lines of the L1 gives their bytes. -/
theorem loads_hit (h : clear (.ld g la m ty d a disp) s = some c) (hun : Untagged c.it.launch s)
    (hwatches : (s.heldAt c.it.tile c.it.launch).watches = []) (hfresh : ∀ q ∈ c.st.pend, q.id < s.nextId) (hord : m.ord = .none)
    (hactive : c.active ≠ 0) (hspace : m.space = .global ∨ m.space = .host) (hnodup : ((s.tile c.it.tile).l1.map (·.pline)).Nodup)
    (hhit : ∀ l < 4, c.active.getLsbD l → let va := c.reaches m.space a disp.toInt l
      canonical va = true ∧ va % tyBytes ty = 0 ∧ ∃ y, c.lineOf s va = some y ∧ y.bad = 0) :
    ∃ p v, Sends (.ld g la m ty d a disp) c p s v ∧ MemoryAlone s v
      ∧ Owes c .load ((lanesIn c.active).flatMap fun l => let va := c.reaches m.space a disp.toInt l
        c.fillsOf ty d l (((c.lineOf s va).map (·.data)).getD 0 / 256 ^ (va % 256) % 256 ^ tyBytes ty)) p := by
  set ea := c.reaches m.space a disp.toInt
  set ls := c.entries ea (fun _ => 0) fun _ => 0 with hls
  have hlane : ∀ l ∈ ls, ∃ y, Finds c s l y ∧ l.addr % tyBytes ty = 0 := fun l hl => by
    obtain ⟨k, hk, hmem, rfl⟩ := mem_entries.mp hl
    obtain ⟨hcanonical, halign, y, hy, hbad⟩ := hhit k hk hmem
    exact ⟨y, ⟨hcanonical, hy, hbad⟩, halign⟩
  obtain ⟨hfaults, hgot⟩ := sweep_hit (c := c) (x := loadAccess la m ty d) hspace rfl hord ls ⟨s, [], [], []⟩
    ⟨hnodup, fun _ => rfl⟩ fun l hl => by obtain ⟨y, hy, -⟩ := hlane l hl; exact ⟨y, hy⟩
  rw [← sweep_plain (x := loadAccess la m ty d) hord] at hfaults hgot
  rw [List.nil_append] at hgot
  obtain ⟨hthrough, -, hclean, hruns⟩ := passes_through h (exec_ld h)
    (translatedSpace_iff.mpr (hspace.imp_right .inl)) (fun l hl => by
      obtain ⟨y, hy, halign⟩ := hlane l hl
      exact ⟨hy.canonical, halign⟩) hun hwatches hfaults
    (fun g hg => by
      rw [hgot] at hg
      obtain ⟨y, -, rfl⟩ := List.mem_map.mp hg
      exact ⟨rfl, rfl⟩)
  have hnone : ls ≠ [] := fun hnil => hactive (entries_eq_nil.mp hnil)
  have hreplies : ((c.sweep (loadAccess la m ty d) (loadAccess la m ty d).home false ls s).got.map fun g => (g.2.1, g.2.2))
      = ls.map fun l => (l, hitReply (tyBytes ty) l.addr ((c.lineOf s l.addr).getD default)) := by
    rw [hgot, List.map_map]
    rfl
  rw [hreplies] at hclean hruns
  refine ⟨_, _, sends_through hthrough (flights_of_load (fun hnil => hnone (List.map_eq_nil_iff.mp hnil)) rfl _) hfresh hruns,
    hthrough.alone (by rw [show (loadAccess la m ty d).m.ord = m.ord from rfl, hord]; decide), ?_⟩
  have hwrites : ((ls.map fun l => (l, hitReply (tyBytes ty) l.addr ((c.lineOf s l.addr).getD default))).flatMap
      fun g => c.fillsOf ty d g.1.lane g.2.value) = (lanesIn c.active).flatMap fun l =>
        c.fillsOf ty d l (((c.lineOf s (ea l)).map (·.data)).getD 0 / 256 ^ (ea l % 256) % 256 ^ tyBytes ty) := by
    rw [List.flatMap_map, hls, Issue.entries, List.flatMap_map]
    refine List.flatMap_congr fun l hl => ?_
    obtain ⟨hlt, hmem⟩ := (mem_lanesIn _ _).mp hl
    obtain ⟨-, -, y, hy, -⟩ := hhit l hlt hmem
    simp only [hy]
    rfl
  exact hwrites ▸ owes_inFlight (x := loadAccess la m ty d) hclean rfl rfl (by rw [clear_instr h]; rfl) s.nextId

/-- A store of one lane into a writable line of the L1 puts its bytes there. -/
theorem store_put {l : Nat} {x : L1Line} (h : clear (.st g la m ty a b disp) s = some c) (hun : Untagged c.it.launch s)
    (hwatches : (s.heldAt c.it.tile c.it.launch).watches = []) (hord : m.ord = .none)
    (hlane : lanesIn c.active = [l]) (hspace : m.space = .global ∨ m.space = .host)
    (hcanonical : canonical (c.reaches m.space a disp.toInt l) = true) (halign : c.reaches m.space a disp.toInt l % tyBytes ty = 0)
    (hfound : c.lineOf s (c.reaches m.space a disp.toInt l) = some x) (hwritable : x.w = true ∧ x.d = true) :
    ∃ u, Does (.st g la m ty a b disp) c {} s u ∧ u = { l1Put c.it.tile (va57 (c.reaches m.space a disp.toInt l)) (tyBytes ty)
      (c.value ty.isPair l b % 256 ^ tyBytes ty) x s with nextId := u.nextId } := by
  have hexec := exec_st h
  rw [show c.entries (c.reaches m.space a disp.toInt) (fun l => c.value ty.isPair l b % 256 ^ tyBytes ty) (fun _ => 0)
    = [⟨l, c.reaches m.space a disp.toInt l, c.value ty.isPair l b % 256 ^ tyBytes ty, 0⟩] by
      rw [Issue.entries, hlane]
      rfl] at hexec
  have hsweep := sweep_put (x := storeAccess la m ty)
    (l := ⟨l, c.reaches m.space a disp.toInt l, c.value ty.isPair l b % 256 ^ tyBytes ty, 0⟩)
    hspace rfl rfl hord hun hcanonical hfound
    hwritable
  obtain ⟨hthrough, -, -, hruns⟩ := passes_through h hexec (translatedSpace_iff.mpr (hspace.imp_right .inl))
    (List.forall_mem_singleton.mpr ⟨hcanonical, halign⟩) hun hwatches (by rw [hsweep])
    (by rw [hsweep]; exact List.forall_mem_singleton.mpr ⟨rfl, rfl⟩)
  have hdoes := does_through hthrough (flights_of_store rfl _ _) hruns
  rwa [sweepState_plain (x := storeAccess la m ty) hord, hsweep] at hdoes

end

/-- Settles O38: a translated access changes memory and caches alone; what hits the L1 is served there. -/
theorem translatedAccessesComplete : Obligations.TranslatedAccessesComplete := by
  unfold Obligations.TranslatedAccessesComplete
  intro s c hun hwatches hfresh passes lanes
  refine ⟨fun g la m ty d a disp h hspace hls hfaults hclean => ?_, fun g la m ty a b disp h hspace hls hfaults hclean => ?_,
    fun i op m w d a b e hparts h hspace hls hfaults hclean => ?_, fun g la m ty d a disp h hord hactive hspace hnodup hhit => ?_,
    fun g la m ty a b disp l x h hord hlane hspace hcanonical halign hfound hw hd => ?_⟩
  · exact passes_complete h (exec_ld h) (fun _ => ⟨⟨d, rfl⟩, by rw [clear_instr h]; rfl⟩)
      hun hwatches hfresh hspace hls hfaults hclean
  · exact passes_complete h (exec_st h) (fun hload => by cases hload) hun hwatches hfresh hspace hls hfaults hclean
  · refine passes_complete h (exec_atomic hparts h) (fun _ => ⟨⟨d, rfl⟩, ?_⟩) hun hwatches hfresh hspace hls hfaults hclean
    obtain ⟨la, hla⟩ := parts_lookahead hparts
    rw [clear_instr h, hla, natCast_toNat]
    rfl
  · exact loads_hit h hun hwatches hfresh hord hactive hspace hnodup hhit
  · obtain ⟨u, hdoes, hu⟩ := store_put h hun hwatches hord hlane hspace hcanonical halign hfound ⟨hw, hd⟩
    have htile (k : Nat) : u.tile k = (l1Put c.it.tile (va57 (c.reaches m.space a disp.toInt l)) (tyBytes ty)
        (c.value ty.isPair l b % 256 ^ tyBytes ty) x s).tile k := by rw [hu]; rfl
    have htiles : u.tiles = (l1Put c.it.tile (va57 (c.reaches m.space a disp.toInt l)) (tyBytes ty)
        (c.value ty.isPair l b % 256 ^ tyBytes ty) x s).tiles := by rw [hu]
    refine ⟨u, x.put (va57 (c.reaches m.space a disp.toInt l)) (tyBytes ty) (c.value ty.isPair l b % 256 ^ tyBytes ty), hdoes,
      by rw [htiles]; exact hu, fun k hk => ?_, ?_, rfl, fun k hk => ?_⟩
    · rw [htile]
      exact (tile_setTile _ _ _ _).trans (if_neg hk)
    · rw [htile]
      exact (tile_setTile _ _ _ _).trans (if_pos rfl)
    · have hbytes := put_bytes x.data x.dirty (c.reaches m.space a disp.toInt l % 256) (tyBytes ty) (c.value ty.isPair l b) hk
      rw [L1Line.put, va57_mod, Nat.mod_mod]
      exact hbytes

end Sys2Proof.Machine
end


section
/-! The queue instructions (R130, R242): their statement asks nothing of the numbers in flight, and fails where one of them is
the next that the machine gives. -/

namespace Sys2Proof.Machine

open Sys2Proof.Tests

/-- QPEEK of queue 1 into v4 to v7, with a window of three instructions. -/
def peekOfThree : Instr := .qpeek g7 3 (.dir 4) 1 1

/-- A strand at that QPEEK whose store in flight has the number that the machine gives next. -/
def numberTaken : State :=
  let s := withStageQueues [] (stand peekOfThree)
  withStrand (fun st => { st with pend := [{ inFlight .store 1 with id := s.nextId, locks := [] }] }) s

/-- The window of what a strand has put in flight last. -/
def lastWindow (k : Nat) : Host.Outcome State Fault Refusal → Option Nat
  | .next t => (t.strand k).bind fun b => b.pend.getLast?.map (·.left)
  | _ => none

theorem lastWindow_of_sends {i : Instr} {c : Issue} {p : Pending} {s u : State} (h : Sends i c p s u) :
    lastWindow c.key (exec i s) = some p.left := by
  obtain ⟨t, b, hexec, hb, hissued, -⟩ := h
  rw [hexec, lastWindow, hb, Option.bind_some, hissued.rest, List.getLast?_concat]
  rfl

theorem of_meets {i : Instr} {s : State} {p : Issue → Bool} (h : meets i s p = true) : ∃ c, clear i s = some c ∧ p c = true := by
  unfold meets at h
  split at h
  next c hc => exact ⟨c, hc, h⟩
  next => cases h

theorem numberTaken_clear : meets peekOfThree numberTaken (fun c => c.key == 0 && c.active != 0 && c.it.record.isNone
    && ((c.la.queues[1]?).map (·.toStage)) == some c.it.stage) = true := by decide

theorem numberTaken_counted : lastWindow 0 (exec peekOfThree numberTaken) = some 2 := by decide

/-- Refutes O41: the statement does not ask that the numbers in flight be below the machine's next. In `numberTaken` a store
has that number, so the window of a QPEEK is counted down as it issues, and what is in flight is not what it owes. -/
theorem not_queuesKeyopAndLaunchComplete : ¬ Obligations.QueuesKeyopAndLaunchComplete := by
  unfold Obligations.QueuesKeyopAndLaunchComplete
  rintro ⟨hqueues, -⟩
  obtain ⟨c, hclear, hmeets⟩ := of_meets numberTaken_clear
  simp only [Bool.and_eq_true, beq_iff_eq, bne_iff_ne, Option.isNone_iff_eq_none, Option.map_eq_some_iff] at hmeets
  obtain ⟨⟨⟨hkey, hactive⟩, hrecord⟩, x, hx, hstage⟩ := hmeets
  obtain ⟨-, hpeek⟩ := hqueues g7 3 .strand .none false (.dir 4) 1 1 numberTaken c
  obtain ⟨-, hpeek⟩ := hpeek peekOfThree (.inr rfl) hclear
  obtain ⟨-, hzeros, -⟩ := hpeek x hx hstage
  obtain ⟨p, hsends, howes, -⟩ := hzeros hactive (.inl hrecord)
  have hleft : p.left = 3 := howes.left.trans (by rw [clear_instr hclear]; rfl)
  have hwindow := lastWindow_of_sends hsends
  rw [hkey, numberTaken_counted, hleft] at hwindow
  exact absurd hwindow (by decide)

end Sys2Proof.Machine
end
